-- ==== Sys2Proof/Word.lean ====
section
/-!
DEFINITION. The word types of the module (R5: bit 0 is the least significant bit; multi-byte data is
little-endian).
-/
namespace Sys2Proof

/-- One byte. -/
abbrev Byte := BitVec 8

/-- A 32-bit word, the width of every register of the PF window. -/
abbrev Word := BitVec 32

/-- A 64-bit word. -/
abbrev DWord := BitVec 64

end Sys2Proof
end

