-- ==== Sys2Proof/Syntax.lean ====
section
/-!
DEFINITION. The commands that the block takes, one constructor for each row of the command table, in the table's order.
-/
namespace Sys2Proof

/-- The header of a record with the ring that carries it (R433): VF (0 for VF 1), submission ring, CMD_ID. -/
structure Hdr where
  vf : Fin 16
  sq : Fin 8
  cmdId : BitVec 32
  deriving DecidableEq, Repr

/-- Which read of host memory fails (R439, R444, R448): the head record of a ring, which waits there or comes with this
doorbell; the descriptor of a TASK that comes with this header; the next descriptor of TASK records that wait for slots; the
argument block, in a lower tier, of the descriptor at `addr` of a TASK with this header, or of that next descriptor, which comes
`late` or not at all (R178); the host list of a MAP with this header; the structure image; a T3 read of an island's task; the
read of the promotion at the head of the queue (R85); the source planes of an encode channel. -/
inductive HostRead where
  | ring (vf : Fin 16) (sq : Fin 8)
  | doorbell (vf : Fin 16) (sq : Fin 8) (tail : Word)
  | descriptor (h : Hdr)
  | queued (vf : Fin 16)
  | argument (h : Hdr) (addr : DWord) (late : Bool)
  | queuedArgument (vf : Fin 16) (late : Bool)
  | list (h : Hdr)
  | image
  | promotion
  | task (isl : Fin 256)
  | source (chan : Fin 32)
  deriving DecidableEq, Repr

/-- What resets the host link (R426). -/
inductive LinkCause where
  | perst | hotReset | dataLinkDown
  deriving DecidableEq, Repr

/-- The commands. Ring commands carry the operands of R438 in their record widths; an island instruction names the island
alone, whose program holds its operands; event rows carry what identifies the event and what the outside decides. Islands,
vaults, atolls, domains, channels and ports go by their numbers. -/
inductive Instr where
  -- The structure image and change groups (spec/02)
  | imgStage (drainBe : BitVec 10)
  | imgApply (drainBe : BitVec 10)
  | imgAbort (drainBe : BitVec 10)
  | prepareEnd
  | islandEpochArrive (i : Fin 256)
  | drainBeDeadline
  | epochBarrierComplete
  | groupCommit
  | epochHeld
  | lendingFlagApply (i : Fin 256)
  | tableBankFlip (i : Fin 256)
  | videoAllocApply (c : Fin 48)
  | firmwareCoreReady (c : Fin 8)
  | firmwareReadyTimeout
  -- Memory tiers and straits (spec/01, spec/03)
  | farFullLog (dom : Fin 16)
  | straitBundle (i : Fin 256) (ch : Fin 8)
  | sendResume (i : Fin 256)
  | islandClockChange (i : Fin 256)
  | patrolScrub (v : Fin 256)
  | heatHalving
  | pageMove (dom : Fin 16) (page : BitVec 32)
  | pageFrameFree (frame : BitVec 36)
  | occupancyDemotion (v : Fin 256)
  | map (h : Hdr) (va : BitVec 64) (pages : BitVec 32) (tier : BitVec 8) (vault : BitVec 16) (list : BitVec 64)
  | unmap (h : Hdr) (va : BitVec 64) (pages : BitVec 32)
  | unmapFrameFree (dom : Fin 16) (page : BitVec 32)
  | seal (h : Hdr) (va : BitVec 64) (pages : BitVec 32)
  | sealComplete (dom : Fin 16) (page : BitVec 32)
  | promote (h : Hdr) (va : BitVec 64) (pages : BitVec 32) (vault : BitVec 16)
  | demote (h : Hdr) (va : BitVec 64) (pages : BitVec 32)
  | memoryCopy (h : Hdr) (src dst len : BitVec 64)
  | lowerTierTimeout (i : Fin 256)
  | lowerTierDataArrive (atoll : Fin 4) (line : BitVec 64)
  -- Vault engines and error registers (spec/03)
  | vengCopy (v : Fin 256)
  | vengZeroFill (v : Fin 256)
  | vengGather (v : Fin 256)
  | vengRowMax (v : Fin 256)
  | vengRowSum (v : Fin 256)
  | vengPack (v : Fin 256)
  | vengUnpack (v : Fin 256)
  | vengTokenCompare (v : Fin 256)
  | vengDigest (v : Fin 256)
  | vaultEngineDone (v : Fin 256)
  | vltEccClear (v : Fin 256)
  | farEccClear (ch : Fin 16)
  -- Shadows, tasks (spec/04, spec/06, spec/12)
  | setShadow (h : Hdr) (index : BitVec 16) (entry : BitVec 256)
  | clearShadow (h : Hdr) (index : BitVec 16)
  | task (h : Hdr) (addr : BitVec 64) (count : BitVec 16)
  | taskStart (tag : BitVec 16) (isls : List (Fin 256))
  | taskKill (i : Fin 256)
  | killWritesDrained (tag : BitVec 16)
  | pinOverrun (tag : BitVec 16)
  -- Island instructions: the instruction at the pc of an island (spec/05 to spec/10)
  | load (i : Fin 256)
  | loadTaps (i : Fin 256)
  | store (i : Fin 256)
  | stage (i : Fin 256)
  | stageRelease (i : Fin 256)
  | stageLineFill (tile : BitVec 16) (ok : Bool)
  | copy (i : Fin 256)
  | send (i : Fin 256)
  | recv (i : Fin 256)
  | veng (i : Fin 256)
  | zero (i : Fin 256)
  | mma (i : Fin 256)
  | accload (i : Fin 256)
  | accclr (i : Fin 256)
  | epi (i : Fin 256)
  | epiraw (i : Fin 256)
  | vadd (i : Fin 256)
  | vmul (i : Fin 256)
  | vfma (i : Fin 256)
  | vmax (i : Fin 256)
  | vmin (i : Fin 256)
  | vcvt (i : Fin 256)
  | vrowmul (i : Fin 256)
  | vrowadd (i : Fin 256)
  | feval (i : Fin 256)
  | lopen (i : Fin 256)
  | lscore (i : Fin 256)
  | lpv (i : Fin 256)
  | lstats (i : Fin 256)
  | lstatsCombine (i : Fin 256)
  | lback (i : Fin 256)
  | rsum (i : Fin 256)
  | rmax (i : Fin 256)
  | rsumsq (i : Fin 256)
  | wait (i : Fin 256)
  | signal (i : Fin 256)
  | arrive (i : Fin 256)
  | fence (i : Fin 256)
  | gbegin (i : Fin 256)
  | gend (i : Fin 256)
  | commit (i : Fin 256)
  | noCommit (i : Fin 256)
  -- Programs and domains (spec/06, spec/14)
  | loadProgram (h : Hdr) (index : BitVec 16) (va : BitVec 64)
  | unloadProgram (h : Hdr) (index : BitVec 16)
  | lagStageClear (atoll : Fin 4)
  | resetSync (h : Hdr) (atoll : BitVec 8) (semFirst semCount barFirst barCount : BitVec 16)
  | bind (h : Hdr)
  | arm (h : Hdr)
  | armComplete (dom : Fin 16)
  | start (h : Hdr)
  | drain (h : Hdr)
  | drainQuiesced (dom : Fin 16)
  | resume (h : Hdr)
  | unbind (h : Hdr)
  | zeroisationDone (dom : Fin 16)
  | vfFlr (v : Fin 16)
  | pfFlr
  -- Lists and prefixes (spec/09)
  | createList (h : Hdr) (id entries : BitVec 32) (source body : BitVec 64)
  | editList (h : Hdr) (id base : BitVec 32) (body edit : BitVec 64) (edits : BitVec 32)
  | destroyList (h : Hdr) (id : BitVec 32)
  | listReclaimed (dom : Fin 16) (body : BitVec 64)
  | prefixInsert (h : Hdr) (root : BitVec 64) (parent : BitVec 32) (ids table : BitVec 64)
  | prefixLookup (h : Hdr) (root : BitVec 64) (blocks : BitVec 32) (ids out : BitVec 64)
  | prefixRelease (h : Hdr) (list : BitVec 64) (count : BitVec 32) (flags : BitVec 8)
  -- The codec cluster (spec/11)
  | encOpen (h : Hdr) (chan : BitVec 8) (va : BitVec 64)
  | encFrame (h : Hdr) (chan flags : BitVec 8) (pitch waitSem signalSem : BitVec 16) (luma chroma roi hint : BitVec 64)
    (target : BitVec 32) (inc : BitVec 16)
  | frameBegin (c : Fin 32) (roiLate hintLate : Bool)
  | emissionUnit (c : Fin 32) (late : List (BitVec 64))
  | frameEnd (c : Fin 32)
  | forceKey (h : Hdr) (chan : BitVec 8)
  | mark (h : Hdr) (chan mark : BitVec 8) (frame : BitVec 64)
  | ack (h : Hdr) (chan : BitVec 8) (frame : BitVec 64)
  | encClose (h : Hdr) (chan : BitVec 8)
  | decOpen (h : Hdr) (chan standard : BitVec 8) (width height fpsNum fpsDen : BitVec 16)
  | decFrame (h : Hdr) (chan : BitVec 8) (pitch signalSem inc : BitVec 16) (unit : BitVec 64) (bytes : BitVec 32) (luma
    chroma : BitVec 64)
  | decPictureOut (ch : Fin 16) (late : Bool)
  | decClose (h : Hdr) (chan : BitVec 8)
  | vccChRptrWrite (c : Fin 48) (v : Word)
  -- Sound ports, groups, collectives, remote memory (spec/13)
  | portTrained (p : Fin 18) (half : Bool) (id : BitVec 10) (role : BitVec 4)
  | linkDown (p : Fin 18)
  | payloadFlit (p : Fin 18) (flit : BitVec 2048) (corrected : BitVec 8) (bad : Bool)
  | linkCtrlFlit (p : Fin 18) (flit : BitVec 2048) (corrected : BitVec 8) (bad : Bool)
  | idleFlit (p : Fin 18) (flit : BitVec 2048) (corrected : BitVec 8) (bad : Bool)
  | portRetrain (p : Fin 18)
  | groupJoin (h : Hdr) (key list : BitVec 64) (count : BitVec 16)
  | joinTimeout (key : BitVec 64)
  | groupLeave (h : Hdr) (group : BitVec 16)
  | coll (h : Hdr) (group root : BitVec 16) (gen seq : BitVec 32) (kind op fmt flags : BitVec 8) (src dst counts : BitVec
    64) (count target : BitVec 32) (waitSem signalSem inc run : BitVec 16)
  | collWaitMet (gid : BitVec 16) (seq : BitVec 32)
  | collRequest (gid : BitVec 16) (gen seq : BitVec 32) (rank : BitVec 8) (gdig odig : BitVec 256) (run : BitVec 16)
    (count : BitVec 32) (how : BitVec 8)
  | collReserve (gid : BitVec 16) (seq : BitVec 32)
  | collReserved (gid : BitVec 16) (seq : BitVec 32) (rank : BitVec 8)
  | collTicket (gid : BitVec 16) (seq : BitVec 32) (counts : List (BitVec 32))
  | collWritesDone (gid : BitVec 16) (seq : BitVec 32)
  | collDone (gid : BitVec 16) (seq : BitVec 32) (rank : BitVec 8)
  | collCommit (gid : BitVec 16) (seq : BitVec 32)
  | ticketTimeout (gid : BitVec 16) (seq : BitVec 32)
  | timeBeacon (time : BitVec 64) (rtt : BitVec 32)
  | memberUnreachable (module : BitVec 10)
  | managerLost
  | headlessCommitTimeout (gid : BitVec 16) (seq : BitVec 32)
  | rmemExpose (h : Hdr) (window perm : BitVec 8) (group sem inc : BitVec 16) (va len : BitVec 64)
  | rmemUnexpose (h : Hdr) (window : BitVec 8)
  | rmemGet (h : Hdr) (window : BitVec 8) (group rank waitSem : BitVec 16) (va off len : BitVec 64) (target : BitVec 32)
    (signalSem inc : BitVec 16)
  | rmemPut (h : Hdr) (window : BitVec 8) (group rank waitSem : BitVec 16) (va off len : BitVec 64) (target : BitVec 32)
    (signalSem inc : BitVec 16)
  | rmemTransferDone (num : BitVec 16) (owner : Bool)
  | rmemTimeout (num : BitVec 16)
  | shoalPulse
  -- Rings, windows, host reads and the host link (spec/14, spec/16)
  | sqDoorbell (v : Fin 16) (q : Fin 8) (tail : Word)
  | cqHeadWrite (v : Fin 16) (c : Fin 4) (head : Word)
  | sqEnable (v : Fin 16) (q : Fin 8) (word : Word)
  | cqEnable (v : Fin 16) (c : Fin 4) (word : Word)
  | cqHoldoffExpiry (v : Fin 16) (c : Fin 4)
  | windowRead (fn : Fin 17) (off : BitVec 36) (len : Fin 4097)
  | windowWrite (fn : Fin 17) (off : BitVec 36) (data : List Byte)
  | hostReadTimeout (r : HostRead)
  | linkReset (c : LinkCause)
  | perstDeassert
  | warmRestore
  -- Events and the trouble log; `agent` 0 to 7 is a control core, 8 the host (spec/15)
  | evcPendWrite (agent : Fin 9) (n : Fin 32) (v : Word)
  | evcMaskWrite (agent : Fin 9) (n : Fin 32) (v : Word)
  | evcClaim (agent : Fin 9) (t : Fin 72)
  | evcDone (agent : Fin 9) (t : Fin 72) (src : BitVec 10)
  | evcHold (agent : Fin 9) (v : Word)
  | evcHoldExpiry
  | evcSync (agent : Fin 9)
  | evcPrioWrite (agent : Fin 9) (n : Fin 128) (v : Word)
  | evcRouteWrite (agent : Fin 9) (n : Fin 256) (v : Word)
  | evcThreshWrite (agent : Fin 9) (t : Fin 72) (v : Word)
  | logStatus
  | logEntry (slot : BitVec 16)
  -- SMBus, supplies, power and temperature (spec/16, spec/18)
  | moduleStatus
  | powerWake (p : Option Byte)
  | hubReset (word : BitVec 16) (p : Option Byte)
  | pwrReset (word : Word)
  | auxPowerUp
  | auxLoss
  | mainLoss
  | mainInRange
  | mainOvervoltage
  | dramTrainingDone (vaults : BitVec 256) (chans : BitVec 16)
  | throttleStep (avg ms : BitVec 16)
  | powerRequestS2
  | powerRequestS3
  | powerRequestS4
  | moduleWake
  | islandDoze (i : Fin 256)
  | dieTempThrottle (c : BitVec 8)
  | thermalTrip
  | dramOvertemp (layer : Fin 8) (c : BitVec 8)
  | coolantWarm (c : BitVec 8)
  | vaultDriftTrack (v : Fin 256)
  | vaultRetrain (v : Fin 256)
  | channelRetrain (c : Fin 16)
  | retrainDone (ok : Bool)
  -- Identity and attestation, registers without a row, pins (spec/07, spec/13, spec/17)
  | mrExtend (m : BitVec 3)
  | getIdentity (resv : BitVec 24)
  | getReport (resv : BitVec 24) (nonce : BitVec 256)
  | getLog (resv : BitVec 24) (first : BitVec 32) (count : BitVec 16)
  | debugExpiry
  | registerWrite (fn : Fin 17) (off : BitVec 26) (v : Word)
  | hostLinkReachesL0
  | cbl3v3Short (p : Fin 18)
  | timeBeaconSend
  deriving DecidableEq, Repr

end Sys2Proof
end

