-- ==== Sys2Proof/Decode.lean ====
section
/-!
DEFINITION. The command that a word spells: the command table gives no row any bits, so no word spells one.
-/
namespace Sys2Proof

/-- Commands reach the block as accesses and events; the table gives none of them bits. -/
def decodeTableWord (_nbits _w : Nat) : Option Instr := none

end Sys2Proof
end

