-- ==== Sys2Proof/Machine/Bits.lean ====
section
/-!
DEFINITION. Bit fields, little-endian bytes, and sparse tables: a sparse table is a list of keys and
values with keys strictly rising and no entry equal to the value that an unlisted key reads as.
-/
namespace Sys2Proof.Machine

/-- Bits `[hi:lo]` of a number (R5). -/
def bits (w hi lo : Nat) : Nat := (w >>> lo) % 2 ^ (hi + 1 - lo)

/-- Bit `i` of a number. -/
def bit (w i : Nat) : Bool := w.testBit i

/-- A truth value as one bit. -/
def b2n (b : Bool) : Nat := if b then 1 else 0

/-- Two's-complement reading of the low `n` bits. -/
def signed (n w : Nat) : Int :=
  if (w % 2 ^ n).testBit (n - 1) then (w % 2 ^ n : Int) - 2 ^ n else (w % 2 ^ n : Int)

/-- Two's-complement bits of an integer, `n` bits wide. -/
def unsigned (n : Nat) (z : Int) : Nat := (z % (2 ^ n : Int)).toNat

/-- The number that little-endian bytes spell. -/
def leOf (bs : List Byte) : Nat := bs.foldr (fun b acc => b.toNat + 256 * acc) 0

/-- The `n` little-endian bytes of a number. -/
def leBytes : Nat → Nat → List Byte
  | 0, _ => []
  | n + 1, v => BitVec.ofNat 8 v :: leBytes n (v / 256)

/-- `n` bytes from offset `off`, padded with zero bytes where the list ends. -/
def slice (bs : List Byte) (off n : Nat) : List Byte :=
  let t := (bs.drop off).take n
  t ++ List.replicate (n - t.length) 0

/-- The little-endian number in `n` bytes at offset `off`. -/
def leAt (bs : List Byte) (off n : Nat) : Nat := leOf (slice bs off n)

/-- Every byte of a range is zero (a reserved field, R8). -/
def zeroAt (bs : List Byte) (off n : Nat) : Bool := (slice bs off n).all (· == 0)

/-- Cut a list into pieces of `k` entries (`fuel` pieces at most). -/
def chunksOf {α : Type} (k : Nat) : Nat → List α → List (List α)
  | 0, _ => []
  | _ + 1, [] => []
  | fuel + 1, xs => xs.take k :: chunksOf k fuel (xs.drop k)

/-- Division rounded up. -/
def ceilDiv (a b : Nat) : Nat := if b = 0 then 0 else (a + b - 1) / b

/-- Add with saturation at `top`. -/
def satAdd (top a b : Nat) : Nat := min top (a + b)

/-- A 32-bit count that wraps. -/
def wrap32 (n : Nat) : Nat := n % 2 ^ 32

/-! ### Sparse tables -/

/-- A table of values by key, listing only the keys that differ from its default. -/
abbrev Sparse (α : Type) := List (Nat × α)

/-- The value at a key; `d` where the key is unlisted. -/
def sparseGet {α : Type} (d : α) : Sparse α → Nat → α
  | [], _ => d
  | (k, v) :: t, a => if a = k then v else sparseGet d t a

/-- Remove a key. -/
def sparseErase {α : Type} : Sparse α → Nat → Sparse α
  | [], _ => []
  | (k, v) :: t, a => if a = k then t else (k, v) :: sparseErase t a

/-- Insert a key in order, replacing the value it had. -/
def sparseInsert {α : Type} : Sparse α → Nat → α → Sparse α
  | [], a, v => [(a, v)]
  | (k, w) :: t, a, v =>
    if a < k then (a, v) :: (k, w) :: t
    else if a = k then (a, v) :: t
    else (k, w) :: sparseInsert t a v

/-- Set a key: writing the default removes the entry, so that equal tables are equal lists. -/
def sparseSet {α : Type} [DecidableEq α] (d : α) (m : Sparse α) (a : Nat) (v : α) : Sparse α :=
  if v = d then sparseErase m a else sparseInsert m a v

/-- Change the value at a key. -/
def sparseMod {α : Type} [DecidableEq α] (d : α) (m : Sparse α) (a : Nat) (f : α → α) : Sparse α :=
  sparseSet d m a (f (sparseGet d m a))

/-- Keys strictly rising from a bound. -/
def risingFrom {α : Type} : Nat → Sparse α → Bool
  | _, [] => true
  | lo, (k, _) :: t => decide (lo ≤ k) && risingFrom (k + 1) t

/-- The canonical form: keys strictly rising and no entry equal to the default. -/
def sparseWf {α : Type} [DecidableEq α] (d : α) (m : Sparse α) : Bool :=
  risingFrom 0 m && m.all (fun e => decide (e.2 ≠ d))

/-- Give every key of `[a, a + n)` the default value. -/
def sparseClear {α : Type} (m : Sparse α) (a n : Nat) : Sparse α :=
  m.filter (fun e => decide (e.1 < a) || decide (a + n ≤ e.1))

/-- Map every listed value, dropping those that become the default. -/
def sparseMap {α : Type} [DecidableEq α] (d : α) (m : Sparse α) (f : α → α) : Sparse α :=
  (m.map (fun e => (e.1, f e.2))).filter (fun e => decide (e.2 ≠ d))

/-- The entries of `[a, a + n)`. -/
def sparseIn {α : Type} (m : Sparse α) (a n : Nat) : Sparse α :=
  m.filter (fun e => decide (a ≤ e.1) && decide (e.1 < a + n))

/-- Copy `[src, src + n)` onto `[dst, dst + n)`, from the table as it stood. -/
def sparseCopy {α : Type} [DecidableEq α] (d : α) (m : Sparse α) (src dst n : Nat) : Sparse α :=
  (sparseIn m src n).foldl (fun acc e => sparseSet d acc (dst + (e.1 - src)) e.2) (sparseClear m dst n)

/-- The number of a sequence that satisfies a test first. -/
def firstIdx {α : Type} (p : α → Bool) : List α → Option Nat
  | [] => none
  | x :: t => if p x then some 0 else (firstIdx p t).map (· + 1)

/-- Replace the entry at a position of a list. -/
def setAt {α : Type} (l : List α) (i : Nat) (v : α) : List α := l.set i v

/-- Change the entry at a position of a list. -/
def modAt {α : Type} (l : List α) (i : Nat) (f : α → α) : List α := l.modify i f

/-- The numbers whose bits are set among the low `n` bits, in ascending order. -/
def bitsSet (n w : Nat) : List Nat := (List.range n).filter (fun i => w.testBit i)

end Sys2Proof.Machine
end

