-- ==== Sys2Proof/Machine/Hash.lean ====
section
/-!
DEFINITION. SHA3-256, SHAKE128 and SHAKE256 (FIPS 202) and CRC-32C: the digests the spec names by their standards, and
what ML-DSA is made of (R33, R93, R383). PRESUMED: the algorithms are the standards'.
-/
namespace Sys2Proof.Machine

/-- The rotation offsets of Keccak's rho step, lane x + 5y. -/
def keccakRot : List Nat :=
  [0, 1, 62, 28, 27, 36, 44, 6, 55, 20, 3, 10, 43, 25, 39, 41, 45, 15, 21, 8, 18, 2, 61, 56, 14]

/-- The round constants of Keccak's iota step. -/
def keccakRc : List (BitVec 64) :=
  [0x0000000000000001#64, 0x0000000000008082#64, 0x800000000000808A#64, 0x8000000080008000#64,
   0x000000000000808B#64, 0x0000000080000001#64, 0x8000000080008081#64, 0x8000000000008009#64,
   0x000000000000008A#64, 0x0000000000000088#64, 0x0000000080008009#64, 0x000000008000000A#64,
   0x000000008000808B#64, 0x800000000000008B#64, 0x8000000000008089#64, 0x8000000000008003#64,
   0x8000000000008002#64, 0x8000000000000080#64, 0x000000000000800A#64, 0x800000008000000A#64,
   0x8000000080008081#64, 0x8000000000008080#64, 0x0000000080000001#64, 0x8000000080008008#64]

/-- One lane. -/
def lane (a : List (BitVec 64)) (x y : Nat) : BitVec 64 := a.getD (x % 5 + 5 * (y % 5)) 0

/-- One round of Keccak-f[1600]. -/
def keccakRound (a : List (BitVec 64)) (rc : BitVec 64) : List (BitVec 64) :=
  let c := (List.range 5).map (fun x => (List.range 5).foldl (fun acc y => acc ^^^ lane a x y) 0)
  let d := (List.range 5).map (fun x => c.getD ((x + 4) % 5) 0 ^^^ (c.getD ((x + 1) % 5) 0).rotateLeft 1)
  let t := (List.range 25).map (fun i => a.getD i 0 ^^^ d.getD (i % 5) 0)
  let b := (List.range 25).map (fun i =>
    let x := (i % 5 + 3 * (i / 5)) % 5
    let y := i % 5
    (lane t x y).rotateLeft (keccakRot.getD (x + 5 * y) 0))
  let e := (List.range 25).map (fun i =>
    let x := i % 5
    let y := i / 5
    lane b x y ^^^ (~~~(lane b (x + 1) y) &&& lane b (x + 2) y))
  (e.getD 0 0 ^^^ rc) :: e.drop 1

/-- Keccak-f[1600]. -/
def keccakF (a : List (BitVec 64)) : List (BitVec 64) := keccakRc.foldl keccakRound a

/-- XOR one block of `lanes` lanes into the sponge and permute. -/
def keccakAbsorb (lanes : Nat) (a : List (BitVec 64)) (block : List Byte) : List (BitVec 64) :=
  keccakF ((List.range 25).map (fun i =>
    if i < lanes then a.getD i 0 ^^^ BitVec.ofNat 64 (leAt block (8 * i) 8) else a.getD i 0))

/-- The padding to whole blocks of `rate` bytes, with the bits that tell the functions apart. -/
def keccakPad (rate : Nat) (dom : Byte) (bs : List Byte) : List Byte :=
  let r := rate - bs.length % rate
  if r = 1 then bs ++ [dom ||| 0x80#8] else bs ++ [dom] ++ List.replicate (r - 2) 0#8 ++ [0x80#8]

/-- The sponge after a message. -/
def keccakSponge (lanes : Nat) (dom : Byte) (bs : List Byte) : List (BitVec 64) :=
  let p := keccakPad (8 * lanes) dom bs
  (chunksOf (8 * lanes) (p.length / (8 * lanes) + 1) p).foldl (keccakAbsorb lanes) (List.replicate 25 0#64)

/-- Blocks squeezed out of the sponge. -/
def keccakSqueeze (lanes : Nat) : Nat → List (BitVec 64) → List Byte
  | 0, _ => []
  | n + 1, a => (a.take lanes).flatMap (fun l => leBytes 8 l.toNat) ++ keccakSqueeze lanes n (keccakF a)

/-- SHA3-256: 32 bytes. -/
def sha3 (bs : List Byte) : List Byte := ((keccakSponge 17 0x06#8 bs).take 4).flatMap (fun l => leBytes 8 l.toNat)

/-- SHAKE128: `n` bytes. -/
def shake128 (bs : List Byte) (n : Nat) : List Byte := (keccakSqueeze 21 (ceilDiv n 168) (keccakSponge 21 0x1F#8 bs)).take n

/-- SHAKE256: `n` bytes. -/
def shake256 (bs : List Byte) (n : Nat) : List Byte := (keccakSqueeze 17 (ceilDiv n 136) (keccakSponge 17 0x1F#8 bs)).take n

/-- One byte of the CRC-32C register (reflected, polynomial 0x1EDC6F41). -/
def crc32cByte (c : Nat) (b : Byte) : Nat :=
  (List.range 8).foldl (fun c _ => if c % 2 = 1 then (c / 2) ^^^ 0x82F63B78 else c / 2) (c ^^^ b.toNat)

/-- CRC-32C of bytes. -/
def crc32c (bs : List Byte) : Nat := (bs.foldl crc32cByte 0xFFFFFFFF) ^^^ 0xFFFFFFFF

end Sys2Proof.Machine
end

