-- ==== Sys2Proof/Machine/Signature.lean ====
section
/-!
DEFINITION. ML-DSA-44 with the empty context string (FIPS 204): the verification by which the spec accepts structure images and
table sets, the device key pair, and the signature of a report (R33, R39, R233, R505, R511, R516). PRESUMED: the algorithms are the
standard's.
-/
namespace Sys2Proof.Machine

/-! ### Polynomials of 256 coefficients modulo q, and the number-theoretic transform -/

def dsaQ : Nat := 8380417

/-- A power of the 512th root of unity 1753. -/
def rootPow (e : Nat) : Nat := (List.range e).foldl (fun x _ => x * 1753 % dsaQ) 1

/-- The eight bits of a number in reverse. -/
def bitRev8 (m : Nat) : Nat := (List.range 8).foldl (fun a i => 2 * a + m / 2 ^ i % 2) 0

def polyAdd (a b : List Nat) : List Nat := List.zipWith (fun x y => (x + y) % dsaQ) a b
def polySub (a b : List Nat) : List Nat := List.zipWith (fun x y => (x + dsaQ - y) % dsaQ) a b
def polyMul (a b : List Nat) : List Nat := List.zipWith (fun x y => x * y % dsaQ) a b
def polyScale (z : Nat) (a : List Nat) : List Nat := a.map (fun x => z * x % dsaQ)

/-- The transform of `2 ^ n` coefficients in block `m` of its layer; the whole is block 1 of 2 ^ 8. -/
def nttBlock : Nat → Nat → List Nat → List Nat
  | 0, _, w => w
  | n + 1, m, w =>
    let a := w.take (2 ^ n)
    let t := polyScale (rootPow (bitRev8 m)) (w.drop (2 ^ n))
    nttBlock n (2 * m) (polyAdd a t) ++ nttBlock n (2 * m + 1) (polySub a t)

/-- The inverse of a block, but for the factor of the whole. -/
def inttBlock : Nat → Nat → List Nat → List Nat
  | 0, _, w => w
  | n + 1, m, w =>
    let a := inttBlock n (2 * m) (w.take (2 ^ n))
    let b := inttBlock n (2 * m + 1) (w.drop (2 ^ n))
    polyAdd a b ++ polyScale (rootPow (512 - bitRev8 m)) (polySub a b)

def ntt (w : List Nat) : List Nat := nttBlock 8 1 w

/-- The inverse transform; 8347681 is the inverse of 256. -/
def intt (w : List Nat) : List Nat := polyScale 8347681 (inttBlock 8 1 w)

/-! ### Sampling -/

/-- A polynomial of the matrix from a seed, in the transform's domain. The stream is cut at 1,008 bytes, above the 894 that
FIPS 204 lets a loop be limited to. -/
def rejNtt (seed : List Byte) : List Nat :=
  let c := (chunksOf 3 336 (shake128 seed 1008)).map (fun t => leOf t % 2 ^ 23)
  let l := (c.filter (fun z => decide (z < dsaQ))).take 256
  l ++ List.replicate (256 - l.length) 0

/-- A polynomial of coefficients from −2 to 2. The stream is cut at 544 bytes, above the 481 of FIPS 204's limit. -/
def rejBounded (seed : List Byte) : List Nat :=
  let c := (shake256 seed 544).flatMap (fun b => [b.toNat % 16, b.toNat / 16])
  let l := ((c.filter (fun z => decide (z < 15))).take 256).map (fun z => (dsaQ + 2 - z % 5) % dsaQ)
  l ++ List.replicate (256 - l.length) 0

/-- The challenge: 39 coefficients of 1 or −1. The stream is cut at 272 bytes, above the 121 of FIPS 204's limit. -/
def sampleInBall (seed : List Byte) : List Nat :=
  let s := shake256 seed 272
  let signs := leAt s 0 8
  ((List.range 39).foldl (fun (acc : List Byte × List Nat) k =>
    let i := 217 + k
    let rest := acc.1.dropWhile (fun b => decide (i < b.toNat))
    let j := (rest.headD 0).toNat
    (rest.drop 1, (acc.2.set i (acc.2.getD j 0)).set j (if bit signs k then dsaQ - 1 else 1)))
    (s.drop 8, List.replicate 256 0)).2

/-! ### Encodings -/

/-- 256 numbers of `w` bits. -/
def unpackBits (w : Nat) (b : List Byte) : List Nat :=
  let n := leOf b
  (List.range 256).map (fun i => n / 2 ^ (w * i) % 2 ^ w)

/-- 256 numbers of `w` bits as bytes. -/
def packBits (w : Nat) (l : List Nat) : List Byte := leBytes (32 * w) (l.foldr (fun x n => x + 2 ^ w * n) 0)

/-- Ascending without a repeat. -/
def ascends : List Nat → Bool
  | a :: b :: t => decide (a < b) && ascends (b :: t)
  | _ => true

/-- The places of the hints of the four polynomials; none where the 84 bytes are no encoding of them. -/
def readHints (b : List Byte) : Option (List (List Nat)) :=
  let y := b.map (·.toNat)
  let ends := (y.drop 80).take 4
  let spans := (0 :: ends).zip ends
  let rows := spans.map (fun e => (y.drop e.1).take (e.2 - e.1))
  if spans.all (fun e => decide (e.1 ≤ e.2) && decide (e.2 ≤ 80)) && rows.all ascends &&
      ((y.take 80).drop (ends.getLastD 0)).all (· == 0) then some rows else none

/-! ### Rounding -/

/-- The high part of a coefficient in 44 steps of 190,464, and whether its low part is above zero. -/
def decompose (r : Nat) : Nat × Bool :=
  let low := r % 190464
  let up := decide (95232 < low)
  let base := if up then r + 190464 - low else r - low
  if base = dsaQ - 1 then (0, false) else (base / 190464, !up && decide (0 < low))

/-- The high part under a hint. -/
def useHint (h : Bool) (r : Nat) : Nat :=
  let (r1, pos) := decompose r
  if h then (if pos then (r1 + 1) % 44 else (r1 + 43) % 44) else r1

/-- The magnitude of a coefficient's low part. -/
def lowPart (r : Nat) : Nat :=
  let low := r % 190464
  let up := decide (95232 < low)
  let base := if up then r + 190464 - low else r - low
  (if up then 190464 - low else low) + (if base = dsaQ - 1 then 1 else 0)

/-- The magnitude of a coefficient as a number between −q/2 and q/2. -/
def magnitude (x : Nat) : Nat := min x (dsaQ - x)

/-- All coefficients of some polynomials lie below a magnitude. -/
def below (n : Nat) (l : List (List Nat)) : Bool := l.all (fun p => p.all (fun x => decide (magnitude x < n)))

/-- Row `r` of the product of the matrix of a seed with a vector, both in the transform's domain. -/
def matrixRow (rho : List Byte) (v : List (List Nat)) (r : Nat) : List Nat :=
  v.zipIdx.foldl (fun acc (z, s) =>
    polyAdd acc (polyMul (rejNtt (rho ++ [BitVec.ofNat 8 s, BitVec.ofNat 8 r])) z)) (List.replicate 256 0)

/-! ### Verification -/

/-- The row of the matrix product with z, less the challenge times t1 · 2^13, high parts under the hints. -/
def verifyRow (rho : List Byte) (zs : List (List Nat)) (c : List Nat) (r : Nat) (t1 : List Nat) (hints : List Nat) :
    List Nat :=
  let w := intt (polySub (matrixRow rho zs r) (polyMul c (ntt (polyScale 8192 t1))))
  w.zipIdx.map (fun (x, i) => useHint (hints.contains i) x)

/-- A signature of a message verifies under a public key. -/
def mldsaVerify (key msg sig : List Byte) : Bool :=
  let rho := key.take 32
  let t1 := (List.range 4).map (fun i => unpackBits 10 (slice key (32 + 320 * i) 320))
  let seed := sig.take 32
  let z := (List.range 4).map (fun i => unpackBits 18 (slice sig (32 + 576 * i) 576))
  let mu := shake256 (shake256 key 64 ++ [0, 0] ++ msg) 64
  match readHints (slice sig 2336 84) with
  | none => false
  | some h =>
    let zs := z.map (fun p => ntt (p.map (fun x => (dsaQ + 2 ^ 17 - x) % dsaQ)))
    let c := ntt (sampleInBall seed)
    let w := (t1.zip h).zipIdx.map (fun (e, r) => verifyRow rho zs c r e.1 e.2)
    -- the coefficients 2^17 − x of z lie strictly within 2^17 − 78 of zero
    decide (key.length = 1312) && decide (sig.length = 2420) &&
      z.all (fun p => p.all (fun x => decide (78 < x) && decide (x < 2 ^ 18 - 78))) &&
      decide (seed = shake256 (mu ++ w.flatMap (packBits 6)) 32)

/-! ### Keys and signing -/

/-- A key pair: the public key, and what the private key holds beside the matrix's seed. -/
structure DsaKey where
  pub : List Byte
  secret : List Byte
  s1 : List (List Nat)
  s2 : List (List Nat)
  t0 : List (List Nat)
  deriving DecidableEq, Repr

/-- The key pair of a seed: ML-DSA.KeyGen_internal (R511). -/
def mldsaKey (seed : List Byte) : DsaKey :=
  let s := shake256 (seed ++ [4, 4]) 128
  let rho := s.take 32
  let small := fun (n : Nat) => rejBounded (slice s 32 64 ++ leBytes 2 n)
  let s1 := (List.range 4).map small
  let s2 := (List.range 4).map (fun r => small (4 + r))
  let t := s2.zipIdx.map (fun (p, r) => polyAdd (intt (matrixRow rho (s1.map ntt) r)) p)
  -- the low 13 bits, as numbers from −4,095 to 4,096
  let t0 := t.map (fun p => p.map (fun x => if 4096 < x % 8192 then dsaQ + x % 8192 - 8192 else x % 8192))
  let t1 := (t.zip t0).map (fun (p, l) => (polySub p l).map (· / 8192))
  ⟨rho ++ t1.flatMap (packBits 10), slice s 96 32, s1, s2, t0⟩

/-- The encoding of the hints of the four polynomials: their places, and where each polynomial's end. -/
def writeHints (h : List (List Nat)) : List Byte :=
  let ends := (List.range 4).map (fun i => ((h.take (i + 1)).map List.length).sum)
  slice (h.flatten.map (BitVec.ofNat 8)) 0 80 ++ ends.map (BitVec.ofNat 8)

/-- One round of signing after the masks that `kappa` numbers; none where it is rejected. -/
def signRound (k : DsaKey) (mu mask : List Byte) (kappa : Nat) : Option (List Byte) :=
  let y := (List.range 4).map (fun r =>
    (unpackBits 18 (shake256 (mask ++ leBytes 2 (kappa + r)) 576)).map (fun x => (dsaQ + 2 ^ 17 - x) % dsaQ))
  let w := (List.range 4).map (fun r => intt (matrixRow (k.pub.take 32) (y.map ntt) r))
  let seed := shake256 (mu ++ w.flatMap (fun p => packBits 6 (p.map (fun x => (decompose x).1)))) 32
  let c := ntt (sampleInBall seed)
  let times := fun (p : List Nat) => intt (polyMul c (ntt p))
  let z := List.zipWith polyAdd y (k.s1.map times)
  let low := List.zipWith polySub w (k.s2.map times)
  if !(below (2 ^ 17 - 78) z) || !(low.all (fun p => p.all (fun x => decide (lowPart x < 95232 - 78)))) then none
  else
    let ct := k.t0.map times
    let h := (List.zipWith polyAdd low ct).zip low |>.map (fun (a, b) =>
      (List.range 256).filter (fun j => decide ((decompose (a.getD j 0)).1 ≠ (decompose (b.getD j 0)).1)))
    if !(below 95232 ct) || decide (80 < h.flatten.length) then none
    else some (seed ++ z.flatMap (fun p => packBits 18 (p.map (fun x => (2 ^ 17 + dsaQ - x) % dsaQ))) ++ writeHints h)

/-- Rounds of signing until one is accepted, at most `fuel`. -/
def signLoop (k : DsaKey) (mu mask : List Byte) : Nat → Nat → Option (List Byte)
  | 0, _ => none
  | fuel + 1, kappa => match signRound k mu mask kappa with | some b => some b | none => signLoop k mu mask fuel (kappa + 4)

/-- The hedged signature of a message with 32 bytes of randomness (R516); none where FIPS 204's least limit of 814 rounds is reached. -/
def mldsaSign (k : DsaKey) (msg rnd : List Byte) : Option (List Byte) :=
  let mu := shake256 (shake256 k.pub 64 ++ [0, 0] ++ msg) 64
  signLoop k mu (shake256 (k.secret ++ rnd ++ mu) 64) 814 0

end Sys2Proof.Machine
end

