-- ==== Sys2Proof/Machine/Coding.lean ====
section
/-!
DEFINITION. What determines the bits of an encode channel, as plain data (R343): its configuration block, the sequence
that it signals, each picture, each emission unit and each superblock with the samples, quantisers, candidates and
reference samples that the encoder works from (R314-R340).
-/
namespace Sys2Proof.Machine

/-- An encode configuration block (R318); a decode channel uses the size, rate and standard (R344). -/
structure EncCfg where
  hevc : Bool := false
  bit10 : Bool := false
  cbr : Bool := false
  ackOnly : Bool := false
  rowNotify : Bool := false
  premium : Bool := false
  wpp : Bool := false
  level : Nat := 0
  tier : Nat := 0
  width : Nat := 0
  height : Nat := 0
  fpsNum : Nat := 1
  fpsDen : Nat := 1
  bitrate : Nat := 0
  buffer : Nat := 0
  init : Nat := 0
  qpMin : Int := 0
  qpMax : Int := 0
  shortMax : Nat := 0
  pool : Nat := 0
  hintMin : Nat := 0
  gang : Nat := 0
  poolVa : Nat := 0
  ringAddr : Nat := 0
  ringSize : Nat := 0
  deriving DecidableEq, Repr

/-- The profiles that the cluster encodes and decodes (R314). -/
inductive Profile where
  | av1Main | hevcMain | hevcMain10
  deriving DecidableEq, Repr

/-- The coding tools that the encoder uses (R314). Of AV1: the superblock and its four partitions, five kinds of intra
mode, single reference and compound average, four vector modes, quarter-sample vectors, one filter, three families of
transform, segmentation with alt_q, three loop filters, tiles. Of HEVC: units of three kinds, 35 intra modes, P and B
pictures, merge, AMVP, TMVP, quarter-sample vectors, cu_qp_delta, sign data hiding, transform skip, two loop filters,
tiles or WPP, independent slices, long-term references, access unit delimiters, filler and two SEI messages. -/
inductive CodTool where
  | superblock64 | partitionNone | partitionHorz | partitionVert | partitionSplit8
  | intraDc | intraDirectional | intraSmooth | intraPaeth | intraCfl
  | singleReference | compoundAverage | nearestMv | nearMv | newMv | globalMvIdentity | quarterSample | eightTapRegular
  | dctAdst4To32 | dct64 | segmentationAltQ | deblocking | cdef | wienerRestoration | tileColumns
  | ctu64 | cu8To64 | tu4To32 | intra35 | pPictures | bPictures | merge | amvp | tmvp
  | cuQpDelta16 | signDataHiding | transformSkip4 | sao | wavefront | independentSlices
  | longTermReferences | accessUnitDelimiters | fillerData | bufferingPeriodSei | pictureTimingSei
  deriving DecidableEq, Repr

/-- The decoder buffer that the stream signals: cbr_flag, rate, size, first fullness and the frame interval's two terms
(R332). -/
structure Hrd where
  cbr : Bool := false
  rate : Nat := 0
  size : Nat := 0
  init : Nat := 0
  num : Nat := 0
  den : Nat := 0
  deriving DecidableEq, Repr

/-- What a stream signals of itself: profile, tier, level, exact size, coded size in whole superblocks, buffer model and
tools (R314, R320, R332). -/
structure SeqIn where
  profile : Profile := .av1Main
  tier : Nat := 0
  level : Nat := 0
  width : Nat := 0
  height : Nat := 0
  codedWidth : Nat := 0
  codedHeight : Nat := 0
  hrd : Hrd := {}
  tools : List CodTool := []
  deriving DecidableEq, Repr

/-- How a picture is coded: a key frame; from one reference (P, single-reference blocks); from two (B, compound averages)
(R327, R340). -/
inductive PicKind where
  | key | single | pair
  deriving DecidableEq, Repr

/-- The picture's NAL unit type in HEVC (R339, R340). -/
inductive NalKind where
  | idrNLp | trailR | trailN
  deriving DecidableEq, Repr

/-- A picture (R323, R327, R338-R340): its number, kind and NAL type, the marks that it signals (HEVC's two reference
sets by frame number, AV1's refresh_frame_flags) and the frame numbers of its references, the most recent first. -/
structure PicIn where
  cfg : EncCfg := {}
  seq : SeqIn := {}
  number : Nat := 0
  kind : PicKind := .key
  nal : NalKind := .idrNLp
  shortSet : List Nat := []
  longSet : List Nat := []
  refresh : Nat := 0
  refs : List Nat := []
  deriving DecidableEq, Repr

/-- The parts of a frame that open it (R323). -/
inductive StreamItem where
  | aud | vps | sps | pps | bufferingPeriod | pictureTiming | temporalDelimiter | sequenceHeader | frameHeader
  deriving DecidableEq, Repr

/-- A hint's candidate: which reference of the frame, and the vector in quarter samples (R328, R329). -/
structure Cand where
  ref : Nat
  mvx : Int
  mvy : Int
  deriving DecidableEq, Repr

/-- The coding of a superblock: at the quantisers of its blocks; at maximum QP; forced minimal in an inter frame, a skip
with a zero vector from the first reference; forced minimal in a key frame, DC-predicted with no residual (R333). -/
inductive SbMode where
  | normal | maxQp | skip | dc
  deriving DecidableEq, Repr

/-- The search aperture over one reference: the rectangle of luma samples on chip, and its samples with the matching
chroma (R326). -/
structure Aperture where
  x0 : Int
  y0 : Int
  w : Nat
  h : Nat
  luma : List Nat
  chroma : List Nat
  deriving DecidableEq, Repr

/-- A superblock as the encoder takes it: quantiser and AV1 segment of each 16 × 16 block, candidates by block, source
samples padded to the superblock, and one aperture for each reference. -/
structure SbIn where
  col : Nat
  row : Nat
  mode : SbMode
  quant : List Int
  segs : List Nat
  cands : List (Nat × Cand)
  luma : List Nat
  chroma : List Nat
  aper : List Aperture
  deriving DecidableEq, Repr

/-- An emission unit (R324): superblock rows from `row0` up to `row1`, its slices or tiles as spans of superblock columns,
the pipeline of each part or row, and how many superblocks a row's coding lags the row above. -/
structure UnitIn where
  pic : PicIn
  index : Nat
  row0 : Nat
  row1 : Nat
  parts : List (Nat × Nat)
  pipes : List Nat
  lag : Nat
  sbs : List SbIn
  deriving DecidableEq, Repr

end Sys2Proof.Machine
end

