-- ==== Sys2Proof/Config.lean ====
section
/-!
DEFINITION. What an implementation fixes and the values the spec leaves open. Every constant here is
opaque: it has no body that a proof could see, so a claim holds whatever value it has. The assumption
log names each (notes/assumptions).
-/
namespace Sys2Proof.Config
open Sys2Proof.Machine

/-- INT8 result of a division by a scale that is zero, infinite or NaN (R114, R117 state none): a function of the
value's FP32 bits and the scale's. -/
opaque int8Open : Word → Word → Byte

/-- Nanoseconds that pass on the `n`-th idle step (the spec fixes no schedule of outside events). -/
opaque elapsed : Nat → Nat

/-- A byte whose content the spec calls undefined (R194, R404, R416), by the free-value counter and the address. -/
opaque undefByte : Nat → Nat → Byte

/-- A free choice between outcomes the spec allows (the outcome's number is taken modulo how many there are). -/
opaque choice : Nat → Nat

/-- A free value of 32 bits, by the free-value counter. -/
opaque freeWord : Nat → Word

/-- Bytes of a free value: counter, index. -/
opaque freeByte : Nat → Nat → Byte

/-- The Kravia root-key hash in boot ROM (R39, R511). -/
opaque rootKeyHash : Nat → Byte

/-- The digest of the boot ROM (R508). -/
opaque bootRomDigest : Nat → Byte

/-- The boot ROM version (R515). -/
opaque bootRomVersion : DWord

/-- The 32 bytes of the seed that the extractor obtains from the PUF array, the same at each power-up (R511). -/
opaque deviceSeed : Nat → Byte

/-- Does the PUF seed reproduce at the `n`-th cold power-up (R512)? -/
opaque pufOk : Nat → Bool

/-- The randomness of a hedged signature: counter, byte index (R516). -/
opaque signRandom : Nat → Nat → Byte

/-- The FABRIC body's straits, in a layout the spec does not give (R38): for a body, the straits as (send channel, receive
channel, route), the route as the islands it passes from its source to its destination. -/
opaque fabricStraits : List Byte → List (Nat × Nat × List Nat)

/-- The FABRIC body's retired set (R38). -/
opaque fabricRetired : List Byte → List Nat

/-- Bytes of register state that a set of segments needs in the mirror store (R39 step 8). -/
opaque registerStateSize : List (List Byte) → Nat

/-- The rate-control model's QP for an emission unit, before QP_MIN and QP_MAX bound it (R333): from the units coded so
far, newest first, the picture and the unit's number. -/
opaque rateQp : List UnitIn → PicIn → Nat → Int

/-- The bytes of a part that opens a frame, before the bounds of R334 are applied. -/
opaque itemBytes : List UnitIn → PicIn → StreamItem → List Byte

/-- The bytes that the encoder makes of an emission unit, of what it coded before, newest first, and of nothing else (R343):
slices or tiles, by the standards. -/
opaque unitBytes : List UnitIn → UnitIn → List Byte

/-- A byte of filler: HEVC, how many in all, index (R336). -/
opaque fillerByte : Bool → Nat → Nat → Byte

/-- A byte of the reconstruction of the picture coded last, in a layout that the spec does not give (R337). -/
opaque reconByte : List UnitIn → Nat → Byte

/-- A sample of a reference buffer's bytes, chroma or luma, by column and row (R337 gives no layout). -/
opaque reconSample : EncCfg → List Byte → Bool → Nat → Nat → Nat

/-- The level admits picture size, sample rate, bit-rate and buffer (R319 step 2; the standards' tables): HEVC, then level,
tier, width, height, FPS_NUM, FPS_DEN, BITRATE, BUFFER. -/
opaque levelAdmits : Bool → List Nat → Bool

/-- A level admits a decode channel (R344): HEVC, width, height, FPS_NUM, FPS_DEN. -/
opaque decLevelAdmits : Bool → Nat → Nat → Nat → Nat → Bool

/-- MaxTiles of an AV1 level that the spec gives no figure for (R324). -/
opaque av1MaxTiles : Nat → Nat

/-- HEVC MaxDpbSize of a level and a picture size (R339): level, width, height. -/
opaque hevcMaxDpb : Nat → Nat → Nat → Nat

/-- The coded units of a decode channel so far, the newest last: does the newest conform, with its references (R345)? -/
opaque decOk : List (List Byte) → Bool

/-- The newest unit is a key frame or an IDR (R345). -/
opaque decIsKey : List (List Byte) → Bool

/-- The newest unit depends on the unit that failed last (R345). -/
opaque decDepends : List (List Byte) → Bool

/-- The decoded picture that is next in output order, as a place in the list of those that wait, oldest unit first; none
while the units so far do not tell (R344). -/
opaque decNext : List (List Byte) → List Nat → Option Nat

/-- Width, height and whether samples have 10 bits, of the picture of a unit by its number (R344). -/
opaque decPicture : List (List Byte) → Nat → Nat × Nat × Bool

/-- A byte of a decoded picture: the units so far, the picture's number, row (luma, then chroma), column. -/
opaque decByte : List (List Byte) → Nat → Nat → Nat → Byte

/-- Byte offset in a shadow row of a column offset that is no whole number of the shadow's groups (R136 states none). -/
opaque shadowOffset : Nat → Nat

/-- E(SCALE) of a shadow entry whose SCALE is zero or not finite (R152 states none). -/
opaque shadowScaleExp : Nat → Int

/-- What a control message of the shoal says: the spec gives these messages no byte layout (R393-R411, R415). The list
is a code and its operands, as Machine/Shoal reads them. -/
opaque ctlFields : List Byte → List Nat

/-- The straps of SMB_ADDR (R538). -/
opaque smbStraps : BitVec 2

end Sys2Proof.Config
end

