-- ==== Sys2Proof/Machine/Formats.lean ====
section
/-!
DEFINITION. The number formats of spec/04: exact values, decoding, and the one rounding to nearest even
(R109-R118, R550).
-/
namespace Sys2Proof.Machine

/-- A value, exactly: NaN, an infinity, or `± m × 2^e`. -/
inductive Val where
  | nan
  | inf (neg : Bool)
  | fin (neg : Bool) (m : Nat) (e : Int)
  deriving DecidableEq, Repr

/-- The format codes of R109. -/
inductive Fmt where
  | fp32 | bf16 | fp16 | e4m3 | e5m2 | int8 | fp4 | k3
  deriving DecidableEq, Repr

/-- The format that a 4-bit code names (R109). -/
def fmtOf : Nat → Option Fmt
  | 0 => some .fp32 | 1 => some .bf16 | 2 => some .fp16 | 3 => some .e4m3
  | 4 => some .e5m2 | 5 => some .int8 | 6 => some .fp4 | 7 => some .k3
  | _ => none

/-- The code of a format (R109). -/
def fmtCode : Fmt → Nat
  | .fp32 => 0 | .bf16 => 1 | .fp16 => 2 | .e4m3 => 3 | .e5m2 => 4 | .int8 => 5 | .fp4 => 6 | .k3 => 7

/-- K3 and FP4 travel only in narrow bursts (R119). -/
def isNarrow : Fmt → Bool
  | .fp4 => true | .k3 => true
  | .fp32 => false | .bf16 => false | .fp16 => false | .e4m3 => false | .e5m2 => false | .int8 => false

/-- Bytes of an element in codes 0x0 to 0x5 (R109). -/
def elemBytes : Fmt → Nat
  | .fp32 => 4 | .bf16 => 2 | .fp16 => 2 | .e4m3 => 1 | .e5m2 => 1 | .int8 => 1 | .fp4 => 1 | .k3 => 1

/-- Exponent and mantissa widths of a floating-point format (R112); INT8 and K3 have none. -/
def fpShape : Fmt → Nat × Nat
  | .fp32 => (8, 23) | .bf16 => (8, 7) | .fp16 => (5, 10) | .e4m3 => (4, 3) | .e5m2 => (5, 2)
  | .fp4 => (2, 1) | .int8 => (0, 0) | .k3 => (0, 0)

/-- The exponent of the smallest subnormal (R113): 1 − bias − mantissa bits. -/
def fpLow (f : Fmt) : Int :=
  let (eb, mb) := fpShape f
  2 - (2 ^ (eb - 1) : Int) - mb

/-- The code of the largest finite magnitude (R113). -/
def fpMax : Fmt → Nat
  | .fp32 => 0x7F7FFFFF | .bf16 => 0x7F7F | .fp16 => 0x7BFF | .e4m3 => 0x7E | .e5m2 => 0x7B | .fp4 => 7
  | .int8 => 127 | .k3 => 3

/-- The code of +Infinity; for E4M3 the largest finite value stands in its place (R117). -/
def fpInf : Fmt → Nat
  | .fp32 => 0x7F800000 | .bf16 => 0x7F80 | .fp16 => 0x7C00 | .e4m3 => 0x7E | .e5m2 => 0x7C | .fp4 => 7
  | .int8 => 127 | .k3 => 3

/-- The canonical NaN, sign 0 (R113, R118). -/
def fpNan : Fmt → Nat
  | .fp32 => 0x7FC00000 | .bf16 => 0x7FC0 | .fp16 => 0x7E00 | .e4m3 => 0x7F | .e5m2 => 0x7E | .fp4 => 0
  | .int8 => 0 | .k3 => 0

/-- The value that the bits of a format in codes 0x0-0x4 or 0x6 stand for (R112, R113); INT8 gives the integer
(R114) and K3 the level of R115 (its marker as +0). -/
def decodeFmt (f : Fmt) (w : Nat) : Val :=
  match f with
  | .int8 =>
    let z := signed 8 w
    .fin (decide (z < 0)) z.natAbs 0
  | .k3 => .fin (bit w 2) (match w % 4 with | 0 => 0 | 1 => 1 | 2 => 2 | _ => 4) 0
  | f =>
    let (eb, mb) := fpShape f
    let s := bit w (eb + mb)
    let e := bits w (eb + mb - 1) mb
    let m := w % 2 ^ mb
    if f = .e4m3 then
      if e = 15 ∧ m = 7 then .nan
      else if e = 0 then .fin s m (fpLow f) else .fin s (m + 8) (fpLow f + e - 1)
    else if f ≠ .fp4 ∧ e = 2 ^ eb - 1 then (if m = 0 then .inf s else .nan)
    else if e = 0 then .fin s m (fpLow f)
    else .fin s (m + 2 ^ mb) (fpLow f + e - 1)

/-- floor(z ÷ 2^k). -/
def shiftDown (z : Int) (k : Nat) : Int :=
  if Nat.log2 z.natAbs < k then (if z < 0 then -1 else 0) else z / 2 ^ k

/-- Divide with rounding to nearest, ties to even. -/
def rneDiv (n d : Nat) : Nat :=
  let q := n / d
  let r := n % d
  if 2 * r > d ∨ (2 * r = d ∧ q % 2 = 1) then q + 1 else q

/-- `m × 2^(e − q)` rounded to nearest even: the number of quanta `2^q`. -/
def rneScale (m : Nat) (e q : Int) : Nat :=
  if q ≤ e then m * 2 ^ (e - q).toNat else rneDiv m (2 ^ (q - e).toNat)

/-- Round a magnitude `m × 2^e` to a floating-point format: its code without the sign; what lies below half the smallest
subnormal is zero (R117). -/
def roundMag (f : Fmt) (m : Nat) (e : Int) : Nat :=
  if m = 0 then 0
  else
    let (_, mb) := fpShape f
    let top : Int := (Nat.log2 m : Int) + e
    let q := max (top - mb) (fpLow f)
    let n := if top + 1 < fpLow f then 0 else rneScale m e q
    let code := (q - fpLow f).toNat * 2 ^ mb + n
    if code > fpMax f then fpInf f else code

/-- The sign bit of a floating-point format, in place. -/
def signBit (f : Fmt) (neg : Bool) : Nat :=
  let (eb, mb) := fpShape f
  if neg then 2 ^ (eb + mb) else 0

/-- Conversion to a floating-point format in codes 0x0-0x4: one rounding to nearest even (R116, R117). -/
def encodeFp (f : Fmt) : Val → Nat
  | .nan => fpNan f
  | .inf s => signBit f s + fpInf f
  | .fin s m e => signBit f s + roundMag f m e

/-- A value rounded to an FP32 value. -/
def toFp32 (v : Val) : Val := decodeFmt .fp32 (encodeFp .fp32 v)

/-- The FP32 bits of a value. -/
def f32 (v : Val) : Nat := encodeFp .fp32 v

/-- The value of FP32 bits. -/
def ofF32 (w : Nat) : Val := decodeFmt .fp32 w

/-- Conversion to INT8 of `value ÷ scale`, rounded once to nearest even (R117). A scale that is zero or not finite
gives the free value `Config.int8Open` (the spec states no result). -/
def encodeInt8 (v scale : Val) : Nat :=
  match scale with
  | .fin ss sm se =>
    if sm = 0 then
      (match v with
       | .nan => 0
       | w => (Config.int8Open (BitVec.ofNat 32 (f32 w)) (BitVec.ofNat 32 (f32 scale))).toNat)
    else
      match v with
      | .nan => 0
      | .inf s => if s = ss then 127 else 0x80
      | .fin s m e =>
        let n := if se ≤ e then rneDiv (m * 2 ^ (e - se).toNat) sm else rneDiv m (sm * 2 ^ (se - e).toNat)
        if s = ss then min n 127
        else unsigned 8 (-((min n 128 : Nat) : Int))
  | _ =>
    match v with
    | .nan => 0
    | w => (Config.int8Open (BitVec.ofNat 32 (f32 w)) (BitVec.ofNat 32 (f32 scale))).toNat

/-! ### Exact arithmetic, rounded once -/

/-- The value is NaN. -/
def isNan : Val → Bool
  | .nan => true | .inf _ => false | .fin _ _ _ => false

/-- The value is finite. -/
def isFin : Val → Bool
  | .nan => false | .inf _ => false | .fin _ _ _ => true

/-- The value is a zero of either sign. -/
def isZero : Val → Bool
  | .nan => false | .inf _ => false | .fin _ m _ => m == 0

/-- The sign of a value (NaN counts as positive). -/
def valNeg : Val → Bool
  | .nan => false | .inf s => s | .fin s _ _ => s

/-- Positive zero. -/
def vzero : Val := .fin false 0 0

/-- One. -/
def vone : Val := .fin false 1 0

/-- The value with its sign turned. -/
def vneg : Val → Val
  | .nan => .nan | .inf s => .inf (!s) | .fin s m e => .fin (!s) m e

/-- The magnitude. -/
def vabs : Val → Val
  | .nan => .nan | .inf _ => .inf false | .fin _ m e => .fin false m e

/-- The signed integer of a finite value on the grid `2^q` (exact when `q` is at or below its exponent). -/
def onGrid (s : Bool) (m : Nat) (e q : Int) : Int :=
  let n : Int := (m * 2 ^ (e - q).toNat : Nat)
  if s then -n else n

/-- Exact sum under IEEE special values; an exact zero sum of unlike signs is +0. -/
def addEx : Val → Val → Val
  | .nan, _ => .nan
  | _, .nan => .nan
  | .inf a, .inf b => if a = b then .inf a else .nan
  | .inf a, .fin _ _ _ => .inf a
  | .fin _ _ _, .inf b => .inf b
  | .fin sa ma ea, .fin sb mb eb =>
    if ma = 0 ∧ mb = 0 then .fin (sa && sb) 0 0
    else
      let q := min ea eb
      let z := onGrid sa ma ea q + onGrid sb mb eb q
      .fin (decide (z < 0)) z.natAbs q

/-- Exact product under IEEE special values. -/
def mulEx : Val → Val → Val
  | .nan, _ => .nan
  | _, .nan => .nan
  | .inf a, .inf b => .inf (a != b)
  | .inf a, .fin s m _ => if m = 0 then .nan else .inf (a != s)
  | .fin s m _, .inf b => if m = 0 then .nan else .inf (s != b)
  | .fin sa ma ea, .fin sb mb eb => .fin (sa != sb) (ma * mb) (ea + eb)

/-- FP32 addition, rounded once. -/
def addF (a b : Val) : Val := toFp32 (addEx a b)

/-- FP32 subtraction, rounded once. -/
def subF (a b : Val) : Val := toFp32 (addEx a (vneg b))

/-- FP32 multiplication, rounded once. -/
def mulF (a b : Val) : Val := toFp32 (mulEx a b)

/-- FP32 fused multiply-add, rounded once. -/
def fmaF (a b c : Val) : Val := toFp32 (addEx (mulEx a b) c)

/-- Strictly less, for values that are not NaN. -/
def vlt : Val → Val → Bool
  | .nan, _ => false
  | _, .nan => false
  | .inf a, .inf b => a && !b
  | .inf a, .fin _ _ _ => a
  | .fin _ _ _, .inf b => !b
  | .fin sa ma ea, .fin sb mb eb =>
    let q := min ea eb
    decide (onGrid sa ma ea q < onGrid sb mb eb q)

/-- Less or equal, for values that are not NaN. -/
def vle (a b : Val) : Bool := !(isNan a) && !(isNan b) && !(vlt b a)

/-- The maximum rule of R550 on two values. -/
def maxVal (a b : Val) : Val :=
  if isNan a || isNan b then .nan
  else if isZero a && isZero b then (if valNeg a then b else a)
  else if vlt a b then b else a

/-- The minimum rule of R550 on two values. -/
def minVal (a b : Val) : Val :=
  if isNan a || isNan b then .nan
  else if isZero a && isZero b then (if valNeg a then b else a)
  else if vlt b a then b else a

/-- The exact sum of a row, rounded once to FP32; an exact zero is +0 (R94). -/
def exactSum (xs : List Val) : Val :=
  let z := xs.foldl addEx vzero
  if isZero z then vzero else toFp32 z

/-- The pairwise tree of R156 over neighbouring pairs (`fuel` levels). -/
def treeSum : Nat → List Val → Val
  | 0, xs => xs.headD vzero
  | fuel + 1, xs =>
    match xs with
    | [] => vzero
    | [x] => x
    | _ => treeSum fuel ((chunksOf 2 xs.length xs).map (fun p =>
        match p with
        | [a, b] => addF a b
        | [a] => addF a vzero
        | _ => vzero))

/-- A row padded with +0 to whole chunks of 64. -/
def padTo64 (xs : List Val) : List Val := xs ++ List.replicate (64 * ceilDiv xs.length 64 - xs.length) vzero

/-- The FP32 sum of a row: a tree over each chunk of 64, chunk sums added in ascending order (R156, R190). -/
def chunkSum (xs : List Val) : Val :=
  (chunksOf 64 (xs.length + 1) (padTo64 xs)).foldl (fun acc c => addF acc (treeSum 7 c)) vzero

/-- floor(log2 |v|) of a finite non-zero value (R151). -/
def expOf : Val → Int
  | .nan => 0 | .inf _ => 0 | .fin _ m e => (Nat.log2 m : Int) + e

end Sys2Proof.Machine
end

