-- ==== Sys2Proof/Machine/Bursts.lean ====
section
/-!
DEFINITION. Narrow bursts: layouts, header check, decoding, packing, and the exponent bounds of burst heads
(R119-R131, R151).
-/
namespace Sys2Proof.Machine

/-- The three burst layouts of R119. -/
inductive Layout where
  | k3 | k4 | mx
  deriving DecidableEq, Repr

/-- The layout of a narrow format with its FP4 mode bit (R121, R176). -/
def layoutOf : Fmt → Bool → Option Layout
  | .k3, _ => some .k3
  | .fp4, false => some .k4
  | .fp4, true => some .mx
  | .fp32, _ => none | .bf16, _ => none | .fp16, _ => none | .e4m3, _ => none | .e5m2, _ => none | .int8, _ => none

/-- Elements of a group (R119). -/
def groupSize : Layout → Nat
  | .k3 => 256 | .k4 => 192 | .mx => 224

/-- Blocks of a group (R119). -/
def blockCount : Layout → Nat
  | .k3 => 16 | .k4 => 12 | .mx => 7

/-- Elements of a block (R119). -/
def blockSize : Layout → Nat
  | .k3 => 16 | .k4 => 16 | .mx => 32

/-- Bits of an element in the payload (R120). -/
def elemBits : Layout → Nat
  | .k3 => 3 | .k4 => 4 | .mx => 4

/-- Byte offset of the outlier slots (R119). -/
def slotOff : Layout → Nat
  | .k3 => 0x14 | .k4 => 0x10 | .mx => 0x0B

/-- Byte offset of the payload (R119). -/
def payloadOff : Layout → Nat
  | .k3 => 0x20 | .k4 => 0x20 | .mx => 0x10

/-- The format code in the header (R121). -/
def layoutFmt : Layout → Nat
  | .k3 => 7 | .k4 => 6 | .mx => 6

/-- The header word of a burst. -/
def burstHdr (b : List Byte) : Nat := leAt b 0 4

/-- R123: FORMAT, MODE, OUTLIERS, ZERO_BLOCK and reserved bits, against the layout the consumer names. -/
def burstBad (l : Layout) (b : List Byte) : Bool :=
  let h := burstHdr b
  h % 16 != layoutFmt l || bit h 7 != decide (l = .mx) ||
  decide (bits h 6 4 > (if l = .mx then 0 else 4)) ||
  bits h 23 (8 + blockCount l) != 0 && decide (blockCount l < 16) || bits h 31 25 != 0

/-- The layout that a burst's own header states, for UNPACK (R123): the format is the record's. -/
def burstLayout (f : Fmt) (b : List Byte) : Option Layout := layoutOf f (bit (burstHdr b) 7)

/-- Block `k` is marked all zero. -/
def zeroBlock (h k : Nat) : Bool := bit h (8 + k)

/-- The code of element `i` in the payload (R120). -/
def elemCode (l : Layout) (b : List Byte) (i : Nat) : Nat :=
  let w := elemBits l
  let p := w * i
  bits (leAt b (payloadOff l + p / 8) 2) (p % 8 + w - 1) (p % 8)

/-- The scale byte of block `k`. -/
def scaleByte (b : List Byte) (k : Nat) : Nat := leAt b (4 + k) 1


/-- A decoded element: its value and whether it came from an outlier marker. -/
structure Elem where
  val : Val
  marker : Bool
  deriving DecidableEq, Repr

/-- +0 in place of any zero (R124). -/
def plusZero (v : Val) : Val := if isZero v then vzero else v

/-- The value in outlier slot `j`; a zero of either sign decodes as +0 (R119, R124). -/
def outlierSlot (l : Layout) (b : List Byte) (j : Nat) : Val :=
  plusZero (decodeFmt .bf16 (leAt b (slotOff l + 2 * j) 2))

/-- The marker code of a layout, where it has one (R115, R57). -/
def isMarker : Layout → Nat → Bool
  | .k3, c => c == 4
  | .k4, c => c == 8
  | .mx, _ => false

/-- A non-marker element in its block's scale (R124). -/
def scaleElem (l : Layout) (sb c : Nat) : Val :=
  match l with
  | .mx =>
    if sb = 0xFF then .nan
    else plusZero (decodeFmt .bf16 (encodeFp .bf16 (mulEx (decodeFmt .fp4 c) (.fin false 1 ((sb : Int) - 127)))))
  | .k3 => plusZero (mulEx (decodeFmt .k3 c) (decodeFmt .e4m3 sb))
  | .k4 => plusZero (mulEx (decodeFmt .fp4 c) (decodeFmt .e4m3 sb))

/-- Decode the elements of a burst from index `i` on, `n` of them, with `j` markers met so far (R124-R126). -/
def decodeFrom (l : Layout) (b : List Byte) : Nat → Nat → Nat → List Elem
  | 0, _, _ => []
  | n + 1, i, j =>
    let h := burstHdr b
    let k := i / blockSize l
    let c := elemCode l b i
    if zeroBlock h k then ⟨vzero, false⟩ :: decodeFrom l b n (i + 1) j
    else if isMarker l c then
      ⟨if j < bits h 6 4 then outlierSlot l b j else vzero, true⟩ :: decodeFrom l b n (i + 1) (j + 1)
    else ⟨scaleElem l (scaleByte b k) c, false⟩ :: decodeFrom l b n (i + 1) j

/-- All elements of a burst. -/
def decodeBurst (l : Layout) (b : List Byte) : List Elem := decodeFrom l b (groupSize l) 0 0

/-- The exponent bound that the head of a burst gives element `k` of its group (R151); none when nothing
contributes. -/
def headBound (l : Layout) (b : List Byte) (k : Nat) : Option Int :=
  let h := burstHdr b
  let blk := k / blockSize l
  let sb := scaleByte b blk
  let fromScale : Option Int :=
    if zeroBlock h blk then none
    else match l with
      | .mx => if sb = 0xFF then none else some ((sb : Int) - 127 + 3)
      | .k3 => if isNan (decodeFmt .e4m3 sb) || isZero (decodeFmt .e4m3 sb) then none
               else some (expOf (decodeFmt .e4m3 sb) + 3)
      | .k4 => if isNan (decodeFmt .e4m3 sb) || isZero (decodeFmt .e4m3 sb) then none
               else some (expOf (decodeFmt .e4m3 sb) + 4)
  let slots := if l = .mx then [] else (List.range (bits h 6 4)).map (outlierSlot l b)
  slots.foldl (fun acc o =>
    if isZero o || !(isFin o) then acc
    else match acc with
      | none => some (expOf o + 1)
      | some x => some (max x (expOf o + 1))) fromScale

/-! ### Packing -/

/-- A magnitude as a finite value: the larger of two (non-finite values are the caller's to leave out). -/
def maxMag (a b : Val) : Val := if vlt a (vabs b) then vabs b else a

/-- The top level of the layout (R128). -/
def cmax : Layout → Nat
  | .k3 => 4 | .k4 => 6 | .mx => 6

/-- `n × v`. -/
def timesN (n : Nat) (v : Val) : Val := mulEx (.fin false n 0) v

/-- The smallest positive E4M3 code `s` with `cmax × s ≥ m`, else 448; 0 for a zero maximum (R128). -/
def scaleFor (l : Layout) (m : Val) : Nat :=
  if isZero m then 0
  else ((List.range 0x7F).find? (fun c => c != 0 && vle m (timesN (cmax l) (decodeFmt .e4m3 c)))).getD 0x7E

/-- Midpoints in quarters, each with whether a tie rounds up (R129). -/
def midpoints : Layout → List (Nat × Bool)
  | .k3 => [(2, false), (6, true), (12, false)]
  | .k4 => [(1, false), (3, true), (5, false), (7, true), (10, false), (14, true), (20, false)]
  | .mx => [(1, false), (3, true), (5, false), (7, true), (10, false), (14, true), (20, false)]

/-- round_level of `|w| ÷ s`, as a level code; the sign is added unless the level is zero (R129, R130). -/
def roundLevel (l : Layout) (w s : Val) : Nat :=
  let n := ((midpoints l).filter (fun mp =>
    let t := mulEx (.fin false mp.1 (-2)) s
    if mp.2 then vle t (vabs w) else vlt t (vabs w))).length
  if n = 0 then 0 else n + (if valNeg w then (if l = .k3 then 4 else 8) else 0)

/-- Rank of a candidate: NaN above infinity, infinity above finite (R128). -/
def candLess (a b : Val) : Bool :=
  match a, b with
  | .nan, _ => false
  | _, .nan => true
  | .inf _, _ => false
  | .fin _ _ _, .inf _ => true
  | .fin s m e, .fin s' m' e' => vlt (vabs (.fin s m e)) (vabs (.fin s' m' e'))

/-- The index of the largest candidate among the indices not yet taken, lower index first on ties. -/
def bestCand (vs : List Val) (taken : List Nat) : Option Nat :=
  (List.range vs.length).foldl (fun acc i =>
    let v := vs.getD i vzero
    if isZero v || taken.contains i then acc
    else match acc with
      | none => some i
      | some j => if candLess (vs.getD j vzero) v then some i else some j) none

/-- Up to four candidates (R128). -/
def candidates (vs : List Val) : Nat → List Nat → List Nat
  | 0, taken => taken
  | n + 1, taken =>
    match bestCand vs taken with
    | none => taken
    | some i => candidates vs n (taken ++ [i])

/-- The largest finite magnitude of a block outside the excluded indices (R128). -/
def blockMax (vs : List Val) (start n : Nat) (out : List Nat) : Val :=
  (List.range n).foldl (fun acc k =>
    let i := start + k
    let v := vs.getD i vzero
    if out.contains i || !(isFin v) then acc else maxMag acc v) vzero

/-- Is an infinity left in the block outside the excluded indices? -/
def blockHasInf (vs : List Val) (start n : Nat) (out : List Nat) : Bool :=
  (List.range n).any (fun k => !(out.contains (start + k)) &&
    (match vs.getD (start + k) vzero with | .inf _ => true | .nan => false | .fin _ _ _ => false))

/-- The outliers of a group, in ascending index (R128). -/
def outliersOf (l : Layout) (vs : List Val) : List Nat :=
  let cand := candidates vs 4 []
  (List.range vs.length).filter (fun i => cand.contains i &&
    (let v := vs.getD i vzero
     let b := i / blockSize l
     let m := blockMax vs (b * blockSize l) (blockSize l) cand
     !(isFin v) || vlt (timesN (2 * cmax l) (decodeFmt .e4m3 (scaleFor l m))) (vabs v)))

/-- Little-endian bit string of equal-width codes (R120), as a number. -/
def packCodes (w : Nat) (cs : List Nat) : Nat := cs.foldr (fun c acc => c % 2 ^ w + 2 ^ w * acc) 0

/-- Pack a K3 or K4 group of FP32 or BF16 values, exactly `groupSize` of them (R128-R130). -/
def packK (l : Layout) (vs : List Val) (tail : Bool) : List Byte :=
  let out := outliersOf l vs
  let bs := blockSize l
  let blocks := List.range (blockCount l)
  let info := blocks.map (fun b =>
    let m := blockMax vs (b * bs) bs out
    let inf := blockHasInf vs (b * bs) bs out
    let hasOut := out.any (fun i => i / bs == b)
    let s := if isZero m then (if inf then 0x7E else 0) else scaleFor l m
    (s, isZero m && !inf && !hasOut))
  let codes := (List.range (groupSize l)).map (fun i =>
    let (s, _) := info.getD (i / bs) (0, true)
    let v := vs.getD i vzero
    if out.contains i then (if l = .k3 then 4 else 8)
    else match v with
      | .nan => 0
      | .inf neg => (if l = .k3 then 3 else 7) + (if neg then (if l = .k3 then 4 else 8) else 0)
      | .fin _ m _ => if m = 0 || s == 0 then 0 else roundLevel l v (decodeFmt .e4m3 s))
  let zb := packCodes 1 (info.map (fun p => b2n p.2))
  let hdr := layoutFmt l + 16 * out.length + 2 ^ 8 * zb + (if tail then 2 ^ 24 else 0)
  leBytes 4 hdr ++ info.map (fun p => BitVec.ofNat 8 p.1) ++
    (List.range 4).flatMap (fun j =>
      match out[j]? with
      | some i => leBytes 2 (encodeFp .bf16 (vs.getD i vzero))
      | none => [0#8, 0#8]) ++
    List.replicate (payloadOff l - slotOff l - 8) 0#8 ++ leBytes 96 (packCodes (elemBits l) codes)

/-- Pack an MX group (R131). -/
def packMx (vs : List Val) (tail : Bool) : List Byte :=
  let info := (List.range 7).map (fun b =>
    let block := (List.range 32).map (fun k => vs.getD (32 * b + k) vzero)
    if block.any (fun v => !(isFin v)) then (0xFF, List.replicate 32 0, false)
    else
      let m := block.foldl maxMag vzero
      if isZero m then (0, List.replicate 32 0, true)
      else
        let x := max (-127) (min 127 (expOf m - 2))
        ((x + 127).toNat, block.map (fun v => roundLevel .mx v (.fin false 1 x)), false))
  let zb := packCodes 1 (info.map (fun p => b2n p.2.2))
  leBytes 4 (6 + 2 ^ 7 + 2 ^ 8 * zb + (if tail then 2 ^ 24 else 0)) ++
    info.map (fun p => BitVec.ofNat 8 p.1) ++ List.replicate 5 0#8 ++
    leBytes 112 (packCodes 4 (info.flatMap (fun p => p.2.1)))

/-- Pack one group, padded with zeros to the group size (R122, R128, R131). -/
def packGroup (l : Layout) (vs : List Val) (tail : Bool) : List Byte :=
  let vs := vs ++ List.replicate (groupSize l - vs.length) vzero
  match l with
  | .k3 => packK .k3 vs tail
  | .k4 => packK .k4 vs tail
  | .mx => packMx vs tail

/-- Pack a row into its groups; the group that ends the row carries TAIL when it is partial or `ends` says that the
row's end lies in it (R122, R162). -/
def packRow (l : Layout) (vs : List Val) (ends : Bool) : List Byte :=
  let g := groupSize l
  let gs := chunksOf g (vs.length + 1) vs
  (List.range gs.length).flatMap (fun i => packGroup l (gs.getD i []) (ends && i + 1 == gs.length))

end Sys2Proof.Machine
end

