-- ==== Sys2Proof/Machine/Status.lean ====
section
/-!
DEFINITION. The status codes of R454, by name, and their 16-bit codes (R10).
-/
namespace Sys2Proof.Machine

/-- Every status code of the master status table (R453, R454). -/
inductive Status where
  | success | groupChanged | listReclaimed | stateRefused | commandBad | ringBad | hostReadFault
  | domainUnknown | footprintRefused | overflowFault | programBad | programUnknown | descriptorBad
  | inPlace | noCommit | syncScope | sequenceFault | gangAborted | shapeBeyondBucket | stageBad
  | killed | pinOverrun | placementBad | classRefused | pinRefused | syncBusy | domainSegmentBad
  | sealedWrite | lowerTierTimeout | poison | unmapped | nearFull | farFull | rangeBad | notSealed
  | modeMismatch | vaultEngineRange | memorySegmentBad | noShadow | formatDisabled | burstMismatch
  | shadowBad | accAlias | anchorMismatch | kTooLong | groupSplit | detLevelConflict
  | numericSegmentBad | tableNotMonotone | tablesSegmentBad | functionUnknown | tableUnpublished
  | convGeometryBad | tornTable | listUnknown | listGenMismatch | listBad | lensControlBad
  | statsMismatch | prefixNotSealed | prefixFull | listFull | groupMismatch | memberLost
  | ticketTimeout | noContext | headless | opMismatch | groupBad | windowBad | linkSegmentBad
  | videoSegmentBad | configBad | levelExceeded | rcInfeasible | noSlots | poolBad | channelClosed
  | queueFull | markBad | channelRevoked | bitstreamError | signatureBad | imageMalformed
  | segmentDigestBad | baseMismatch | epochStale | mirrorFull | imageBusy | epochHeld
  | applyAborted | mirrorBad | identityFailed | debugTargetBad | doeRequestBad | powerStateRefused
  | powerSegmentBad | retrainRefused | retrainFailed | vaultFailed | thermalTrip
  deriving DecidableEq, Repr

/-- The 16-bit code of a status (R454). -/
def statusCode : Status → Nat
  | .success => 0x0000
  | .groupChanged => 0x0001
  | .listReclaimed => 0x0002
  | .stateRefused => 0x0101
  | .commandBad => 0x0102
  | .ringBad => 0x0103
  | .hostReadFault => 0x0104
  | .domainUnknown => 0x0105
  | .footprintRefused => 0x0201
  | .overflowFault => 0x0202
  | .programBad => 0x0203
  | .programUnknown => 0x0204
  | .descriptorBad => 0x0205
  | .inPlace => 0x0206
  | .noCommit => 0x0207
  | .syncScope => 0x0208
  | .sequenceFault => 0x0209
  | .gangAborted => 0x020A
  | .shapeBeyondBucket => 0x0210
  | .stageBad => 0x0211
  | .killed => 0x0220
  | .pinOverrun => 0x0221
  | .placementBad => 0x0222
  | .classRefused => 0x0223
  | .pinRefused => 0x0224
  | .syncBusy => 0x0225
  | .domainSegmentBad => 0x0226
  | .sealedWrite => 0x0301
  | .lowerTierTimeout => 0x0302
  | .poison => 0x0303
  | .unmapped => 0x0304
  | .nearFull => 0x0305
  | .farFull => 0x0306
  | .rangeBad => 0x0307
  | .notSealed => 0x0308
  | .modeMismatch => 0x0309
  | .vaultEngineRange => 0x030A
  | .memorySegmentBad => 0x030B
  | .noShadow => 0x0401
  | .formatDisabled => 0x0402
  | .burstMismatch => 0x0403
  | .shadowBad => 0x0404
  | .accAlias => 0x0405
  | .anchorMismatch => 0x0406
  | .kTooLong => 0x0407
  | .groupSplit => 0x0408
  | .detLevelConflict => 0x0409
  | .numericSegmentBad => 0x040A
  | .tableNotMonotone => 0x0410
  | .tablesSegmentBad => 0x0411
  | .functionUnknown => 0x0412
  | .tableUnpublished => 0x0413
  | .convGeometryBad => 0x0420
  | .tornTable => 0x0501
  | .listUnknown => 0x0502
  | .listGenMismatch => 0x0503
  | .listBad => 0x0504
  | .lensControlBad => 0x0505
  | .statsMismatch => 0x0506
  | .prefixNotSealed => 0x0507
  | .prefixFull => 0x0508
  | .listFull => 0x0509
  | .groupMismatch => 0x0601
  | .memberLost => 0x0602
  | .ticketTimeout => 0x0603
  | .noContext => 0x0604
  | .headless => 0x0605
  | .opMismatch => 0x0606
  | .groupBad => 0x0607
  | .windowBad => 0x0608
  | .linkSegmentBad => 0x0609
  | .videoSegmentBad => 0x0701
  | .configBad => 0x0702
  | .levelExceeded => 0x0703
  | .rcInfeasible => 0x0704
  | .noSlots => 0x0705
  | .poolBad => 0x0706
  | .channelClosed => 0x0707
  | .queueFull => 0x0708
  | .markBad => 0x0709
  | .channelRevoked => 0x070A
  | .bitstreamError => 0x070B
  | .signatureBad => 0x0801
  | .imageMalformed => 0x0802
  | .segmentDigestBad => 0x0803
  | .baseMismatch => 0x0804
  | .epochStale => 0x0805
  | .mirrorFull => 0x0806
  | .imageBusy => 0x0807
  | .epochHeld => 0x0808
  | .applyAborted => 0x0809
  | .mirrorBad => 0x080A
  | .identityFailed => 0x0810
  | .debugTargetBad => 0x0811
  | .doeRequestBad => 0x0812
  | .powerStateRefused => 0x0901
  | .powerSegmentBad => 0x0902
  | .retrainRefused => 0x0903
  | .retrainFailed => 0x0904
  | .vaultFailed => 0x0905
  | .thermalTrip => 0x0906

end Sys2Proof.Machine
end

