-- ==== Sys2Proof/Machine/Program.lean ====
section
/-!
DEFINITION. Program images, instructions, loops, address generators and bucket tables: reading an image and
every check of LOAD_PROGRAM that the image alone decides (R179-R184, R204-R212, R222, R232, R552).
-/
namespace Sys2Proof.Machine

/-- The island opcodes of R186. -/
inductive Op where
  | load | store | stage | copy | send | recv | veng | zero
  | mma | accload | accclr | epi | epiraw
  | vadd | vmul | vfma | vmax | vmin | vcvt | vrowmul | vrowadd
  | feval | lopen | lscore | lpv | lstats | lback
  | rsum | rmax | rsumsq
  | wait | signal | arrive | fence | gbegin | gend | commit
  deriving DecidableEq, Repr

/-- The opcode that an OP byte names (R186); every other value is reserved. -/
def opOf : Nat → Option Op
  | 0x01 => some .load | 0x02 => some .store | 0x03 => some .stage | 0x04 => some .copy
  | 0x05 => some .send | 0x06 => some .recv | 0x07 => some .veng | 0x08 => some .zero
  | 0x10 => some .mma | 0x11 => some .accload | 0x12 => some .accclr
  | 0x20 => some .epi | 0x21 => some .epiraw
  | 0x30 => some .vadd | 0x31 => some .vmul | 0x32 => some .vfma | 0x33 => some .vmax
  | 0x34 => some .vmin | 0x35 => some .vcvt | 0x36 => some .vrowmul | 0x37 => some .vrowadd
  | 0x40 => some .feval
  | 0x50 => some .lopen | 0x51 => some .lscore | 0x52 => some .lpv | 0x53 => some .lstats | 0x54 => some .lback
  | 0x60 => some .rsum | 0x61 => some .rmax | 0x62 => some .rsumsq
  | 0x70 => some .wait | 0x71 => some .signal | 0x72 => some .arrive | 0x73 => some .fence
  | 0x80 => some .gbegin | 0x81 => some .gend | 0x90 => some .commit
  | _ => none

/-- One instruction, its fields as R184 lays them out. -/
structure Insn where
  op : Op
  flags : Nat
  x : Nat
  ag1 : Nat
  ag2 : Nat
  ag3 : Nat
  imm1 : Nat
  imm2 : Nat
  count : Nat
  opa : Nat
  opb : Nat
  opc : Nat
  deriving DecidableEq, Repr

/-- Which fields an opcode uses (R186, R552); a field it does not use must be zero. -/
structure Uses where
  flags : Nat := 0
  x : Bool := false
  ag1 : Bool := false
  ag2 : Bool := false
  ag3 : Bool := false
  imm1 : Bool := false
  imm2 : Bool := false
  count : Bool := false
  opa : Bool := false
  opb : Bool := false
  opc : Bool := false
  deriving DecidableEq, Repr

/-- The fields each opcode uses, with the mask of its FLAGS (R186, R188, R189, R217, R228, R232, R271-R280, R293). -/
def opUses : Op → Uses
  | .load => { flags := 0x3F, ag1 := true, ag2 := true, ag3 := true, imm1 := true, imm2 := true, count := true }
  | .store => { flags := 0x1F, ag1 := true, ag3 := true, imm1 := true, imm2 := true, count := true }
  | .stage => { flags := 0x01, ag1 := true, imm1 := true, imm2 := true, count := true }
  | .copy => { ag1 := true, ag3 := true, imm1 := true, imm2 := true }
  | .send => { x := true, ag1 := true, imm1 := true, count := true }
  | .recv => { x := true, ag3 := true, count := true }
  | .veng => { ag1 := true, ag3 := true, imm1 := true }
  | .zero => { ag3 := true, imm2 := true }
  | .mma => { flags := 0x0F, x := true, ag1 := true, ag2 := true, ag3 := true, imm1 := true, imm2 := true,
              count := true, opa := true, opb := true }
  | .accload => { x := true, ag1 := true, imm1 := true }
  | .accclr => { x := true }
  | .epi => { flags := 0x0F, x := true, ag1 := true, ag2 := true, ag3 := true, imm1 := true, imm2 := true,
              opa := true, opb := true, opc := true }
  | .epiraw => { x := true, ag3 := true }
  | .vadd => { ag1 := true, ag2 := true, ag3 := true, imm1 := true, count := true }
  | .vmul => { ag1 := true, ag2 := true, ag3 := true, imm1 := true, count := true }
  | .vfma => { ag1 := true, ag2 := true, ag3 := true, imm1 := true, count := true }
  | .vmax => { ag1 := true, ag2 := true, ag3 := true, imm1 := true, count := true }
  | .vmin => { ag1 := true, ag2 := true, ag3 := true, imm1 := true, count := true }
  | .vcvt => { ag1 := true, ag2 := true, ag3 := true, imm1 := true, imm2 := true, count := true, opa := true, opc := true }
  | .vrowmul => { flags := 0x02, ag1 := true, ag2 := true, ag3 := true, imm1 := true, imm2 := true, count := true,
                  opa := true }
  | .vrowadd => { flags := 0x02, ag1 := true, ag2 := true, ag3 := true, imm1 := true, imm2 := true, count := true,
                  opa := true }
  | .feval => { ag1 := true, ag3 := true, imm1 := true, imm2 := true, count := true }
  | .lopen => { ag1 := true, imm1 := true, opa := true, opb := true }
  | .lscore => {}
  | .lpv => { x := true }
  | .lstats => { flags := 0x01, ag1 := true, ag3 := true, imm1 := true, count := true }
  | .lback => { ag3 := true }
  | .rsum => { flags := 0x03, ag1 := true, ag3 := true, imm1 := true, imm2 := true, count := true, opa := true }
  | .rmax => { flags := 0x03, ag1 := true, ag3 := true, imm1 := true, imm2 := true, count := true, opa := true }
  | .rsumsq => { flags := 0x03, ag1 := true, ag3 := true, imm1 := true, imm2 := true, count := true, opa := true }
  | .wait => { imm1 := true, imm2 := true }
  | .signal => { x := true, imm2 := true }
  | .arrive => {}
  | .fence => {}
  | .gbegin => { opa := true }
  | .gend => {}
  | .commit => {}

/-- A loop entry (R180). -/
structure Loop where
  first : Nat
  last : Nat
  level : Nat
  pos : Nat
  deriving DecidableEq, Repr

/-- An address generator (R181): `operand` is none for KIND 0. -/
structure AddrGen where
  operand : Option Nat
  offset : Int
  stride : List Int
  wrap : List Nat
  deriving DecidableEq, Repr

/-- A tiling record (R209): tiles of levels 0 to 2, each for M, N, K and G. -/
structure TileRec where
  mask : List Nat
  order : List Nat
  tile : List (List Nat)
  scratchNeed : Nat
  deriving DecidableEq, Repr

/-- An accumulator tile's declared mode (R179). -/
inductive AccMode where
  | w128 | fp32 | fromDomain
  deriving DecidableEq, Repr

/-- A program as it stands in the program table (R179). -/
structure Program where
  insns : List Insn
  scratch : Nat
  acc : List (Nat × AccMode)
  loops : List Loop
  ags : List AddrGen
  nsizes : List Nat
  sizes : List (List Nat)
  splitDim : Nat
  recs : List TileRec
  uses : Nat
  sendMask : Nat
  recvMask : Nat
  groupMax : Nat
  straitIslands : List Nat
  bytes : Nat
  deriving DecidableEq, Repr

/-- The program has a group block (R191). -/
def hasGroup (p : Program) : Bool := p.insns.any (fun i => decide (i.op = .gbegin))

/-- The program is RESIDENT (R179 USES [3]). -/
def isResident (p : Program) : Bool := bit p.uses 3

/-- Rows of an accumulator tile shape (R145, R179). -/
def shapeRows : Nat → Nat
  | 1 => 64 | 2 => 64 | 3 => 128 | 4 => 128 | 5 => 256 | _ => 0

/-- Columns of an accumulator tile shape (R145, R179). -/
def shapeCols : Nat → Nat
  | 1 => 64 | 2 => 128 | 3 => 64 | 4 => 128 | 5 => 128 | _ => 0

/-- 16 KiB units of a tile (R145). -/
def shapeUnits (shape : Nat) (fp : Bool) : Nat :=
  shapeRows shape * shapeCols shape * (if fp then 4 else 16) / 16384

/-- Length of a program image from its header (R179, R208). -/
def imageLength (h : List Byte) : Nat :=
  64 + 8 * leAt h 0x18 1 + 64 * leAt h 0x19 1 + 0x90 + 64 * leAt h 0x1A 1 + 16 * leAt h 2 2

/-- The header fields that fix the image's length hold allowed values (R179, R182). -/
def progHeaderOk (h : List Byte) : Bool :=
  leAt h 0 2 == 1 && decide (1 ≤ leAt h 2 2) && decide (leAt h 2 2 ≤ 16384) && decide (leAt h 0x18 1 ≤ 8) &&
    decide (leAt h 0x19 1 ≤ 16) && leAt h 0x1A 1 != 0

/-- Two ranges nest or are disjoint (R180). -/
def nestOrApart (a b : Nat × Nat) : Bool :=
  a.2 < b.1 || b.2 < a.1 || (b.1 ≤ a.1 && a.2 ≤ b.2) || (a.1 ≤ b.1 && b.2 ≤ a.2)

/-- The dimension at a position of a loop-order byte (R205). -/
def orderDim (order pos : Nat) : Nat := bits order (2 * pos + 1) (2 * pos)

/-- The position of a dimension in a loop-order byte (R205). -/
def orderPos (order d : Nat) : Nat := ((List.range 4).find? (fun p => orderDim order p == d)).getD 0

/-- A legal loop order names four different dimensions (R205). -/
def orderOk (order : Nat) : Bool :=
  (List.range 4).all (fun d => (List.range 4).any (fun p => orderDim order p == d))

/-- Read one instruction's fields (R184); none for a reserved OP or reserved bits. -/
def readInsn (b : List Byte) : Option Insn :=
  let w0 := leAt b 0 4
  let w3 := leAt b 12 4
  match opOf (w0 % 256) with
  | none => none
  | some op =>
    if bits w3 31 28 ≠ 0 then none
    else some ⟨op, bits w0 15 8, bits w0 19 16, bits w0 23 20, bits w0 27 24, bits w0 31 28, leAt b 4 4, leAt b 8 4,
               bits w3 15 0, bits w3 19 16, bits w3 23 20, bits w3 27 24⟩

/-- The AG has the KIND its role needs: 1 operand memory, 0 scratchpad (R182). -/
def agKind (ags : List AddrGen) (i : Nat) (operand : Bool) : Bool :=
  match ags[i]? with
  | none => false
  | some a => a.operand.isSome == operand

/-- The roles that R182, R188, R232, R269 and R293 fix the KIND of. DESIGN CHOICE: the record of a VENG may stand in the scratchpad,
where R186 puts it, or in operand memory, since R182 calls a VENG source of KIND 0 wrong. -/
def kindsOk (ags : List AddrGen) (i : Insn) : Bool :=
  match i.op with
  | .load => agKind ags i.ag1 true && agKind ags i.ag3 false && (!(bit i.flags 5) || agKind ags i.ag2 false)
  | .store => agKind ags i.ag1 false && agKind ags i.ag3 true
  | .stage => agKind ags i.ag1 true
  | .copy => agKind ags i.ag1 false && agKind ags i.ag3 false
  | .send => agKind ags i.ag1 false
  | .recv => agKind ags i.ag3 false
  | .zero => agKind ags i.ag3 false
  | .feval => agKind ags i.ag1 false && agKind ags i.ag3 false
  | .mma => agKind ags i.ag1 false && agKind ags i.ag2 false && (!(bit i.flags 3) || agKind ags i.ag3 true)
  | .lopen => agKind ags i.ag1 false
  | .veng => true | .accload => true | .accclr => true | .epi => true | .epiraw => true
  | .vadd => true | .vmul => true | .vfma => true | .vmax => true | .vmin => true | .vcvt => true
  | .vrowmul => true | .vrowadd => true | .lscore => true | .lpv => true | .lstats => true
  | .lback => true | .rsum => true | .rmax => true | .rsumsq => true | .wait => true | .signal => true
  | .arrive => true | .fence => true | .gbegin => true | .gend => true | .commit => true

/-- Field values an opcode reserves (R109, R188, R189, R192, R232, R293) and the channel masks (R182). -/
def valuesOk (sendMask recvMask : Nat) (i : Insn) : Bool :=
  match i.op with
  | .load => decide (i.flags % 16 < 8) && (if bit i.flags 5 then !(bit i.flags 4) else i.ag2 == 0)
  | .store => decide (i.flags % 16 < 8)
  | .mma => decide (bits i.flags 2 1 < 2)
  | .epi => decide (bits i.flags 1 0 < 3)
  | .send => decide (i.x < 8) && bit sendMask i.x
  | .recv => decide (i.x < 8) && bit recvMask i.x
  | .wait => decide (i.imm1 < 2 ^ 14)
  | .feval => decide (i.imm2 < 2 ^ 16)
  | .stage => true | .copy => true | .veng => true | .zero => true | .accload => true | .accclr => true
  | .epiraw => true | .vadd => true | .vmul => true | .vfma => true | .vmax => true | .vmin => true | .vcvt => true
  | .vrowmul => true | .vrowadd => true | .lopen => true | .lscore => true | .lpv => true | .lstats => true
  | .lback => true | .rsum => true | .rmax => true | .rsumsq => true | .signal => true
  | .arrive => true | .fence => true | .gbegin => true | .gend => true | .commit => true

/-- The instruction uses only its opcode's fields, with AG indices in range (R182, R184). -/
def insnOk (ags : List AddrGen) (sendMask recvMask : Nat) (i : Insn) : Bool :=
  let u := opUses i.op
  decide (i.flags &&& u.flags = i.flags) &&
  (u.x || i.x == 0) && (u.imm1 || i.imm1 == 0) && (u.imm2 || i.imm2 == 0) && (u.count || i.count == 0) &&
  (u.opa || i.opa == 0) && (u.opb || i.opb == 0) && (u.opc || i.opc == 0) &&
  (if u.ag1 then decide (i.ag1 < ags.length) else i.ag1 == 0) &&
  (if u.ag2 then decide (i.ag2 < ags.length) else i.ag2 == 0) &&
  (if u.ag3 then decide (i.ag3 < ags.length) else i.ag3 == 0) &&
  kindsOk ags i && valuesOk sendMask recvMask i

/-- The group blocks, as (GBEGIN index, GEND index); none where they do not pair or they nest (R182). -/
def groupBlocks : Nat → Option Nat → List Insn → Option (List (Nat × Nat))
  | _, none, [] => some []
  | _, some _, [] => none
  | n, o, i :: t =>
    match i.op, o with
    | .gbegin, none => groupBlocks (n + 1) (some n) t
    | .gbegin, some _ => none
    | .gend, some b => (groupBlocks (n + 1) none t).map ((b, n) :: ·)
    | .gend, none => none
    | _, o => groupBlocks (n + 1) o t

/-- Read an address generator (R181); none for a reserved field. -/
def readAg (b : List Byte) : Option AddrGen :=
  let kind := leAt b 0 1
  if kind > 1 ∨ ¬ zeroAt b 2 2 ∨ ¬ zeroAt b 0x35 11 then none
  else if kind = 0 ∧ leAt b 1 1 ≠ 0 then none
  else if leAt b 1 1 ≥ 16 then none
  else some ⟨if kind = 0 then none else some (leAt b 1 1), signed 32 (leAt b 4 4),
    (List.range 9).map (fun i => signed 32 (leAt b (8 + 4 * i) 4)), (List.range 9).map (fun i => leAt b (0x2C + i) 1)⟩

/-- Read a tiling record (R209). -/
def readRec (b : List Byte) : TileRec :=
  ⟨(List.range 4).map (fun d => bits (leAt b 0 2) (4 * d + 3) (4 * d)), (List.range 4).map (fun l => leAt b (4 + l) 1),
   (List.range 3).map (fun l => (List.range 4).map (fun d => leAt b (8 + 16 * l + 4 * d) 4)), leAt b 0x38 4⟩

/-- A tile size of levels 0 to 2, or the fixed engine tile of level 3 (R204). -/
def recTile (r : TileRec) (level d : Nat) : Nat :=
  if level ≥ 3 then [128, 128, 64, 1].getD d 1 else (r.tile.getD level []).getD d 1

/-- The record serves a bucket combination (R209, R211). -/
def recServes (r : TileRec) (idx : List Nat) : Bool :=
  (List.range 4).all (fun d => r.mask.getD d 0 == 15 || r.mask.getD d 0 == idx.getD d 0)

/-- The sizes of a dimension are ascending from a bound, non-zero, and end in zeros (R208). -/
def sizesOk : Nat → Nat → List Nat → Bool
  | _, 0, rest => rest.all (· == 0)
  | _, _ + 1, [] => false
  | lo, n + 1, x :: t => decide (lo < x) && sizesOk x n t

/-- A record is well formed against its table and loops (R207, R210). -/
def recOk (nsizes : List Nat) (sizes : List (List Nat)) (loops : List Loop) (groups : List (Nat × Nat)) (b : List Byte)
    (r : TileRec) : Bool :=
  zeroAt b 2 2 && zeroAt b 0x3C 4 &&
  (List.range 4).all (fun d => r.mask.getD d 0 == 15 || decide (r.mask.getD d 0 < nsizes.getD d 0)) &&
  r.order.all orderOk &&
  (List.range 3).all (fun l => (List.range 4).all (fun d => decide (0 < recTile r l d) &&
    (l == 0 || decide (recTile r l d ≤ recTile r (l - 1) d)))) &&
  (List.range 3).all (fun l => recTile r l 2 % 64 == 0) &&
  (List.range 3).all (fun d => (List.range 3).all (fun l =>
    let sz := sizes.getD d []
    let top := sz.getD (if r.mask.getD d 0 = 15 then nsizes.getD d 1 - 1 else r.mask.getD d 0) 0
    let parent := if l = 0 then top else recTile r (l - 1) d
    decide (parent ≤ recTile r l d) ||
      loops.any (fun lp => lp.level == l && lp.pos == orderPos (r.order.getD l 0) d))) &&
  (groups.isEmpty ||
    (orderDim (r.order.getD 0 0) 0 == 3 && (List.range 3).all (fun l => recTile r l 3 == 1) &&
     loops.all (fun lp => orderDim (r.order.getD lp.level 0) lp.pos != 3 &&
       groups.any (fun g => decide (g.1 < lp.first) && decide (lp.last < g.2)))))

/-- Every combination of one bucket index per dimension (R210). -/
def combos (ns : List Nat) : List (List Nat) :=
  ns.foldr (fun n acc => (List.range n).flatMap (fun i => acc.map (i :: ·))) [[]]

/-- Read the accumulator declarations: tiles run without gaps from tile 0 (R179). -/
def readAcc : List Byte → Option (List (Nat × AccMode))
  | [] => some []
  | b :: t =>
    let v := b.toNat
    if v = 0 then (if t.all (· == 0) then some [] else none)
    else if v ≥ 32 ∨ v % 8 = 0 ∨ v % 8 > 5 ∨ (bit v 3 ∧ bit v 4) then none
    else (readAcc t).map ((v % 8, if bit v 4 then .fromDomain else if bit v 3 then .fp32 else .w128) :: ·)

/-- All of a list, or none where one entry is missing. -/
def allSome {α : Type} : List (Option α) → Option (List α)
  | [] => some []
  | none :: _ => none
  | some x :: t => (allSome t).map (x :: ·)

/-- Read a program image and make every PROGRAM_BAD check (R182, R210). -/
def readProgram (img : List Byte) : Option Program :=
  let ic := leAt img 2 2
  let lc := leAt img 0x18 1
  let agc := leAt img 0x19 1
  let bc := leAt img 0x1A 1
  let uses := leAt img 0x1B 1
  let sm := leAt img 0x1C 1
  let rm := leAt img 0x1D 1
  let isl := bitsSet 256 (leAt img 0x20 32)
  if !(progHeaderOk img) ∨ uses ≥ 16 ∨ leAt img 4 4 % 65536 ≠ 0 ∨
      (isl.isEmpty ≠ (sm == 0 && rm == 0)) ∨ img.length ≠ imageLength img then none
  else
    let loOff := 64
    let agOff := loOff + 8 * lc
    let btOff := agOff + 64 * agc
    let inOff := btOff + 0x90 + 64 * bc
    let loops := (List.range lc).map (fun i =>
      let o := loOff + 8 * i
      (Loop.mk (leAt img o 2) (leAt img (o + 2) 2) (leAt img (o + 4) 1) (leAt img (o + 5) 1), zeroAt img (o + 6) 2))
    let lps := loops.map (·.1)
    match readAcc (slice img 8 16), allSome ((List.range agc).map (fun i => readAg (slice img (agOff + 64 * i) 64))),
        allSome ((List.range ic).map (fun i => readInsn (slice img (inOff + 16 * i) 16))) with
    | some acc, some ags, some insns =>
      match groupBlocks 0 none insns with
      | none => none
      | some groups =>
        let nsizes := (List.range 4).map (fun d => leAt img (btOff + d) 1)
        let sizes := (List.range 4).map (fun d => (List.range 8).map (fun j => leAt img (btOff + 16 + 32 * d + 4 * j) 4))
        let sd := leAt img (btOff + 4) 1
        let raw := (List.range bc).map (fun i => slice img (btOff + 0x90 + 64 * i) 64)
        let recs := raw.map readRec
        let ok := loops.all (fun lz => lz.2 && decide (lz.1.first ≤ lz.1.last) && decide (lz.1.last < ic) &&
              decide (lz.1.level < 4) && decide (lz.1.pos < 4)) &&
            lps.all (fun a => lps.all (fun b => nestOrApart (a.first, a.last) (b.first, b.last))) &&
            groups.all (fun g => lps.all (fun b => nestOrApart g (b.first, b.last))) &&
            insns.all (insnOk ags sm rm) &&
            nsizes.all (fun n => decide (1 ≤ n) && decide (n ≤ 8)) &&
            (sd < 3 || sd == 0xFF) && zeroAt img (btOff + 5) 11 &&
            (List.range 4).all (fun d => sizesOk 0 (nsizes.getD d 0) (sizes.getD d [])) &&
            raw.all (fun b => recOk nsizes sizes lps groups b (readRec b)) &&
            (combos nsizes).all (fun c => recs.any (fun r => recServes r c))
        if ok then
          some ⟨insns, leAt img 4 4, acc, lps, ags, nsizes, sizes, sd, recs, uses, sm, rm, leAt img 0x1E 2, isl,
                img.length⟩
        else none
    | _, _, _ => none

/-- Accumulator units a program declares; a tile that takes the domain's mode counts at its W128 size (R179). -/
def declUnits (p : Program) : Nat := (p.acc.map (fun a => shapeUnits a.1 (decide (a.2 = .fp32)))).sum

/-- The footprint checks that the image decides together with the channels open on each island (R182, R210):
`openSend` and `openRecv` are the islands' masks of open channels. -/
def footprintOk (p : Program) (openSend openRecv : List Nat) : Bool :=
  decide (p.scratch ≤ 4 * 2 ^ 20) && p.recs.all (fun r => decide (r.scratchNeed ≤ p.scratch)) &&
  decide (declUnits p ≤ 64) && decide (p.acc.length ≤ 16) &&
  p.straitIslands.all (fun i => decide (p.sendMask &&& openSend.getD i 0 = p.sendMask) &&
    decide (p.recvMask &&& openRecv.getD i 0 = p.recvMask))

/-! ### Selection, trip counts and addresses -/

/-- Select one bucket index in a dimension (R211): none where the extent lies beyond. -/
def selectDim (sizes : List Nat) (n e named : Nat) : Option Nat :=
  if named ≠ 15 then (if named ≥ n ∨ e > sizes.getD named 0 then none else some named)
  else firstIdx (fun z => decide (e ≤ z)) (sizes.take n)

/-- The bucket indices and the tiling record of a task (R211). -/
def selectBucket (p : Program) (ext named : List Nat) : Option (List Nat × TileRec) :=
  match allSome ((List.range 4).map (fun d =>
      selectDim (p.sizes.getD d []) (p.nsizes.getD d 0) (ext.getD d 0) (named.getD d 0))) with
  | none => none
  | some idx => (p.recs.find? (fun r => recServes r idx)).map (fun r => (idx, r))

/-- The level and the dimension that a loop runs over (R205). -/
def loopDim (r : TileRec) (l : Loop) : Nat × Nat := (l.level, orderDim (r.order.getD l.level 0) l.pos)

/-- The index of the level-`level` loop over a dimension: of several with that level and dimension the one that runs, whose
index alone can differ from 0, and 0 when the program has none running (R180, R206). -/
def levelIdx (p : Program) (r : TileRec) (idx : List Nat) (level d : Nat) : Nat :=
  ((p.loops.zipIdx.filter (fun l => decide (loopDim r l.1 = (level, d)))).map (fun l => idx.getD l.2 0)).sum

/-- The origin at levels below `n` (R206): the sum over levels 0 to n − 1. -/
def originBelow (p : Program) (r : TileRec) (idx : List Nat) (n d : Nat) : Nat :=
  ((List.range n).map (fun l => levelIdx p r idx l d * recTile r l d)).sum

/-- The current origin of a dimension, o_{3,d} (R206). -/
def originOf (p : Program) (r : TileRec) (idx : List Nat) (d : Nat) : Nat := originBelow p r idx 4 d

/-- The trip count of a loop when it is entered (R206): `ext` are the extents in force. -/
def tripCount (p : Program) (r : TileRec) (idx ext : List Nat) (l : Loop) : Nat :=
  let (level, d) := loopDim r l
  let e := ext.getD d 0
  let o := originBelow p r idx level d
  let parent := if level = 0 then e else recTile r (level - 1) d
  ceilDiv (min parent (e - o)) (recTile r level d)

/-- The address an address generator gives (R181): loop indices 0-7, the group index in slot 8. -/
def agAddr (a : AddrGen) (base : Int) (idx : List Nat) (group : Nat) (imm : Int) : Int :=
  base + a.offset + imm + ((List.range 9).map (fun l =>
    let i := if l = 8 then group else idx.getD l 0
    let w := a.wrap.getD l 0
    a.stride.getD l 0 * ((if w = 0 then i else i % w : Nat) : Int))).sum

/-! ### Task descriptors -/

/-- An operand descriptor (R176), after any widening and split (R136, R214); `widened` when its bound comes from a
shadow entry (R152). -/
structure Operand where
  base : Nat
  pitch : Nat
  fmt : Fmt
  mx : Bool
  scaleKind : Nat
  output : Bool
  rdim : Nat
  cdim : Nat
  bound : Int
  scale : Nat
  scaleVa : Nat
  widened : Bool
  deriving DecidableEq, Repr

/-- A WAIT or SIGNAL entry that is valid: semaphore and target or increment (R173). -/
abbrev SemRef := Nat × Nat

/-- A task descriptor (R172). -/
structure Desc where
  program : Nat
  lc : Bool
  pinned : Bool
  complete : Bool
  domain : Nat
  widen : Nat
  bucket : List Nat
  place : Option Nat
  m : Nat
  n : Nat
  k : Nat
  g : Nat
  anchorFirst : Int
  anchorLen : Nat
  argVa : Nat
  waits : List SemRef
  signals : List SemRef
  gangId : Nat
  gangSize : Nat
  gangRank : Nat
  gangBarrier : Option Nat
  gangSemFirst : Nat
  gangSemCount : Nat
  splitIndex : Nat
  splitCount : Nat
  tag : Nat
  splitAuto : Bool := false
  deriving DecidableEq, Repr

/-- A task descriptor's fields, when no reserved field or value is set and the gang and split fields stand
(R172-R174, R213 and step 1 of R178, but for what the argument block decides). -/
def readDesc (b : List Byte) (domain : Nat) : Option Desc :=
  let ctrl := leAt b 2 1
  let bk := leAt b 6 2
  let bucket := (List.range 4).map (fun d => bits bk (4 * d + 3) (4 * d))
  let place := leAt b 8 2
  let waits := (List.range 2).map (fun i => leAt b (0x30 + 8 * i) 8)
  let sigs := (List.range 4).map (fun i => leAt b (0x40 + 4 * i) 4)
  let gid := leAt b 0x50 2
  let gsz := leAt b 0x52 2
  let grk := leAt b 0x54 2
  let gb := leAt b 0x56 2
  let gsf := leAt b 0x58 2
  let gsc := leAt b 0x5A 1
  let si := leAt b 0x5C 2
  let sc := leAt b 0x5E 2
  let af := signed 32 (leAt b 0x20 4)
  let al := leAt b 0x24 4
  let ok := decide (ctrl < 8) && decide (leAt b 3 1 = domain) && decide (leAt b 4 1 < 4) && zeroAt b 5 1 &&
    bucket.all (fun v => decide (v < 8) || v == 15) && zeroAt b 0xA 2 &&
    zeroAt b 0x1C 4 && zeroAt b 0x5B 1 && zeroAt b 0x64 28 &&
    (al != 0 || decide (af = 0)) && decide (leAt b 0x28 8 % 64 = 0) &&
    waits.all (fun w => bits w 14 14 == 0 && bits w 31 16 == 0) &&
    sigs.all (fun w => bits w 14 14 == 0 && (!(bit w 15) || bits w 31 16 != 0)) &&
    bits gb 14 12 == 0 && decide (gsf < 2 ^ 14) && decide (gsc ≤ 16) &&
    (if gid = 0 then decide (gsz ≤ 1) && grk == 0
     else decide (1 ≤ gsz) && decide (gsz ≤ 256)) &&
    (if sc ≥ 2 then decide (si < sc) else si == 0)
  if ok then
    some { program := leAt b 0 2, lc := bit ctrl 0, pinned := bit ctrl 1, complete := bit ctrl 2, domain := domain,
           widen := leAt b 4 1, bucket := bucket, place := if place = 0xFFFF then none else some place,
           m := leAt b 0xC 4, n := leAt b 0x10 4, k := leAt b 0x14 4, g := leAt b 0x18 4,
           anchorFirst := af, anchorLen := al, argVa := leAt b 0x28 8,
           waits := (waits.filter (fun w => bit w 15)).map (fun w => (bits w 13 0, bits w 63 32)),
           signals := (sigs.filter (fun w => bit w 15)).map (fun w => (bits w 13 0, bits w 31 16)),
           gangId := gid, gangSize := max gsz 1, gangRank := grk,
           gangBarrier := if bit gb 15 then some (gb % 2 ^ 12) else none,
           gangSemFirst := gsf, gangSemCount := gsc, splitIndex := si, splitCount := max sc 1, tag := leAt b 0x60 4,
           splitAuto := sc == 0 }
  else none

/-- Read one operand descriptor; none for a reserved value (R176). -/
def readOperand (b : List Byte) : Option Operand :=
  let fm := leAt b 0xC 1
  let use := leAt b 0xD 1
  let dims := leAt b 0xE 1
  match fmtOf (fm % 16) with
  | none => none
  | some f =>
    let pitch := leAt b 8 4
    if bits fm 7 5 ≠ 0 ∨ (bit fm 4 ∧ f ≠ .fp4) ∨ use ≥ 8 ∨ use % 4 = 3 ∨ dims % 16 > 4 ∨ dims / 16 > 4 ∨
        leAt b 0xF 1 ≠ 0 ∨ leAt b 0x12 2 ≠ 0 ∨ (isNarrow f ∧ pitch % 128 ≠ 0) ∨ (bit use 2 ∧ pitch = 0) then none
    else some ⟨leAt b 0 8, pitch, f, bit fm 4, use % 4, bit use 2, dims % 16, dims / 16, signed 16 (leAt b 0x10 2),
               leAt b 0x14 4, leAt b 0x18 8, false⟩

/-- Elements of a group of a narrow operand; 1 for any other (R119). -/
def opGroup (o : Operand) : Nat :=
  match layoutOf o.fmt o.mx with
  | some l => groupSize l
  | none => 1

/-- Bytes of `n` columns of an operand: elements, or whole groups of a narrow operand (R224). -/
def colBytes (o : Operand) (n : Nat) : Nat :=
  match layoutOf o.fmt o.mx with
  | some l => ceilDiv n (groupSize l) * 128
  | none => n * elemBytes o.fmt

/-- The extent of a dimension code of DIMS (R176): 4 is the unit extent. -/
def dimExt (ext : List Nat) (d : Nat) : Nat := if d = 4 then 1 else ext.getD d 0

/-- The output range of an output operand: base and length (R177). -/
def outRange (ext : List Nat) (o : Operand) : Nat × Nat := (o.base, dimExt ext o.rdim * o.pitch)

/-- The input range of an input operand, formed as an output range is (R177, R178 step 9). -/
def inRange (ext : List Nat) (o : Operand) : Nat × Nat := (o.base, dimExt ext o.rdim * o.pitch)

/-- Two ranges overlap: they share a byte, so an empty range overlaps none. -/
def overlaps (a b : Nat × Nat) : Bool :=
  decide (0 < a.2) && decide (0 < b.2) && decide (a.1 < b.1 + b.2) && decide (b.1 < a.1 + a.2)

/-- The share quantum of a split along a dimension (R213). -/
def shareQuantum (d : Nat) (ops : List Operand) : Nat :=
  ops.foldl (fun q o => if isNarrow o.fmt && o.cdim == d then Nat.lcm q (opGroup o) else q) (if d = 2 then 64 else 128)

/-- A share's offset and extent along the split dimension (R213). -/
def shareOf (e q count i : Nat) : Nat × Nat :=
  let s := ceilDiv (ceilDiv e q) count * q
  (i * s, min ((i + 1) * s) e - i * s)

/-- Adjust an operand for share `i` with offset `o` along dimension `d` (R214); `ext` are the share's extents. -/
def splitOperand (d o i : Nat) (ext : List Nat) (op : Operand) : Operand :=
  let byRow := if op.rdim = d then
    { op with base := op.base + o * op.pitch, scaleVa := if op.scaleKind = 2 then op.scaleVa + o * 4 else op.scaleVa }
    else op
  let byCol := if op.cdim = d then { byRow with base := byRow.base + (if isNarrow op.fmt then o / opGroup op * 128
      else o * elemBytes op.fmt) } else byRow
  if d = 2 ∧ op.output then { byCol with base := byCol.base + i * dimExt ext op.rdim * op.pitch } else byCol

end Sys2Proof.Machine
end

