-- ==== Sys2Proof/Machine/Types.lean ====
section
/-!
DEFINITION. The parts of State that spec/01 to spec/07 give the machine: configuration, memory, tasks,
islands, straits, vault engines.
-/
namespace Sys2Proof.Machine

/-- Which of a VF's rings a command came on, for its completion record (R433, R435). -/
structure Src where
  vf : Nat
  sq : Nat
  cmd : Nat
  deriving DecidableEq, Repr

/-! ### Configuration (spec/02, spec/03, spec/05, spec/12) -/

/-- A segment in force or staged (R33). -/
structure Seg where
  id : Nat
  kind : Nat
  scopeType : Nat
  scopeValue : Nat
  epoch : Nat
  flags : Nat
  digest : List Byte
  body : List Byte
  deriving DecidableEq, Repr

/-- A strait: send channel of one island, receive channel of another, and its route, the islands whose switches it passes
with both ends (R22, R31, R38). -/
structure Strait where
  src : Nat
  sch : Nat
  dst : Nat
  rch : Nat
  route : List Nat
  deriving DecidableEq, Repr

/-- Strait links in a route (R31 HOPS). -/
def Strait.hops (x : Strait) : Nat := x.route.length - 1

/-- An island's place in the DOMAIN segment (R352, R353). -/
structure IslRec where
  owner : Option Nat := none
  lendable : Bool := false
  be : Bool := false
  deriving DecidableEq, Repr

/-- A range of reef numbers in one atoll (R353). -/
abbrev ReefRange := Nat × Nat

/-- A domain's record in the DOMAIN segment (R353). -/
structure DomRec where
  lc : Bool := false
  preserve : Bool := false
  vf : Nat := 0
  quota : List Nat := []
  sem : List ReefRange := []
  bar : List ReefRange := []
  deriving DecidableEq, Repr

/-- A domain's record in the MEMORY segment (R103). -/
structure MemRec where
  split : Bool := false
  promoteT : Nat := 0
  demoteT : Nat := 0
  highWater : Nat := 0
  promoCap : Nat := 10
  stageWays : Nat := 0
  channels : Nat := 0
  reserve : Nat := 0
  ways : List Nat := [0, 0, 0, 0]
  deriving DecidableEq, Repr

/-- A domain's record in the NUMERIC segment; the default of R168 is D1, W128, FP32 and BF16. -/
structure NumRec where
  det : Nat := 1
  accFp : Bool := false
  formats : Nat := 3
  deriving DecidableEq, Repr

/-! ### Memory (spec/03) -/

/-- A latent error of a DRAM beat that no access has met yet (R68). -/
inductive BeatErr where
  | none | correctable | uncorrectable | beyond
  deriving DecidableEq, Repr

/-- Memory tiers of pages (R78). -/
inductive Tier where
  | t1 | t2 | t3
  deriving DecidableEq, Repr

/-- A mapped page (R78). -/
structure Page where
  tier : Tier
  sealed : Bool
  moving : Bool
  heat : Nat
  frame : Nat
  deriving DecidableEq, Repr

/-- The structures that the module keeps in a domain's vaults (R81). -/
inductive StructKind where
  | directory | leaf (span : Nat) | program (index : Nat) | lists | prefixes | shadows
  deriving DecidableEq, Repr

/-- A shadow-table entry (R134). -/
structure Shadow where
  narrowVa : Nat
  shadowVa : Nat
  len : Nat
  pitch : Nat
  scale : Nat
  rung : Nat
  anchor : Int
  deriving DecidableEq, Repr

/-- The error registers of a vault or an LPDDR5X channel (R97, R98, R549). -/
structure EccRegs where
  corrected : Nat := 0
  uncorrected : Nat := 0
  addr : Nat := 0
  kind : Bool := false
  valid : Bool := false
  deriving DecidableEq, Repr

/-- Who issued a vault-engine operation. -/
inductive VOwner where
  | host | task (tag attempt : Nat) | hub
  deriving DecidableEq, Repr

/-- A vault-engine operation (R93, R96): source and destination as runs of module-physical addresses, so that the
pages of a task's ranges may lie anywhere in the vault; `resultAt` is where a task's result word goes, a scratchpad
offset or 2^64 plus a domain address; `insn` and `pc` are the place of a task's VENG in its island's issue order and in its
program. -/
structure VOp where
  op : Nat
  flags : Nat
  count : Nat
  aux : Nat
  src : List (Nat × Nat)
  dst : List (Nat × Nat)
  owner : VOwner
  island : Nat
  insn : Nat := 0
  pc : Nat := 0
  resultAt : Nat
  done : Bool
  status : Status
  result : Bool
  deriving DecidableEq, Repr

/-- A vault (R66, R97-R101). -/
structure Vault where
  ecc : EccRegs := {}
  scrubOn : Bool := true
  scrubPeriod : Nat := 24
  scrubAt : Nat := 0
  engCmd : List Word := List.replicate 8 0
  busy : Bool := false
  result : Bool := false
  status : Status := .success
  ops : List VOp := []
  demoting : Bool := false
  failed : Bool := false
  untrained : Bool := false
  retraining : Bool := false
  driftAt : Nat := 0
  deriving DecidableEq, Repr

/-- An LPDDR5X channel (R72, R549). -/
structure Chan where
  ecc : EccRegs := {}
  failed : Bool := false
  untrained : Bool := false
  retraining : Bool := false
  deriving DecidableEq, Repr

/-- A queued promotion: domain, page, target vault (R83). -/
structure Promo where
  dom : Nat
  page : Nat
  vault : Nat
  deriving DecidableEq, Repr

/-- The old frame of a moved page, kept until the reads issued against it have completed (R84 step 5). -/
structure OldFrame where
  dom : Nat
  frame : Nat
  deriving DecidableEq, Repr

/-- Pages that UNMAP took out while tasks that were running keep them (R87). -/
structure Unmapping where
  dom : Nat
  page : Nat
  entry : Page
  tags : List Nat
  deriving DecidableEq, Repr

/-- A SEAL that waits for the tasks that were writing its range (R87). -/
structure Sealing where
  dom : Nat
  first : Nat
  count : Nat
  tags : List Nat
  src : Src
  deriving DecidableEq, Repr

/-- A lower-tier read outstanding: who waits for which 128-byte line of T2 or T3 since when (R90, R91). -/
structure LowRead where
  dom : Nat
  island : Nat
  tag : Nat
  line : Nat
  t0 : Nat
  served : Bool
  live : Bool
  pc : Nat
  deriving DecidableEq, Repr

/-- A line in one way of a lagoon, in its domain's ways: a clean line of T2, of T3 or of a vault of another atoll, or a line
of one of the atoll's own vaults, for which this is the home lagoon and which `dirty` marks as written (R73, R74). A
vault's per-line mark stands while its home lagoon lists the line. -/
structure LagLine where
  atoll : Nat
  dom : Nat
  way : Nat
  line : Nat
  dirty : Bool
  deriving DecidableEq, Repr

/-- What identifies a staging tile (R218). -/
structure StageId where
  dom : Nat
  atoll : Nat
  gang : Nat
  start : Nat
  count : Nat
  len : Nat
  pitch : Nat
  deriving DecidableEq, Repr

/-- A staging tile: attached members, lines in address order, how many have arrived, lines dropped, and the old bytes
of filled lines that host DMA has changed since (R218-R220). -/
structure Staging where
  id : StageId
  members : List Nat
  lines : List Nat
  filled : Nat
  dropped : List Nat
  kept : List (Nat × List (Byte × Bool))
  deriving DecidableEq, Repr

/-- What the migration engine and the tiers hold beside DRAM contents. `barred` lists the pages, as domain and page number,
that a DEMOTE took out of T1 and whose heat has not been below P since: they are not queued for promotion by heat. -/
structure Mig where
  promos : List Promo := []
  barred : List (Nat × Nat) := []
  olds : List OldFrame := []
  unmaps : List Unmapping := []
  seals : List Sealing := []
  reads : List LowRead := []
  lag : List LagLine := []
  stagings : List Staging := []
  fallbacks : List (Nat × StageId) := []
  fallCount : List Nat := [0, 0, 0, 0]
  promoted : List Nat := [0, 0, 0, 0]
  demoted : List Nat := [0, 0, 0, 0]
  heatMs : Nat := 0
  farLogAt : Option Nat := none
  deriving DecidableEq, Repr

/-! ### Accumulators, tasks and islands (spec/05-spec/10, spec/12) -/

/-- The special state of an accumulator cell (R148). -/
inductive CellSt where
  | fin | pinf | ninf | nan
  deriving DecidableEq, Repr

/-- An accumulator cell: the 128-bit integer, or the FP32 bits (R145, R148). -/
structure Cell where
  n : BitVec 128 := 0
  st : CellSt := .fin
  deriving DecidableEq, Repr

/-- An accumulator tile; one anchor for each anchor block it spans (R146, R149). -/
structure AccTile where
  shape : Nat
  fp : Bool
  anchors : List (Option Int)
  cells : Sparse Cell
  deriving DecidableEq, Repr

/-- Where a task stands (R356, R363-R366). -/
inductive Phase where
  | queued | running | killed
  deriving DecidableEq, Repr

/-- A task in flight: descriptor, operands after widening and split, and the program image in force at its
dispatch (R137, R172, R183, R211); `drained` is clear while writes of a killed attempt may be outstanding (R365); `fmts` the
formats that the task names (R111); `mates` the members of its gang that have committed; `resnap` is set while a new snapshot
is due at the re-run (R267). -/
structure Task where
  tag : Nat
  src : Src
  desc : Desc
  ops : List Operand
  prog : Program
  serial : Nat
  idx : List Nat
  tile : TileRec
  ext : List Nat
  anchorFirst : Int
  anchorLen : Nat
  phase : Phase
  order : Nat
  attempt : Nat
  island : Option Nat
  started : Option Nat
  kills : Nat
  snap : Nat
  torn : Nat
  innerShare : Bool
  accFp : List Bool
  share : Option Nat
  drained : Bool
  fmts : List Nat := []
  mates : Nat := 0
  resnap : Bool := false
  deriving DecidableEq, Repr

/-- Why an island's issue stands still. -/
inductive Stall where
  | held            -- a read of a range pending under another task (R196)
  | lower           -- a T2 or T3 read that has not returned (R90)
  | stageLine       -- a staging-tile line not yet filled (R219)
  | engine          -- a range that a vault-engine operation is writing (R95)
  | overlap         -- an earlier instruction that it overlaps has not completed (R187)
  | sendFull        -- a SEND to a full receive FIFO (R26)
  | fenced          -- a SEND on a strait that a fence of FABRIC application has cleared (R26)
  | recvEmpty       -- a RECV that waits for bundles (R186)
  | semaphore       -- a WAIT below its target (R192)
  | barrier         -- an ARRIVE whose barrier is not complete (R193)
  | writes          -- COMMIT or FENCE with VENG operations or SENDs outstanding (R198)
  deriving DecidableEq, Repr

/-- A group record (R191). -/
structure GroupRec where
  m : Nat
  n : Nat
  k : Nat
  index : Nat
  deriving DecidableEq, Repr

/-- A group block in progress: its records and the one that runs (R191). -/
structure GroupRun where
  start : Nat
  recs : List GroupRec
  at_ : Nat
  deriving DecidableEq, Repr

/-- An instruction that has issued and has not completed: its place in the island's issue order, where the island's walk
stood when it issued, how far it has come, and what it waits for (R12, R187). -/
structure Waiter where
  id : Nat
  pc : Nat
  loopIdx : List Nat
  loopTrip : List Nat
  group : Option GroupRun
  progress : Nat
  why : Stall
  deriving DecidableEq, Repr

/-- A SIGNAL that has issued and waits for what was issued before it: semaphore, increment, bundles not yet accepted by send
channel, and its place in the island's issue order (R27). -/
structure Sig where
  sem : Nat
  inc : Nat
  out : List Nat
  after : Nat
  deriving DecidableEq, Repr

/-- A strait bundle: 128 bytes, the sender's epoch, links crossed (R22, R50). -/
structure Bundle where
  data : List Byte
  epoch : Nat
  pos : Nat
  deriving DecidableEq, Repr

/-- Strait traffic of one send channel: the route it was sent on and the bundles in it, oldest first. -/
structure Flight where
  strait : Strait
  bundles : List Bundle
  deriving DecidableEq, Repr

end Sys2Proof.Machine
end

