-- ==== Sys2Proof/Machine/Types2.lean ====
section
/-!
DEFINITION. The parts of State that spec/08 to spec/10, spec/12, spec/14 and spec/15 give the machine: table
banks, lens units, lists, prefix nodes, islands, domains, rings, events and the trouble log.
-/
namespace Sys2Proof.Machine

/-! ### Function tables (spec/08) -/

/-- A directory entry of a table set (R234). -/
structure TabEntry where
  kind : Nat
  flags : Nat
  segments : Nat
  coefOff : Nat
  prescale : Nat
  p1 : Nat
  p2 : Nat
  left : Nat
  right : Nat
  leftMode : Nat
  rightMode : Nat
  deriving DecidableEq, Repr

/-- A table set (R233): directory, coefficients as FP32 bits, set digest. -/
structure TableSet where
  setId : Nat
  version : Nat
  published : Bool
  vg7 : Bool
  entries : List TabEntry
  coef : List Nat
  digest : List Byte
  deriving DecidableEq, Repr

/-- The two table banks of an island (R243, R244). -/
structure FunUnit where
  bank0 : Option TableSet := none
  bank1 : Option TableSet := none
  active : Bool := false
  loading : Bool := false
  flip : Bool := false
  deriving DecidableEq, Repr

/-! ### The lens unit (spec/09) -/

/-- The lens sequence of R272. -/
inductive LensPhase where
  | closed | opened | scored | done | back
  deriving DecidableEq, Repr

/-- A row's statistics (R249, R253): NaN rows, the reference, the W128 sum, and R and L as FP32 bits. -/
structure RowStat where
  nan : Bool := false
  r : Option Int := none
  n : Int := 0
  rBits : Nat := 0xFF800000
  lBits : Nat := 0
  deriving DecidableEq, Repr

/-- A lens control block (R269). -/
structure Lcb where
  listId : Nat := 0
  firstEntry : Nat := 0
  entryCount : Nat := 0
  mode : Nat := 0
  kv : Nat := 0
  qFormat : Nat := 0
  c : Nat := 0
  qkScale : Nat := 0
  boundQ : Int := 0
  boundK : Int := 0
  boundV : Int := 0
  boundDo : Int := 0
  qOff : Nat := 0
  doOff : Nat := 0
  dOff : Nat := 0
  rows : Nat := 0
  deriving DecidableEq, Repr

/-- The lens unit of an island (R271, R272, R287). Of a backward walk, `block` counts the blocks, `next` the entries reached, and
`rest` holds keys of those entries that wait for the next block. -/
structure Lens where
  phase : LensPhase := .closed
  lcb : Lcb := {}
  gen : Nat := 0
  body : Nat := 0
  first : Nat := 0
  count : Nat := 0
  opa : Nat := 0
  opb : Nat := 0
  asStream : Bool := false
  spillFp : Bool := false
  block : Nat := 0
  next : Nat := 0
  rest : List (Nat × Nat) := []
  keys : Nat := 0
  stats : List RowStat := []
  torn : Nat := 0
  deriving DecidableEq, Repr

/-- One generation of an attention list: when it was published, when it was superseded or destroyed, and the tasks
in flight then that have not ended (R263-R266). -/
structure ListGen where
  id : Nat
  gen : Nat
  body : Nat
  entries : Nat
  since : Nat
  until_ : Option Nat
  tags : List Nat
  deriving DecidableEq, Repr

/-- A node of a prefix index (R283). -/
structure PrefixNode where
  id : Nat
  hash : Nat
  parent : Option Nat
  idsVa : Nat
  tableVa : Nat
  refs : Nat
  deriving DecidableEq, Repr

/-! ### Islands -/

/-- An island (R17, R60, R169, R170, R201, R202, R256, R287, R503). `waiting` holds the instructions that have issued and
wait, `issued` counts them and the VENG operations, `accUse` says of each tile in use whether an MMA named it last (R147),
`firstAt` when the task's first instruction issued (R367). -/
structure Island where
  epoch : Nat := 0
  task : Option Nat := none
  pc : Nat := 0
  loopIdx : List Nat := []
  loopTrip : List Nat := []
  group : Option GroupRun := none
  scratch : Sparse Byte := []
  marks : Sparse Bool := []
  tiles : List AccTile := []
  packing : List (Nat × Nat × Nat × List (Nat × Nat)) := []
  stall : Option Stall := none
  progress : Nat := 0
  waiting : List Waiter := []
  issued : Nat := 0
  sigs : List Sig := []
  committing : Bool := false
  arrivedAt : Option Nat := none
  firstAt : Option Nat := none
  xlat : List (Nat × Nat) := []
  store : List (Nat × Nat) := []
  fun_ : FunUnit := {}
  lens : Lens := {}
  prismStall : Nat := 0
  accWait : Nat := 0
  accUse : List (Nat × Bool) := []
  clkTarget : Nat := 18
  clkCurrent : Nat := 18
  clkLimit : Nat := 18
  doze : Bool := false
  dozing : Bool := false
  idleSince : Nat := 0
  deriving DecidableEq, Repr

/-- A reef barrier (R372, R378). -/
structure Barrier where
  arrived : Nat := 0
  phase : Nat := 0
  deriving DecidableEq, Repr

/-! ### Domains and rings (spec/14) -/

/-- The domain states of R440. -/
inductive DomState where
  | empty | bound | loaded | active | draining | quiesced | faulted
  deriving DecidableEq, Repr

/-- A remote-memory window (R415); `shut` while it closes, `closing` the RMEM_UNEXPOSE that waits for it (R416). -/
structure Window where
  base : Nat
  len : Nat
  readable : Bool
  writable : Bool
  group : Nat
  signal : Option Nat
  inc : Nat
  shut : Bool
  closing : Option Src
  deriving DecidableEq, Repr

/-- A domain at run time; `tasking` holds the TASK records whose descriptors still wait for a dispatcher slot: next
descriptor's address and how many remain (R356). -/
structure Dom where
  st : DomState := .empty
  zeroising : Bool := false
  fault : Nat := 0
  pages : Sparse (Option Page) := []
  frames : List (Nat × StructKind) := []
  hostPages : Sparse (Option Nat) := []
  programs : Sparse (Option (Nat × Program)) := []
  shadows : Sparse (Option Shadow) := []
  listSeq : Nat := 0
  lists : List ListGen := []
  nodes : List PrefixNode := []
  windows : Sparse (Option Window) := []
  turn : Nat := 0
  waitBind : List Src := []
  waitArm : List Src := []
  waitDrain : Option Src := none
  tasking : List (Src × Nat × Nat) := []
  deriving DecidableEq, Repr

/-- A submission ring (R450, R452). -/
structure SubRing where
  base : Nat := 0
  ctrl : Nat := 0
  tail : Nat := 0
  head : Nat := 0
  error : Bool := false
  status : Status := .success
  deriving DecidableEq, Repr

/-- A completion ring (R435, R451, R452). -/
structure CplRing where
  base : Nat := 0
  ctrl : Nat := 0
  head : Nat := 0
  tail : Nat := 0
  phase : Bool := true
  lastMsg : Option Nat := none
  due : Bool := false
  error : Bool := false
  status : Status := .success
  deriving DecidableEq, Repr

/-- An MSI-X table entry with its pending bit (PCIe). -/
structure MsixEntry where
  addr : Nat := 0
  data : Nat := 0
  masked : Bool := true
  pend : Bool := false
  deriving DecidableEq, Repr

/-- A virtual function (R430, R434, R450-R452): rings, window, MSI-X; `waitCpl` the completions that wait (R437); `nextSq`
the ring whose turn it is. -/
structure Vf where
  sqs : List SubRing := List.replicate 8 {}
  cqs : List CplRing := List.replicate 4 {}
  winBase : Nat := 0
  winCtrl : Nat := 0
  msix : Sparse MsixEntry := []
  waitCpl : List (Nat × List Byte) := []
  nextSq : Nat := 0
  deriving DecidableEq, Repr

/-! ### Events and the trouble log (spec/15) -/

/-- A target of the event controller: threshold, claim stack innermost first, DONE_ERR (R456, R458, R470). -/
structure EvTarget where
  thresh : Nat := 0
  claims : List (Nat × Nat) := []
  doneErr : Bool := false
  deriving DecidableEq, Repr

/-- A write to the event controller that waits for a hold to end (R462). -/
structure EvWait where
  mask : Bool
  word : Nat
  value : Word
  deriving DecidableEq, Repr

/-- The event controller (R456-R470). Tables are sparse; unlisted masks read all ones. `word` is EVC_HOLD.WORD; `maskedAt`
gives, one more than the time, when a source that was deliverable came to be masked (R464); `up` the targets that have a
deliverable source. -/
structure Evc where
  pend : Sparse Word := []
  mask : Sparse Word := []
  prio : Sparse Nat := []
  route : Sparse Nat := []
  targets : Sparse EvTarget := []
  owner : Nat := 15
  word : Nat := 0
  held : Option Nat := none
  holdAt : Nat := 0
  expired : Bool := false
  latched : Word := 0
  waits : List EvWait := []
  maskedAt : Sparse Nat := []
  up : List Nat := []
  deriving DecidableEq, Repr

/-- A trouble-log entry (R471). -/
structure LogEntry where
  time : Nat
  shoalTime : Nat
  code : Nat
  source : Option Nat
  severity : Nat
  domain : Nat
  data : List Byte
  deriving DecidableEq, Repr

/-- The trouble log: slots, LOG_WRITTEN, LOG_DROPPED, LOG_CTRL.LEVEL (R471, R476). -/
structure Log where
  slots : Sparse (Option LogEntry) := []
  written : Nat := 0
  dropped : Nat := 0
  level : Nat := 0
  deriving DecidableEq, Repr

end Sys2Proof.Machine
end

