-- ==== Sys2Proof/Machine/Functions.lean ====
section
/-!
DEFINITION. Function tables: evaluation to the bit, the checks of a table set, and the powers of two that the
soft maximum takes from slot 1 (R231-R254, R551).
-/
namespace Sys2Proof.Machine

/-- A power of two as a value. -/
def pow2 (k : Int) : Val := .fin false 1 k

/-- An integer as a value. -/
def ofInt (z : Int) : Val := .fin (decide (z < 0)) z.natAbs 0

/-- floor of a finite value. -/
def vfloor : Val → Int
  | .nan => 0
  | .inf _ => 0
  | .fin s m e =>
    let z : Int := if s then -(m : Int) else m
    if 0 ≤ e then z * 2 ^ e.toNat else shiftDown z (-e).toNat

/-- Negate when the sign factor is −1 (R236). -/
def withSgn (neg : Bool) (v : Val) : Val := if neg then vneg v else v

/-- Coefficient `i` of segment `seg` of an entry. -/
def coefOf (t : TableSet) (e : TabEntry) (seg i : Nat) : Val := ofF32 (t.coef.getD (e.coefOff / 4 + 3 * seg + i) 0)

/-- The polynomial of a segment (R236). -/
def poly (t : TableSet) (e : TabEntry) (seg : Nat) (x : Val) : Val :=
  fmaF (fmaF (coefOf t e seg 2) x (coefOf t e seg 1)) x (coefOf t e seg 0)

/-- The side rule of DIRECT. -/
def sideVal (v mode : Nat) (u : Val) : Val := if mode = 0 then ofF32 v else mulF u (ofF32 v)

/-- The odd part of a number and its power of two. -/
def oddPart : Nat → Nat → Nat × Nat
  | 0, n => (n, 0)
  | fuel + 1, n => if n = 0 then (0, 0) else if n % 2 = 0 then
      let (o, k) := oddPart fuel (n / 2)
      (o, k + 1) else (n, 0)

/-- The exponent of the segment width of a DIRECT entry when it is a power of two (R235). -/
def directWidth (e : TabEntry) : Option Int :=
  match addEx (ofF32 e.p2) (vneg (ofF32 e.p1)) with
  | .fin false m x =>
    let (om, km) := oddPart 320 m
    let (os, ks) := oddPart 16 e.segments
    if m ≠ 0 ∧ om = os then some (x + km - ks) else none
  | _ => none

/-- Segments that one period of the argument spans (R236): half of them for RSQRT. -/
def spanOf (e : TabEntry) : Nat := if e.kind = 5 then e.segments / 2 else e.segments

/-- The segment and offset of a fraction in [0, 1) cut into `n` segments, `n` a power of two. The offset is an operand of a
binary32 multiply-add (R236): where it is no FP32 value, as for a small negative argument, it is rounded once. -/
def cutFrac (f : Val) (n : Nat) : Nat × Val :=
  let seg := (vfloor (mulEx f (ofInt n))).toNat
  (seg, toFp32 (addEx f (vneg (.fin false seg (-(Nat.log2 n : Int))))))

/-- Evaluate a table entry (R236, R237). -/
def evalEntry (t : TableSet) (e : TabEntry) (x : Val) : Val :=
  match x with
  | .nan => .nan
  | x =>
    let odd := bit e.flags 2
    let neg := odd && valNeg x
    let x := if odd then vabs x else x
    let u := mulF x (ofF32 e.prescale)
    match e.kind, u with
    | _, .nan => .nan
    | 1, u =>
      if vlt u (ofF32 e.p1) then withSgn neg (sideVal e.left e.leftMode u)
      else if vle (ofF32 e.p2) u then withSgn neg (sideVal e.right e.rightMode u)
      else
        let d := addEx u (vneg (ofF32 e.p1))
        let w := (directWidth e).getD 0
        let seg := (vfloor (mulEx d (pow2 (-w)))).toNat
        let base := addEx (ofF32 e.p1) (mulEx (ofInt seg) (pow2 w))
        withSgn neg (poly t e seg (subF u base))
    | 2, .inf s => if s then withSgn neg vzero else withSgn neg (.inf false)
    | 2, u =>
      let i := vfloor u
      let (seg, off) := cutFrac (addEx u (ofInt (-i))) e.segments
      withSgn neg (toFp32 (mulEx (poly t e seg off) (pow2 i)))
    | 3, .inf s => if s then .nan else withSgn neg (.inf false)
    | 4, .inf s => withSgn neg (.fin s 0 0)
    | 5, .inf s => if s then .nan else withSgn neg vzero
    | 6, .inf _ => .nan
    | 6, u =>
      let (seg, off) := cutFrac (addEx u (ofInt (-(vfloor u)))) e.segments
      poly t e seg off
    | k, .fin s m ex =>
      if m = 0 then
        (if k = 3 then withSgn neg (.inf true) else withSgn neg (.inf s))
      else if s && (k = 3 || k = 5) then .nan
      else
        let kk : Int := (Nat.log2 m : Int) + ex
        let mant : Val := .fin false m (ex - kk)
        let span := spanOf e
        let (seg, off) := cutFrac (addEx mant (ofInt (-1))) span
        let base := if k = 5 && kk % 2 = 1 then e.segments / 2 else 0
        let y := poly t e (base + seg) off
        if k = 3 then withSgn neg (toFp32 (addEx (mulEx (ofInt kk) (ofF32 e.p1)) y))
        else if k = 4 then withSgn neg (withSgn s (toFp32 (mulEx y (pow2 (-kk)))))
        else withSgn neg (toFp32 (mulEx y (pow2 (-(kk / 2)))))
    | _, .inf _ => .nan

/-- The entry in a slot; none for an empty slot or a number above 31 (R232). -/
def slotOf (t : Option TableSet) (n : Nat) : Option (TableSet × TabEntry) :=
  match t with
  | none => none
  | some t => (t.entries[n]?).bind (fun e => if e.kind = 0 then none else some (t, e))

/-- A slot that must hold a given kind (R246, R248). -/
def slotKind (t : Option TableSet) (n kind : Nat) : Option (TableSet × TabEntry) :=
  (slotOf t n).bind (fun p => if p.2.kind = kind then some p else none)

/-- The kind that the operations of R246, R248 and R305 take from a slot: EXP2 from 0 and 1, RECIP from 3, RSQRT from 4; the other
slots serve any kind. -/
def meantKind (n : Nat) : Option Nat :=
  match n with
  | 0 => some 2 | 1 => some 2 | 3 => some 4 | 4 => some 5
  | _ => none

/-- floor(d) and the unscaled EXP2 polynomial of its fraction (R249). -/
def exp2Parts (p : TableSet × TabEntry) (d : Val) : Int × Val :=
  let i := vfloor d
  let (seg, off) := cutFrac (addEx d (ofInt (-i))) p.2.segments
  (i, poly p.1 p.2 seg off)

/-! ### The checks of a table set (R233-R238, R551) -/

def isPow2 (n : Nat) : Bool := n != 0 && 2 ^ Nat.log2 n == n

/-- Read a directory entry (R234). -/
def readEntry (b : List Byte) : TabEntry :=
  ⟨leAt b 0 1, leAt b 1 1, leAt b 2 2, leAt b 4 4, leAt b 8 4, leAt b 0xC 4, leAt b 0x10 4, leAt b 0x14 4, leAt b 0x18 4,
   leAt b 0x1C 1, leAt b 0x1D 1⟩

/-- The field checks of a directory entry (R234, R235). -/
def entryOk (coefBytes : Nat) (b : List Byte) : Bool :=
  let e := readEntry b
  if e.kind = 0 then b.all (· == 0)
  else
    decide (e.kind ≤ 6) && decide (e.flags < 8) && decide (1 ≤ e.segments) && decide (e.segments ≤ 512) &&
    e.coefOff % 12 == 0 && decide (e.coefOff + 12 * e.segments ≤ coefBytes) && zeroAt b 0x1E 2 &&
    !(bit e.flags 0 && bit e.flags 1) &&
    (if e.kind = 1 then
      decide (e.leftMode < 2) && decide (e.rightMode < 2) && vlt (ofF32 e.p1) (ofF32 e.p2) &&
      (match directWidth e with
       | none => false
       | some w => isFin (ofF32 e.p1) &&
          decide (addEx (mulEx (ofInt (vfloor (mulEx (ofF32 e.p1) (pow2 (-w))))) (pow2 w)) (vneg (ofF32 e.p1)) |> isZero))
     else
      e.p2 == 0 && e.left == 0 && e.right == 0 && e.leftMode == 0 && e.rightMode == 0 &&
      (e.kind == 3 || e.p1 == 0) &&
      (if e.kind = 5 then e.segments % 2 == 0 && isPow2 (e.segments / 2) else isPow2 e.segments) &&
      (e.kind != 6 || e.flags == 0))

/-- The seams of an entry, each as the value on its left and on its right (R238). -/
def seams (t : TableSet) (e : TabEntry) : List (Val × Val) :=
  let n := e.segments
  let w : Val := if e.kind = 1 then pow2 ((directWidth e).getD 0) else .fin false 1 (-(Nat.log2 (spanOf e) : Int))
  let predW := ofF32 (f32 w - 1)
  let l := fun j => poly t e j predW
  let c0 := fun j => coefOf t e j 0
  let inner := ((List.range (n - 1)).filter (fun j => !(e.kind == 5 && j + 1 == n / 2))).map (fun j => (l j, c0 (j + 1)))
  let half := fun v => mulF v (.fin false 1 (-1))
  inner ++ (match e.kind with
    | 1 => [(sideVal e.left e.leftMode (ofF32 e.p1), c0 0), (l (n - 1), sideVal e.right e.rightMode (ofF32 e.p2))]
    | 2 => [(l (n - 1), mulF (c0 0) (.fin false 1 1))]
    | 3 => [(l (n - 1), addF (c0 0) (ofF32 e.p1))]
    | 4 => [(l (n - 1), half (c0 0))]
    | 5 => [(l (n / 2 - 1), c0 (n / 2)), (l (n - 1), half (c0 0))]
    | _ => [])

/-- The monotone check of an entry (R238). -/
def monoOk (t : TableSet) (e : TabEntry) : Bool :=
  if e.kind = 0 ∨ ¬ (bit e.flags 0 ∨ bit e.flags 1) then true
  else
    let up := bit e.flags 0
    let le := fun a b => if up then vle a b else vle b a
    let w : Val := if e.kind = 1 then pow2 ((directWidth e).getD 0) else .fin false 1 (-(Nat.log2 (spanOf e) : Int))
    (seams t e).all (fun p => le p.1 p.2) &&
    (List.range e.segments).all (fun j =>
      le vzero (coefOf t e j 1) &&
      le vzero (toFp32 (addEx (coefOf t e j 1) (mulEx (mulEx (.fin false 1 1) (coefOf t e j 2)) w)))) &&
    (!(bit e.flags 2) || le vzero (coefOf t e 0 0))

/-- The SHA3-256 of a key equals the root-key hash (R39, R233). -/
def rootKeyOk (key : List Byte) : Bool := sha3 key == (List.range 32).map Config.rootKeyHash

/-- Check a table set file in the order of R551. -/
def checkTable (b : List Byte) : Except Status TableSet :=
  let fc := leAt b 0xC 1
  let cb := leAt b 0x10 4
  let body := 64 + 32 * fc + cb
  if leAt b 0 4 ≠ 0x4C425446 ∨ ¬ (leAt b 4 2 = 9 ∨ leAt b 4 2 = 7) ∨ fc = 0 ∨ fc > 32 ∨ cb % 12 ≠ 0 ∨ cb > 130044 ∨
      b.length ≠ body + 1312 + 2420 then .error .tablesSegmentBad
  else
    let key := slice b body 1312
    if ¬ (rootKeyOk key ∧ mldsaVerify key (b.take body) (slice b (body + 1312) 2420)) then .error .signatureBad
    else
      let raw := (List.range fc).map (fun i => slice b (64 + 32 * i) 32)
      if leAt b 6 2 ≥ 2 ∨ ¬ zeroAt b 0xD 3 ∨ ¬ zeroAt b 0x14 44 ∨ ¬ (raw.all (entryOk cb)) then .error .tablesSegmentBad
      else
        let t : TableSet := ⟨leAt b 8 2, leAt b 0xA 2, bit (leAt b 6 2) 0, leAt b 4 2 == 7, raw.map readEntry,
          (List.range (cb / 4)).map (fun i => leAt b (64 + 32 * fc + 4 * i) 4), sha3 (b.take body)⟩
        if t.entries.all (monoOk t) then .ok t else .error .tableNotMonotone

/-- The bank in force (R243). -/
def bankInForce (f : FunUnit) : Option TableSet := if f.active then f.bank1 else f.bank0

/-- The bank not in force. -/
def idleBank (f : FunUnit) : Option TableSet := if f.active then f.bank0 else f.bank1

/-- At a task boundary a pending flip takes place (R244). -/
def flipBank (f : FunUnit) : FunUnit := if f.flip then { f with active := !f.active, flip := false } else f

end Sys2Proof.Machine
end

