-- ==== Sys2Proof/Machine/Types3.lean ====
section
/-!
DEFINITION. The parts of State that spec/02, spec/11, spec/13, spec/16, spec/17 and spec/18 give the machine: the
structure-image engine, the codec cluster, the sound ports and shoal, power, security, pins.
-/
namespace Sys2Proof.Machine

/-! ### The structure image (spec/02) -/

/-- The allocation of codec slots (R315): two gang entries as owner and pipelines, slots by domain and pipeline. -/
structure Video where
  gangs : List (Option (Nat × Nat)) := [none, none]
  enc : Sparse (List Nat) := []
  dec : Sparse (List Nat) := []
  deriving DecidableEq, Repr

/-- What the POWER segments in force set (R482): cap, doze delay, throttle temperature, clock code and DOZE by island. -/
structure PowerConf where
  cap : Nat := 850
  doze : Nat := 100
  throttle : Nat := 95
  clk : Sparse (Nat × Bool) := []
  deriving DecidableEq, Repr

/-- A LINK record (R389): each port as role, VC 3 weight and peer. -/
structure LinkRec where
  role : Nat := 0
  shoal : Nat := 0
  worker : Nat := 0
  arch : Bool := false
  pulse : Bool := false
  promoted : Bool := false
  shoals : Nat := 1
  archCtx : Nat := 0
  timeout : Nat := 0
  ports : List (Nat × Nat × Nat) := List.replicate 18 (0, 0, 0)
  quota : List Nat := List.replicate 16 0
  deriving DecidableEq, Repr

/-- What a DEBUG segment grants (R520): body digest, rights, domains, lifetime in milliseconds. -/
structure DebugRec where
  digest : List Byte
  rights : Nat
  domains : Nat
  duration : Nat
  deriving DecidableEq, Repr

/-- The live configuration that the segments in force give (R36). Islands without a clock entry have CODE 18. -/
structure Conf where
  straits : List Strait := []
  retired : List Nat := []
  isl : Sparse IslRec := []
  doms : Sparse (Option DomRec) := []
  mems : Sparse MemRec := []
  nums : Sparse NumRec := []
  islFormats : Sparse Nat := []
  tables : Sparse (Option TableSet) := []
  video : Video := {}
  link : LinkRec := {}
  power : PowerConf := {}
  event : Option (List Byte) := none
  firmware : Sparse (Nat × List Byte) := []
  dbg : Option DebugRec := none
  deriving DecidableEq, Repr

/-- A verified image in the stage buffer (R39). -/
structure Staged where
  delta : Bool
  version : Nat
  segs : List Seg
  deriving DecidableEq, Repr

/-- Phases of a change group (R45, R59). -/
inductive GroupPhase where
  | prepare | hold | apply | commit
  deriving DecidableEq, Repr

/-- A change group that is being applied (R45-R53). `killing` is clear where no segment but TABLES needs the epoch protocol;
`numeric` lists the domains that NUMERIC segments name; `fenced` the straits that the islands' fences have cleared. -/
structure GroupState where
  epoch : Nat
  segs : List Seg
  after : List Seg
  target : Conf
  phase : GroupPhase
  protocol : Bool
  t0 : Nat := 0
  doms : List Nat := []
  islands : List Nat := []
  arrived : List Nat := []
  doneAt : Option Nat := none
  closed : List Nat := []
  zeroed : List Nat := []
  drained : Bool := false
  discarded : Nat := 0
  lend : List Nat := []
  cores : List Nat := []
  core : Option Nat := none
  coreAt : Nat := 0
  coresDone : List Nat := []
  banks : List Nat := []
  killing : Bool := true
  kills : Bool := false
  numeric : List Nat := []
  fenced : List Strait := []
  deriving DecidableEq, Repr

/-- The structure-image engine (R56-R60). -/
structure Img where
  addr : Nat := 0
  len : Nat := 0
  drainBe : Nat := 0
  phase : Nat := 0
  groupsDone : Nat := 0
  status : Status := .success
  staged : Option Staged := none
  left : List (List Seg) := []
  waiting : Bool := false
  cur : Option GroupState := none
  version : Nat := 0
  epoch : Nat := 0
  digest : List Byte := List.replicate 32 0
  segs : List Seg := []
  deriving DecidableEq, Repr

/-- The mirror store: the last committed state, the firmware in force and each island's bank in force with it, whether one of
its sections has gone bad, and the training values it holds (R37, R43, R44, R54, R256, R491). -/
structure Mirror where
  bad : Bool := false
  segs : List Seg := []
  firmware : Sparse (Nat × List Byte) := []
  banks : Sparse Bool := []
  epoch : Nat := 0
  digest : List Byte := List.replicate 32 0
  version : Nat := 0
  trained : Bool := false
  deriving DecidableEq, Repr

/-- A control core: its firmware version and the duties a peer carries (R37, R48). -/
structure Core where
  version : Nat := 0
  image : List Byte := []
  carriedBy : Option Nat := none
  deriving DecidableEq, Repr

/-- A queued frame of an encode channel, or a queued unit of a decode channel (R317, R344); semaphores are none where
not valid. -/
structure CodReq where
  src : Src
  number : Nat
  rowWait : Bool
  pitch : Nat
  luma : Nat
  chroma : Nat
  roi : Nat
  hint : Nat
  wait : Option Nat
  target : Nat
  signal : Option Nat
  inc : Nat
  unitVa : Nat
  unitBytes : Nat
  deriving DecidableEq, Repr

/-- The frame that an encode channel is coding (R321, R333, R342): `head` the bytes that open it, `deltas` and `cands` what its
map and its hint plane give (none for a key to no delta). -/
structure FrameRun where
  req : CodReq
  key : Bool
  fallback : Bool
  store : Option Nat
  refs : List Nat
  roiSkip : Bool
  hintSkip : Bool
  poisoned : Bool := false
  late : Bool := false
  unit : Nat := 0
  bits : Nat := 0
  head : List Byte
  pic : PicIn := {}
  deltas : List Int := []
  cands : List (Nat × Cand) := []
  maxQp : Nat := 0
  minimal : Nat := 0
  deriving DecidableEq, Repr

/-- A reference buffer: mark 0 UNUSED, 1 SHORT, 2 LONG, 3 KEY; ACKED; the frame it holds or held last, if any; its AV1 reference
slot (R338). -/
structure RefBuf where
  mark : Nat := 0
  acked : Bool := false
  frame : Nat := 0
  used : Bool := false
  slot : Nat := 0
  deriving DecidableEq, Repr

/-- A MARK or ACK that waits for a frame boundary (R338); `mark` is none for ACK. -/
structure MarkCmd where
  src : Src
  mark : Option Nat
  frame : Nat
  deriving DecidableEq, Repr

/-- The states of a codec channel (R348). -/
inductive ChanState where
  | closed | open_ | closing
  deriving DecidableEq, Repr

/-- A codec channel (R317, R321-R350). `full` is the buffer model's fullness in bits times FPS_NUM; `past` the units coded since
the channel opened, newest first (R343); `ahead` the numbers of decoded units whose pictures are not written yet (R344). -/
structure CodChan where
  st : ChanState := .closed
  dom : Nat := 0
  cfg : EncCfg := {}
  pipe : Nat := 0
  slots : Nat := 0
  queue : List CodReq := []
  frame : Option FrameRun := none
  next : Nat := 0
  forceKey : Bool := false
  marks : List MarkCmd := []
  bufs : List RefBuf := []
  full : Nat := 0
  frames : Nat := 0
  wptr : Nat := 0
  rptr : Nat := 0
  rptrErr : Bool := false
  minimal : Nat := 0
  closeSrc : Option Src := none
  coded : List (List Byte) := []
  broken : Bool := false
  past : List UnitIn := []
  ahead : List Nat := []
  deriving DecidableEq, Repr

/-- A SIGNAL of a frame whose completion record waits for room in its CQ: `left` records of that CQ are still to be placed, its
own among them (R321, R437). -/
structure CodSig where
  vf : Nat
  cq : Nat
  left : Nat
  sem : Nat
  inc : Nat
  deriving DecidableEq, Repr

/-- The codec cluster: encode channels 0 to 31, decode channels 32 to 47; signals that wait for their records. -/
structure Codec where
  chans : Sparse CodChan := []
  sigs : List CodSig := []
  deriving DecidableEq, Repr

/-! ### Sound ports, shoals and collectives (spec/13) -/

/-- A message being assembled on a virtual channel: STREAM and bytes so far (R381). -/
abbrev Partial := Option (Nat × List Byte)

/-- A sound port (R380-R386, R391, R418, R422). `st` is STATE; `rx` is the next SEQ expected, `tx` the next to send; `buf`
the replay buffer; `waits` flits by VC that wait for credits; `nakAt` the flit that was replayed last, and how often in
a row. -/
structure Port where
  st : Nat := 0
  half : Bool := false
  peer : Nat := 0
  corr : Nat := 0
  uncorr : Nat := 0
  replays : Nat := 0
  disable : Bool := false
  rx : Nat := 0
  tx : Nat := 0
  buf : List (Nat × List Byte) := []
  waits : List (List (List Byte)) := [[], [], [], []]
  credits : List Nat := [1024, 64, 64, 512]
  parts : List Partial := [none, none, none, none]
  nakAt : Nat := 0
  nakRun : Nat := 0
  share : Nat := 0
  downAt : Nat := 0
  cableOff : Bool := false
  deriving DecidableEq, Repr

/-- A group as a member holds it (R393): members as MODULE_ID and domain, in rank order. -/
structure Group where
  id : Nat
  gen : Nat
  key : Nat
  dom : Nat
  rank : Nat
  members : List (Nat × Nat)
  next : Nat
  deriving DecidableEq, Repr

/-- A GROUP_JOIN that waits for the authority (R393). -/
structure Joining where
  src : Src
  dom : Nat
  key : Nat
  members : List (Nat × Nat)
  t0 : Nat
  deriving DecidableEq, Repr

/-- The operands of a COLL (R394, R438); semaphores are none where not valid. -/
structure CollOp where
  group : Nat
  gen : Nat
  seq : Nat
  kind : Nat
  op : Nat
  fmt : Nat
  inSwitch : Bool
  stripes : Nat
  w128 : Bool
  srcVa : Nat
  dstVa : Nat
  countsVa : Nat
  count : Nat
  root : Nat
  wait : Option Nat
  target : Nat
  signal : Option Nat
  inc : Nat
  run : Nat
  deriving DecidableEq, Repr

/-- One transfer of a collective's schedule with the member of a rank: byte ranges sent, byte ranges received, and
whether what is received is reduced or copied (R405-R409). -/
structure Xfer where
  peer : Nat
  send : List (Nat × Nat)
  recv : List (Nat × Nat)
  reduce : Bool
  deriving DecidableEq, Repr

/-- Where a posted collective stands on a member (R395-R404). -/
inductive CollPhase where
  | posted | requested | queued | reserved | moving | written | ended (st : Status)
  deriving DecidableEq, Repr

/-- A posted collective on a member: its context, the counts of all members, the vector it works on once its source has
been read, what is left of each stripe's schedule, whether that stripe's next message has gone out, messages that came
early by rank and stripe, whether the stripe's next receive has its credit (R386), and when DONE was sent. -/
structure Coll where
  src : Src
  dom : Nat
  o : CollOp
  ph : CollPhase := .posted
  ctx : Option Nat := none
  counts : List Nat := []
  loaded : Bool := false
  vec : List Byte := []
  outAt : Nat := 0
  outLen : Nat := 0
  sched : List (List Xfer) := []
  out : List Bool := []
  early : List (Nat × List Byte) := []
  asked : List Bool := []
  doneAt : Option Nat := none
  deriving DecidableEq, Repr

/-- A RESERVE that waits for a context, in arrival order (R397). -/
structure Resv where
  arch : Bool
  group : Nat
  seq : Nat
  deriving DecidableEq, Repr

/-- A REQUEST as the authority keeps it (R396): rank, group digest, operation digest, run length, count, and
what the operation is: [0] IN_SWITCH, [2:1] OP, [3] W128 records, [4] BF16, [7:5] KIND. -/
structure Request where
  rank : Nat
  gdig : List Byte
  odig : List Byte
  run : Nat
  count : Nat
  how : Nat
  deriving DecidableEq, Repr

/-- Where a collective stands on its authority (R396-R404). -/
inductive OrderPhase where
  | collecting | reserving | ticketed | ended (st : Status)
  deriving DecidableEq, Repr

/-- A collective on its authority: its in-switch context, vectors and results by rank, oldest first, the context credits that
members gave for results, and the segments granted so far (R386, R409). -/
structure Order where
  group : Nat
  gen : Nat
  seq : Nat
  t0 : Nat
  reqs : List Request
  ph : OrderPhase := .collecting
  pos : Nat := 0
  reserved : List Nat := []
  switch : Option Nat := none
  dones : List Nat := []
  vecs : List (Nat × List Byte) := []
  outs : List (Nat × List Byte) := []
  creds : List (Nat × Nat) := []
  cut : Nat := 0
  deriving DecidableEq, Repr

/-- A group on its authority: members, who has joined, since when (R393). -/
structure AuthGroup where
  id : Nat
  gen : Nat
  key : Nat
  members : List (Nat × Nat)
  joined : List Nat
  formed : Bool
  t0 : Nat
  deriving DecidableEq, Repr

/-- A remote-memory transfer (R415, R416): on the caller, or (`owner`) on the module that owns the window. -/
structure RmemXfer where
  num : Nat
  src : Option Src
  dom : Nat
  put : Bool
  owner : Bool
  group : Nat
  rank : Nat
  peer : Nat
  window : Nat
  va : Nat
  off : Nat
  len : Nat
  wait : Option Nat
  target : Nat
  signal : Option Nat
  inc : Nat
  got : Nat
  begun : Bool
  t0 : Nat
  deriving DecidableEq, Repr

/-- A control message of the shoal (R393-R411). The spec gives these messages no byte layout, so they are kept as what
they say. -/
inductive Msg where
  | join (key : Nat) (members : List (Nat × Nat)) (rank : Nat)
  | leave (group dom : Nat)
  | formed (key group gen : Nat)
  | joinEnded (key : Nat) (st : Status)
  | request (group gen seq rank : Nat) (gdig odig : List Byte) (run count how : Nat)
  | reserve (group seq : Nat)
  | reserved (group seq rank : Nat)
  | ticket (group seq : Nat) (counts : List Nat)
  | done (group seq rank : Nat)
  | commit (group seq : Nat)
  | ended (group seq : Nat) (st : Status)
  | changed (group gen : Nat) (members : List (Nat × Nat))
  | beacon (time : Nat)
  | rmem (put : Bool) (num window group rank off len : Nat)
  | rmemEnded (num : Nat) (st : Status)
  | remoteSignal (num : Nat)
  | credit (group seq rank stripe ctx : Nat) (gdig : List Byte)
  deriving DecidableEq, Repr

/-- What leaves the module: MSI-X messages (function, vector, address, data), flits on a sound port, control messages to
a module, SHOAL_PULSE_N pulses. -/
inductive Out where
  | msix (fn : Nat) (vec addr data : Nat)
  | flit (port : Nat) (bytes : List Byte)
  | ctl (module : Nat) (m : Msg)
  | pulse (at_ : Nat)
  deriving DecidableEq, Repr

/-- The sound fabric of the module. `role` is the LINK record in force as to role, shoal and worker (R392); `offset` is
shoal time less module time, once locked; `runs` holds the runs of tickets in progress as group, context, next SEQ, last
SEQ (R398); `timed` the collectives that timed out before this member posted them (R399); `credits` the context credits that members
gave this one, as group, SEQ, 4 × rank + stripe, context (R386). -/
structure Net where
  ports : Sparse Port := []
  role : LinkRec := {}
  headless : Bool := false
  headlessAt : Nat := 0
  locked : Bool := false
  offset : Int := 0
  corrAt : Nat := 0
  lastCorr : Int := 0
  drift : Bool := false
  timeHi : Nat := 0
  beatAt : Nat := 0
  pulseAt : Nat := 0
  joins : List Joining := []
  groups : List Group := []
  colls : List Coll := []
  resvs : List Resv := []
  runs : List (Nat × Nat × Nat × Nat) := []
  timed : List (Nat × Nat × Nat) := []
  credits : List (Nat × Nat × Nat × Nat) := []
  auth : List AuthGroup := []
  orders : List Order := []
  nextPos : Nat := 0
  xfers : List RmemXfer := []
  deriving DecidableEq, Repr

/-! ### Supplies, power and resets (spec/16) -/

/-- How the host link stands: down (PERST# asserted, rails off or a reset), training, or in L0 (R487, R537). -/
inductive HostLink where
  | down | training | up
  deriving DecidableEq, Repr

/-- Resets that wait for the warm restore (R490): their kinds, oldest first, and when the last came. -/
structure Restore where
  kinds : List Nat
  t0 : Nat
  deriving DecidableEq, Repr

/-- Supplies, power state, throttle, temperatures, retraining and the sideband pins. Pins are true while low. `seenMain`:
main has been in range since the cold power-up; `waking`: S4 was left while main is absent; `firstPerst`: the assertion of
PERST# belongs to the bring-up (R537); `dieC`, `dramC` and `inletC` the sensors, `dieReg`, `dramReg` and `inletReg` what
PWR_TEMP shows of them (R500); `retKind` and `retIndex` the fields of PWR_RETRAIN_CTRL, `retOp` the retraining that runs (R501);
`hotLayers`: DRAM layers above 85 °C, numbered 2 × atoll, plus 1 for the upper; `layerC`: each layer's hottest sensor, of
which `dramC` is the hottest; `hot`:
a die sensor at or above THROTTLE_C + 10. -/
structure Pow where
  auxOk : Bool := true
  mainOk : Bool := false
  st : Nat := 0
  status : Status := .success
  target : Nat := 0
  lastReset : Nat := 0
  restore : Option Restore := none
  trained : Bool := false
  training : Bool := false
  initing : Bool := false
  tripped : Bool := false
  seenMain : Bool := false
  waking : Bool := false
  avgW : Nat := 0
  dieC : Nat := 0
  dramC : Nat := 0
  inletC : Nat := 0
  dieReg : Nat := 0
  dramReg : Nat := 0
  inletReg : Nat := 0
  hotLayers : List Nat := []
  layerC : List (Nat × Nat) := []
  hot : Bool := false
  capThrottle : Bool := false
  thermThrottle : Bool := false
  capMiss : Bool := false
  pace : Nat := 0
  belowSince : Option Nat := none
  retKind : Nat := 0
  retIndex : Nat := 0
  retBusy : Bool := false
  retOp : Nat × Nat := (0, 0)
  retStatus : Status := .success
  perst : Bool := true
  firstPerst : Bool := true
  link : HostLink := .down
  alive : Bool := false
  therm : Bool := false
  wake : Bool := false
  deriving DecidableEq, Repr

/-! ### Identity and attestation (spec/17) -/

/-- An open debug window (R521): what it grants, and when it closes. -/
structure Debug where
  grant : DebugRec
  until_ : Option Nat
  deriving DecidableEq, Repr

/-- Keeper-region security state (R507-R525). -/
structure Sec where
  idOk : Bool := true
  mrs : List (List Byte) := List.replicate 8 (List.replicate 32 0)
  log : List (List Byte) := []
  overflow : Bool := false
  extData : List Word := List.replicate 8 0
  extMr : Nat := 6
  extErr : Bool := false
  dbgBase : Nat := 0
  dbg : Option Debug := none
  deriving DecidableEq, Repr

end Sys2Proof.Machine
end

