-- ==== Sys2Proof/Machine/State.lean ====
section
/-!
DEFINITION. The state of the module: everything the spec gives it, as plain data, with the queue of commands that
wait. Sparse tables list only what differs from their defaults.
-/
namespace Sys2Proof.Machine

/-- The state. `pending` is the queue of commands, `now` the module time in ns (R14), `ticks` and `free` the model's own
counters of idle steps and of free values taken (Config), `conf` what the segments in force give (R36), `img` the
structure-image engine, `mir` the mirror store, `cores` the control cores, `evc` and `log` events and trouble log, `vfs` and
`pfMsix` the functions, `doms` the domains, `tasks` the tasks in flight with the next dispatch order, `rot` each atoll's turn
among domains, `sems` and `bars` the reefs, `islands`, `flights` and `fifos` islands and straits, `vaults` and `chans` the
DRAM interfaces, `mem`, `poison` and `latent` DRAM bytes and beats by module-physical address, `host` host memory, `mig` tiers
and migration, `dspKills` and `dspPins` the dispatchers' counts, `codec`, `net`, `pow` and `sec` chapters 11, 13, 16 and 17;
`sent` is what has left the module, `reply` the answer to the last read. -/
structure State where
  pending : List Instr
  now : Nat
  ticks : Nat
  free : Nat
  conf : Conf
  img : Img
  mir : Mirror
  cores : List Core
  evc : Evc
  log : Log
  vfs : Sparse Vf
  pfMsix : Sparse MsixEntry
  doms : Sparse Dom
  tasks : List Task
  order : Nat
  rot : List Nat
  sems : Sparse Nat
  bars : Sparse Barrier
  islands : Sparse Island
  flights : Sparse (List Flight)
  fifos : Sparse (List Bundle)
  vaults : Sparse Vault
  chans : Sparse Chan
  mem : Sparse Byte
  host : Sparse Byte
  poison : Sparse Bool
  latent : Sparse BeatErr
  mig : Mig
  dspKills : List Nat
  dspPins : List Nat
  codec : Codec
  net : Net
  pow : Pow
  sec : Sec
  sent : List Out
  reply : List Byte
  deriving DecidableEq, Repr

/-- The measurement of the boot ROM: MR0 and its log entry after a cold power-up (R507, R508, R510). -/
def bootMeasure : List Byte × List Byte :=
  let d := (List.range 32).map Config.bootRomDigest
  (sha3 (List.replicate 32 0 ++ d),
   leBytes 4 0 ++ leBytes 8 Config.bootRomVersion.toNat ++ leBytes 4 0 ++ d ++ leBytes 16 0)

/-- The module right after reset: the cold power-up (kind 0) on auxiliary, with main absent. Every register holds its Cold
value; the trouble log holds the reset's entry and MR0 the boot ROM (R6, R41, R472, R489, R491, R507-R512). -/
def State.reset : State where
  pending := []
  now := 0
  ticks := 0
  free := 0
  conf := {}
  img := {}
  mir := {}
  cores := List.replicate 8 {}
  evc := {}
  log := { slots := [(0, some ⟨0, 0, 0, none, 1, 0xFF, List.replicate 10 0⟩)], written := 1 }
  vfs := []
  pfMsix := []
  doms := []
  tasks := []
  order := 0
  rot := [0, 0, 0, 0]
  sems := []
  bars := []
  islands := []
  flights := []
  fifos := []
  vaults := []
  chans := []
  mem := []
  host := []
  poison := []
  latent := []
  mig := {}
  dspKills := [0, 0, 0, 0]
  dspPins := [0, 0, 0, 0]
  codec := {}
  net := {}
  pow := {}
  sec := { mrs := bootMeasure.1 :: List.replicate 7 (List.replicate 32 0), log := [bootMeasure.2] }
  sent := []
  reply := []

/-- Why a step stops with a fault. No command of this block raises one: where the spec has an error, the block goes on
with a status, an event or a log entry. -/
inductive Fault where
  /-- Raised by nothing: kept so that the outcome type has its three cases; safe. -/
  | unused
  deriving DecidableEq, Repr

/-- Why a step stops with a refusal. -/
inductive Refusal where
  /-- Raised by Dispatch for a command that has no meaning yet; safe. -/
  | notModelled (mnemonic : String)
  /-- Raised by an event command whose cause has not arisen in this state, so that the event cannot occur: the sender
  asked for something the hardware would not do. Safe: no next state is claimed. -/
  | notEnabled (name : String)
  deriving DecidableEq, Repr

end Sys2Proof.Machine
end

