-- ==== Sys2Proof/Machine/Ops.lean ====
section
/-!
DEFINITION. The operations that the commands share: events and their delivery, the trouble log, completion records,
semaphores, and access to the parts of State by index.
-/
namespace Sys2Proof.Machine

/-- The one form of a byte memory, DRAM or host: addresses strictly rising, and no entry equal to the zero that an unlisted
address reads as, so that equal memories are equal lists. -/
abbrev Memory.wf (m : Sparse Byte) : Bool := sparseWf 0 m

/-- The `n`-th free value is taken: the counter advances. -/
def takeFree (s : State) : State := { s with free := s.free + 1 }

def islandAt (s : State) (i : Nat) : Island := sparseGet {} s.islands i
def setIsland (s : State) (i : Nat) (v : Island) : State := { s with islands := sparseSet {} s.islands i v }
def modIsland (s : State) (i : Nat) (f : Island → Island) : State := setIsland s i (f (islandAt s i))
def domAt (s : State) (d : Nat) : Dom := sparseGet {} s.doms d
def setDom (s : State) (d : Nat) (v : Dom) : State := { s with doms := sparseSet {} s.doms d v }
def modDom (s : State) (d : Nat) (f : Dom → Dom) : State := setDom s d (f (domAt s d))
def vfAt (s : State) (v : Nat) : Vf := sparseGet {} s.vfs v
def setVf (s : State) (v : Nat) (x : Vf) : State := { s with vfs := sparseSet {} s.vfs v x }
def modVf (s : State) (v : Nat) (f : Vf → Vf) : State := setVf s v (f (vfAt s v))
def vaultAt (s : State) (v : Nat) : Vault := sparseGet {} s.vaults v
def setVault (s : State) (v : Nat) (x : Vault) : State := { s with vaults := sparseSet {} s.vaults v x }
def modVault (s : State) (v : Nat) (f : Vault → Vault) : State := setVault s v (f (vaultAt s v))
def chanAt (s : State) (c : Nat) : Chan := sparseGet {} s.chans c
def setChan (s : State) (c : Nat) (x : Chan) : State := { s with chans := sparseSet {} s.chans c x }
def semAt (s : State) (n : Nat) : Nat := sparseGet 0 s.sems n
def barAt (s : State) (n : Nat) : Barrier := sparseGet {} s.bars n

/-- The domain's DOMAIN record in force (R353). -/
def domRec (s : State) (d : Nat) : Option DomRec := sparseGet none s.conf.doms d
/-- The domain's MEMORY record in force (R103). -/
def memRec (s : State) (d : Nat) : MemRec := sparseGet {} s.conf.mems d
/-- The domain's NUMERIC record in force (R168). -/
def numRec (s : State) (d : Nat) : NumRec := sparseGet {} s.conf.nums d
/-- The island's byte of the DOMAIN segment in force (R353). -/
def islRec (s : State) (i : Nat) : IslRec := sparseGet {} s.conf.isl i

/-- The islands, and with them the vaults, that a domain owns, in ascending index (R76, R352). -/
def ownedIslands (s : State) (d : Nat) : List Nat :=
  (List.range 256).filter (fun i => decide ((islRec s i).owner = some d))

/-- The domain bound to a VF (0 for VF 1), by the DOMAIN records in force (R353). -/
def domOfVf (s : State) (v : Nat) : Option Nat :=
  (List.range 16).find? (fun d => match domRec s d with | some r => r.vf == v + 1 | none => false)

/-- The VF of a domain. -/
def vfOfDom (s : State) (d : Nat) : Option Nat := (domRec s d).map (fun r => r.vf - 1)

/-! ### Events (R455-R460) -/

def evPend (e : Evc) (n : Nat) : Word := sparseGet 0 e.pend n
def evMask (e : Evc) (n : Nat) : Word := sparseGet (BitVec.allOnes 32) e.mask n
def evPrio (e : Evc) (src : Nat) : Nat := sparseGet 0 e.prio src
def evRoute (e : Evc) (src : Nat) : Nat := sparseGet 0 e.route src
def evTarget (e : Evc) (t : Nat) : EvTarget := sparseGet {} e.targets t

/-- The running level of a target: the priority of its innermost claim (R456). -/
def runningLevel (t : EvTarget) : Nat := match t.claims with | [] => 0 | (_, p) :: _ => p

/-- R456: pending, unmasked, above the target's threshold and its running level. -/
def deliverable (e : Evc) (src : Nat) : Bool :=
  let t := evTarget e (evRoute e src)
  (evPend e (src / 32)).getLsbD (src % 32) && !((evMask e (src / 32)).getLsbD (src % 32)) &&
    decide (t.thresh < evPrio e src) && decide (runningLevel t < evPrio e src)

/-- The pending sources, ascending. -/
def pendingSources (e : Evc) : List Nat :=
  e.pend.flatMap (fun (n, w) => (bitsSet 32 w.toNat).map (fun b => 32 * n + b))

/-- The targets that have a deliverable source. -/
def upTargets (e : Evc) : List Nat :=
  (List.range 72).filter (fun t => (pendingSources e).any (fun src => evRoute e src == t && deliverable e src))

/-- Send one PF vector's message, or set its pending bit while the vector is masked (R457). -/
def sendPfVector (s : State) (v : Nat) : State :=
  let m := sparseGet {} s.pfMsix v
  if m.masked then { s with pfMsix := sparseSet {} s.pfMsix v { m with pend := true } }
  else { s with sent := s.sent ++ [.msix 0 v m.addr m.data] }

/-- Delivery (R457): a host target that has come to have a deliverable source sends its vector's message. -/
def evRefresh (s : State) : State :=
  let up := upTargets s.evc
  let new := up.filter (fun t => !(s.evc.up.contains t) && decide (8 ≤ t))
  new.foldl (fun s t => sendPfVector s (t - 8)) { s with evc := { s.evc with up := up } }

/-- A word of the controller is held: a hold lasts 1 µs at most (R462). -/
def wordHeld (s : State) (n : Nat) : Bool := decide (s.evc.held = some n) && decide (s.now < s.evc.holdAt + 1000)

/-- A hardware source occurs: its pending bit sets, or is latched while its word is held (R455, R462). -/
def raise (src : Nat) (s : State) : State :=
  let n := src / 32
  let b : Word := BitVec.ofNat 32 (2 ^ (src % 32))
  if wordHeld s n then { s with evc := { s.evc with latched := s.evc.latched ||| b } }
  else evRefresh { s with evc := { s.evc with pend := sparseSet 0 s.evc.pend n (evPend s.evc n ||| b) } }

/-! ### The trouble log (R471-R473) -/

/-- The module whose own time base is shoal time: a shoal manager outside an archipelago, and the top manager (R402). -/
def timeSource (n : Net) : Bool := n.role.role == 3 || (n.role.role == 2 && !n.role.arch)

/-- Shoal time in ns; 0 when the module is standalone or has never locked (R402, R471). -/
def shoalTime (s : State) : Nat :=
  if s.net.role.role = 0 then 0
  else if timeSource s.net then s.now
  else if s.net.locked then ((s.now : Int) + s.net.offset).toNat
  else 0

/-- Write a log entry, or count it as dropped when LEVEL withholds it; fatal entries are always written. -/
def logE (sev : Nat) (code : Status) (src : Option Nat) (dom : Nat) (data : List Byte) (s : State) : State :=
  if sev < s.log.level ∧ sev < 3 then { s with log := { s.log with dropped := wrap32 (s.log.dropped + 1) } }
  else
    let e : LogEntry := ⟨s.now, shoalTime s, statusCode code, src, sev, dom, slice data 0 10⟩
    let w := wrap32 (s.log.written + 1)
    let s1 := { s with log := { s.log with slots := sparseSet none s.log.slots (s.log.written % 2048) (some e),
                                           written := w } }
    let s2 := if 2 ≤ sev then raise 0x260 s1 else s1
    if w % 1024 = 0 then raise 0x261 s2 else s2

/-- The 32 bytes of a log slot (R471); zero where nothing has been written. -/
def logBytes : Option LogEntry → List Byte
  | none => List.replicate 32 0
  | some e => leBytes 8 e.time ++ leBytes 8 e.shoalTime ++ leBytes 2 e.code ++
      leBytes 2 (match e.source with | some x => x + 0x8000 | none => 0) ++ leBytes 1 e.severity ++
      leBytes 1 e.domain ++ slice e.data 0 10

/-! ### Completion records (R435-R437) -/

/-- The 16 bytes of a completion record, PHASE clear. -/
def cplRecord (id : Nat) (st : Status) (sq kind aux result : Nat) : List Byte :=
  leBytes 4 id ++ leBytes 2 (statusCode st) ++ leBytes 1 (sq % 8 + 8 * kind) ++ leBytes 1 aux ++ leBytes 8 result

/-- Entries of a ring from its CTRL. -/
def ringSize (ctrl : Nat) : Nat := 2 ^ bits ctrl 12 8

/-- Records written and not yet consumed. -/
def cqHeld (c : CplRing) : Nat := (c.tail + ringSize c.ctrl - c.head) % ringSize c.ctrl

/-- A completion ring can take a record: enabled and a slot free. DEDUCED: with head and tail alone a ring holds one
record fewer than its entries. -/
def cqRoom (c : CplRing) : Bool := bit c.ctrl 0 && decide (cqHeld c + 1 < ringSize c.ctrl)

/-- Write bytes to host memory (posted writes, R448). -/
def hostWrite (m : Sparse Byte) : Nat → List Byte → Sparse Byte
  | _, [] => m
  | a, b :: t => hostWrite (sparseSet 0 m a b) (a + 1) t

/-- Send a VF vector's message, or set its pending bit while masked. -/
def sendVfVector (s : State) (v vec : Nat) : State :=
  let f := vfAt s v
  let m := sparseGet {} f.msix vec
  if m.masked then setVf s v { f with msix := sparseSet {} f.msix vec { m with pend := true } }
  else { s with sent := s.sent ++ [.msix (v + 1) vec m.addr m.data] }

/-- The ring's message after a record: at once when HOLDOFF has passed since the last, else due (R436). -/
def cqNotify (s : State) (v c : Nat) : State :=
  let f := vfAt s v
  let r := f.cqs.getD c {}
  if bit r.ctrl 1 then
    let ready := match r.lastMsg with
      | none => true
      | some t => decide (t + 1000 * bits r.ctrl 31 20 ≤ s.now)
    if ready then
      sendVfVector (setVf s v { f with cqs := setAt f.cqs c { r with lastMsg := some s.now, due := false } }) v
        (bits r.ctrl 19 14)
    else setVf s v { f with cqs := setAt f.cqs c { r with due := true } }
  else s

/-- Write one record at the ring's tail, with the PHASE of this pass (R435). -/
def cqPut (s : State) (v c : Nat) (rec : List Byte) : State :=
  let f := vfAt s v
  let r := f.cqs.getD c {}
  let b := rec.take 6 ++ [(rec.getD 6 0) ||| (if r.phase then 0x80 else 0)] ++ rec.drop 7
  let t := (r.tail + 1) % ringSize r.ctrl
  let r' := { r with tail := t, phase := if t = 0 then !r.phase else r.phase }
  cqNotify (setVf { s with host := hostWrite s.host (r.base + 16 * r.tail) b } v { f with cqs := setAt f.cqs c r' }) v c

/-- A completion is written, or waits in its domain's queue behind those that wait already (R437). -/
def cplDeliver (s : State) (v c : Nat) (rec : List Byte) : State :=
  let f := vfAt s v
  if (f.waitCpl.all (fun w => w.1 != c)) && cqRoom (f.cqs.getD c {}) then cqPut s v c rec
  else setVf s v { f with waitCpl := f.waitCpl ++ [(c, rec)] }

/-- Write the waiting completions of a VF that now find room (`fuel` at most). -/
def cplDrain : Nat → State → Nat → State
  | 0, s, _ => s
  | fuel + 1, s, v =>
    let f := vfAt s v
    match firstIdx (fun w => cqRoom (f.cqs.getD w.1 {})) f.waitCpl with
    | none => s
    | some i =>
      match f.waitCpl[i]? with
      | none => s
      | some w => cplDrain fuel (cqPut (setVf s v { f with waitCpl := f.waitCpl.eraseIdx i }) v w.1 w.2) v

/-- The completion ring that a submission ring names (R450). -/
def cqOf (s : State) (src : Src) : Nat := bits ((vfAt s src.vf).sqs.getD src.sq {}).ctrl 17 16

/-- A command completes: one KIND 0 record (R435). -/
def complete (src : Src) (st : Status) (result : Nat) (s : State) : State :=
  cplDeliver s src.vf (cqOf s src) (cplRecord src.cmd st src.sq 0 0 result)

/-- An informational record on the domain's CQ 0 (R435). -/
def inform (d : Nat) (st : Status) (result : Nat) (s : State) : State :=
  match vfOfDom s d with
  | none => s
  | some v => cplDeliver s v 0 (cplRecord 0 st 0 4 0 result)

/-! ### The reef (R173, R192) -/

/-- Add to a semaphore, saturating at 2^32 − 1 (R192). -/
def semAdd (s : State) (n k : Nat) : State :=
  { s with sems := sparseSet 0 s.sems n (satAdd (2 ^ 32 - 1) (semAt s n) k) }

/-- Apply SIGNAL entries in entry order (R198). -/
def applySignals (s : State) (l : List SemRef) : State := l.foldl (fun s e => semAdd s e.1 e.2) s

/-- A number lies in one of a domain's reef ranges: bits above `w` name the atoll (R353). -/
def inReef (ranges : List ReefRange) (w n : Nat) : Bool :=
  let r := ranges.getD (n / 2 ^ w) (0, 0)
  decide (r.1 ≤ n % 2 ^ w) && decide (n % 2 ^ w < r.1 + r.2)

/-- The semaphore lies in the domain's reef range (R178, R354). -/
def semInRange (s : State) (d n : Nat) : Bool :=
  match domRec s d with | none => false | some r => inReef r.sem 12 n

/-- The barrier lies in the domain's reef range. -/
def barInRange (s : State) (d n : Nat) : Bool :=
  match domRec s d with | none => false | some r => inReef r.bar 10 n

/-- The task with a tag. -/
def taskOf (s : State) (tag : Nat) : Option Task := s.tasks.find? (fun t => t.tag == tag)

/-- Replace a task by its tag. -/
def setTask (s : State) (t : Task) : State :=
  { s with tasks := s.tasks.map (fun u => if u.tag = t.tag then t else u) }

/-- The tags of a domain's tasks in flight. -/
def domTags (s : State) (d : Nat) : List Nat := (s.tasks.filter (fun t => t.desc.domain == d)).map (·.tag)

end Sys2Proof.Machine
end

