-- ==== Sys2Proof/Machine/Memory.lean ====
section
/-!
DEFINITION. The memory tiers: addresses, ECC and poison, translation, heat, frames, page moves, and the gate that
every read and write of a task passes (spec/03, R194-R197).
-/
namespace Sys2Proof.Machine

/-- Bytes of a page or frame (R77). -/
def pageSize : Nat := 65536

/-- A byte with the poison mark of the beat or line that holds it. -/
abbrev MByte := Byte × Bool

/-- The bytes alone. -/
def plain (d : List MByte) : List Byte := d.map (·.1)

/-- Some byte is marked poisoned. -/
def anyMark (d : List MByte) : Bool := d.any (·.2)

/-- Cut a range at page boundaries. -/
def pieces : Nat → Nat → Nat → List (Nat × Nat)
  | 0, _, _ => []
  | fuel + 1, a, n =>
    if n = 0 then []
    else
      let m := min n (pageSize - a % pageSize)
      (a, m) :: pieces fuel (a + m) (n - m)

def piecesOf (a n : Nat) : List (Nat × Nat) := pieces (n / pageSize + 2) a n

/-- Units of `u` bytes that a range touches. -/
def unitsOf (u a n : Nat) : List Nat :=
  if n = 0 then [] else (List.range ((a + n - 1) / u - a / u + 1)).map (fun i => a / u + i)

/-! ### ECC and poison (R68-R71, R548) -/

/-- Record an error in a vault's or channel's registers (R97, R98, R549). -/
def eccNote (r : EccRegs) (addr : Nat) (kind : Bool) : EccRegs :=
  { corrected := if kind then r.corrected else satAdd 0xFFFF r.corrected 1,
    uncorrected := if kind then satAdd 0xFF r.uncorrected 1 else r.uncorrected,
    addr := addr, kind := kind, valid := true }

/-- The domain that a vault's log entries name: its island's owner. -/
def vaultDom (s : State) (v : Nat) : Nat := ((islRec s v).owner).getD 0xFF

/-- A correctable error met in beat `b` (R69, R548); scrub logs it as well (R71). -/
def eccCorrect (s : State) (b : Nat) (scrub : Bool) : State :=
  let pa := 64 * b
  let s := { s with latent := sparseErase s.latent b }
  if pa < 2 ^ 38 then
    let v := pa / 2 ^ 30
    let off := pa % 2 ^ 30
    let s := modVault s v (fun x => { x with ecc := eccNote x.ecc off false })
    if scrub then logE 0 .success (some v) (vaultDom s v) (leBytes 1 v ++ leBytes 4 off ++ [0]) s else s
  else
    let c := (pa - 2 ^ 40) / 2 ^ 36
    let x := chanAt s c
    setChan s c { x with ecc := eccNote x.ecc ((pa - 2 ^ 40) % 2 ^ 36 / 64) false }

/-- The domain that a channel's log entries name: the one it is assigned to (R72, R103). -/
def chanDom (s : State) (c : Nat) : Nat :=
  ((List.range 16).find? (fun d => bit (memRec s d).channels c)).getD 0xFF

/-- An uncorrectable error met in beat `b`: the beat is poisoned, counted, logged and its event raised. -/
def eccPoison (s : State) (b : Nat) : State :=
  let pa := 64 * b
  let s := { s with latent := sparseErase s.latent b, poison := sparseSet false s.poison b true }
  if pa < 2 ^ 38 then
    let v := pa / 2 ^ 30
    let off := pa % 2 ^ 30
    let s := modVault s v (fun x => { x with ecc := eccNote x.ecc off true })
    raise v (logE 2 .success (some v) (vaultDom s v) (leBytes 1 v ++ leBytes 4 off ++ [1]) s)
  else
    let c := (pa - 2 ^ 40) / 2 ^ 36
    let x := chanAt s c
    let beat := (pa - 2 ^ 40) % 2 ^ 36 / 64
    let s := setChan s c { x with ecc := eccNote x.ecc beat true }
    raise (0x130 + c) (logE 2 .success (some (0x130 + c)) (chanDom s c) (leBytes 1 c ++ leBytes 4 beat ++ [1]) s)

/-- A beat is read: a latent error in it is found (R68, R69). Beyond the code's guarantee the outcome is a free
choice: poison, a wrong correction with free bytes, or nothing. -/
def touchBeat (scrub : Bool) (s : State) (b : Nat) : State :=
  match sparseGet .none s.latent b with
  | .none => s
  | .correctable => eccCorrect s b scrub
  | .uncorrectable => eccPoison s b
  | .beyond =>
    let c := Config.choice s.free % 3
    let s := takeFree s
    if c = 0 then eccPoison s b
    else if c = 1 then
      let k := s.free
      let s := (List.range 64).foldl (fun s i =>
        { s with mem := sparseSet 0 s.mem (64 * b + i) (Config.freeByte k i) }) (takeFree s)
      eccCorrect s b scrub
    else s

/-- Read every beat of a range that holds a latent error. -/
def touch (s : State) (pa n : Nat) : State :=
  ((sparseIn s.latent (pa / 64) ((pa + n - 1) / 64 - pa / 64 + 1)).map (·.1)).foldl (touchBeat false)
    (if n = 0 then { s with latent := s.latent } else s)

/-- Bytes of DRAM with their beats' poison marks. -/
def dramRead (s : State) (pa n : Nat) : List MByte :=
  (List.range n).map (fun i => (sparseGet 0 s.mem (pa + i), sparseGet false s.poison ((pa + i) / 64)))

/-- Put bytes into memory. -/
def memPut (m : Sparse Byte) : Nat → List Byte → Sparse Byte
  | _, [] => m
  | a, b :: t => memPut (sparseSet 0 m a b) (a + 1) t

/-- Write bytes to DRAM: a beat written whole loses its poison and any latent error, a beat written in part is read
first and keeps its poison, and a marked byte marks its beat (R69, R70). -/
def dramWrite (s : State) (pa : Nat) (data : List MByte) : State :=
  let n := data.length
  let beats := unitsOf 64 pa n
  let whole := fun b => decide (pa ≤ 64 * b) && decide (64 * b + 64 ≤ pa + n)
  let s := (beats.filter (fun b => !(whole b))).foldl (touchBeat false) s
  let wholes := beats.filter whole
  let marked := beats.filter (fun b => (List.range n).any (fun i =>
    (pa + i) / 64 == b && (data.getD i (0, false)).2))
  let p := wholes.foldl (fun p b => sparseErase p b) s.poison
  { s with
    mem := memPut s.mem pa (plain data)
    latent := wholes.foldl (fun l b => sparseErase l b) s.latent
    poison := marked.foldl (fun p b => sparseSet false p b true) p }

/-- Zero-fill a range of DRAM, clearing poison and latent errors of the beats it covers whole. -/
def dramZero (s : State) (pa n : Nat) : State :=
  let lo := (pa + 63) / 64
  let hi := (pa + n) / 64
  { s with mem := sparseClear s.mem pa n, poison := sparseClear s.poison lo (hi - lo),
           latent := sparseClear s.latent lo (hi - lo) }

/-- Copy whole beats, poison marks included (R69, R70). -/
def dramCopy (s : State) (src dst n : Nat) : State :=
  let s := touch s src n
  { s with mem := sparseCopy 0 s.mem src dst n, poison := sparseCopy false s.poison (src / 64) (dst / 64) (n / 64),
           latent := sparseClear s.latent (dst / 64) (n / 64) }

/-! ### Translation (R76-R80) -/

/-- Where a domain address lies: module-physical or host bus address, its tier, whether it is sealed, and in unified
mode its page number. -/
structure Place where
  tier : Tier
  addr : Nat
  sealed : Bool
  page : Option Nat
  deriving DecidableEq, Repr

/-- The structure reserve in bytes of a split-mode domain (R81, R103). -/
def reserveBytes (m : MemRec) : Nat := (if m.reserve = 0 then 256 else m.reserve) * 2 ^ 20

/-- The channels assigned to a domain, ascending (R72, R103). -/
def chanList (m : MemRec) : List Nat := bitsSet 16 m.channels

/-- Split-mode translation by arithmetic (R80). -/
def xlatSplit (s : State) (d va : Nat) : Except Status Place :=
  let m := memRec s d
  let vs := ownedIslands s d
  let r := va / 2 ^ 46
  let o := va % 2 ^ 46
  if r = 0 then
    if o < vs.length * 2 ^ 30 - reserveBytes m then
      .ok ⟨.t1, vs.getD (o / 2 ^ 30) 0 * 2 ^ 30 + o % 2 ^ 30, false, none⟩
    else .error .rangeBad
  else if r = 1 then
    let cs := chanList m
    if o < cs.length * 2 ^ 36 then
      let g := o / pageSize
      .ok ⟨.t2, 2 ^ 40 + cs.getD (g % cs.length) 0 * 2 ^ 36 + g / cs.length * pageSize + o % pageSize, true, none⟩
    else .error .rangeBad
  else if r = 2 ∧ o < 2 ^ 32 then
    match sparseGet none (domAt s d).hostPages (o / pageSize) with
    | some f => .ok ⟨.t3, f * pageSize + o % pageSize, true, none⟩
    | none => .error .unmapped
  else .error .rangeBad

/-- A page-map entry's place for an address in it (R78). -/
def placeOf (p : Page) (va : Nat) : Place := ⟨p.tier, p.frame * pageSize + va % pageSize, p.sealed, some (va / pageSize)⟩

/-- Translate a domain address for a requester: a task that was running when UNMAP was accepted keeps its access
until it ends (R87). -/
def xlat (s : State) (d : Nat) (tag : Option Nat) (va : Nat) : Except Status Place :=
  match s.mig.unmaps.find? (fun u => u.dom == d && u.page == va / pageSize &&
      (match tag with | some t => u.tags.contains t | none => false)) with
  | some u => .ok (placeOf u.entry va)
  | none =>
    if (memRec s d).split then xlatSplit s d va
    else match sparseGet none (domAt s d).pages (va / pageSize) with
      | some p => .ok (placeOf p va)
      | none => .error .unmapped

/-- Bytes at a place. -/
def placeRead (s : State) (p : Place) (n : Nat) : List MByte :=
  match p.tier with
  | .t3 => (List.range n).map (fun i => (sparseGet 0 s.host (p.addr + i), false))
  | .t1 => dramRead s p.addr n
  | .t2 => dramRead s p.addr n

/-- Bytes of a domain range; a piece that does not translate reads as nothing. -/
def vaBytes (s : State) (d : Nat) (tag : Option Nat) (va n : Nat) : List MByte :=
  (piecesOf va n).flatMap (fun (a, m) =>
    match xlat s d tag a with
    | .ok p => placeRead s p m
    | .error _ => List.replicate m (0, false))

/-- The first failure to translate in a range. -/
def vaFault (s : State) (d : Nat) (tag : Option Nat) (va n : Nat) : Option Status :=
  (piecesOf va n).findSome? (fun (a, _) => match xlat s d tag a with | .ok _ => none | .error e => some e)

/-- Output ranges of a task (R177). -/
def outRanges (t : Task) : List (Nat × Nat) := (t.ops.filter (·.output)).map (outRange t.ext)

/-- The task's pending entries stand (R194): from its start until it commits or ends. -/
def hasEntered (t : Task) : Bool := decide (t.phase ≠ .queued)

/-- A range of a domain pending under a collective or a remote-memory transfer (R404, R416). -/
def extPending (s : State) (d : Nat) (r : Nat × Nat) : Bool :=
  s.net.colls.any (fun c => c.dom == d && decide (c.ph = .moving ∨ c.ph = .written) && overlaps (c.outAt, c.outLen) r) ||
    s.net.xfers.any (fun x => x.dom == d && x.begun && x.put == x.owner && overlaps (x.va, x.len) r)

/-- The ranges of a domain whose content is undefined now: outputs of started tasks, but for one's own, and the destinations that
collectives and transfers are filling (R194, R404, R416). -/
def pendingRanges (s : State) (d : Nat) (but : Option Nat := none) : List (Nat × Nat) :=
  (s.tasks.filter (fun t => t.desc.domain == d && hasEntered t && decide (but ≠ some t.tag))).flatMap outRanges ++
    (s.net.colls.filter (fun c => c.dom == d && decide (c.ph = .moving ∨ c.ph = .written))).map (fun c => (c.outAt, c.outLen)) ++
    (s.net.xfers.filter (fun x => x.dom == d && x.begun && x.put == x.owner)).map (fun x => (x.va, x.len))

/-- Some byte of a range is pending: under a task, a collective or a transfer (R194, R329, R330, R404, R416). -/
def rangePending (s : State) (d : Nat) (r : Nat × Nat) : Bool := (pendingRanges s d).any (fun o => overlaps o r)

/-- Bytes as a reader other than the writing task finds them: those that lie in a pending range are free values (R194). -/
def undefOver (s : State) (rs : List (Nat × Nat)) (a : Nat) (l : List MByte) : List MByte :=
  if rs.isEmpty then l
  else l.zipIdx.map (fun e =>
    if rs.any (fun r => overlaps r (a + e.2, 1)) then (Config.undefByte s.free (a + e.2), e.1.2) else e.1)

/-- A command's read of a domain range: the bytes, or the status of the failed read; a poisoned beat consumed gives
POISON (R70, R178). Latent errors are met. -/
def vaFetch (s : State) (d va n : Nat) : State × Except Status (List Byte) :=
  match vaFault s d none va n with
  | some e => (s, .error e)
  | none =>
    let s := (piecesOf va n).foldl (fun s (a, m) =>
      match xlat s d none a with
      | .ok p => if p.tier = .t3 then s else touch s p.addr m
      | .error _ => s) s
    let b := undefOver s (pendingRanges s d) va (vaBytes s d none va n)
    if anyMark b then (s, .error .poison) else (s, .ok (plain b))

/-- The DRAM runs of domain ranges. -/
def runsOf (s : State) (d : Nat) (tag : Option Nat) (rs : List (Nat × Nat)) : List (Nat × Nat) :=
  (rs.flatMap (fun r => piecesOf r.1 r.2)).filterMap (fun (a, m) =>
    match xlat s d tag a with
    | .ok p => if p.tier = .t3 then none else some (p.addr, m)
    | .error _ => none)

/-- The DRAM runs that hold the pending ranges of every domain. -/
def pendingRuns (s : State) : List (Nat × Nat) :=
  (List.range 16).flatMap (fun d => runsOf s d none (pendingRanges s d))

/-- Write bytes to a domain range that lies in DRAM. -/
def vaWrite (s : State) (d : Nat) (tag : Option Nat) (va : Nat) (data : List MByte) : State :=
  (piecesOf va data.length).foldl (fun s (a, m) =>
    match xlat s d tag a with
    | .ok p => if p.tier = .t3 then s else dramWrite s p.addr ((data.drop (a - va)).take m)
    | .error _ => s) s

/-- What a task, a collective or a transfer that ended with a status leaves in its destination is undefined: every byte of
these ranges in unsealed T1 pages becomes a free value (R194, R404, R416). -/
def undefineBytes (s : State) (d : Nat) (tag : Option Nat) (rs : List (Nat × Nat)) : State :=
  takeFree { s with mem := (rs.flatMap (fun r => piecesOf r.1 r.2)).foldl (fun m (a, n) =>
    match xlat s d tag a with
    | .ok p =>
      if p.tier = .t1 ∧ p.sealed = false then memPut m p.addr ((List.range n).map (fun i => Config.undefByte s.free (p.addr + i)))
      else m
    | .error _ => m) s.mem }

/-! ### Frames and occupancy (R81, R88, R100) -/

/-- The page-map entries of a domain. -/
def domPages (s : State) (d : Nat) : List (Nat × Page) :=
  (domAt s d).pages.filterMap (fun (k, p) => p.map (fun p => (k, p)))

/-- Every DRAM frame in use: pages, structures, old frames of moves, frames of unmapped pages. -/
def usedFrames (s : State) : List Nat :=
  s.doms.flatMap (fun (_, x) =>
    x.pages.filterMap (fun (_, p) => match p with
      | some p => if p.tier = .t3 then none else some p.frame
      | none => none) ++ x.frames.map (·.1)) ++
  s.mig.olds.map (·.frame) ++
  (s.mig.unmaps.filter (fun u => decide (u.entry.tier ≠ .t3))).map (fun u => u.entry.frame)

/-- The lowest of `n` frames from `base` that is not in use. -/
def lowestFree (used : List Nat) (base n : Nat) : Nat → Nat → Option Nat
  | 0, _ => none
  | fuel + 1, i => if i ≥ n then none else if used.contains (base + i) then lowestFree used base n fuel (i + 1)
                   else some (base + i)

/-- The lowest-numbered free frame among `n` from `base`. -/
def freeFrame (s : State) (base n : Nat) : Option Nat :=
  let used := usedFrames s
  lowestFree used base n (used.length + 1) 0

/-- The lowest-numbered free frame of a vault. -/
def freeInVault (s : State) (v : Nat) : Option Nat := freeFrame s (v * 16384) 16384

/-- The lowest-numbered free frame of an LPDDR5X channel. -/
def freeInChan (s : State) (c : Nat) : Option Nat := freeFrame s (2 ^ 24 + c * 2 ^ 20) (2 ^ 20)

/-- Allocated frames of a vault (R100 PAGES). -/
def vaultPages (s : State) (v : Nat) : Nat := ((usedFrames s).filter (fun f => f / 16384 == v)).length

/-- The mark that placement uses: 100 when demotion by occupancy is disabled (R103). -/
def placeMark (m : MemRec) : Nat := if m.highWater = 0 then 100 else m.highWater

/-- The vault lies below the domain's high-water mark. -/
def belowMark (s : State) (d v : Nat) : Bool := decide (vaultPages s v * 100 < placeMark (memRec s d) * 16384)

/-- Vaults that a change group in progress has closed to placement (R47). -/
def closedVaults (s : State) : List Nat := match s.img.cur with | some g => g.closed | none => []

/-- The domain's vaults that are open to placement (R47). -/
def openVaults (s : State) (d : Nat) : List Nat := (ownedIslands s d).filter (fun v => !((closedVaults s).contains v))

/-- Default placement of one page (R88). -/
def defaultFrame (s : State) (d : Nat) : Option Nat :=
  match (openVaults s d).find? (fun v => belowMark s d v && (freeInVault s v).isSome) with
  | some v => freeInVault s v
  | none => (openVaults s d).findSome? (fun v => freeInVault s v)

/-- Channels of a domain that take new pages, ascending: those a change in progress keeps (R547). -/
def openChans (s : State) (d : Nat) : List Nat :=
  let cs := chanList (memRec s d)
  match s.img.cur with
  | none => cs
  | some g => cs.filter (fun c => bit (sparseGet {} g.target.mems d).channels c)

/-- The frame a demoted page takes: channel (page mod n), else the next in ascending order, wrapping, that has one
when `any` is set (R83, R547). -/
def chanFrame (s : State) (d page : Nat) (any : Bool) : Option Nat :=
  let cs := openChans s d
  let k := page % cs.length
  let order := cs.drop k ++ cs.take k
  if cs.isEmpty then none
  else if any then order.findSome? (fun c => freeInChan s c) else (order.head?).bind (fun c => freeInChan s c)

/-! ### Heat (R82, R83) -/

/-- The vault a promotion goes to: the reading island's, else the domain's next below its mark (R83). DESIGN CHOICE: the next
in ascending index wraps round to the lower indices, and where no vault is below its mark there is none: the spec says
neither. -/
def promoTarget (s : State) (d isl : Nat) : Option Nat :=
  let vs := openVaults s d
  let ok := fun v => belowMark s d v
  if vs.contains isl && ok isl then some isl
  else ((vs.filter (fun v => decide (isl < v))) ++ vs.filter (fun v => decide (v ≤ isl))).find? ok

/-- Add heat units to a page; a sealed T2 or T3 page whose heat is then at P or above and that is not queued is queued for
promotion (R83), but for one that a DEMOTE took out of T1: its heat must have been below P since. -/
def heatUnits (s : State) (d page isl k : Nat) : State :=
  match sparseGet none (domAt s d).pages page with
  | none => s
  | some p =>
    if k = 0 then s
    else
      let h := min 255 (p.heat + k)
      let pt := (memRec s d).promoteT
      let barred := s.mig.barred.contains (d, page) && decide (pt ≤ p.heat)
      let s1 := modDom s d (fun x => { x with pages := sparseSet none x.pages page (some { p with heat := h }) })
      let s1 := if barred then s1 else { s1 with mig := { s1.mig with barred := s1.mig.barred.filter (fun b => b != (d, page)) } }
      if p.sealed ∧ p.tier ≠ .t1 ∧ pt ≠ 0 ∧ pt ≤ h ∧ ¬ barred ∧
          ¬ (s.mig.promos.any (fun q => q.dom == d && q.page == page)) then
        match promoTarget s d isl with
        | some v => { s1 with mig := { s1.mig with promos := s1.mig.promos ++ [⟨d, page, v⟩] } }
        | none => s1
      else s1

/-- Bytes moved between a page and compute: an island's translation cache gathers them and gives whole units of
16 KiB to the page; a full cache of 2,048 evicts one entry, whose remainder is lost (R82). -/
def addHeat (s : State) (isl d page n : Nat) : State :=
  let key := d * 2 ^ 32 + page
  let x := islandAt s isl
  match x.xlat.find? (fun e => e.1 == key) with
  | some (_, b) =>
    heatUnits (setIsland s isl { x with xlat := x.xlat.map (fun e =>
      if e.1 = key then (key, (b + n) % 16384) else e) }) d page isl ((b + n) / 16384)
  | none =>
    let (s, cache) := if x.xlat.length ≥ 2048 then (takeFree s, x.xlat.eraseIdx (Config.choice s.free % 2048))
      else (s, x.xlat)
    heatUnits (setIsland s isl { x with xlat := (key, n % 16384) :: cache }) d page isl (n / 16384)

/-! ### The lagoon (R73-R75) -/

/-- The ways of an atoll's lagoon that a domain's fills may take: its own, but for those that a change in progress takes from
it (R74, R75). -/
def fillWays (s : State) (d atoll : Nat) : List Nat :=
  let mine := bitsSet 16 ((memRec s d).ways.getD atoll 0)
  match s.img.cur with
  | none => mine
  | some g => mine.filter (fun w => bit ((sparseGet {} g.target.mems d).ways.getD atoll 0) w)

/-- Lines of one lagoon way: 4 MiB of 128 bytes. -/
def wayLines : Nat := 32768

/-- A line enters one of its domain's ways, in place of the line of its set there; a line that is in keeps its way and
becomes dirty with a write. DRAM holds the newest bytes of a dirty line as well, so that writing it back changes nothing
(R73, R74). DESIGN CHOICE: the spec fixes neither the set nor the way that a line takes; the set is the line number modulo
the lines of a way, and the way is freely chosen. -/
def fillLine (atoll d : Nat) (dirty : Bool) (s : State) (line : Nat) : State :=
  let ways := fillWays s d atoll
  let here := fun (l : LagLine) => l.atoll == atoll && l.dom == d && l.line == line
  if s.mig.lag.any here then
    { s with mig := { s.mig with lag := s.mig.lag.map (fun l => if here l then { l with dirty := l.dirty || dirty } else l) } }
  else if ways.isEmpty then s
  else
    let way := ways.getD (Config.choice s.free % ways.length) 0
    let rest := s.mig.lag.filter (fun l => !(l.atoll == atoll && l.way == way && l.line % wayLines == line % wayLines))
    takeFree { s with mig := { s.mig with lag := ⟨atoll, d, way, line, dirty⟩ :: rest } }

/-- An access of an island to a vault: to another's than its own, it passes through the vault's home lagoon; a read of sealed
lines of another atoll leaves clean copies in the requester's lagoon as well (R73). -/
def homeAccess (s : State) (isl d : Nat) (write : Bool) (p : Place) (n : Nat) : State :=
  let v := p.addr / 2 ^ 30
  if p.tier ≠ .t1 ∨ v = isl then s
  else
    let ls := unitsOf 128 p.addr n
    let s := ls.foldl (fillLine (v / 64) d write) s
    if !write && p.sealed && decide (v / 64 ≠ isl / 64) then ls.foldl (fillLine (isl / 64) d false) s else s

/-- Lines of DRAM frames leave every lagoon; dirty ones are written back (R75, R84, R87). -/
def dropFrame (s : State) (frame : Nat) : State :=
  { s with mig := { s.mig with lag := s.mig.lag.filter (fun l =>
      !(decide (frame * 512 ≤ l.line) && decide (l.line < frame * 512 + 512))) } }

/-! ### The gate of a task's reads and writes -/

/-- The 128-byte line of T2 or T3 that an address lies in; T3 lines are numbered from 2^57. -/
def lineOf (p : Place) : Nat := if p.tier = .t3 then 2 ^ 57 + p.addr / 128 else p.addr / 128

/-- A range pending under another task of the domain, a collective or a transfer (R196, R404, R416). -/
def pendingElsewhere (s : State) (t : Task) (r : Nat × Nat) : Bool :=
  extPending s t.desc.domain r ||
  s.tasks.any (fun u => u.tag != t.tag && u.desc.domain == t.desc.domain && hasEntered u &&
    (outRanges u).any (fun o => overlaps o r))

/-- Lines of a domain's staging tiles that overlap ranges entering the pending table are dropped (R220). -/
def dropStagedIn (s : State) (d : Nat) (l : List (Nat × Nat)) : State :=
  { s with mig := { s.mig with stagings := s.mig.stagings.map (fun g =>
      if g.id.dom = d then
        { g with dropped := g.dropped ++ g.lines.filter (fun n =>
            !(g.dropped.contains n) && l.any (fun o => overlaps o (n * 128, 128))) }
      else g) } }

/-- Two address ranges overlap in a list of runs. -/
def runsOverlap (l : List (Nat × Nat)) (r : Nat × Nat) : Bool := l.any (fun o => overlaps o r)

/-- A DRAM range overlaps what an unfinished vault-engine operation writes (R95). -/
def engineBusy (s : State) (pa n : Nat) : Bool :=
  if pa < 2 ^ 38 then (vaultAt s (pa / 2 ^ 30)).ops.any (fun o => runsOverlap o.dst (pa, n)) else false

/-- What the gate answers: go on in a state, wait for a reason, or end the task with a status. -/
inductive Gate where
  | go (s : State)
  | wait (s : State) (why : Stall)
  | fault (s : State) (st : Status)

/-- The lines of the lower tiers that a read needs. -/
def lowLines (s : State) (t : Task) (rs : List (Nat × Nat)) : List Nat :=
  (rs.flatMap (fun r => piecesOf r.1 r.2)).flatMap (fun (a, m) =>
    match xlat s t.desc.domain (some t.tag) a with
    | .ok p => if p.tier = .t1 then [] else
        let l := lineOf p
        (List.range ((p.addr % 128 + m - 1) / 128 + 1)).map (fun i => l + i)
    | .error _ => [])

/-- The line is in the lagoon of the island's atoll, or has been delivered to this requester. -/
def lineHere (s : State) (t : Task) (isl l : Nat) : Bool :=
  s.mig.lag.any (fun g => g.atoll == isl / 64 && g.dom == t.desc.domain && g.line == l) ||
    s.mig.reads.any (fun r => r.island == isl && r.tag == t.tag && r.line == l && r.served && r.live)

/-- The requester has asked for the line already (R90: each requester measures its own time). -/
def lineAsked (s : State) (t : Task) (isl l : Nat) : Bool :=
  s.mig.reads.any (fun r => r.island == isl && r.tag == t.tag && r.line == l && r.live)

/-- Heat and latent errors of a read that goes through. -/
def readEffects (s : State) (t : Task) (isl : Nat) (rs : List (Nat × Nat)) : State :=
  (rs.flatMap (fun r => piecesOf r.1 r.2)).foldl (fun s (a, m) =>
    match xlat s t.desc.domain (some t.tag) a with
    | .ok p =>
      let s := homeAccess (if p.tier = .t3 then s else touch s p.addr m) isl t.desc.domain false p m
      (match p.page with | some k => addHeat s isl t.desc.domain k m | none => s)
    | .error _ => s) s

/-- Every read of operand memory by a task: IN_PLACE (R197), holds (R196), translation, lower tiers (R90), vault-engine
destinations (R95). `own` exempts reads of the task's own output ranges (R273); with `low` false a lagoon staging tile serves the lines (R219). -/
def readGate (s : State) (t : Task) (isl : Nat) (own low : Bool) (rs : List (Nat × Nat)) : Gate :=
  let rs := rs.filter (fun r => decide (0 < r.2))
  if !own && !t.desc.pinned && rs.any (fun r => (outRanges t).any (fun o => overlaps o r)) then .fault s .inPlace
  else if rs.any (pendingElsewhere s t) then .wait s .held
  else
    match rs.findSome? (fun r => vaFault s t.desc.domain (some t.tag) r.1 r.2) with
    | some e => .fault s e
    | none =>
      let lines := lowLines s t rs
      let missing := if low then lines.filter (fun l => !(lineHere s t isl l)) else []
      if !missing.isEmpty then
        let new := (missing.filter (fun l => !(lineAsked s t isl l))).eraseDups
        let asked := s.mig.reads ++ new.map (fun l => LowRead.mk t.desc.domain isl t.tag l s.now false true (islandAt s isl).pc)
        .wait { s with mig := { s.mig with reads := asked } } .lower
      else if (rs.flatMap (fun r => piecesOf r.1 r.2)).any (fun (a, m) =>
          match xlat s t.desc.domain (some t.tag) a with
          | .ok p => p.tier == .t1 && engineBusy s p.addr m
          | .error _ => false) then .wait s .engine
      else
        let s := { s with mig := { s.mig with reads := s.mig.reads.filter (fun r =>
          !(r.island == isl && r.tag == t.tag && r.served && lines.contains r.line)) } }
        .go (readEffects s t isl rs)

/-- A page of a SEAL that is still in progress takes writes of the tasks it waits for (R87, R88). -/
def sealExempt (s : State) (t : Task) (page : Option Nat) : Bool :=
  match page with
  | none => false
  | some k => s.mig.seals.any (fun q => q.dom == t.desc.domain && decide (q.first ≤ k) && decide (k < q.first + q.count) &&
      q.tags.contains t.tag)

/-- Every write of operand memory by a task: output ranges (R177), sealed pages (R86), vault-engine destinations. -/
def writeGate (s : State) (t : Task) (rs : List (Nat × Nat)) : Gate :=
  let rs := rs.filter (fun r => decide (0 < r.2))
  if rs.any (fun r => !((outRanges t).any (fun o => decide (o.1 ≤ r.1) && decide (r.1 + r.2 ≤ o.1 + o.2)))) then
    .fault s .overflowFault
  else
    let places := (rs.flatMap (fun r => piecesOf r.1 r.2)).map (fun (a, m) => (xlat s t.desc.domain (some t.tag) a, m))
    match places.findSome? (fun (p, _) => match p with | .error e => some e | .ok _ => none) with
    | some e => .fault s e
    | none =>
      if places.any (fun (p, _) => match p with
          | .ok p => p.tier != .t1 || (p.sealed && !(sealExempt s t p.page))
          | .error _ => false) then .fault s .sealedWrite
      else if places.any (fun (p, m) => match p with | .ok p => engineBusy s p.addr m | .error _ => false) then
        .wait s .engine
      else .go s

/-- The writes of a task, after their gate: bytes and heat. -/
def taskWrite (s : State) (t : Task) (isl : Nat) (ws : List (Nat × List MByte)) : State :=
  ws.foldl (fun s w =>
    let s := vaWrite s t.desc.domain (some t.tag) w.1 w.2
    (piecesOf w.1 w.2.length).foldl (fun s (a, m) =>
      match xlat s t.desc.domain (some t.tag) a with
      | .ok p =>
        let s := homeAccess s isl t.desc.domain true p m
        (match p.page with | some k => addHeat s isl t.desc.domain k m | none => s)
      | .error _ => s) s) s

/-! ### Moving pages (R84) -/

/-- Drop the translations of a page in every island, with the bytes gathered for its heat (R84 step 4). -/
def dropXlat (s : State) (d page : Nat) : State :=
  { s with islands := sparseMap {} s.islands (fun i =>
      { i with xlat := i.xlat.filter (fun e => e.1 != d * 2 ^ 32 + page) }) }

/-- A lower-tier read is outstanding against a DRAM frame. -/
def frameRead (s : State) (frame : Nat) : Bool :=
  s.mig.reads.any (fun r => decide (frame * 512 ≤ r.line) && decide (r.line < frame * 512 + 512) && !r.served)

/-- The move of a page to a DRAM frame, steps 1 to 4; the old DRAM frame is free unless reads are outstanding
against it (R84). -/
def movePage (s : State) (d page : Nat) (p : Page) (tier : Tier) (frame : Nat) : State :=
  let s1 := if p.tier = .t3
    then dramWrite s (frame * pageSize) (placeRead s ⟨.t3, p.frame * pageSize, true, none⟩ pageSize)
    else dramCopy s (p.frame * pageSize) (frame * pageSize) pageSize
  let q : Page := { p with tier := tier, frame := frame, moving := false }
  let s2 := modDom s1 d (fun x => { x with pages := sparseSet none x.pages page (some q) })
  let s3 := dropXlat (if p.tier = .t3 then s2 else dropFrame s2 p.frame) d page
  if p.tier = .t3 || !(frameRead s p.frame) then s3
  else { s3 with mig := { s3.mig with olds := s3.mig.olds ++ [⟨d, p.frame⟩] } }

/-- Count a page through its atoll's causeway (R102): the atoll of the vault at the near end. -/
def countMove (s : State) (up : Bool) (frame : Nat) : State :=
  let a := frame / 16384 / 64
  { s with mig := if up then { s.mig with promoted := modAt s.mig.promoted a (fun n => wrap32 (n + 1)) }
    else { s.mig with demoted := modAt s.mig.demoted a (fun n => wrap32 (n + 1)) } }

/-- A T1 page that may demote: sealed, heat at most D, and no SEAL of it still waiting (R83). -/
def demotable (s : State) (d : Nat) (k : Nat) (p : Page) : Bool :=
  p.tier == .t1 && p.sealed && decide (p.heat ≤ (memRec s d).demoteT) &&
    !(s.mig.seals.any (fun q => q.dom == d && decide (q.first ≤ k) && decide (k < q.first + q.count)))

/-- The next page to demote from a set of vaults: lowest heat first, ties by lowest page number (R83). -/
def nextDemote (s : State) (d : Nat) (vs : List Nat) : Option (Nat × Page) :=
  ((domPages s d).filter (fun (k, p) => vs.contains (p.frame / 16384) && demotable s d k p)).foldl (fun acc e =>
    match acc with
    | none => some e
    | some b => if e.2.heat < b.2.heat then some e else some b) none

/-- Demote one page to T2; none when its channel has no free frame (R83, R85). DESIGN CHOICE: a demotion goes to channel (page
mod n) alone, so it fails with FAR_FULL where that channel is full, though another channel of the domain may have room. -/
def demotePage (s : State) (d : Nat) (k : Nat) (p : Page) : Option State :=
  (chanFrame s d k false).map (fun f => countMove (movePage s d k p .t2 f) false p.frame)

/-- T2 is full for the domain: FAR_FULL is logged once per millisecond and its event raised (R85, R547). DESIGN CHOICE: the
millisecond is the module's, not a domain's: within it the entry of one domain stands for all; the spec says neither. -/
def farFull (s : State) (d : Nat) : State :=
  match s.mig.farLogAt with
  | some t => if s.now < t + 1000000 then s
      else raise 0x206 (logE 0 .farFull (some 0x206) d [] { s with mig := { s.mig with farLogAt := some s.now } })
  | none => raise 0x206 (logE 0 .farFull (some 0x206) d [] { s with mig := { s.mig with farLogAt := some s.now } })

/-- Remove the clean lagoon copies of a page's lines (R87 PROMOTE, R84). -/
def dropLagoon (s : State) (d : Nat) (p : Page) : State :=
  let lo := lineOf ⟨p.tier, p.frame * pageSize, false, none⟩
  { s with mig := { s.mig with lag := s.mig.lag.filter (fun l =>
      !(l.dom == d && decide (lo ≤ l.line) && decide (l.line < lo + 512))) } }

/-! ### Structure frames (R77, R81) -/

/-- The structure reserve of a split-mode domain whose vaults are `vs`: first frame and number of frames at the top of the
highest-indexed vault (R81). -/
def reserveFrames (m : MemRec) (vs : List Nat) : Option (Nat × Nat) :=
  vs.getLast?.map (fun v => (v * 16384 + 16384 - reserveBytes m / pageSize, reserveBytes m / pageSize))

/-- A frame for a structure: of the reserve, of the domain's lowest-indexed vault for the directory, else of its vaults in
ascending island index (R77, R81). -/
def structFrame (s : State) (d : Nat) (k : StructKind) : Option Nat :=
  let m := memRec s d
  let vs := ownedIslands s d
  if m.split then (reserveFrames m vs).bind (fun r => freeFrame s r.1 r.2)
  else if k = .directory then (openVaults s d).head?.bind (freeInVault s)
  else (openVaults s d).findSome? (fun v => freeInVault s v)

/-- Allocate `n` structure frames, one at a time, each where `place` says. -/
def allocFrames (place : State → Option Nat) (d : Nat) (k : StructKind) : Nat → State → Option State
  | 0, s => some s
  | n + 1, s =>
    match place s with
    | none => none
    | some f => allocFrames place d k n (modDom s d (fun x => { x with frames := x.frames ++ [(f, k)] }))

/-- The lowest run of `n` free frames among the `m` from `base`. -/
def freeRun (s : State) (base m n : Nat) : Option Nat :=
  let used := (usedFrames s).filter (fun f => decide (base ≤ f) && decide (f < base + m))
  -- a run begins at the base or behind a frame in use
  ((base :: used.map (· + 1)).filter (fun f => decide (f + n ≤ base + m) &&
      !(used.any (fun u => decide (f ≤ u) && decide (u < f + n))))).foldl (fun acc f =>
    match acc with
    | none => some f
    | some g => some (min f g)) none

/-- The place of a leaf table: a run of `n` frames, whose address its directory entry holds, in the domain's first vault that
has one (R77, R78). -/
def leafRun (s : State) (d n : Nat) : Option Nat := (openVaults s d).findSome? (fun v => freeRun s (v * 16384) 16384 n)

/-- Allocate `n` structure frames; none when the reserve or the vaults cannot give them (NEAR_FULL, R81). -/
def allocStruct (s : State) (d : Nat) (k : StructKind) (n : Nat) : Option State :=
  match k with
  | .leaf _ => (leafRun s d n).map (fun f => modDom s d (fun x =>
      { x with frames := x.frames ++ (List.range n).map (fun i => (f + i, k)) }))
  | .directory => allocFrames (fun s => structFrame s d k) d k n s
  | .program _ => allocFrames (fun s => structFrame s d k) d k n s
  | .lists => allocFrames (fun s => structFrame s d k) d k n s
  | .prefixes => allocFrames (fun s => structFrame s d k) d k n s
  | .shadows => allocFrames (fun s => structFrame s d k) d k n s

/-- Allocate the frames of a structure that the domain does not hold yet. -/
def ensureStruct (s : State) (d : Nat) (k : StructKind) (n : Nat) : Option State :=
  if (domAt s d).frames.any (fun e => decide (e.2 = k)) then some s else allocStruct s d k n

/-! ### The page map as it stands in memory (R77, R78) -/

/-- The code of a tier in a leaf entry. -/
def tierCode : Tier → Nat
  | .t1 => 0 | .t2 => 1 | .t3 => 2

/-- The 64 bits of a leaf entry. -/
def leafEntry : Option Page → Nat
  | none => 0
  | some p => 1 + 2 * tierCode p.tier + (if p.sealed then 8 else 0) + (if p.moving then 16 else 0) + 256 * (p.heat % 256) +
      2 ^ 16 * (p.frame % 2 ^ 36)

/-- The 64 bits of directory entry `i`: VALID and the address of the leaf table of that span, divided by 64 KiB. -/
def dirEntry (s : State) (d i : Nat) : Nat :=
  match (domAt s d).frames.find? (fun e => decide (e.2 = .leaf i)) with
  | none => 0
  | some e => 1 + 2 ^ 16 * e.1

/-- Free a structure's frames. -/
def freeStruct (s : State) (d : Nat) (k : StructKind) : State :=
  modDom s d (fun x => { x with frames := x.frames.filter (fun e => decide (e.2 ≠ k)) })

end Sys2Proof.Machine
end

