-- ==== Sys2Proof/Machine/Walk.lean ====
section
/-!
DEFINITION. The walk of an island through its program: extents in force, loop entry, loop-back and skips
(R180, R191, R205, R206).
-/
namespace Sys2Proof.Machine

/-- The record of the group block that an island is in (R191). -/
def groupRecOf (x : Island) : Option GroupRec := x.group.bind (fun g => g.recs[g.at_]?)

/-- The group index that drives stride slot 8 (R181, R191). -/
def groupIndex (x : Island) : Nat := match groupRecOf x with | some r => r.index | none => 0

/-- The extents in force: the record's M, N and K, with G 1, inside a group block, the task's own outside (R191, R206). -/
def extNow (t : Task) (x : Island) : List Nat :=
  match groupRecOf x with
  | some r => [r.m, r.n, r.k, 1]
  | none => t.ext

/-- The extents that drive trip counts: E_G is 1 (R206). -/
def loopExt (t : Task) (x : Island) : List Nat := (extNow t x).take 3 ++ [1]

/-- A loop is running: its trip count, taken at its entry, is not zero. -/
def loopActive (x : Island) (l : Nat) : Bool := decide (0 < x.loopTrip.getD l 0)

/-- Instructions in a loop's range, less one. -/
def loopSpan (p : Program) (l : Nat) : Nat := match p.loops[l]? with | some lp => lp.last - lp.first | none => 0

/-- The loops that satisfy a test, ascending. -/
def loopsWhere (p : Program) (f : Nat → Loop → Bool) : List Nat :=
  (List.range p.loops.length).filter (fun i => match p.loops[i]? with | some l => f i l | none => false)

/-- The loop to enter next at the current instruction: the outermost; of two with one range the lower-numbered. -/
def loopToEnter (p : Program) (x : Island) : Option Nat :=
  (loopsWhere p (fun i l => l.first == x.pc && !(loopActive x i))).foldl (fun acc l =>
    match acc with
    | none => some l
    | some o => if loopSpan p o < loopSpan p l then some l else some o) none

/-- The innermost running loop that ends at an instruction. -/
def loopToEnd (p : Program) (x : Island) (last : Nat) : Option Nat :=
  (loopsWhere p (fun i l => l.last == last && loopActive x i)).foldl (fun acc l =>
    match acc with
    | none => some l
    | some o => if loopSpan p o < loopSpan p l then some o else some l) none

/-- Leave an instruction: its loops iterate, innermost first, or end (R180). -/
def leaveInsn (t : Task) : Nat → Island → Nat → Island
  | 0, x, last => { x with pc := last + 1 }
  | fuel + 1, x, last =>
    match loopToEnd t.prog x last with
    | none => { x with pc := last + 1 }
    | some o =>
      let i := x.loopIdx.getD o 0 + 1
      if i < x.loopTrip.getD o 0 then
        { x with pc := (match t.prog.loops[o]? with | some lp => lp.first | none => last + 1),
                 loopIdx := setAt x.loopIdx o i }
      else leaveInsn t fuel { x with loopTrip := setAt x.loopTrip o 0, loopIdx := setAt x.loopIdx o 0 } last

/-- Leave an instruction of a task's program. -/
def leaveAt (t : Task) (x : Island) (last : Nat) : Island := leaveInsn t (t.prog.loops.length + 1) x last

/-- Enter the loops that begin at the current instruction; a loop of trip count zero is skipped, which ends an
iteration of the loops around it that end with it (R180, R206). The first argument bounds the recursion. -/
def enterLoops (t : Task) : Nat → Island → Island
  | 0, x => x
  | fuel + 1, x =>
    match loopToEnter t.prog x with
    | none => x
    | some l =>
      match t.prog.loops[l]? with
      | none => x
      | some lp =>
        let n := tripCount t.prog t.tile x.loopIdx (loopExt t x) lp
        if 0 < n then enterLoops t fuel { x with loopTrip := setAt x.loopTrip l n, loopIdx := setAt x.loopIdx l 0 }
        else enterLoops t fuel (leaveAt t x lp.last)

/-- A bound on loop entries between two instructions, beyond every product of trip counts. -/
def walkFuel : Nat := 2 ^ 400

/-- The island after the instruction at its pc has completed. -/
def advancePc (t : Task) (x : Island) : Island :=
  enterLoops t walkFuel (leaveAt t { x with stall := none, progress := 0 } x.pc)

/-- Go to an instruction outside every loop (GBEGIN and GEND stand outside the loops, R207). -/
def jumpTo (t : Task) (x : Island) (pc : Nat) : Island := enterLoops t walkFuel { x with pc := pc, stall := none, progress := 0 }

end Sys2Proof.Machine
end

