-- ==== Sys2Proof/Machine/Tasks.lean ====
section
/-!
DEFINITION. The life of a task on an island and after it: start, wipe, kill, end with a status, commit
(R146, R174, R194-R200, R355-R367).
-/
namespace Sys2Proof.Machine

/-- The members of a task's gang in flight, itself included; a task in no gang is a gang of one (R174). -/
def gangOf (s : State) (t : Task) : List Task :=
  if t.desc.gangId = 0 then s.tasks.filter (fun u => u.tag == t.tag)
  else s.tasks.filter (fun u => u.desc.domain == t.desc.domain && u.desc.gangId == t.desc.gangId)

/-- The gang key of a staging tile: GANG_ID, or the tag of a task in no gang, apart from every GANG_ID (R218). -/
def gangKey (t : Task) : Nat := if t.desc.gangId = 0 then 2 ^ 16 + t.tag else t.desc.gangId

/-- Wipe an island at a task boundary: scratchpad, tiles and walk are gone, and a pending bank flips (R199, R244). A SIGNAL that
still waits for what was issued before it is dropped. DESIGN CHOICE: the spec does not say what becomes of it when its task
ends with a status or is killed; after COMMIT none is left. -/
def wipeIsland (now : Nat) (x : Island) : Island :=
  { x with task := none, pc := 0, loopIdx := [], loopTrip := [], group := none, scratch := [], marks := [], tiles := [],
           packing := [], stall := none, progress := 0, waiting := [], issued := 0, sigs := [], accUse := [],
           committing := false, arrivedAt := none, firstAt := none,
           fun_ := flipBank x.fun_, lens := { torn := x.lens.torn }, idleSince := now }

/-- The island that a task runs on is wiped and free. -/
def freeIsland (s : State) (t : Task) : State :=
  match t.island with
  | none => s
  | some i => modIsland s i (wipeIsland s.now)

/-- A member detaches from every staging tile, and its fallback marks end; a tile without members is freed (R221). -/
def detachAll (s : State) (tag : Nat) : State :=
  { s with mig := { s.mig with
      stagings := (s.mig.stagings.map (fun g => { g with members := g.members.filter (· != tag) })).filter
        (fun g => !g.members.isEmpty)
      fallbacks := s.mig.fallbacks.filter (fun f => f.1 != tag) } }

/-- Reads that an ended or killed task had outstanding deliver nothing to it any more (R91, R363). -/
def dropReads (s : State) (tag : Nat) : State :=
  { s with mig := { s.mig with reads := s.mig.reads.map (fun r => if r.tag = tag then { r with live := false } else r) } }

/-- A task that has committed or ended is waited for by nothing any more: SEAL, UNMAP, moves, list generations. -/
def forgetTag (s : State) (tag : Nat) : State :=
  let f := fun (l : List Nat) => l.filter (· != tag)
  { s with
    mig := { s.mig with
      seals := s.mig.seals.map (fun q => { q with tags := f q.tags })
      unmaps := s.mig.unmaps.map (fun q => { q with tags := f q.tags }) }
    doms := sparseMap {} s.doms (fun d => { d with lists := d.lists.map (fun g => { g with tags := f g.tags }) }) }

/-- The RESULT of a task's completion record (R435). -/
def taskResult (t : Task) (pc : Option Nat) : Nat :=
  (if t.phase = .queued then 0xFFFF else t.tag) + 2 ^ 16 * pc.getD 0xFFFF + 2 ^ 32 * min t.kills 255

/-- The completion record of a task (KIND 1, R435). -/
def completeTask (s : State) (t : Task) (st : Status) (pc : Option Nat) : State :=
  cplDeliver s t.src.vf (cqOf s t.src) (cplRecord t.desc.tag st t.src.sq 1 0 (taskResult t pc))

/-- Free the image of a replaced or unloaded program once no task in flight references it (R183). -/
def releaseProgram (s : State) (d serial : Nat) : State :=
  if (domAt s d).programs.any (fun e => match e.2 with | some p => p.1 == serial | none => false) ||
      s.tasks.any (fun u => u.desc.domain == d && u.serial == serial) then s
  else freeStruct s d (.program serial)

/-- Islands a BE task killed three times may still use: its domain's BE islands (R358). -/
def beIslands (s : State) (d : Nat) : List Nat := (ownedIslands s d).filter (fun i => (islRec s i).be)

/-- A free slot of a dispatcher, lowest first (R194: the tag names atoll and slot). -/
def freeSlot (s : State) (atoll : Nat) : Option Nat :=
  lowestFree (s.tasks.map (·.tag)) (atoll * 2 ^ 14) (2 ^ 14) (s.tasks.length + 1) 0

/-- Give a task that moves to another dispatcher its slot there (R358), wherever its tag is held. -/
def retag (s : State) (old new : Nat) : State :=
  let f := fun (l : List Nat) => l.map (fun x => if x = old then new else x)
  { s with
    tasks := s.tasks.map (fun u => if u.tag = old then { u with tag := new } else u)
    mig := { s.mig with
      seals := s.mig.seals.map (fun q => { q with tags := f q.tags })
      unmaps := s.mig.unmaps.map (fun q => { q with tags := f q.tags }) }
    doms := sparseMap {} s.doms (fun d => { d with lists := d.lists.map (fun g => { g with tags := f g.tags }) })
    vaults := sparseMap {} s.vaults (fun v => { v with ops := v.ops.map (fun o =>
      match o.owner with
      | .task tg a => if tg = old then { o with owner := .task new a } else o
      | .host => o
      | .hub => o) }) }

/-- A BE task killed three times, unplaced, moves to the dispatcher of its domain's lowest BE island once a slot is free there
(R358, R366). -/
def moveToBe (s : State) (t : Task) : State :=
  if t.desc.place.isNone && !t.desc.lc && decide (3 ≤ t.kills) && decide (t.phase = .killed) then
    match (beIslands s t.desc.domain).head? with
    | none => s
    | some i => if i / 64 = t.tag / 2 ^ 14 then s else
        match freeSlot s (i / 64) with
        | none => s
        | some n => retag s t.tag n
  else s

/-- The same for every task: a slot has freed, or the BE islands of a domain have changed. -/
def lateMoves (s : State) : State := s.tasks.foldl moveToBe s

/-- Take a task out of flight: its island, staging, reads, pending entries and program reference are released. -/
def removeTask (s : State) (t : Task) : State :=
  let s := detachAll (dropReads (freeIsland s t) t.tag) t.tag
  let s := forgetTag { s with tasks := s.tasks.filter (fun u => u.tag != t.tag) } t.tag
  releaseProgram s t.desc.domain t.serial

/-- Shares that the dispatcher made of one D0 task (R359). -/
def sharesOf (s : State) (t : Task) : List Task :=
  match t.share with
  | none => []
  | some p => s.tasks.filter (fun u => decide (u.share = some p) && u.tag != t.tag)

/-- The output ranges of a task that ends without commit are undefined once they were entered (R194). -/
def undefineOut (s : State) (t : Task) : State :=
  if hasEntered t then undefineBytes s t.desc.domain (some t.tag) (outRanges t) else s

/-- The event that the end of a task raises, as its log entry names it (R448, R455). -/
def endSource (t : Task) (st : Status) : Option Nat :=
  if st = .pinOverrun then some (0x1C0 + t.tag / 2 ^ 14) else if st = .hostReadFault then some 0x207 else none

/-- End one task with a status, with its completion record and a warning in the log (R194, R200, R472). -/
def endOne (s : State) (t : Task) (st : Status) (pc : Option Nat) : State :=
  let s := logE 1 st (endSource t st) t.desc.domain [] s
  removeTask (completeTask (undefineOut s t) t st pc) t

/-- End a task with a status; the other members of its gang end with GANG_ABORTED, and the other shares of a D0
split end under the one record that its task has (R200, R359). -/
def endTask (s : State) (t : Task) (st : Status) (pc : Option Nat) : State :=
  let others := (gangOf s t).filter (fun u => u.tag != t.tag)
  let shares := sharesOf s t
  let s := endOne s t st pc
  let s := others.foldl (fun s u => endOne s u .gangAborted none) s
  lateMoves (shares.foldl (fun s u => removeTask (undefineOut s u) u) s)

/-- A pinned task ends with PIN_OVERRUN: event and count (R367, R376). -/
def overrun (s : State) (t : Task) : State :=
  let a := t.tag / 2 ^ 14
  raise (0x1C0 + a) { (endTask s t .pinOverrun none) with dspPins := modAt s.dspPins a (fun n => wrap32 (n + 1)) }

/-- The other members of a gang note that a member has committed: they start again without it (R174, R355). -/
def noteCommit (s : State) (t : Task) : State :=
  if t.desc.gangId = 0 then s
  else { s with tasks := s.tasks.map (fun u =>
    if u.desc.domain == t.desc.domain && u.desc.gangId == t.desc.gangId then { u with mates := u.mates + 1 } else u) }

/-- The commit point and what follows it: pending entries out, SIGNALs in entry order, the island wiped, and the
completion record when COMPLETE asks for it (R198). A share of a D0 split signals and reports with the last (R359). -/
def commitTask (s : State) (t : Task) : State :=
  let last := (sharesOf s t).isEmpty
  let s1 := lateMoves (noteCommit (removeTask s t) t)
  let s2 := if last then applySignals s1 t.desc.signals else s1
  if last && t.desc.complete then completeTask s2 t .success none else s2

/-- Empty the straits between a set of islands, routes and FIFOs (R26, R364). -/
def fenceBetween (s : State) (islands : List Nat) : State :=
  let st := s.conf.straits.filter (fun x => islands.contains x.src && islands.contains x.dst)
  { s with
    flights := st.foldl (fun f x => sparseErase f (x.src * 8 + x.sch)) s.flights
    fifos := st.foldl (fun f x => sparseErase f (x.dst * 8 + x.rch)) s.fifos }

/-- Kill one task: its island is wiped, it keeps its pending entries and waits to run again (R363, R365). -/
def killOne (s : State) (t : Task) : State :=
  if t.phase = .running then
    let i := t.island.getD 0
    let s := detachAll (dropReads (freeIsland s t) t.tag) t.tag
    let k := t.kills + 1
    let t' := { t with phase := .killed, island := none, started := none, kills := k, attempt := t.attempt + 1,
                       drained := false }
    let s := { (setTask s t') with dspKills := modAt s.dspKills (t.tag / 2 ^ 14) (fun n => wrap32 (n + 1)) }
    let s := logE 1 .killed none t.desc.domain (leBytes 2 t.tag ++ leBytes 1 (min k 255) ++ leBytes 1 i) s
    moveToBe s t'
  else s

/-- Kill a task with its whole gang, and fence the straits between its members (R174, R363, R364). -/
def killGang (s : State) (t : Task) : State :=
  let g := (gangOf s t).filter (fun u => decide (u.phase = .running))
  let islands := g.filterMap (·.island)
  g.foldl killOne (if 2 ≤ t.desc.gangSize then fenceBetween s islands else s)

/-- A task is killable: BE, running, not pinned, not on a BE island, not past its commit point (R362). -/
def killable (s : State) (t : Task) : Bool :=
  !t.desc.lc && !t.desc.pinned && decide (t.phase = .running) &&
  (match t.island with | some i => !((islRec s i).be) | none => false)

/-- An attempt that met TORN_TABLE runs again with its gang, as after a kill but not counted as one, with a new
snapshot taken then; the third ends the task (R267). -/
def tornTask (s : State) (t : Task) (pc : Nat) : State :=
  let s := match t.island with
    | some i => modIsland s i (fun x => { x with lens := { x.lens with torn := wrap32 (x.lens.torn + 1) } })
    | none => s
  if 2 ≤ t.torn then endTask s { t with torn := 3 } .tornTable (some pc)
  else
    let g := (gangOf s t).filter (fun u => decide (u.phase = .running))
    let s := if 2 ≤ t.desc.gangSize then fenceBetween s (g.filterMap (·.island)) else s
    g.foldl (fun s u =>
      let s := detachAll (dropReads (freeIsland s u) u.tag) u.tag
      setTask s { u with phase := .killed, island := none, started := none, attempt := u.attempt + 1, drained := false,
                         torn := u.torn + (if u.tag = t.tag then 1 else 0), resnap := true }) s

/-- Vault-engine operations of the attempt before this one that have not completed (R365). -/
def oldVengs (s : State) (t : Task) : Bool :=
  s.vaults.any (fun (_, v) => v.ops.any (fun o => match o.owner with
    | .task tg a => tg == t.tag && a != t.attempt
    | .host => false
    | .hub => false))

/-- Vault-engine operations of this attempt that have not completed (R198). -/
def ownVengs (s : State) (t : Task) : Bool :=
  s.vaults.any (fun (_, v) => v.ops.any (fun o => match o.owner with
    | .task tg a => tg == t.tag && a == t.attempt
    | .host => false
    | .hub => false))

/-- A tile as its allocation leaves it: zero, finite, anchor unset (R146). -/
def freshTile (shape : Nat) (fp : Bool) : AccTile :=
  ⟨shape, fp, if shapeRows shape = 256 then [none, none] else [none], []⟩

/-- Staged lines of the ranges that a task enters in the pending table are dropped (R220). -/
def dropStaged (s : State) (t : Task) : State := dropStagedIn s t.desc.domain (outRanges t)

/-- Start one task on an island: tiles are allocated, its output ranges enter the pending table, and the program is
in the store, fetched first if needed and most recently used (R146, R183, R194). Modes declared as the domain's are
taken now (R179). -/
def startOne (s : State) (t : Task) (i : Nat) : State :=
  let fp := t.prog.acc.map (fun a => match a.2 with
    | .w128 => false
    | .fp32 => true
    | .fromDomain => (numRec s t.desc.domain).accFp)
  let x := islandAt s i
  let x' : Island := { wipeIsland s.now x with
    task := some t.tag
    loopIdx := List.replicate t.prog.loops.length 0
    loopTrip := List.replicate t.prog.loops.length 0
    tiles := (t.prog.acc.zip fp).map (fun a => freshTile a.1.1 a.2)
    store := (t.serial, t.prog.bytes) :: x.store.filter (fun e => e.1 != t.serial)
    dozing := false }
  let t' := { t with phase := .running, island := some i, started := some s.now, accFp := fp, resnap := false,
                     snap := if t.resnap then (domAt s t.desc.domain).listSeq else t.snap }
  dropStaged (setTask (setIsland s i (enterLoops t' walkFuel x')) t') t'

end Sys2Proof.Machine
end

