-- ==== Sys2Proof/Machine/Commands.lean ====
section
/-!
DEFINITION. What every ring command shares: the header, the check against the domain's state, refusal and operands in
range (R433, R439-R442).
-/
namespace Sys2Proof.Machine

/-- Where a record's completion goes. -/
def srcOf (h : Hdr) : Src := ⟨h.vf, h.sq, h.cmdId.toNat⟩

/-- The info entry of a command refused in its domain's state (R442, R472). -/
def logRefused (s : State) (op st dom cmd : Nat) : State :=
  logE 0 .stateRefused none dom (leBytes 1 op ++ leBytes 1 st ++ leBytes 4 cmd) s

/-- The code of a domain state (R440). -/
def stateCode : DomState → Nat
  | .empty => 0 | .bound => 1 | .loaded => 2 | .active => 3 | .draining => 4 | .quiesced => 5 | .faulted => 6

/-- A command that its domain's state does not accept: STATE_REFUSED, with an info entry (R441, R442). -/
def refuseState (src : Src) (op : Nat) (dom : Option Nat) (s : State) : State :=
  let st := match dom with | some d => stateCode (domAt s d).st | none => 0
  complete src .stateRefused 0 (logRefused s op st (dom.getD 0xFF) src.cmd)

/-- Run a command in a domain whose state accepts it (R441). A VF that no record names reaches no domain (R427). -/
def ringCmd (src : Src) (op : Nat) (ok : List DomState) (k : Nat → State → State) (s : State) : State :=
  match domOfVf s src.vf with
  | none => refuseState src op none s
  | some d => if ok.contains (domAt s d).st then k d s else refuseState src op (some d) s

/-- States that accept setup commands: memory, programs, lists, prefixes, reef (R441). -/
def setupStates : List DomState := [.bound, .loaded, .active, .draining, .quiesced]

/-- A command refused without side effects (R439): its status, and an info entry in the log (R472). -/
def refuse (src : Src) (st : Status) (s : State) : State :=
  complete src st 0 (logE 0 st (if st = .hostReadFault then some 0x207 else none) ((domOfVf s src.vf).getD 0xFF) [] s)

/-- Complete a command with success and no result. -/
def succeed (src : Src) (s : State) : State := complete src .success 0 s

end Sys2Proof.Machine
end

