-- ==== Sys2Proof/Machine/Operands.lean ====
section
/-!
DEFINITION. Operand forms of island instructions: address generators, scratchpad access, operand memory with its
masking, the gates as steps of an instruction, scale vectors (R181, R184, R185, R199, R224-R227, R552, R553).
-/
namespace Sys2Proof.Machine

/-- What an instruction sees: its island, its task, the island's state, the extents in force, and its place in the island's
issue order. -/
structure Ctx where
  isl : Nat
  t : Task
  x : Island
  w : Insn
  ext : List Nat
  id : Nat
  deriving DecidableEq, Repr

/-- How an instruction comes out: it completes, it stands still for a reason, it ends its task with a status, or it
ends the attempt with TORN_TABLE (R267). -/
inductive Res where
  | next (s : State)
  | jump (s : State) (pc : Nat)
  | done (s : State)
  | wait (s : State) (why : Stall)
  | fault (s : State) (st : Status)
  | torn (s : State)

/-- An operand descriptor that no program names. -/
def noOperand : Operand := ⟨0, 0, .fp32, false, 0, false, 0, 0, 0, 0, 0, false⟩

/-- The task's operand `i`. -/
def operandOf (c : Ctx) (i : Nat) : Operand := c.t.ops.getD i noOperand

/-- An address generator of the program. -/
def agOf (c : Ctx) (i : Nat) : AddrGen := c.t.prog.ags.getD i ⟨none, 0, [], []⟩

/-- The operand that an address generator addresses; none for the scratchpad (R181). -/
def agOperand (c : Ctx) (i : Nat) : Option Operand := (agOf c i).operand.map (operandOf c)

/-- The address an address generator gives with an immediate (R181). -/
def agAt (c : Ctx) (i imm : Nat) : Int :=
  let base : Int := match agOperand c i with | some o => (o.base : Int) | none => 0
  agAddr (agOf c i) base c.x.loopIdx (groupIndex c.x) imm

/-- The current origin of a dimension code; the unit extent has origin 0 (R206). -/
def originNow (c : Ctx) (d : Nat) : Nat :=
  if d < 4 then originOf c.t.prog c.t.tile c.x.loopIdx d else 0

/-- Rows and columns of an operand under the extents in force (R177, R191). -/
def extOf (c : Ctx) (o : Operand) : Nat × Nat := (dimExt c.ext o.rdim, dimExt c.ext o.cdim)

/-! ### Scratchpad (R185, R199) -/

/-- A scratchpad range lies in the task's region. -/
def inScratch (c : Ctx) (a : Int) (n : Nat) : Bool :=
  n == 0 || (decide (0 ≤ a) && decide (a + n ≤ (c.t.prog.scratch : Int)))

/-- Bytes of the scratchpad with the poison marks of their lines. -/
def scratchRead (c : Ctx) (a : Int) (n : Nat) : Except Status (List MByte) :=
  if inScratch c a n then
    .ok ((List.range n).map (fun i =>
      let b := a.toNat + i
      (sparseGet 0 c.x.scratch b, sparseGet false c.x.marks (b / 64))))
  else .error .overflowFault

/-- Scratchpad bytes that are consumed: a poisoned line ends the task (R70). -/
def scratchUse (c : Ctx) (a : Int) (n : Nat) : Except Status (List Byte) :=
  match scratchRead c a n with
  | .error e => .error e
  | .ok d => if anyMark d then .error .poison else .ok (plain d)

/-- FP32 values from the scratchpad. -/
def scratchF32 (c : Ctx) (a : Int) (n : Nat) : Except Status (List Val) :=
  match scratchUse c a (4 * n) with
  | .error e => .error e
  | .ok b => .ok ((List.range n).map (fun i => ofF32 (leAt b (4 * i) 4)))

/-- Put bytes in a scratchpad: a line written whole loses its mark, a marked byte marks its line (R70). -/
def putScratch (x : Island) (a : Nat) (data : List MByte) : Island :=
  let n := data.length
  let lines := unitsOf 64 a n
  let cleared := (lines.filter (fun l => decide (a ≤ 64 * l) && decide (64 * l + 64 ≤ a + n))).foldl
    (fun m l => sparseErase m l) x.marks
  let marked := lines.filter (fun l => (List.range n).any (fun i => (a + i) / 64 == l && (data.getD i (0, false)).2))
  { x with scratch := memPut x.scratch a (plain data), marks := marked.foldl (fun m l => sparseSet false m l true) cleared }

/-- Write ranges of the scratchpad and complete, or end the task at the first range outside it. -/
def putRanges (c : Ctx) (ws : List (Int × List MByte)) (s : State) : Res :=
  if ws.all (fun w => inScratch c w.1 w.2.length) then
    .next (modIsland s c.isl (fun x => ws.foldl (fun x w => putScratch x w.1.toNat w.2) x))
  else .fault s .overflowFault

/-- Bytes without marks. -/
def clean (b : List Byte) : List MByte := b.map (fun v => (v, false))

/-- FP32 bits of values, little-endian. -/
def f32Bytes (vs : List Val) : List Byte := vs.flatMap (fun v => leBytes 4 (f32 v))

/-! ### Operand memory (R224, R225, R227) -/

/-- The row index and column byte of an address in an operand (R224). -/
def rowCol (o : Operand) (a : Int) : Int × Int :=
  if o.pitch = 0 then (0, a - o.base)
  else
    let r := (a - o.base) / (o.pitch : Int)
    (r, a - o.base - r * o.pitch)

/-- The part of `[a, a + n)` that lies in row `r` of an operand with `cb` column bytes: offset in the range, address,
length. -/
def rowSeg (o : Operand) (cb : Nat) (a : Int) (n : Nat) (r : Int) : List (Nat × Nat × Nat) :=
  let start := (o.base : Int) + r * o.pitch
  let lo := max a start
  let hi := min (a + n) (start + (if o.pitch = 0 then cb else min cb o.pitch : Nat))
  if lo < hi then [((lo - a).toNat, lo.toNat, (hi - lo).toNat)] else []

/-- The bytes of `[a, a + n)` that lie within an operand's extents, as segments (R224). -/
def segs (c : Ctx) (o : Operand) (a : Int) (n : Nat) : List (Nat × Nat × Nat) :=
  let (nr, nc) := extOf c o
  let cb := colBytes o nc
  if n = 0 ∨ nr = 0 then []
  else if o.pitch = 0 then rowSeg o cb a n 0
  else
    let first := max 0 (rowCol o a).1
    let last := min ((nr : Int) - 1) (rowCol o (a + n - 1)).1
    if first ≤ last then
      (List.range (last - first + 1).toNat).flatMap (fun (i : Nat) => rowSeg o cb a n (first + i))
    else []

/-- The ranges of segments. -/
def segRanges (l : List (Nat × Nat × Nat)) : List (Nat × Nat) := l.map (fun g => (g.2.1, g.2.2))

/-- A line of a staging tile that serves this task: its tile, when the task is attached (R219). -/
def stagedLine (s : State) (c : Ctx) (line : Nat) : Option Staging :=
  s.mig.stagings.find? (fun g => g.id.dom == c.t.desc.domain && g.id.atoll == c.isl / 64 &&
    g.members.contains c.t.tag && g.lines.contains line && !(g.dropped.contains line))

/-- The line has arrived in its staging tile. -/
def lineFilled (g : Staging) (line : Nat) : Bool := (g.lines.take g.filled).contains line

/-- Bytes that a task reads in operand memory. -/
def taskBytes (s : State) (c : Ctx) (a n : Nat) : List MByte := vaBytes s c.t.desc.domain (some c.t.tag) a n

/-- Bytes of a range read by LOAD: lines that a staging tile serves and that host DMA has changed since they were
filled read as they were (R219, R220). -/
def loadBytes (s : State) (c : Ctx) (a n : Nat) : List MByte :=
  let now := taskBytes s c a n
  if s.mig.stagings.all (fun g => g.kept.isEmpty) then now
  else (List.range n).map (fun i =>
    let b := a + i
    match (stagedLine s c (b / 128)).bind (fun g => g.kept.find? (fun k => k.1 == b / 128)) with
    | some k => k.2.getD (b % 128) (0, false)
    | none => now.getD i (0, false))

/-- Lay segments over zeros: masked bytes read as zero (R225). -/
def overlay (n : Nat) (l : List (Nat × List MByte)) : List MByte :=
  l.foldl (fun d g => d.take g.1 ++ g.2 ++ d.drop (g.1 + g.2.length)) (List.replicate n (0, false))

/-- The bytes of `[a, a + n)` through an operand, masked bytes zero. -/
def operandBytes (s : State) (c : Ctx) (o : Operand) (a : Int) (n : Nat) : List MByte :=
  overlay n ((segs c o a n).map (fun g => (g.1, taskBytes s c g.2.1 g.2.2)))

/-! ### The gates as steps of an instruction -/

/-- Read ranges of operand memory, then go on. -/
def withRead (c : Ctx) (own : Bool) (rs : List (Nat × Nat)) (s : State) (k : State → Res) : Res :=
  match readGate s c.t c.isl own true rs with
  | .go s => k s
  | .wait s why => .wait s why
  | .fault s st => .fault s st

/-- Write to operand memory and complete. -/
def withWrite (c : Ctx) (ws : List (Nat × List MByte)) (s : State) (k : State → Res) : Res :=
  match writeGate s c.t (ws.map (fun w => (w.1, w.2.length))) with
  | .go s => k (taskWrite s c.t c.isl ws)
  | .wait s why => .wait s why
  | .fault s st => .fault s st

/-- What an instruction changes beside its write, once the write has gone through. -/
def andThen (r : Res) (f : State → State) : Res :=
  match r with
  | .next s => .next (f s)
  | .jump s pc => .jump s pc
  | .done s => .done s
  | .wait s why => .wait s why
  | .fault s st => .fault s st
  | .torn s => .torn s

/-- Go on with a value, or end the task with a status. -/
def orFault {α : Type} (s : State) (e : Except Status α) (k : α → Res) : Res :=
  match e with
  | .ok v => k v
  | .error st => .fault s st

/-- Collect a list of results, or the first failure. -/
def allOk {α : Type} : List (Except Status α) → Except Status (List α)
  | [] => .ok []
  | .error e :: _ => .error e
  | .ok v :: t => (match allOk t with | .error e => .error e | .ok l => .ok (v :: l))

/-- An address as the domain sees it, 64 bits. -/
def vaOf (a : Int) : Nat := (a % 2 ^ 64).toNat

/-- The bytes at an address generator, from scratchpad or operand memory, consumed (R70). -/
def withBytesAt (c : Ctx) (ag imm n : Nat) (s : State) (k : State → List Byte → Res) : Res :=
  let a := agAt c ag imm
  match agOperand c ag with
  | none => orFault s (scratchUse c a n) (k s)
  | some o =>
    withRead c false (segRanges (segs c o a n)) s (fun s =>
      let d := operandBytes s c o a n
      if anyMark d then .fault s .poison else k s (plain d))

/-- Write bytes at an address generator: into the scratchpad, or within the extents of an output operand (R223,
R227). -/
def putAt (c : Ctx) (ag imm : Nat) (data : List Byte) (s : State) : Res :=
  let a := agAt c ag imm
  match agOperand c ag with
  | none => putRanges c [(a, clean data)] s
  | some o =>
    if o.output then
      withWrite c ((segs c o a data.length).map (fun g => (g.2.1, clean ((data.drop g.1).take g.2.2)))) s .next
    else .fault s .overflowFault

/-! ### Scales (R114, R176, R553) -/

/-- Where the scale of an operand row stands in memory, when it does (SCALE_KIND 2). -/
def scaleRange (c : Ctx) (o : Operand) (r : Int) : List (Nat × Nat) :=
  if o.scaleKind = 2 ∧ 0 ≤ r ∧ r < ((extOf c o).1 : Int) then [(o.scaleVa + 4 * r.toNat, 4)] else []

/-- The scale of an operand row as a conversion takes it: SCALE, the row's entry, or 1.0 (R553). -/
def scaleOf (s : State) (c : Ctx) (o : Operand) (r : Int) : Except Status Val :=
  if o.scaleKind = 1 then .ok (ofF32 o.scale)
  else
    match scaleRange c o r with
    | [] => .ok vone
    | (a, n) :: _ =>
      let d := taskBytes s c a n
      if anyMark d then .error .poison else .ok (ofF32 (leOf (plain d)))

/-- Element `i` of bytes in a format of codes 0x0 to 0x5. -/
def elemAt (f : Fmt) (b : List Byte) (i : Nat) : Val := decodeFmt f (leAt b (elemBytes f * i) (elemBytes f))

/-- A source element as a value: INT8 takes its scale in FP32 (R116, R553). -/
def fromFmt (f : Fmt) (scale v : Val) : Val := if f = .int8 then mulF v scale else v

/-- A value as bytes of a format of codes 0x0 to 0x5; INT8 is divided by the destination's scale (R117, R553). -/
def toFmt (f : Fmt) (scale v : Val) : List Byte :=
  if f = .int8 then leBytes 1 (encodeInt8 v scale) else leBytes (elemBytes f) (encodeFp f v)

/-- Convert the whole elements of a row of bytes. -/
def convertRow (sf df : Fmt) (ss ds : Val) (b : List Byte) : List Byte :=
  (List.range (b.length / elemBytes sf)).flatMap (fun i => toFmt df ds (fromFmt sf ss (elemAt sf b i)))

/-- The table function with a number in the bank that the task took (R232, R239, R243). DEDUCED: a slot that normalisation, the soft
maximum or box decoding names holds the kind they need, else FUNCTION_UNKNOWN (R246, R248, R305); an instruction does not say which
of them it serves, so its function number decides. -/
def tableFn (s : State) (c : Ctx) (n : Nat) : Except Status (Val → Val) :=
  match slotOf (bankInForce c.x.fun_) n with
  | none => .error .functionUnknown
  | some (t, e) =>
    if (match meantKind n with | some k => e.kind != k | none => false) then .error .functionUnknown
    else if (numRec s c.t.desc.domain).det = 2 ∧ ¬ t.published then .error .tableUnpublished
    else .ok (evalEntry t e)

end Sys2Proof.Machine
end

