-- ==== Sys2Proof/Machine/Score.lean ====
section
/-!
DEFINITION. The island's scoreboards: what an instruction reads and writes, which instructions run asynchronously, and when
one may go on while earlier ones have not completed (R12, R147, R187).
-/
namespace Sys2Proof.Machine

/-- What an instruction touches: scratchpad ranges, operand memory ranges, accumulator tiles, strait channels, the lens unit. -/
structure Foot where
  sr : List (Int × Nat) := []
  sw : List (Int × Nat) := []
  mr : List (Nat × Nat) := []
  mw : List (Nat × Nat) := []
  tile : Option Nat := none
  send : Option Nat := none
  recv : Option Nat := none
  lens : Bool := false
  deriving DecidableEq, Repr

/-- Bytes of an operand row in the scratchpad over `n` values of k: whole elements, or the whole bursts they touch
(R188). Rows lie back to back. -/
def rowPitch (o : Operand) (n : Nat) : Nat :=
  match layoutOf o.fmt o.mx with
  | some l => ceilDiv n (groupSize l) * 128
  | none => n * elemBytes o.fmt

/-- Bytes of a partial record (R159). -/
def recordSize (fp : Bool) : Nat := 0x1040 + (if fp then 65536 else 262144)

/-- The row length under CLIP (R228). -/
def rowLen (c : Ctx) : Nat :=
  if bit c.w.flags 1 then
    let d := (operandOf c c.w.opa).cdim
    min c.w.imm2 (dimExt c.ext d - originNow c d)
  else c.w.imm2

/-- Bytes of a statistics record (R278). -/
def statsSize : Nat := 64 + 256 * 32

/-- The memory of an operand's scale vector. -/
def scaleMem (c : Ctx) (o : Operand) : List (Nat × Nat) := if o.scaleKind = 2 then [(o.scaleVa, 4 * (extOf c o).1)] else []

/-- The memory that an operand takes in. -/
def operandMem (c : Ctx) (o : Operand) : List (Nat × Nat) := outRange c.ext o :: scaleMem c o

/-- `n` bytes read at an address generator. -/
def footRead (c : Ctx) (ag imm n : Nat) : Foot :=
  match agOperand c ag with
  | none => { sr := [(agAt c ag imm, n)] }
  | some o => { mr := operandMem c o }

/-- `n` bytes written at an address generator. -/
def footWrite (c : Ctx) (ag imm n : Nat) : Foot :=
  match agOperand c ag with
  | none => { sw := [(agAt c ag imm, n)] }
  | some o => { mw := operandMem c o }

/-- Both of two footprints. -/
def Foot.and (a b : Foot) : Foot :=
  { sr := a.sr ++ b.sr, sw := a.sw ++ b.sw, mr := a.mr ++ b.mr, mw := a.mw ++ b.mw, tile := a.tile <|> b.tile,
    send := a.send <|> b.send, recv := a.recv <|> b.recv, lens := a.lens || b.lens }

/-- All of several footprints. -/
def footAll (l : List Foot) : Foot := l.foldl Foot.and {}

/-- Scale vectors that an instruction reads by operand index. -/
def footScales (c : Ctx) (l : List Nat) : Foot := { mr := l.flatMap (fun i => scaleMem c (operandOf c i)) }

/-- Bytes that a row of `n` bytes of an operand takes up in the scratchpad in a format: as they are, unpacked, or converted
(R553). -/
def loadedLen (o : Operand) (df : Fmt) (unpack : Bool) (n : Nat) : Nat :=
  if unpack then
    match layoutOf o.fmt o.mx with
    | some l => n / 128 * groupSize l * elemBytes df
    | none => 0
  else if df = o.fmt then n
  else n / elemBytes o.fmt * elemBytes df

/-- A LOAD. -/
def footLoad (c : Ctx) : Foot :=
  match agOperand c c.w.ag1, fmtOf (c.w.flags % 16) with
  | some o, some df =>
    if bit c.w.flags 5 then
      footAll [footRead c c.w.ag1 0 0, footRead c c.w.ag2 0 64, footWrite c c.w.ag3 0 (c.w.count * c.w.imm2)]
    else
      footAll [footRead c c.w.ag1 0 0, footWrite c c.w.ag3 0 (c.w.count * loadedLen o df (bit c.w.flags 4) c.w.imm2)]
  | _, _ => {}

/-- Bytes that a row of `n` scratchpad bytes takes up in an operand: packed, as they are, or converted (R553). -/
def storedLen (o : Operand) (sf : Fmt) (pack : Bool) (n : Nat) : Nat :=
  if pack then
    match layoutOf o.fmt o.mx with
    | some l => ceilDiv (n / elemBytes sf) (groupSize l) * 128
    | none => 0
  else if sf = o.fmt then n
  else n / elemBytes sf * elemBytes o.fmt

/-- A STORE: the bytes that it writes within its operand's extents. -/
def footStore (c : Ctx) : Foot :=
  match agOperand c c.w.ag3, fmtOf (c.w.flags % 16) with
  | some o, some sf =>
    let rows := (List.range c.w.count).map (fun (i : Nat) => agAt c c.w.ag3 0 + (i * o.pitch : Nat))
    footAll [footRead c c.w.ag1 c.w.imm1 (c.w.count * c.w.imm2), { mr := scaleMem c o },
      { mw := rows.flatMap (fun a => segRanges (segs c o a (storedLen o sf (bit c.w.flags 4) c.w.imm2))) }]
  | _, _ => {}

/-- The tile that an instruction names, and its shape. -/
def footTile (c : Ctx) (f : AccTile → Foot) : Foot :=
  match c.x.tiles[c.w.x]? with
  | none => { tile := some c.w.x }
  | some t => { f t with tile := some c.w.x }

/-- An MMA. -/
def footMma (c : Ctx) : Foot :=
  footTile c (fun t =>
    let n := 64 * c.w.count
    let words := 2 * t.anchors.length
    let only := bit c.w.flags 3
    footAll [{ mr := operandMem c (operandOf c c.w.opa) ++ operandMem c (operandOf c c.w.opb) },
      if only then footWrite c c.w.ag3 c.w.imm2 words else
        footAll [footRead c c.w.ag1 c.w.imm1 (shapeRows t.shape * rowPitch (operandOf c c.w.opa) n),
                 footRead c c.w.ag2 c.w.imm2 (shapeCols t.shape * rowPitch (operandOf c c.w.opb) n)],
      if bits c.w.flags 2 1 = 1 then footRead c c.w.ag3 c.w.imm2 words else {}])

/-- An EPI. -/
def footEpi (c : Ctx) : Foot :=
  footTile c (fun t =>
    let cols := shapeCols t.shape
    let oc := operandOf c c.w.opc
    footAll [footScales c [c.w.opa, c.w.opc],
      if bit c.w.flags 2 then footRead c c.w.ag1 c.w.imm1 (2 * cols) else {},
      if bit c.w.flags 3 then footRead c c.w.ag2 0 (4 * cols) else {},
      footWrite c c.w.ag3 0 (shapeRows t.shape * rowPitch oc cols)])

/-- The rows of a row form or a reduction. -/
def footRows (c : Ctx) (ag : Nat) (write : Bool) : Foot :=
  match agOperand c ag with
  | some o => if write then { mw := operandMem c o } else { mr := operandMem c o }
  | none =>
    let l := (List.range c.w.count).map (fun (r : Nat) =>
      (agAt c ag (if write then 0 else c.w.imm1) + (4 * c.w.imm2 * r : Nat), 4 * rowLen c))
    if write then { sw := l } else { sr := l }

/-- The rows that the open walk's control block names: queries, and in BACKWARD dO and D (R269). -/
def footWalk (c : Ctx) : Foot :=
  let l := c.x.lens.lcb
  { sr := [((l.qOff : Nat), 256 * 256), ((l.doOff : Nat), if bit l.mode 2 then 256 * 256 else 0),
           ((l.dOff : Nat), if bit l.mode 2 then 1024 else 0)], lens := true }

/-- What an instruction touches, by its opcode (R186). -/
def footOf (c : Ctx) : Foot :=
  let w := c.w
  match w.op with
  | .load => footLoad c
  | .store => footStore c
  | .stage => {}
  | .copy => footAll [footRead c w.ag1 w.imm1 w.imm2, footWrite c w.ag3 0 w.imm2]
  | .send => { footRead c w.ag1 w.imm1 (128 * w.count) with send := some w.x }
  | .recv => { footWrite c w.ag3 0 (128 * w.count) with recv := some w.x }
  | .veng => footAll [footRead c w.ag1 w.imm1 32, footWrite c w.ag3 0 4, { mr := outRanges c.t, mw := outRanges c.t }]
  | .zero => footWrite c w.ag3 0 w.imm2
  | .mma => footMma c
  | .accload => footTile c (fun t => footRead c w.ag1 w.imm1 (recordSize t.fp * t.anchors.length))
  | .accclr => footTile c (fun _ => {})
  | .epi => footEpi c
  | .epiraw => footTile c (fun t => footWrite c w.ag3 0 (recordSize t.fp * t.anchors.length))
  | .vadd => footBinary c
  | .vmul => footBinary c
  | .vmax => footBinary c
  | .vmin => footBinary c
  | .vfma => footAll [footBinary c, footRead c w.ag3 0 (4 * w.count)]
  | .vcvt => footAll [footScales c [w.opa, w.opc], footRead c w.ag1 w.imm1 (w.count * elemBytes (operandOf c w.opa).fmt),
      footWrite c w.ag3 0 (w.count * elemBytes (operandOf c w.opc).fmt)]
  | .vrowmul => footRowForm c
  | .vrowadd => footRowForm c
  | .feval => footAll [footRead c w.ag1 w.imm1 (4 * w.count), footWrite c w.ag3 0 (4 * w.count)]
  | .lopen => { footRead c w.ag1 w.imm1 64 with lens := true }
  | .lscore => { footWalk c with mw := operandMem c (operandOf c c.x.lens.opa) }
  | .lpv => { footWalk c with tile := some w.x }
  | .lstats => { footAll [if bit w.flags 0 then footRead c w.ag1 w.imm1 (w.count * statsSize) else {},
      footWrite c w.ag3 0 statsSize] with lens := true }
  | .lback => { footAll [footWalk c, footWrite c w.ag3 0 (0x80000 + 32)] with lens := true }
  | .rsum => footReduce c
  | .rmax => footReduce c
  | .rsumsq => footReduce c
  | .wait => {}
  | .signal => {}
  | .arrive => {}
  | .fence => {}
  | .gbegin => {}
  | .gend => {}
  | .commit => {}
where
  footBinary (c : Ctx) : Foot := footAll [footRead c c.w.ag1 c.w.imm1 (4 * c.w.count), footRead c c.w.ag2 0 (4 * c.w.count),
    footWrite c c.w.ag3 0 (4 * c.w.count)]
  footRowForm (c : Ctx) : Foot := footAll [footRows c c.w.ag1 false, footRead c c.w.ag2 0 (4 * c.w.count), footRows c c.w.ag3 true]
  footReduce (c : Ctx) : Foot := footAll [footRows c c.w.ag1 false, footWrite c c.w.ag3 0 (4 * c.w.count)]

/-- Two scratchpad ranges share a byte. -/
def spansMeet (a b : Int × Nat) : Bool :=
  decide (0 < a.2) && decide (0 < b.2) && decide (a.1 < b.1 + (b.2 : Int)) && decide (b.1 < a.1 + (a.2 : Int))

/-- Some range of one list meets one of the other. -/
def anyMeet (a b : List (Int × Nat)) : Bool := a.any (fun x => b.any (spansMeet x))

/-- The same of memory ranges. -/
def anyOverlap (a b : List (Nat × Nat)) : Bool := a.any (fun x => b.any (overlaps x))

/-- A number that both name. -/
def sameSome (a b : Option Nat) : Bool := a.isSome && decide (a = b)

/-- The later of two instructions waits for the earlier: a reader for earlier writers of its range, a writer for earlier
readers and writers of its range, and instructions on one tile, one strait channel or the lens unit in program order
(R12, R147, R187, R271). -/
def clashes (a b : Foot) : Bool :=
  anyMeet a.sw (b.sr ++ b.sw) || anyMeet a.sr b.sw || anyOverlap a.mw (b.mr ++ b.mw) || anyOverlap a.mr b.mw ||
  sameSome a.tile b.tile || sameSome a.send b.send || sameSome a.recv b.recv || (a.lens && b.lens)

/-- Instructions that run asynchronously (R187, R271): all but those that stall issue until they complete, SIGNAL, which
takes effect later by itself, and the group block's. -/
def runsAsync (w : Insn) : Bool :=
  match w.op with
  | .recv => false | .wait => false | .signal => false | .arrive => false | .fence => false
  | .gbegin => false | .gend => false | .commit => false | .lscore => false | .lpv => false
  | .load => true | .store => true | .stage => true | .copy => true | .send => true | .veng => true | .zero => true
  | .mma => true | .accload => true | .accclr => true | .epi => true | .epiraw => true
  | .vadd => true | .vmul => true | .vfma => true | .vmax => true | .vmin => true | .vcvt => true
  | .vrowmul => true | .vrowadd => true | .feval => true | .lopen => true | .lstats => true | .lback => true
  | .rsum => true | .rmax => true | .rsumsq => true

/-- The island's walk as it stood when a waiting instruction issued. -/
def walkAs (w : Waiter) (x : Island) : Island :=
  { x with pc := w.pc, loopIdx := w.loopIdx, loopTrip := w.loopTrip, group := w.group, progress := w.progress, stall := some w.why }

/-- What a waiting instruction of a task sees. -/
def waiterCtx (i : Nat) (t : Task) (x : Island) (w : Waiter) : Option Ctx :=
  let y := walkAs w x
  (t.prog.insns[w.pc]?).map (fun op => ⟨i, t, y, op, extNow t y, w.id⟩)

/-- Vault-engine operations of a task's attempt that have not completed. -/
def vengsOf (s : State) (t : Task) : List VOp :=
  s.vaults.flatMap (fun (_, v) => v.ops.filter (fun o => match o.owner with
    | .task tg a => tg == t.tag && a == t.attempt
    | .host => false
    | .hub => false))

/-- Where a vault-engine operation will put its result word (R186). -/
def vopFoot (o : VOp) : Foot :=
  if o.resultAt < 2 ^ 64 then { sw := [((o.resultAt : Nat), 4)] } else { mw := [(o.resultAt - 2 ^ 64, 4)] }

/-- What the instructions that issued before a place in the island's order, and have not completed, touch. -/
def earlierFeet (s : State) (c : Ctx) : List Foot :=
  ((c.x.waiting.filter (fun w => decide (w.id < c.id))).filterMap (fun w => (waiterCtx c.isl c.t c.x w).map footOf)) ++
  ((vengsOf s c.t).filter (fun o => decide (o.insn < c.id))).map vopFoot

/-- An instruction overlaps no earlier one that has not completed (R187). -/
def unblocked (s : State) (c : Ctx) : Bool :=
  (c.x.waiting.isEmpty && (vengsOf s c.t).isEmpty) || !((earlierFeet s c).any (fun f => clashes f (footOf c)))

/-- A SEND among the waiting instructions stands at a full receive FIFO: the island issues nothing (R26). -/
def sendStands (x : Island) : Bool := x.waiting.any (fun w => decide (w.why = .sendFull) || decide (w.why = .fenced))

/-- An earlier instruction that writes operand memory or sends bundles, and has not completed (R27, R198). -/
def writesWaiting (i : Nat) (t : Task) (x : Island) (before : Nat) : Bool :=
  x.waiting.any (fun w => decide (w.id < before) && (match waiterCtx i t x w with
    | some c => !((footOf c).mw.isEmpty) || decide (c.w.op = .veng) || (footOf c).send.isSome
    | none => false))

end Sys2Proof.Machine
end

