-- ==== Sys2Proof/Machine/Exec.lean ====
section
/-!
DEFINITION. Running one island instruction: what stands at the island's pc, how its outcome settles, and the reef and
strait effects that several instructions share (R22-R27, R50, R184, R187, R192-R200).
-/
namespace Sys2Proof.Machine

/-- The outcome of a command. -/
abbrev Outcome := Host.Outcome State Fault Refusal

/-- An event command whose cause has not arisen. -/
def notNow (name : String) : Outcome := .refused (.notEnabled name)

/-- The task that runs on an island. -/
def taskAt (s : State) (i : Nat) : Option Task := (islandAt s i).task.bind (taskOf s)

/-- The instruction at an island's pc, with what it sees; none when no task runs there, the program has ended, or a SEND
that has issued stands at a full receive FIFO (R26). -/
def insnAt (s : State) (i : Nat) : Option Ctx :=
  match taskAt s i with
  | none => none
  | some t =>
    let x := islandAt s i
    match t.prog.insns[x.pc]? with
    | none => none
    | some w => if x.dozing || sendStands x then none else some ⟨i, t, x, w, extNow t x, x.issued⟩

/-- The same when it may go on: no earlier instruction that it overlaps is outstanding (R187). -/
def ctxOf (s : State) (i : Nat) : Option Ctx := (insnAt s i).filter (unblocked s)

/-- An instruction that waits for a reason. One that runs asynchronously leaves the pc to the instructions after it, but for
a SEND at a full receive FIFO; the others stall issue (R12, R26, R187). -/
def holdInsn (c : Ctx) (why : Stall) (s : State) : State :=
  modIsland s c.isl (fun x =>
    if runsAsync c.w && decide (why ≠ .sendFull) && decide (why ≠ .fenced) then
      let w : Waiter := ⟨x.issued, c.x.pc, c.x.loopIdx, c.x.loopTrip, c.x.group, x.progress, why⟩
      advancePc c.t { x with waiting := x.waiting ++ [w], issued := x.issued + 1, firstAt := x.firstAt <|> some s.now }
    else { x with stall := some why, firstAt := x.firstAt <|> some s.now })

/-- How the outcome of the instruction at the pc settles in the state; `firstAt` keeps when the task's first one issued (R367). -/
def settle (c : Ctx) : Res → State
  | .next s => modIsland s c.isl (fun x => advancePc c.t { x with firstAt := x.firstAt <|> some s.now })
  | .jump s pc => modIsland s c.isl (fun x => jumpTo c.t { x with firstAt := x.firstAt <|> some s.now } pc)
  | .done s => s
  | .wait s why => holdInsn c why s
  | .fault s st => endTask s c.t st (some c.x.pc)
  | .torn s => tornTask s c.t c.x.pc

/-! ### Straits (R22-R26, R50) -/

/-- The strait open on a send channel. -/
def straitOf (s : State) (isl ch : Nat) : Option Strait :=
  s.conf.straits.find? (fun x => x.src == isl && x.sch == ch)

/-- Bundles on a send channel's route, with the routes they were sent on. -/
def flightsOf (s : State) (isl ch : Nat) : List Flight := sparseGet [] s.flights (isl * 8 + ch)

/-- Bundles in a receive FIFO. -/
def fifoOf (s : State) (isl ch : Nat) : List Bundle := sparseGet [] s.fifos (isl * 8 + ch)

/-- Bundles that a send channel has in its route. -/
def inRoute (s : State) (isl ch : Nat) : Nat := ((flightsOf s isl ch).map (fun f => f.bundles.length)).sum

/-- A fence of the change group in progress has cleared the strait: it takes and delivers nothing more (R26). -/
def isFenced (s : State) (x : Strait) : Bool := match s.img.cur with | some g => g.fenced.contains x | none => false

/-- Room for one more bundle: the strait is not fenced, the receive FIFO is not full (R26) and the route, one bundle for
each link, has a place. -/
def sendRoom (s : State) (x : Strait) : Bool :=
  !(isFenced s x) && decide ((fifoOf s x.dst x.rch).length < 16) && decide (inRoute s x.src x.sch < x.hops)

/-- Put a bundle into its route. -/
def pushBundle (s : State) (x : Strait) (b : Bundle) : State :=
  let key := x.src * 8 + x.sch
  let fs := sparseGet [] s.flights key
  let fs' := match fs.getLast? with
    | some f => if f.strait = x then fs.dropLast ++ [{ f with bundles := f.bundles ++ [b] }] else fs ++ [⟨x, [b]⟩]
    | none => [⟨x, [b]⟩]
  { s with flights := sparseSet [] s.flights key fs' }

/-- Outstanding bundles of an island, by send channel. -/
def outstanding (s : State) (isl : Nat) : List Nat := (List.range 8).map (inRoute s isl)

/-- Every bundle the island sent has been accepted into its receive FIFO (R27, R198). -/
def sendsLanded (s : State) (isl : Nat) : Bool := (outstanding s isl).all (· == 0)

/-! ### SIGNAL behind what was issued before it (R27) -/

/-- Everything that an island issued before a place in its order, and that a signal waits for, is through: writes
acknowledged, SENDs issued, vault-engine operations complete. -/
def issuedBefore (s : State) (i before : Nat) : Bool :=
  match taskAt s i with
  | none => true
  | some t => !(writesWaiting i t (islandAt s i) before) && (vengsOf s t).all (fun o => decide (before ≤ o.insn))

/-- Signals that wait for nothing more take effect, in the order of their issue. -/
def releaseSignals (s : State) (i : Nat) : State :=
  let x := islandAt s i
  let free := fun (g : Sig) => g.out.all (· == 0) && issuedBefore s i g.after
  if x.sigs.isEmpty then s
  else applySignals (setIsland s i { x with sigs := x.sigs.filter (fun g => !(free g)) }) ((x.sigs.filter free).map (fun g => (g.sem, g.inc)))

/-- A bundle of a channel has been accepted or removed: signals that waited for it come nearer (R27). -/
def bundleLanded (s : State) (isl ch : Nat) : State :=
  releaseSignals (modIsland s isl (fun x => { x with sigs := x.sigs.map (fun g => { g with out := modAt g.out ch (· - 1) }) })) isl

/-! ### Instructions that have issued and wait (R12, R187) -/

/-- The island's own walk again after a waiting instruction has been tried. -/
def walkBack (own : Island) (x : Island) : Island :=
  { x with pc := own.pc, loopIdx := own.loopIdx, loopTrip := own.loopTrip, group := own.group, progress := own.progress,
           stall := own.stall }

/-- A waiting instruction of an island, in the state it runs in and with what it sees there, when it may go on. -/
def waiterAt (s : State) (i : Nat) (w : Waiter) : Option (State × Ctx) :=
  match taskAt s i with
  | none => none
  | some t =>
    let s1 := modIsland s i (walkAs w)
    match waiterCtx i t (islandAt s i) w with
    | none => none
    | some c => if (islandAt s i).dozing || !(unblocked s1 c) then none else some (s1, c)

/-- The bundles that a SEND which was waiting has put on its route are ones that later signals wait for (R27). -/
def countSent (c : Ctx) (s : State) : State :=
  if c.w.op = .send then
    modIsland s c.isl (fun x => { x with sigs := x.sigs.map (fun g =>
      if c.id < g.after then { g with out := setAt g.out c.w.x (inRoute s c.isl c.w.x) } else g) })
  else s

/-- How the outcome of a waiting instruction settles: it is through, it waits on, or it ends its task or its attempt. -/
def settleWaiter (own : Island) (c : Ctx) : Res → State
  | .next s => releaseSignals (countSent c (modIsland s c.isl (fun x =>
      walkBack own { x with waiting := x.waiting.filter (fun w => w.id != c.id) }))) c.isl
  | .jump s _ => s
  | .done s => s
  | .wait s why => modIsland s c.isl (fun x => walkBack own { x with waiting := x.waiting.map (fun w =>
      if w.id = c.id then { w with progress := x.progress, why := why } else w) })
  | .fault s st => endTask s c.t st (some c.x.pc)
  | .torn s => tornTask s c.t c.x.pc

/-- The instruction stands still. -/
def isWait : Res → Bool
  | .wait _ _ => true
  | .next _ => false
  | .jump _ _ => false
  | .done _ => false
  | .fault _ _ => false
  | .torn _ => false

/-- The first of the waiting instructions that goes on; where none does, the state in which the oldest one waits on. -/
def tryWaiters (s : State) (i : Nat) (ok : Insn → Bool) (f : Ctx → State → Res) : List Waiter → Option State → Option State
  | [], acc => acc
  | w :: t, acc =>
    match waiterAt s i w with
    | none => tryWaiters s i ok f t acc
    | some (s1, c) =>
      if ok c.w then
        let r := f c s1
        if isWait r then tryWaiters s i ok f t (acc <|> some (settleWaiter (islandAt s i) c r))
        else some (settleWaiter (islandAt s i) c r)
      else tryWaiters s i ok f t acc

/-- Run an island's instruction of the kind that the command names: the one at the pc when it may go on; else, when that one
is of the kind and overlaps an outstanding one, it issues and waits behind it; else the oldest waiting one of the kind that
can go on (R12, R187). -/
def runInsn (name : String) (ok : Insn → Bool) (i : Nat) (s : State) (f : Ctx → State → Res) : Outcome :=
  match (ctxOf s i).filter (fun c => ok c.w) with
  | some c => .next (settle c (f c s))
  | none =>
    match (insnAt s i).filter (fun c => ok c.w && !(unblocked s c)) with
    | some c => .next (holdInsn c .overlap s)
    | none =>
      match tryWaiters s i ok f (islandAt s i).waiting none with
      | some u => .next u
      | none => notNow name

/-- The opcode of an instruction. -/
def isOp (op : Op) (w : Insn) : Bool := decide (w.op = op)

/-! ### Reef (R192, R193, R198, R372) -/

/-- Gang semaphore `x` of a task: numbers run on within its atoll. -/
def gangSem (d : Desc) (x : Nat) : Nat := d.gangSemFirst / 2 ^ 12 * 2 ^ 12 + (d.gangSemFirst + x) % 2 ^ 12

/-- COMMIT's first step: writes acknowledged, SENDs accepted, VENG operations complete (R198). -/
def quiet (s : State) (c : Ctx) : Bool :=
  sendsLanded s c.isl && !(ownVengs s c.t) && !(writesWaiting c.isl c.t c.x c.id)

/-- A member arrives at a barrier; with the last of them it completes, its phase turns and it starts anew (R193,
R372). -/
def arriveAt (s : State) (n size : Nat) : State :=
  let b := barAt s n
  let b' : Barrier := if b.arrived + 1 ≥ size then ⟨0, (b.phase + 1) % 128⟩ else ⟨b.arrived + 1, b.phase⟩
  { s with bars := sparseSet {} s.bars n b' }

end Sys2Proof.Machine
end

