-- ==== Sys2Proof/Machine/Shoal.lean ====
section
/-!
DEFINITION. Sound ports: training, the flit link with its replay buffer, credits and virtual channels, link loss, and
shoal time (R380-R392, R402, R412, R418, R536, R540).
-/
namespace Sys2Proof.Machine

/-! ### Access from outside (R487) -/

/-- S2 is left: an access of the host or a payload flit is a wake event (R487, R496). -/
def wakeS2 (s : State) : State :=
  if s.pow.st = 2 then raise 0x225 { s with pow := { s.pow with st := 0 } } else s

/-- The host reaches the module: the link is in L0. -/
def hostUp (s : State) : Bool := decide (s.pow.link = .up)

/-- An access over the host link; while the link is down it never arrives. -/
def viaHost (s : State) (k : State → State) : State := if hostUp s then k (wakeS2 s) else s

def portAt (s : State) (p : Nat) : Port := sparseGet {} s.net.ports p
def setPort (s : State) (p : Nat) (x : Port) : State := { s with net := { s.net with ports := sparseSet {} s.net.ports p x } }

/-- The PORT entry in force: role, RMEM_WEIGHT, peer (R389). -/
def portEntry (s : State) (p : Nat) : Nat × Nat × Nat := s.conf.link.ports.getD p (0, 0, 0)

def portRole (s : State) (p : Nat) : Nat := (portEntry s p).1

/-- A port that carries traffic. -/
def portUp (s : State) (p : Nat) : Bool := (portAt s p).st == 3

/-- MODULE_ID (R387). -/
def moduleId (r : LinkRec) : Nat :=
  if r.role = 3 then 512 else r.worker + 16 * r.shoal + (if r.role = 2 then 256 else 0)

/-- This module's MODULE_ID, by the role in force. -/
def ownId (s : State) : Nat := moduleId s.net.role

/-- The port of a role whose far end is `peer`. -/
def portOf (s : State) (role peer : Nat) : Option Nat :=
  (List.range 18).find? (fun p => portRole s p == role && (portEntry s p).2.2 == peer)

/-- The module's port to its manager, and whether it is up. -/
def managerPort (s : State) : Option Nat := (List.range 18).find? (fun p => portRole s p == 2)

/-! ### Flits (R381-R383) -/

/-- A flit but for its SEQ, ACK_SEQ and CRC, which are put in when it is sent. -/
def flitBody (type info seq ack credit count len stream : Nat) (data : List Byte) : List Byte :=
  leBytes 1 type ++ leBytes 1 info ++ leBytes 2 seq ++ leBytes 2 ack ++ leBytes 1 credit ++ leBytes 1 count ++
    leBytes 2 len ++ leBytes 2 stream ++ slice data 0 240

/-- A flit as it goes out: SEQ and ACK_SEQ set, CRC-32C over bytes 0x00 to 0xFB. -/
def sealFlit (seq ack : Nat) (b : List Byte) : List Byte :=
  let c := slice b 0 2 ++ leBytes 2 seq ++ leBytes 2 ack ++ slice b 6 246
  c ++ leBytes 4 (crc32c c)

/-- ACK_SEQ: the highest SEQ received in order. -/
def ackOf (x : Port) : Nat := (x.rx + 65535) % 65536

/-- Put a flit on the wire. -/
def sendRaw (s : State) (p : Nat) (b : List Byte) : State := { s with sent := s.sent ++ [.flit p b] }

/-- A flit that carries acknowledgement, a returned credit and NAK, and takes no sequence number. -/
def sendCtl (s : State) (p type vc count : Nat) (nak : Bool) : State :=
  sendRaw s p (sealFlit 0 (ackOf (portAt s p)) (flitBody type 0 0 0 (vc + 4 * b2n nak) count 0 0 []))

/-- VC 0 and VC 3 are both busy, and neither VC 2 nor VC 1 goes first (R385). -/
def bothWait (x : Port) : Bool :=
  let ready := fun vc => !((x.waits.getD vc []).isEmpty) && decide (0 < x.credits.getD vc 0)
  ready 0 && ready 3 && !(ready 1) && !(ready 2)

/-- The virtual channel that sends next: VC 2, then VC 1, then VC 0 and VC 3 by weight in sixteenths (R385, R389). -/
def nextVc (s : State) (p : Nat) (x : Port) : Option Nat :=
  let ready := fun vc => !((x.waits.getD vc []).isEmpty) && decide (0 < x.credits.getD vc 0)
  let w := (portEntry s p).2.1
  let weight := if w = 0 then 4 else w
  if ready 2 then some 2
  else if ready 1 then some 1
  else if ready 0 && ready 3 then some (if x.share % 16 < weight then 3 else 0)
  else if ready 0 then some 0
  else if ready 3 then some 3
  else none

/-- Send what credits and the replay buffer of 512 flits allow. -/
def pumpPort (p : Nat) : Nat → State → State
  | 0, s => s
  | fuel + 1, s =>
    let x := portAt s p
    if x.st = 3 ∧ x.buf.length < 512 then
      match nextVc s p x with
      | none => s
      | some vc =>
        match x.waits.getD vc [] with
        | [] => s
        | b :: rest =>
          let f := sealFlit x.tx (ackOf x) b
          let x' := { x with waits := setAt x.waits vc rest, credits := modAt x.credits vc (· - 1),
                             tx := (x.tx + 1) % 65536, buf := x.buf ++ [(x.tx, f)],
                             share := if bothWait x then (x.share + 1) % 16 else x.share }
          pumpPort p fuel (sendRaw (setPort s p x') p f)
    else s

/-- Flits that wait on a port. -/
def waiting (x : Port) : Nat := (x.waits.map (·.length)).sum

def pump (s : State) (p : Nat) : State := pumpPort p (waiting (portAt s p)) s

/-- The PAYLOAD flits of a message. -/
def messageFlits (vc stream : Nat) (bytes : List Byte) : List (List Byte) :=
  let parts := chunksOf 240 (bytes.length / 240 + 1) bytes
  let n := parts.length
  parts.zipIdx.map (fun (e : List Byte × Nat) =>
    flitBody 1 (vc + 4 * b2n (e.2 == 0) + 8 * b2n (e.2 + 1 == n)) 0 0 0 0 e.1.length stream e.1)

/-- Queue a message on a virtual channel of a port and send what may go. -/
def sendMessage (s : State) (p vc stream : Nat) (bytes : List Byte) : State :=
  let x := portAt s p
  pump (setPort s p { x with waits := modAt x.waits vc (· ++ messageFlits vc stream bytes) }) p

/-- A control message to a module. -/
def sendMsg (s : State) (module : Nat) (m : Msg) : State := { s with sent := s.sent ++ [.ctl module m] }

/-! ### Link loss and training (R384, R391, R392, R418) -/

/-- The link state of a port that starts anew: buffers empty, credits whole, sequence numbers from 0. -/
def freshLink (x : Port) : Port :=
  { x with rx := 0, tx := 0, buf := [], waits := [[], [], [], []], credits := [1024, 64, 64, 512],
           parts := [none, none, none, none], nakAt := 0, nakRun := 0, share := 0 }

/-- A port declares its link down: buffers discarded, event, log entry, retraining (R384). -/
def linkDown (s : State) (p : Nat) : State :=
  let x := portAt s p
  let s := setPort s p { freshLink x with st := 4, half := false, downAt := s.now }
  raise (0x140 + p) (logE 1 .success (some (0x140 + p)) 0xFF (leBytes 1 p ++ leBytes 2 x.peer) s)

/-- The MODULE_ID and PORT_ROLE that a port's entry expects of its peer (R387, R388, R391). -/
def peerFits (r : LinkRec) (role peer id peerRole : Nat) : Bool :=
  let same := 16 * r.shoal
  match role with
  | 1 => id == peer + same && peerRole == 1
  | 2 => id == 256 + peer + same && peerRole == 5
  | 3 => (id == r.worker + 16 * peer || id == 256 + r.worker + 16 * peer) && peerRole == 4
  | 4 => (id == r.worker + 16 * peer || id == 256 + r.worker + 16 * peer) && peerRole == 3
  | 5 => id == peer + same && peerRole == 2
  | 6 => id == 512 && peerRole == 8
  | 7 => id / 256 == 1 && id / 16 % 16 == Nat.xor r.shoal 1 && peerRole == 7
  | 8 => id / 256 == 1 && id / 16 % 16 == peer && peerRole == 6
  | _ => false

/-- Ports of the LINK record in force that should be up: in use and not held down. -/
def portsWanted (s : State) : List Nat :=
  (List.range 18).filter (fun p => portRole s p != 0 && !((portAt s p).disable))

/-- The role of the LINK segment comes into force when its ports have trained (R392). -/
def settleRole (s : State) : State :=
  if s.net.role ≠ s.conf.link ∧ (portsWanted s).all (portUp s) then { s with net := { s.net with role := s.conf.link } } else s

/-- The module has its main rails: ports and islands work. -/
def running (s : State) : Bool :=
  s.pow.mainOk && !s.pow.tripped && s.pow.restore.isNone && decide (s.pow.st < 3)

/-- A port's training ends: up, or MISWIRED when the peer is not the one expected (R380, R391). -/
def portTrained (s : State) (p : Nat) (half : Bool) (id role : Nat) : State :=
  let x := portAt s p
  if peerFits s.conf.link (portRole s p) (portEntry s p).2.2 id role then
    let s := raise (0x160 + p) (setPort s p { x with st := 3, half := half, peer := id })
    let net := if portRole s p = 2 then { s.net with headless := false } else s.net
    settleRole { s with net := net }
  else
    let s := setPort s p { x with st := 5, half := half, peer := id }
    raise 0x172 (logE 1 .success (some 0x172) 0xFF (leBytes 1 p ++ leBytes 2 id) s)

/-- Ports whose entries change retrain; unused and held ports rest (R392). -/
def retrainPorts (s : State) (ps : List Nat) : State :=
  ps.foldl (fun s p =>
    let x := freshLink (portAt s p)
    setPort s p { x with st := if portRole s p = 0 ∨ x.disable then 0 else if (portAt s p).st = 3 then 4 else 2,
                         half := false, downAt := s.now }) s

/-! ### Shoal time (R402, R420, R536) -/

/-- A beacon's correction: half the round trip is added to the beacon's time. The first sets shoal time. -/
def timeBeacon (s : State) (time rtt : Nat) : State :=
  let new : Int := (time : Int) + (rtt / 2 : Nat) - (s.now : Int)
  let n := s.net
  if n.locked then
    let c := new - n.offset
    let s := { s with net := { n with offset := new, corrAt := s.now, lastCorr := c } }
    if 1000 < c.natAbs then
      let s := { s with net := { s.net with drift := true } }
      raise 0x173 (logE 1 .success (some 0x173) 0xFF (leBytes 8 (unsigned 64 c)) s)
    else s
  else { s with net := { n with locked := true, offset := new, corrAt := s.now, lastCorr := 0 } }

/-- Modules that this one serves with beacons: a shoal manager its workers, the top manager the shoal managers. -/
def beaconPeers (s : State) : List Nat :=
  ((List.range 18).filter (fun p => (portRole s p == 5 || portRole s p == 8) && portUp s p)).map (fun p => (portAt s p).peer)

end Sys2Proof.Machine
end

