-- ==== Sys2Proof/Machine/Move.lean ====
section
/-!
DEFINITION. MOVE-class instructions: LOAD, STORE, COPY, ZERO, SEND, RECV, STAGE and its release, the filling of staging
tiles, bundles on straits (R22-R27, R50, R185, R186, R217-R221, R224-R227, R553).
-/
namespace Sys2Proof.Machine

/-! ### LOAD (R186, R219, R225, R553) -/

/-- Cut ranges at 128-byte lines. -/
def linePieces (rs : List (Nat × Nat)) : List (Nat × Nat) :=
  rs.flatMap (fun r => (unitsOf 128 r.1 r.2).map (fun l =>
    let lo := max r.1 (128 * l)
    (lo, min (r.1 + r.2) (128 * l + 128) - lo)))

/-- The read of a LOAD: lines that a staging tile serves wait until they are filled and need no lower tier (R219). -/
def withLoad (c : Ctx) (rs : List (Nat × Nat)) (s : State) (k : State → Res) : Res :=
  if s.mig.stagings.all (fun g => !(g.members.contains c.t.tag)) then withRead c false rs s k
  else
    let ps := linePieces rs
    let staged := ps.filter (fun p => (stagedLine s c (p.1 / 128)).isSome)
    let plainPs := ps.filter (fun p => (stagedLine s c (p.1 / 128)).isNone)
    if staged.any (fun p => match stagedLine s c (p.1 / 128) with
        | some g => !(lineFilled g (p.1 / 128))
        | none => false) then .wait s .stageLine
    else withRead c false plainPs s (fun s =>
      match readGate s c.t c.isl false false staged with
      | .go s => k s
      | .wait s why => .wait s why
      | .fault s st => .fault s st)

/-- Rows that a LOAD or STORE walks in an operand: the address of each (R186, R224). -/
def rowAddrs (o : Operand) (a : Int) (n : Nat) : List Int := (List.range n).map (fun (i : Nat) => a + (i * o.pitch : Nat))

/-- The narrow groups of a row that begins at column byte `col`: one entry per burst, elements beyond the extents
zero (R225). Masked bursts decode as zeros. -/
def unpackRow (l : Layout) (nr nc : Nat) (row : Int) (col : Int) (b : List Byte) : Except Status (List Val) :=
  let g := groupSize l
  let n := b.length / 128
  let c0 : Int := col / 128 * g
  allOk ((List.range n).flatMap (fun (j : Nat) =>
    let burst := slice b (128 * j) 128
    let at_ : Int := c0 + j * g
    if row < 0 ∨ (nr : Int) ≤ row ∨ at_ < 0 ∨ (nc : Int) ≤ at_ then
      List.replicate g (.ok vzero)
    else if burstBad l burst then [.error .burstMismatch]
    else (List.range g).zip (decodeBurst l burst) |>.map (fun p =>
      if at_ + p.1 < (nc : Int) then .ok p.2.val else .ok vzero)))

/-- Convert the elements of a row of which bytes lie within the extents; what masked elements give is zero bytes (R225). -/
def convertLive (live : List (Nat × Nat × Nat)) (sf df : Fmt) (ss : Val) (b : List Byte) : List Byte :=
  let w := elemBytes sf
  (List.range (b.length / w)).flatMap (fun i =>
    if live.any (fun g => overlaps (g.1, g.2.2) (i * w, w)) then toFmt df vone (fromFmt sf ss (elemAt sf b i))
    else List.replicate (elemBytes df) 0)

/-- One row of a LOAD as it goes into the scratchpad. -/
def loadRow (s : State) (c : Ctx) (o : Operand) (a : Int) (n : Nat) (df : Fmt) (unpack : Bool) :
    Except Status (List MByte) :=
  let live := segs c o a n
  let d := overlay n (live.map (fun g => (g.1, loadBytes s c g.2.1 g.2.2)))
  let raw := !unpack && decide (df = o.fmt)
  let (r, col) := rowCol o a
  let (nr, nc) := extOf c o
  if raw then .ok d
  else if anyMark d then .error .poison
  else if unpack then
    match layoutOf o.fmt o.mx with
    | none => .error .burstMismatch
    | some l =>
      match unpackRow l nr nc r col (plain d) with
      | .error e => .error e
      | .ok vs => .ok (clean (vs.flatMap (toFmt df vone)))
  else
    match (if o.fmt = .int8 then scaleOf s c o r else .ok vone) with
    | .error e => .error e
    | .ok sc => .ok (clean (convertLive live o.fmt df sc (plain d)))

/-- The format rules of LOAD and STORE between an operand's format and the instruction's (R553). -/
def moveFormatOk (o : Operand) (f : Fmt) (pk : Bool) : Bool :=
  if pk then isNarrow o.fmt && (decide (f = .bf16) || decide (f = .fp32))
  else if isNarrow o.fmt || isNarrow f then decide (f = o.fmt) else true

/-- LOAD (R186, R553). -/
def loadRes (c : Ctx) (s : State) : Res :=
  match agOperand c c.w.ag1, fmtOf (c.w.flags % 16) with
  | some o, some df =>
    let unpack := bit c.w.flags 4
    let n := c.w.imm2
    if moveFormatOk o df unpack then
      let rows := rowAddrs o (agAt c c.w.ag1 c.w.imm1) c.w.count
      let conv := decide (o.fmt = .int8) && decide (df ≠ .int8)
      let rs := rows.flatMap (fun a => segRanges (segs c o a n)) ++
        (if conv then rows.flatMap (fun a => if (segs c o a n).isEmpty then [] else scaleRange c o (rowCol o a).1) else [])
      withLoad c rs s (fun s =>
        orFault s (allOk (rows.map (fun a => loadRow s c o a n df unpack))) (fun data =>
          let d := agAt c c.w.ag3 0
          let len := (data.headD []).length
          putRanges c ((List.range data.length).map (fun (i : Nat) => (d + (i * len : Nat), data.getD i []))) s))
    else .fault s .burstMismatch
  | _, _ => .fault s .burstMismatch

def execLoad (i : Fin 256) (s : State) : Outcome :=
  runInsn "LOAD" (fun w => isOp .load w && !(bit w.flags 5)) i s loadRes

/-! ### STORE (R186, R223, R227, R553) -/

/-- The split dimension's inner share: its row does not end with it (R162). -/
def innerRow (c : Ctx) (o : Operand) : Bool := c.t.innerShare && c.t.prog.splitDim == o.cdim

/-- Pack a row whose first element stands at column `c0`: elements beyond `nc` are zero, and the group that ends the
row carries TAIL (R162, R227). -/
def packStored (l : Layout) (nc : Nat) (inner : Bool) (c0 : Int) (vs : List Val) : List Byte :=
  let g := groupSize l
  let gs := chunksOf g (vs.length + 1) vs
  ((List.range gs.length).zip gs).flatMap (fun p =>
    let first : Int := c0 + (p.1 * g : Nat)
    let body := ((List.range p.2.length).zip p.2).map (fun e => if first + e.1 < (nc : Int) then e.2 else vzero)
    packGroup l body (decide ((nc : Int) ≤ first + g) && !inner))

/-- One row of a STORE as it goes to memory. -/
def storeRow (s : State) (c : Ctx) (o : Operand) (a : Int) (src : Int) (n : Nat) (sf : Fmt) (pack : Bool) :
    Except Status (List MByte) :=
  let (r, col) := rowCol o a
  if !pack && decide (sf = o.fmt) then scratchRead c src n
  else
    match scratchUse c src n with
    | .error e => .error e
    | .ok b =>
      if pack then
        match layoutOf o.fmt o.mx with
        | none => .error .burstMismatch
        | some l =>
          let vs := (List.range (n / elemBytes sf)).map (elemAt sf b)
          .ok (clean (packStored l (extOf c o).2 (innerRow c o) (col / 128 * groupSize l) vs))
      else
        match (if o.fmt = .int8 then scaleOf s c o r else .ok vone) with
        | .error e => .error e
        | .ok sc => .ok (clean (convertRow sf o.fmt vone sc b))

/-- STORE (R186, R553). An INT8 source in the scratchpad carries no scale of its own. -/
def storeRes (c : Ctx) (s : State) : Res :=
  match agOperand c c.w.ag3, fmtOf (c.w.flags % 16) with
  | some o, some sf =>
    let pack := bit c.w.flags 4
    let n := c.w.imm2
    if !o.output then .fault s .overflowFault
    else if moveFormatOk o sf pack then
      let rows := rowAddrs o (agAt c c.w.ag3 0) c.w.count
      let src := agAt c c.w.ag1 c.w.imm1
      let conv := decide (o.fmt = .int8) && decide (sf ≠ .int8)
      withRead c false (if conv then rows.flatMap (fun a => scaleRange c o (rowCol o a).1) else []) s (fun s =>
        orFault s (allOk ((List.range rows.length).map (fun (i : Nat) =>
            storeRow s c o (rows.getD i 0) (src + (i * n : Nat)) n sf pack))) (fun data =>
          let ws := ((List.range data.length).zip data).flatMap (fun p =>
            (segs c o (rows.getD p.1 0) p.2.length).map (fun g => (g.2.1, (p.2.drop g.1).take g.2.2)))
          withWrite c ws s .next))
    else .fault s .burstMismatch
  | none, _ => .fault s .overflowFault
  | _, none => .fault s .burstMismatch

def execStore (i : Fin 256) (s : State) : Outcome := runInsn "STORE" (isOp .store) i s storeRes

/-! ### COPY and ZERO (R186) -/

/-- COPY: the source as it stood, poison marks included (R70). -/
def copyRes (c : Ctx) (s : State) : Res :=
  orFault s (scratchRead c (agAt c c.w.ag1 c.w.imm1) c.w.imm2) (fun d => putRanges c [(agAt c c.w.ag3 0, d)] s)

def execCopy (i : Fin 256) (s : State) : Outcome := runInsn "COPY" (isOp .copy) i s copyRes

/-- ZERO. -/
def zeroRes (c : Ctx) (s : State) : Res :=
  let a := agAt c c.w.ag3 0
  if inScratch c a c.w.imm2 then putRanges c [(a, List.replicate c.w.imm2 (0, false))] s else .fault s .overflowFault

def execZero (i : Fin 256) (s : State) : Outcome := runInsn "ZERO" (isOp .zero) i s zeroRes

/-! ### SEND and RECV (R23, R26, R186) -/

/-- Send bundles `k` onward until all are sent, the strait has no room, or one cannot be sent (`fuel` bundles). -/
def sendFrom (c : Ctx) : Nat → Nat → State → Res
  | 0, _, s => .next s
  | fuel + 1, k, s =>
    match straitOf s c.isl c.w.x with
    | none => .wait (modIsland s c.isl (fun x => { x with progress := k })) .sendFull
    | some x =>
      match scratchUse c (agAt c c.w.ag1 c.w.imm1 + (128 * k : Nat)) 128 with
      | .error e => .fault s e
      | .ok b =>
        if sendRoom s x then sendFrom c fuel (k + 1) (pushBundle s x ⟨b, (islandAt s c.isl).epoch, 0⟩)
        else .wait (modIsland s c.isl (fun x => { x with progress := k })) .sendFull

/-- SEND. One that stood on a strait when a fence cleared it stands until its task ends (R26). -/
def sendRes (c : Ctx) (s : State) : Res :=
  if c.x.stall = some .fenced then .wait s .fenced else sendFrom c (c.w.count - c.x.progress) c.x.progress s

def execSend (i : Fin 256) (s : State) : Outcome := runInsn "SEND" (isOp .send) i s sendRes

/-- The send channels on which a SEND of an island stands at a full receive FIFO: the one at the pc, or one that has issued
and was waiting before (R26). -/
def sendsStanding (s : State) (i : Nat) : List Nat :=
  let x := islandAt s i
  (match ctxOf s i with
   | some c => if x.stall = some .sendFull ∧ c.w.op = .send then [c.w.x] else []
   | none => []) ++
  (match taskAt s i with
   | some t => (x.waiting.filter (fun w => decide (w.why = .sendFull))).filterMap (fun w => (waiterCtx i t x w).map (fun c => c.w.x))
   | none => [])

/-- A SEND that stood at a full receive FIFO goes on once a slot has freed (R26). -/
def execSendResume (i : Fin 256) (s : State) : Outcome :=
  if (sendsStanding s i).any (fun ch => (straitOf s i ch).any (sendRoom s)) then runInsn "SEND_RESUME" (isOp .send) i s sendRes
  else notNow "SEND_RESUME"

/-- Receive bundles `k` onward until all have come or the FIFO is empty (`fuel` bundles). -/
def recvFrom (c : Ctx) : Nat → Nat → State → Res
  | 0, _, s => .next s
  | fuel + 1, k, s =>
    let key := c.isl * 8 + c.w.x
    match sparseGet [] s.fifos key with
    | [] => .wait (modIsland s c.isl (fun x => { x with progress := k })) .recvEmpty
    | b :: rest =>
      let a := agAt c c.w.ag3 0 + (128 * k : Nat)
      if inScratch c a 128 then
        recvFrom c fuel (k + 1) (modIsland { s with fifos := sparseSet [] s.fifos key rest } c.isl
          (fun x => putScratch x a.toNat (clean b.data)))
      else .fault s .overflowFault

/-- RECV. -/
def recvRes (c : Ctx) (s : State) : Res := recvFrom c (c.w.count - c.x.progress) c.x.progress s

def execRecv (i : Fin 256) (s : State) : Outcome := runInsn "RECV" (isOp .recv) i s recvRes

/-- One bundle of a send channel's route moves: the foremost that can goes one link on, and over the last link into
the receive FIFO when a slot is free and its epoch agrees; it wakes an island in S2. A bundle whose strait is gone is
discarded when it is released (R22, R24, R26, R50, R485). -/
def moveBundle (s : State) (isl ch : Nat) : Option State :=
  let key := isl * 8 + ch
  match sparseGet [] s.flights key with
  | [] => none
  | f :: fs =>
    let x := f.strait
    let here := (islandAt s isl).epoch
    let there := (islandAt s x.dst).epoch
    match f.bundles with
    | [] => none
    | b :: bs =>
      let rest := if bs.isEmpty then fs else { f with bundles := bs } :: fs
      let released := decide (b.epoch = there) || decide (here = there)
      if b.pos + 1 ≥ x.hops then
        if !released then none
        else if s.conf.straits.contains x then
          if (fifoOf s x.dst x.rch).length < 16 then
            some (bundleLanded (modIsland { s with
              flights := sparseSet [] s.flights key rest
              fifos := sparseSet [] s.fifos (x.dst * 8 + x.rch) (fifoOf s x.dst x.rch ++ [b]) } x.dst
                (fun y => { y with dozing := false })) isl ch)
          else none
        else
          let cur := s.img.cur.map (fun (g : GroupState) => { g with discarded := g.discarded + 1 })
          let s := { s with img := { s.img with cur := cur } }
          some (bundleLanded { s with flights := sparseSet [] s.flights key rest } isl ch)
      else some { s with flights := sparseSet [] s.flights key ({ f with bundles := { b with pos := b.pos + 1 } :: bs } :: fs) }

/-- STRAIT_BUNDLE: a bundle crosses a link of the strait on send channel `ch` of island `i` (R22). -/
def execStraitBundle (i : Fin 256) (ch : Fin 8) (s : State) : Outcome :=
  match moveBundle s i ch with
  | some s => .next s
  | none => notNow "STRAIT_BUNDLE"

/-! ### Lagoon staging (R217-R221) -/

/-- What identifies the staging tile that a STAGE names (R218). -/
def stageId (c : Ctx) (o : Operand) : StageId :=
  ⟨c.t.desc.domain, c.isl / 64, gangKey c.t, vaOf (agAt c c.w.ag1 c.w.imm1), c.w.count, c.w.imm2, o.pitch⟩

/-- The lines of the range that a STAGE names, rows beyond the extents left out (R217). -/
def stageLines (c : Ctx) (o : Operand) : List Nat :=
  ((rowAddrs o (agAt c c.w.ag1 c.w.imm1) c.w.count).flatMap (fun a =>
    (segs c o a c.w.imm2).flatMap (fun g => unitsOf 128 g.2.1 g.2.2))).eraseDups

/-- Bytes of the lagoon that staging tiles of a domain hold in an atoll. -/
def stagedBytes (s : State) (d a : Nat) : Nat :=
  ((s.mig.stagings.filter (fun g => g.id.dom == d && g.id.atoll == a)).map (fun g => 128 * g.lines.length)).sum

/-- Attach, place, or fall back (R218). -/
def stageRes (c : Ctx) (s : State) : Res :=
  match agOperand c c.w.ag1 with
  | none => .fault s .stageBad
  | some o =>
    if o.output then .fault s .stageBad
    else
      let id := stageId c o
      let unmarked := s.mig.fallbacks.filter (fun f => !(f.1 == c.t.tag && decide (f.2 = id)))
      if s.mig.stagings.any (fun g => decide (g.id = id)) then
        .next { s with mig := { s.mig with
          stagings := s.mig.stagings.map (fun g =>
            if g.id = id ∧ ¬ g.members.contains c.t.tag then { g with members := g.members ++ [c.t.tag] } else g)
          fallbacks := unmarked } }
      else
        let lines := stageLines c o
        if stagedBytes s id.dom id.atoll + 128 * lines.length ≤ (memRec s id.dom).stageWays * 4 * 2 ^ 20 then
          .next { s with mig := { s.mig with
            stagings := s.mig.stagings ++ [⟨id, [c.t.tag], lines, 0, [], []⟩], fallbacks := unmarked } }
        else
          .next { s with mig := { s.mig with
            fallbacks := unmarked ++ [(c.t.tag, id)]
            fallCount := modAt s.mig.fallCount id.atoll (satAdd 32767 1) } }

def execStage (i : Fin 256) (s : State) : Outcome :=
  runInsn "STAGE" (fun w => isOp .stage w && !(bit w.flags 0)) i s stageRes

/-- STAGE with RELEASE: the member detaches, or its fallback marking ends (R221). -/
def releaseRes (c : Ctx) (s : State) : Res :=
  match agOperand c c.w.ag1 with
  | none => .fault s .stageBad
  | some o =>
    if o.output then .fault s .stageBad
    else
      let id := stageId c o
      .next { s with mig := { s.mig with
        stagings := (s.mig.stagings.map (fun g =>
          if g.id = id then { g with members := g.members.filter (· != c.t.tag) } else g)).filter
          (fun g => !g.members.isEmpty)
        fallbacks := s.mig.fallbacks.filter (fun f => !(f.1 == c.t.tag && decide (f.2 = id))) } }

def execStageRelease (i : Fin 256) (s : State) : Outcome :=
  runInsn "STAGE_RELEASE" (fun w => isOp .stage w && bit w.flags 0) i s releaseRes

/-- A range pending under some task of a domain. -/
def pendingIn (s : State) (d : Nat) (r : Nat × Nat) : Bool :=
  s.tasks.any (fun u => u.desc.domain == d && hasEntered u && (outRanges u).any (fun o => overlaps o r))

/-- STAGE_LINE_FILL: the next line of a staging tile arrives, or its fill times out or fails and the line is dropped
(R218-R220). Tiles are numbered in the order they were placed. -/
def execStageLineFill (tile : BitVec 16) (ok : Bool) (s : State) : Outcome :=
  match s.mig.stagings[tile.toNat]? with
  | none => notNow "STAGE_LINE_FILL"
  | some g =>
    match g.lines[g.filled]? with
    | none => notNow "STAGE_LINE_FILL"
    | some l =>
      let put := fun (s : State) (g : Staging) => { s with mig := { s.mig with stagings := setAt s.mig.stagings tile.toNat g } }
      if ok then
        match xlat s g.id.dom (g.members.head?) (l * 128) with
        | .error _ => notNow "STAGE_LINE_FILL"
        | .ok p =>
          if pendingIn s g.id.dom (l * 128, 128) && !(g.dropped.contains l) then notNow "STAGE_LINE_FILL"
          else .next (put (if p.tier = .t3 then s else touch s p.addr 128) { g with filled := g.filled + 1 })
      else .next (put s { g with filled := g.filled + 1,
                                 dropped := if g.dropped.contains l then g.dropped else g.dropped ++ [l] })

/-- LAG_STAGE_CLEAR: FALLBACKS of an atoll is cleared (R229). -/
def execLagStageClear (atoll : Fin 4) (s : State) : Outcome :=
  .next (viaHost s (fun s => { s with mig := { s.mig with fallCount := setAt s.mig.fallCount atoll 0 } }))

/-- Host DMA changes a domain range: filled staging lines keep the bytes they held (R220). -/
def keepStaged (s : State) (d va n : Nat) : State :=
  let old := fun (g : Staging) => ((g.lines.take g.filled).filter (fun l =>
    overlaps (l * 128, 128) (va, n) && !(g.kept.any (fun k => k.1 == l)))).map
      (fun l => (l, vaBytes s d none (l * 128) 128))
  { s with mig := { s.mig with stagings := s.mig.stagings.map (fun g =>
      if g.id.dom = d then { g with kept := g.kept ++ old g } else g) } }

end Sys2Proof.Machine
end

