-- ==== Sys2Proof/Machine/Matrix.lean ====
section
/-!
DEFINITION. The matrix engine: operand rows, the anchor prepass, products on the W128 grid and in the FP32 tree,
partial records, the epilogue (R141-R163, R185-R189, R223-R227).
-/
namespace Sys2Proof.Machine

/-! ### Accumulator cells (R148, R154, R156) -/

/-- The join of special states (R154). -/
def joinSt : CellSt → CellSt → CellSt
  | .nan, _ => .nan
  | _, .nan => .nan
  | .fin, t => t
  | s, .fin => s
  | .pinf, .pinf => .pinf
  | .ninf, .ninf => .ninf
  | .pinf, .ninf => .nan
  | .ninf, .pinf => .nan

/-- floor(v × 2^−q) of a finite value. -/
def floorAt (q : Int) : Val → Int
  | .nan => 0
  | .inf _ => 0
  | .fin s m e =>
    let z : Int := if s then -(m : Int) else m
    if q ≤ e then z * 2 ^ (e - q).toNat
    else shiftDown z (q - e).toNat

/-- Add a product to a W128 cell anchored at `a` (R154). -/
def addProduct (a : Int) (cell : Cell) (p : Val) : Cell :=
  match p with
  | .nan => { cell with st := joinSt cell.st .nan }
  | .inf s => { cell with st := joinSt cell.st (if s then .ninf else .pinf) }
  | .fin s m e =>
    if vle (.fin false 1 a) (vabs (.fin s m e)) then { cell with st := joinSt cell.st .nan }
    else { cell with n := cell.n + BitVec.ofInt 128 (floorAt (a - 100) (.fin s m e)) }

/-- The FP32 value of a W128 cell (R154). -/
def drainW128 (a : Int) (cell : Cell) : Val :=
  match cell.st with
  | .pinf => .inf false
  | .ninf => .inf true
  | .nan => .nan
  | .fin =>
    let z := cell.n.toInt
    if z = 0 then vzero else toFp32 (.fin (decide (z < 0)) z.natAbs (a - 100))

/-- The position of a tile cell in its table. -/
def cellKey (r col : Nat) : Nat := 128 * r + col

/-- A tile's cell. -/
def cellAt (t : AccTile) (r col : Nat) : Cell := sparseGet {} t.cells (cellKey r col)

/-- The anchor of the anchor block that a row lies in; 0 while it is unset, when every cell is zero (R149). -/
def anchorAt (t : AccTile) (r : Nat) : Int := ((t.anchors.getD (r / 128) none)).getD 0

/-- The drained value of a cell (R154, R161). -/
def drainCell (t : AccTile) (r col : Nat) : Val :=
  if t.fp then ofF32 (cellAt t r col).n.toNat else drainW128 (anchorAt t r) (cellAt t r col)

/-! ### Operand rows (R143, R144, R188, R225) -/

/-- A non-zero element or marker of an operand row: its k, its value, whether it is a marker. -/
abbrev KElem := Nat × Val × Bool

/-- The elements of a row below `lim` that are not plain zeros. -/
def rowElems (o : Operand) (n lim : Nat) (b : List Byte) : Except Status (List KElem) :=
  match layoutOf o.fmt o.mx with
  | some l =>
    let g := groupSize l
    match allOk ((List.range (ceilDiv n g)).map (fun j =>
        let burst := slice b (128 * j) 128
        if burst.all (· == 0) then .ok []
        else if burstBad l burst then .error .burstMismatch
        else .ok (((List.range g).zip (decodeBurst l burst)).map (fun e => (j * g + e.1, e.2.val, e.2.marker))))) with
    | .error e => .error e
    | .ok es => .ok (es.flatten.filter (fun e => decide (e.1 < min n lim) && (!(isZero e.2.1) || e.2.2)))
  | none =>
    .ok (((List.range (min n lim)).map (fun k => (k, elemAt o.fmt b k, false))).filter (fun e => !(isZero e.2.1)))

/-- The rows of an operand in the scratchpad. -/
def operandRows (c : Ctx) (o : Operand) (a : Int) (rows n lim : Nat) : Except Status (List (List KElem)) :=
  let p := rowPitch o n
  allOk ((List.range rows).map (fun (r : Nat) =>
    match scratchUse c (a + (r * p : Nat)) p with
    | .error e => .error e
    | .ok b => rowElems o n lim b))

/-- The value of a row at k, zero where it is not listed. -/
def elemAtK (row : List KElem) (k : Nat) : Val := match row.find? (fun e => e.1 == k) with | some e => e.2.1 | none => vzero

/-- The products of one cell that can change it: k and the exact product (R143, R144, R154). -/
def products (ra rb : List KElem) : List (Nat × Val) :=
  (ra.map (fun e => (e.1, mulEx e.2.1 (elemAtK rb e.1)))).filter (fun p => !(isZero p.2)) ++
  ((rb.filter (fun e => !(isFin e.2.1) && !(ra.any (fun x => x.1 == e.1)))).map (fun e => (e.1, mulEx vzero e.2.1)))

/-- Add one cell's products (R154, R156). -/
def addProducts (fp : Bool) (a : Int) (steps : Nat) (cell : Cell) (ps : List (Nat × Val)) : Cell :=
  if ps.isEmpty then cell
  else if fp then
    (List.range steps).foldl (fun (cell : Cell) k =>
      let mine := ps.filter (fun p => p.1 / 64 == k)
      if mine.isEmpty then cell
      else
        let leaves := (List.range 64).map (fun j =>
          match mine.find? (fun p => p.1 % 64 == j) with | some p => toFp32 p.2 | none => vzero)
        { cell with n := BitVec.ofNat 128 (f32 (addF (ofF32 cell.n.toNat) (treeSum 7 leaves))) }) cell
  else ps.foldl (fun cell p => addProduct a cell p.2) cell

/-- The operand steps of an MMA on a tile. -/
def mmaTile (t : AccTile) (steps : Nat) (ra rb : List (List KElem)) : AccTile :=
  ((List.range ra.length).zip ra).foldl (fun t (r, a) =>
    ((List.range rb.length).zip rb).foldl (fun t (col, b) =>
      let ps := products a b
      if ps.isEmpty then t
      else { t with cells := sparseSet {} t.cells (cellKey r col)
                      (addProducts t.fp (anchorAt t r) steps (cellAt t r col) ps) }) t) t

/-- Cycles of one operand step (R141). -/
def stepCycles (a b : Fmt) : Nat :=
  if a = .bf16 ∨ a = .fp16 ∨ b = .bf16 ∨ b = .fp16 then 128
  else if isNarrow a ∧ isNarrow b then 32 else 64

/-- Cycles that prism products add to the steps of an MMA (R144, R170): each half of 128 rows is a step of its own. -/
def prismStall (t : AccTile) (steps base : Nat) (ra rb : List (List KElem)) : Nat :=
  let marks := fun (rows : List (List KElem)) k =>
    (rows.filter (fun r => r.any (fun e => e.1 == k && e.2.2))).length
  (List.range t.anchors.length).foldl (fun acc h =>
    let part := (ra.drop (128 * h)).take 128
    (List.range steps).foldl (fun acc st =>
      let p := ((List.range 64).map (fun j =>
        let ma := marks part (64 * st + j)
        let mb := marks rb (64 * st + j)
        ma * shapeCols t.shape + mb * part.length - ma * mb)).sum
      acc + (max base (ceilDiv p 512) - base)) acc) 0

/-! ### The anchor (R149-R153) -/

/-- The rows of an operand that an anchor block takes in: from `lo`, 128 of them, within the extent. -/
def blockRows (c : Ctx) (dim lo : Nat) : List Nat :=
  (List.range 128).map (lo + ·) |>.filter (fun r => decide (r < c.ext.getD dim 0))

/-- The burst that holds position k of the anchor range: its number in the row, which may be negative. -/
def anchorBurst (c : Ctx) (l : Layout) (k : Nat) : Int := (c.t.anchorFirst + k) / (groupSize l : Int)

/-- The layout whose burst heads the prepass reads: none for plain formats and for a widened operand, whose bound is a
constant (R151, R152). -/
def headLayout (o : Operand) : Option Layout := if o.widened then none else layoutOf o.fmt o.mx

/-- The head addresses that the prepass reads for a block of an operand (R151). -/
def headAddrs (c : Ctx) (o : Operand) (dim lo : Nat) : List Nat :=
  match headLayout o with
  | none => []
  | some l =>
    if c.t.anchorLen = 0 then []
    else
      let first := anchorBurst c l 0
      let n := (anchorBurst c l (c.t.anchorLen - 1) - first + 1).toNat
      (blockRows c dim lo).flatMap (fun r => (List.range n).map (fun (j : Nat) =>
        vaOf ((o.base : Int) + (r * o.pitch : Nat) + (first + j) * 128)))

/-- The larger of two bounds, none being below every bound. -/
def maxBound : Option Int → Option Int → Option Int
  | none, b => b
  | a, none => a
  | some a, some b => some (max a b)

/-- c(k) of an operand over its block: from the heads, or the descriptor's bound (R151). -/
def boundK (s : State) (c : Ctx) (o : Operand) (dim lo k : Nat) : Option Int :=
  let rows := blockRows c dim lo
  match headLayout o with
  | none => if rows.isEmpty then none else some o.bound
  | some l =>
    let gi := anchorBurst c l k
    rows.foldl (fun acc r =>
      maxBound acc (headBound l (plain (taskBytes s c (vaOf ((o.base : Int) + (r * o.pitch : Nat) + gi * 128)) 32))
        ((c.t.anchorFirst + k) % (groupSize l : Int)).toNat)) none

/-- The anchor of the block at rows `lm` and columns `ln` (R152). -/
def anchorOf (s : State) (c : Ctx) (oa ob : Operand) (lm ln : Nat) : Int :=
  ((List.range c.t.anchorLen).foldl (fun acc k =>
    match boundK s c oa 0 lm k, boundK s c ob 1 ln k with
    | some x, some y => maxBound acc (some (x + y))
    | _, _ => acc) none).getD 0

/-- The anchors of a tile, by the prepass or from the anchor word (R153). -/
def withAnchors (c : Ctx) (t : AccTile) (oa ob : Operand) (s : State) (k : State → List Int → Res) : Res :=
  let n := t.anchors.length
  if bits c.w.flags 2 1 = 1 then
    withBytesAt c c.w.ag3 c.w.imm2 (2 * n) s (fun s b => k s ((List.range n).map (fun h => signed 16 (leAt b (2 * h) 2))))
  else
    let lm := fun h => 128 * ((originNow c 0 + 128 * h) / 128)
    let ln := 128 * (originNow c 1 / 128)
    let heads := fun o dim lo => (headAddrs c o dim lo)
    let all := heads ob 1 ln ++ (List.range n).flatMap (fun h => heads oa 0 (lm h))
    withRead c false (all.map (fun a => (a, 32))) s (fun s =>
      if all.any (fun a => anyMark (taskBytes s c a 32)) then .fault s .poison
      else
        let bad := fun (o : Operand) (as : List Nat) => match headLayout o with
          | none => false
          | some l => as.any (fun a => burstBad l (plain (taskBytes s c a 32)))
        if bad ob (heads ob 1 ln) || (List.range n).any (fun h => bad oa (heads oa 0 (lm h))) then .fault s .burstMismatch
        else k s ((List.range n).map (fun h => anchorOf s c oa ob (lm h) ln)))

/-- A task's accumulator tile; a number it was not given ends the task (R147). -/
def withTile (c : Ctx) (s : State) (k : AccTile → Res) : Res :=
  match c.x.tiles[c.w.x]? with
  | none => .fault s .accAlias
  | some t => k t

/-- Replace the tile that the instruction names. -/
def putTile (c : Ctx) (t : AccTile) (s : State) : State :=
  modIsland s c.isl (fun x => { x with tiles := setAt x.tiles c.w.x t })

/-- An instruction that completes on a tile notes its use of it; unless it is the tile's first use, or an MMA behind an MMA, it
has waited in the accumulator scoreboard for the one before it, and ISL_ACC_WAIT takes a free number of cycles (R147,
R170). -/
def useTile (c : Ctx) (s : State) : State :=
  let mma := decide (c.w.op = .mma)
  let before := c.x.accUse.find? (fun e => e.1 == c.w.x)
  let s := modIsland s c.isl (fun x => { x with accUse := (c.w.x, mma) :: x.accUse.filter (fun e => e.1 != c.w.x) })
  match before with
  | none => s
  | some e =>
    if e.2 && mma then s
    else
      let n := (Config.freeWord s.free).toNat
      modIsland (takeFree s) c.isl (fun x => { x with accWait := wrap32 (x.accWait + n) })

/-- An instruction under the accumulator scoreboard. -/
def scoreboard (f : Ctx → State → Res) (c : Ctx) (s : State) : Res := andThen (f c s) (useTile c)

/-- MMA (R188): open the tile if its anchor is unset, then run COUNT operand steps; with ANCHOR_ONLY only the anchor is
set and written. -/
def mmaRes (c : Ctx) (s : State) : Res :=
  withTile c s (fun t =>
    let oa := operandOf c c.w.opa
    let ob := operandOf c c.w.opb
    let only := bit c.w.flags 3
    let t := if bit c.w.flags 0 then freshTile t.shape t.fp else t
    if oa.fmt = .fp32 ∨ ob.fmt = .fp32 then .fault s .formatDisabled
    else if only then
      match agOperand c c.w.ag3 with
      | none => .fault s .overflowFault
      | some _ =>
        withAnchors c t oa ob s (fun s as =>
          andThen (putAt c c.w.ag3 c.w.imm2 (as.flatMap (fun a => leBytes 2 (unsigned 16 a))) s)
            (putTile c { t with anchors := as.map some }))
    else
      let go := fun (s : State) (t : AccTile) =>
        let n := 64 * c.w.count
        let lim := c.ext.getD 2 0 - originNow c 2
        orFault s (operandRows c oa (agAt c c.w.ag1 c.w.imm1) (shapeRows t.shape) n lim) (fun ra =>
          orFault s (operandRows c ob (agAt c c.w.ag2 c.w.imm2) (shapeCols t.shape) n lim) (fun rb =>
            let t' := mmaTile t c.w.count ra rb
            let stall := prismStall t c.w.count (stepCycles oa.fmt ob.fmt) ra rb
            .next (modIsland (putTile c t' s) c.isl (fun x => { x with prismStall := wrap32 (x.prismStall + stall) }))))
      if t.fp || t.anchors.all (·.isSome) then go s t
      else withAnchors c t oa ob s (fun s as =>
        go s { t with anchors := (t.anchors.zip as).map (fun p => some (p.1.getD p.2)) }))

def execMma (i : Fin 256) (s : State) : Outcome := runInsn "MMA" (isOp .mma) i s (scoreboard mmaRes)

/-- ACCCLR: the tile is cleared and its anchor unset (R186). -/
def accclrRes (c : Ctx) (s : State) : Res :=
  withTile c s (fun t => .next (putTile c (freshTile t.shape t.fp) s))

def execAccclr (i : Fin 256) (s : State) : Outcome := runInsn "ACCCLR" (isOp .accclr) i s (scoreboard accclrRes)

/-! ### Partial records (R158-R160) -/

/-- The code of a special state in a record (R159). -/
def stCode : CellSt → Nat
  | .fin => 0 | .pinf => 1 | .ninf => 2 | .nan => 3

/-- The special state that a code names. -/
def stOf : Nat → CellSt
  | 0 => .fin | 1 => .pinf | 2 => .ninf | _ => .nan

/-- The state code of a tile cell; in FP32 mode it agrees with the cell's bits. -/
def cellCode (t : AccTile) (r col : Nat) : Nat :=
  if t.fp then
    match ofF32 (cellAt t r col).n.toNat with
    | .nan => 3
    | .inf s => if s then 2 else 1
    | .fin _ _ _ => 0
  else stCode (cellAt t r col).st

/-- The partial record of half `h` of a tile, `rows` by `cols` of it present (R159). -/
def recordBytes (t : AccTile) (h rows cols : Nat) : List Byte :=
  let anchor := t.anchors.getD h none
  let unset := !t.fp && anchor.isNone
  let w := if t.fp then 4 else 16
  leBytes 2 (unsigned 16 (if t.fp then 0 else anchor.getD 0)) ++ leBytes 1 (b2n t.fp) ++ leBytes 1 rows ++
    leBytes 1 cols ++ leBytes 1 (b2n unset) ++ List.replicate 58 0#8 ++
    (List.range 4096).map (fun i => BitVec.ofNat 8 (((List.range 4).map (fun j =>
      let r := (4 * i + j) / 128
      let col := (4 * i + j) % 128
      if r < rows ∧ col < cols then cellCode t (128 * h + r) col * 4 ^ j else 0)).sum)) ++
    (List.range 16384).flatMap (fun i =>
      if i / 128 < rows ∧ i % 128 < cols then leBytes w (cellAt t (128 * h + i / 128) (i % 128)).n.toNat
      else List.replicate w 0#8)

/-- EPIRAW: the tile drains raw to one record, or two for a 256 × 128 tile; ROWS and COLS are the tile's rows and columns within
the output operand's extents (R159). DEDUCED: a record in the scratchpad takes the task's M and N. -/
def epirawRes (c : Ctx) (s : State) : Res :=
  withTile c s (fun t =>
    let (nr, nc, dr, dc) := match agOperand c c.w.ag3 with
      | some o => ((extOf c o).1, (extOf c o).2, o.rdim, o.cdim)
      | none => (c.ext.getD 0 0, c.ext.getD 1 0, 0, 1)
    let em := nr - originNow c dr
    let en := nc - originNow c dc
    putAt c c.w.ag3 0 ((List.range t.anchors.length).flatMap (fun h =>
      recordBytes t h (max 1 (min (min 128 (shapeRows t.shape)) (em - 128 * h))) (max 1 (min (shapeCols t.shape) en)))) s)

def execEpiraw (i : Fin 256) (s : State) : Outcome := runInsn "EPIRAW" (isOp .epiraw) i s (scoreboard epirawRes)

/-- Bytes of several ranges at one source, scratchpad or operand memory, consumed. -/
def withPieces (c : Ctx) (o : Option Operand) (l : List (Int × Nat)) (s : State) (k : State → List (List Byte) → Res) :
    Res :=
  match o with
  | none => orFault s (allOk (l.map (fun p => scratchUse c p.1 p.2))) (k s)
  | some o =>
    withRead c false (l.flatMap (fun p => segRanges (segs c o p.1 p.2))) s (fun s =>
      let d := l.map (fun p => operandBytes s c o p.1 p.2)
      if d.any anyMark then .fault s .poison else k s (d.map plain))

/-- Add the cells of a record, its state rows and cell rows as read, to half `h` of a tile (R160). -/
def addRecord (t : AccTile) (h rows cols : Nat) (states cells : List (List Byte)) : AccTile :=
  let w := if t.fp then 4 else 16
  (List.range rows).foldl (fun t r =>
    (List.range cols).foldl (fun (t : AccTile) col =>
      let v := leAt (cells.getD r []) (w * col) w
      let old := cellAt t (128 * h + r) col
      let new : Cell :=
        if t.fp then { old with n := BitVec.ofNat 128 (f32 (addF (ofF32 old.n.toNat) (ofF32 v))) }
        else ⟨old.n + BitVec.ofNat 128 v, joinSt old.st (stOf (bits (leOf (states.getD r [])) (2 * col + 1) (2 * col)))⟩
      { t with cells := sparseSet {} t.cells (cellKey (128 * h + r) col) new }) t) t

/-- Load the record at `a` into half `h` of a tile, then go on (R160). -/
def loadRecord (c : Ctx) (o : Option Operand) (a : Int) (t : AccTile) (h : Nat) (s : State)
    (k : State → AccTile → Res) : Res :=
  withPieces c o [(a, 64)] s (fun s hd =>
    let b := hd.headD []
    let anchor := signed 16 (leAt b 0 2)
    let rows := leAt b 3 1
    let cols := leAt b 4 1
    let unset := bit (leAt b 5 1) 0
    let mine := t.anchors.getD h none
    if leAt b 2 1 ≠ b2n t.fp ∨ leAt b 5 1 ≥ 2 then .fault s .anchorMismatch
    else if unset then k s t
    else if ¬ t.fp ∧ mine.isSome ∧ mine ≠ some anchor then .fault s .anchorMismatch
    else if rows > min 128 (shapeRows t.shape) ∨ cols > shapeCols t.shape then .fault s .accAlias
    else
      let w := if t.fp then 4 else 16
      let stRows := if t.fp then [] else (List.range rows).map (fun (r : Nat) => (a + 64 + (32 * r : Nat), ceilDiv cols 4))
      let clRows := (List.range rows).map (fun (r : Nat) => (a + 0x1040 + (128 * w * r : Nat), w * cols))
      withPieces c o (stRows ++ clRows) s (fun s ds =>
        let t := if t.fp then t else { t with anchors := setAt t.anchors h (some anchor) }
        k s (addRecord t h rows cols (ds.take stRows.length) (ds.drop stRows.length))))

/-- ACCLOAD (R160). -/
def accloadRes (c : Ctx) (s : State) : Res :=
  withTile c s (fun t =>
    let o := agOperand c c.w.ag1
    let a := agAt c c.w.ag1 c.w.imm1
    loadRecord c o a t 0 s (fun s t =>
      if t.anchors.length = 2 then
        loadRecord c o (a + (recordSize t.fp : Nat)) t 1 s (fun s t => .next (putTile c t s))
      else .next (putTile c t s)))

def execAccload (i : Fin 256) (s : State) : Outcome := runInsn "ACCLOAD" (isOp .accload) i s (scoreboard accloadRes)

/-! ### The epilogue (R161, R162, R189) -/

/-- ReLU: every value below zero and −0 become +0; NaN stays. -/
def relu (v : Val) : Val := if valNeg v then vzero else v

/-- The per-tensor factor: the product of both operands' scales rounded once, one of them alone, or none. -/
def tensorScale (oa ob : Operand) : Option Val :=
  if oa.scaleKind = 1 ∧ ob.scaleKind = 1 then some (mulF (ofF32 oa.scale) (ofF32 ob.scale))
  else if oa.scaleKind = 1 then some (ofF32 oa.scale)
  else if ob.scaleKind = 1 then some (ofF32 ob.scale)
  else none

/-- Multiply by a factor that may be absent. -/
def mulOpt (x : Val) : Option Val → Val
  | none => x
  | some f => mulF x f

/-- Steps 2 to 4 of R161 on a drained value. -/
def epiValue (st r cs bias : Option Val) (act : Val → Val) (x : Val) : Val :=
  let x := mulOpt (mulOpt (mulOpt x st) r) cs
  act (match bias with | none => x | some b => addF x b)

/-- A vector of `n` values at an address generator: `f` in the scratchpad, its own format in operand memory; none when
the instruction does not name it. -/
def withVector (c : Ctx) (use : Bool) (ag imm n : Nat) (f : Fmt) (s : State) (k : State → List (Option Val) → Res) : Res :=
  if !use then k s []
  else
    let f := match agOperand c ag with | some o => o.fmt | none => f
    if isNarrow f then .fault s .burstMismatch
    else withBytesAt c ag imm (n * elemBytes f) s (fun s b => k s ((List.range n).map (fun i => some (elemAt f b i))))

/-- The per-row scales of operand A at the tile's rows; rows beyond the extent have none. -/
def withRowScales (c : Ctx) (o : Operand) (rows : Nat) (s : State) (k : State → List (Option Val) → Res) : Res :=
  if o.scaleKind ≠ 2 then k s []
  else
    let om := originNow c 0
    let n := min rows (dimExt c.ext o.rdim - om)
    let a := o.scaleVa + 4 * om
    withRead c false [(a, 4 * n)] s (fun s =>
      let d := taskBytes s c a (4 * n)
      if anyMark d then .fault s .poison else k s ((List.range n).map (fun i => some (ofF32 (leAt (plain d) (4 * i) 4)))))

/-- The row of OPC's scale vector that a tile row takes. -/
def outRow (c : Ctx) (oc : Operand) (dst : Int) (r : Nat) : Int :=
  match agOperand c c.w.ag3 with
  | some o => (rowCol o (dst + (r * o.pitch : Nat))).1
  | none => ((originNow c oc.rdim + r : Nat) : Int)

/-- Write rows of bytes at the destination: back to back in the scratchpad, at the row pitch in an output operand. -/
def putRows (c : Ctx) (dst : Int) (rows : List (List Byte)) (s : State) : Res :=
  match agOperand c c.w.ag3 with
  | none =>
    let n := (rows.headD []).length
    putRanges c (((List.range rows.length).zip rows).map (fun p => (dst + (p.1 * n : Nat), clean p.2))) s
  | some o =>
    if o.output then
      withWrite c (((List.range rows.length).zip rows).flatMap (fun p =>
        (segs c o (dst + (p.1 * o.pitch : Nat)) p.2.length).map (fun g => (g.2.1, clean ((p.2.drop g.1).take g.2.2))))) s
        .next
    else .fault s .overflowFault

/-- Put an element of a narrow output row into its group; the group when it is complete (R162). -/
def stageElem (g nc : Nat) (pk : List (Nat × Nat × Nat × List (Nat × Nat))) (op row n : Nat) (v : Nat) :
    List (Nat × Nat × Nat × List (Nat × Nat)) × Option (Nat × List (Nat × Nat)) :=
  let gi := n / g
  let mine := match pk.find? (fun e => e.1 == op && e.2.1 == row && e.2.2.1 == gi) with
    | some e => e.2.2.2
    | none => []
  let rest := pk.filter (fun e => !(e.1 == op && e.2.1 == row && e.2.2.1 == gi))
  let new := mine.filter (fun e => e.1 != n - gi * g) ++ [(n - gi * g, v)]
  if new.length ≥ min g (nc - gi * g) then (rest, some (gi, new)) else (rest ++ [(op, row, gi, new)], none)

/-- Drained elements of a narrow row gather in their groups: the groups that stay open, and those that become complete, packed, by
row and group, the last of a row with TAIL (R162). `row` gives the row of the operand that a tile row falls in. -/
def gatherGroups (c : Ctx) (o : Operand) (key : Nat) (l : Layout) (row : Nat → Option Nat) (rows : List (List Val)) :
    List (Nat × Nat × Nat × List (Nat × Nat)) × List (Nat × Nat × List Byte) :=
  let g := groupSize l
  let nc := (extOf c o).2
  let col0 := originNow c o.cdim
  let start : List (Nat × Nat × Nat × List (Nat × Nat)) × List (Nat × Nat × List Byte) := (c.x.packing, [])
  ((List.range rows.length).zip rows).foldl (fun acc (r, vs) =>
    match row r with
    | none => acc
    | some row =>
      ((List.range vs.length).zip vs).foldl (fun (pk, ws) (k, v) =>
        let n := col0 + k
        if n ≥ nc then (pk, ws)
        else match stageElem g nc pk key row n (f32 v) with
          | (pk, none) => (pk, ws)
          | (pk, some (gi, es)) =>
            let body := (List.range g).map (fun j => match es.find? (fun e => e.1 == j) with
              | some e => ofF32 e.2
              | none => vzero)
            (pk, ws ++ [(row, gi, packGroup l body (decide (nc ≤ (gi + 1) * g) && !(innerRow c o)))])) acc) start

/-- Drain a narrow output operand: complete groups are written at their places in its rows (R162). -/
def putNarrow (c : Ctx) (o : Operand) (opIdx : Nat) (l : Layout) (dst : Int) (rows : List (List Val)) (s : State) : Res :=
  let (pk, ws) := gatherGroups c o opIdx l (fun r =>
    let row := (rowCol o (dst + (r * o.pitch : Nat))).1
    if row < 0 ∨ ((extOf c o).1 : Int) ≤ row then none else some row.toNat) rows
  withWrite c (ws.map (fun w => (o.base + w.1 * o.pitch + w.2.1 * 128, clean w.2.2))) s (fun s =>
    .next (modIsland s c.isl (fun x => { x with packing := pk })))

/-- Drain narrow values to the scratchpad (R162). DESIGN CHOICE: rows and groups are those of operand OPC, and the bursts that one
EPI completes stand back to back at its destination, row by row; the spec does not say where in the scratchpad they go. -/
def putPacked (c : Ctx) (oc : Operand) (l : Layout) (dst : Int) (rows : List (List Val)) (s : State) : Res :=
  let (pk, ws) := gatherGroups c oc (16 + c.w.opc) l (fun r => some (originNow c oc.rdim + r)) rows
  andThen (putRanges c [(dst, clean (ws.flatMap (fun w => w.2.2)))] s) (fun s =>
    modIsland s c.isl (fun x => { x with packing := pk }))

/-- The destination of an EPI takes values in OPC's format (R161 step 5). -/
def putOut (c : Ctx) (oc : Operand) (rows : List (List Val)) (s : State) : Res :=
  let dst := agAt c c.w.ag3 0
  match layoutOf oc.fmt oc.mx, agOperand c c.w.ag3 with
  | some l, none => putPacked c oc l dst rows s
  | some l, some o =>
    if o.output then putNarrow c o ((agOf c c.w.ag3).operand.getD 0) l dst rows s else .fault s .overflowFault
  | none, _ =>
    let need := decide (oc.fmt = .int8)
    let rs := if need then (List.range rows.length).flatMap (fun r => scaleRange c oc (outRow c oc dst r)) else []
    withRead c false rs s (fun s =>
      orFault s (allOk (((List.range rows.length).zip rows).map (fun p =>
          match (if need then scaleOf s c oc (outRow c oc dst p.1) else .ok vone) with
          | .error e => .error e
          | .ok sc => .ok (p.2.flatMap (toFmt oc.fmt sc))))) (fun bs => putRows c dst bs s))

/-- The activation of an EPI (R161 step 4, R189). -/
def activation (s : State) (c : Ctx) : Except Status (Val → Val) :=
  match bits c.w.flags 1 0 with
  | 0 => .ok id
  | 1 => .ok relu
  | _ => tableFn s c (c.w.imm2 % 2 ^ 16)

/-- EPI (R161, R189). -/
def epiRes (c : Ctx) (s : State) : Res :=
  withTile c s (fun t =>
    let oa := operandOf c c.w.opa
    let ob := operandOf c c.w.opb
    let oc := operandOf c c.w.opc
    let rows := shapeRows t.shape
    let cols := shapeCols t.shape
    orFault s (activation s c) (fun act =>
      withVector c (bit c.w.flags 2) c.w.ag1 c.w.imm1 cols .bf16 s (fun s bias =>
        withVector c (bit c.w.flags 3) c.w.ag2 0 cols .fp32 s (fun s cs =>
          withRowScales c oa rows s (fun s rs =>
            putOut c oc ((List.range rows).map (fun r => (List.range cols).map (fun col =>
              epiValue (tensorScale oa ob) (rs.getD r none) (cs.getD col none) (bias.getD col none) act
                (drainCell t r col)))) s)))))

def execEpi (i : Fin 256) (s : State) : Outcome := runInsn "EPI" (isOp .epi) i s (scoreboard epiRes)

end Sys2Proof.Machine
end

