-- ==== Sys2Proof/Machine/Collectives.lean ====
section
/-!
DEFINITION. Groups and collectives: the member's side, the authority's side, the schedules by which data moves and the
arithmetic of reductions (R386, R393-R411, R413).
-/
namespace Sys2Proof.Machine

/-! ### Groups and where their members are -/

def groupOf (s : State) (id : Nat) : Option Group := s.net.groups.find? (fun g => g.id == id)
def collOf (s : State) (g seq : Nat) : Option Coll := s.net.colls.find? (fun c => c.o.group == g && c.o.seq == seq)
def orderOf (s : State) (g seq : Nat) : Option Order := s.net.orders.find? (fun o => o.group == g && o.seq == seq)
def authOf (s : State) (g : Nat) : Option AuthGroup := s.net.auth.find? (fun a => a.id == g && a.formed)

def setColl (s : State) (c : Coll) : State :=
  { s with net := { s.net with colls := s.net.colls.map (fun x =>
      if x.o.group = c.o.group ∧ x.o.seq = c.o.seq then c else x) } }

def dropColl (s : State) (c : Coll) : State :=
  { s with net := { s.net with colls := s.net.colls.filter (fun x => !(x.o.group == c.o.group && x.o.seq == c.o.seq)) } }

def setOrder (s : State) (o : Order) : State :=
  { s with net := { s.net with orders := s.net.orders.map (fun x =>
      if x.group = o.group ∧ x.seq = o.seq then o else x) } }

def dropOrder (s : State) (o : Order) : State :=
  { s with net := { s.net with orders := s.net.orders.filter (fun x => !(x.group == o.group && x.seq == o.seq)) } }

/-- The shoal of a MODULE_ID. -/
def shoalOf (id : Nat) : Nat := id / 16 % 16
def workerOf (id : Nat) : Nat := id % 16

/-- Members in more than one shoal (R393). -/
def crossShoal (ms : List (Nat × Nat)) : Bool := ms.any (fun m => shoalOf m.1 != shoalOf ((ms.headD (0, 0)).1))

/-- Every shoal in the list holds members at the same set of WORKER indices (R393). -/
def rectangular (ms : List (Nat × Nat)) : Bool :=
  let shoals := (ms.map (fun m => shoalOf m.1)).eraseDups
  let at_ := fun k => (ms.filter (fun m => shoalOf m.1 == k)).map (fun m => workerOf m.1)
  shoals.all (fun k => at_ k == at_ (shoals.headD 0))

/-- MODULE_IDs strictly ascending. -/
def ascending : List (Nat × Nat) → Bool
  | a :: b :: t => decide (a.1 < b.1) && ascending (b :: t)
  | _ => true

/-- A member list of the right form: 2 to 256 workers, ascending, rectangular (R388, R393). -/
def membersOk (ms : List (Nat × Nat)) : Bool :=
  decide (2 ≤ ms.length) && decide (ms.length ≤ 256) && ascending ms && ms.all (fun m => decide (m.1 < 256) && decide (m.2 < 16)) &&
    rectangular ms

/-- The MODULE_ID of a group's authority (R393): the manager of its shoal, or the top manager. A shoal manager that was
promoted keeps the worker index that the manager port's entry names. -/
def authorityId (s : State) (ms : List (Nat × Nat)) : Nat :=
  if crossShoal ms then 512
  else 256 + 16 * shoalOf ((ms.headD (0, 0)).1) +
    (match managerPort s with | some p => (portEntry s p).2.2 | none => 0)

/-- TICKET_TIMEOUT in ns (R389). -/
def ticketTimeout (s : State) : Nat := (if s.net.role.timeout = 0 then 1000 else s.net.role.timeout) * 1000000

/-! ### Elements and reduction (R403, R410) -/

/-- FORMAT of an operation's elements: FP32 or BF16 alone can be reduced by value. -/
def collBytes (o : CollOp) : Nat :=
  if o.w128 then recordSize false
  else match fmtOf o.fmt with
    | some f => if isNarrow f then 128 else elemBytes f
    | none => 1

/-- Elements that a count names: for narrow bursts, the bursts that hold them. -/
def collUnits (o : CollOp) (count : Nat) : Nat :=
  if o.w128 then count
  else match fmtOf o.fmt with
    | some .fp4 => ceilDiv count 192
    | some .k3 => ceilDiv count 256
    | _ => count

/-- Reduce one element: lower rank's value and higher rank's value. -/
def reduceElem (o : CollOp) (lo hi : List Byte) : List Byte :=
  if o.fmt = 1 then
    let a := decodeFmt .bf16 (leOf lo)
    let b := decodeFmt .bf16 (leOf hi)
    leBytes 2 (encodeFp .bf16 (if o.op = 1 then maxVal a b else minVal a b))
  else
    let a := ofF32 (leOf lo)
    let b := ofF32 (leOf hi)
    leBytes 4 (f32 (if o.op = 0 then addF a b else if o.op = 1 then maxVal a b else minVal a b))

/-- Join two W128 partial records; none where MODE differs, or ANCHOR between two that lack UNSET (R159, R160, R403). -/
def reduceRecord (a b : List Byte) : Option (List Byte) :=
  let ua := bit (leAt a 5 1) 0
  let ub := bit (leAt b 5 1) 0
  if leAt a 2 1 ≠ leAt b 2 1 then none
  else if ub then some a
  else if ua then some b
  else if leAt a 0 2 ≠ leAt b 0 2 then none
  else
    let states := (List.range 4096).map (fun i =>
      let x := leAt a (0x40 + i) 1
      let y := leAt b (0x40 + i) 1
      BitVec.ofNat 8 (((List.range 4).map (fun j =>
        stCode (joinSt (stOf (x / 4 ^ j % 4)) (stOf (y / 4 ^ j % 4))) * 4 ^ j)).sum))
    let cells := (List.range 16384).flatMap (fun i =>
      leBytes 16 ((leAt a (0x1040 + 16 * i) 16 + leAt b (0x1040 + 16 * i) 16) % 2 ^ 128))
    some (slice a 0 3 ++ leBytes 1 (max (leAt a 3 1) (leAt b 3 1)) ++ leBytes 1 (max (leAt a 4 1) (leAt b 4 1)) ++
      slice a 5 59 ++ states ++ cells)

/-- Reduce two byte strings element by element. -/
def reduceBytes (o : CollOp) (a b : List Byte) : Option (List Byte) :=
  let k := collBytes o
  let n := a.length / k
  if o.w128 then
    (List.range n).foldl (fun acc i => match acc, reduceRecord (slice a (k * i) k) (slice b (k * i) k) with
      | some l, some r => some (l ++ r)
      | _, _ => none) (some [])
  else some ((List.range n).flatMap (fun i => reduceElem o (slice a (k * i) k) (slice b (k * i) k)))

/-- The bytes of a list of ranges of a vector. -/
def gatherRanges (v : List Byte) (rs : List (Nat × Nat)) : List Byte := rs.flatMap (fun r => slice v r.1 r.2)

/-- Put bytes back into a list of ranges. -/
def scatterRanges (v : List Byte) (rs : List (Nat × Nat)) (b : List Byte) : List Byte :=
  (rs.foldl (fun (acc : List Byte × List Byte) r =>
    (acc.1.take r.1 ++ slice acc.2 0 r.2 ++ acc.1.drop (r.1 + r.2), acc.2.drop r.2)) (v, b)).1

/-! ### Schedules (R405-R409) -/

/-- Blocks of a vector: one for each of `n`, at element boundaries, the last shorter or empty. -/
def evenBlocks (total n : Nat) : List (Nat × Nat) :=
  let e := ceilDiv total n
  (List.range n).map (fun i => (min total (i * e), min total ((i + 1) * e) - min total (i * e)))

/-- Blocks of given sizes, in rank order. -/
def countBlocks (counts : List Nat) : List (Nat × Nat) :=
  (counts.foldl (fun (acc : List (Nat × Nat) × Nat) c => (acc.1 ++ [(acc.2, c)], acc.2 + c)) ([], 0)).1

/-- Part `j` of a block in `k` parts. -/
def partOf (k j : Nat) (b : Nat × Nat) : Nat × Nat :=
  let e := ceilDiv b.2 k
  (b.1 + min b.2 (j * e), min b.2 ((j + 1) * e) - min b.2 (j * e))

/-- Half `h` of a block. -/
def halfOf (h : Nat) (b : Nat × Nat) : Nat × Nat := partOf 2 h b

/-- The members of a group in this member's shoal, and its place among them. -/
def localRanks (ms : List (Nat × Nat)) (r : Nat) : List Nat :=
  let id := (ms.getD r (0, 0)).1
  (List.range ms.length).filter (fun i => shoalOf ((ms.getD i (0, 0)).1) == shoalOf id)

/-- The members at this member's WORKER index, in shoal order. -/
def railRanks (ms : List (Nat × Nat)) (r : Nat) : List Nat :=
  let id := (ms.getD r (0, 0)).1
  (List.range ms.length).filter (fun i => workerOf ((ms.getD i (0, 0)).1) == workerOf id)

/-- Blocks by local member, in elements: in a shoal one for each member; across shoals the blocks of the members at one
WORKER index together, or one for each local member where the vector is not cut by rank. -/
def ownBlocks (o : CollOp) (ms : List (Nat × Nat)) (r : Nat) (counts : List Nat) : List (List (Nat × Nat)) :=
  let loc := localRanks ms r
  let n := ms.length
  let byRank : List (Nat × Nat) :=
    if o.kind = 3 ∨ o.kind = 4 then countBlocks counts
    else if o.kind = 2 then (List.range n).map (fun i => (i * collUnits o o.count, collUnits o o.count))
    else evenBlocks (collUnits o o.count) n
  if o.kind = 0 ∨ o.kind = 5 then (evenBlocks (collUnits o o.count) loc.length).map (fun b => [b])
  else loc.map (fun l => (railRanks ms l).map (fun q => byRank.getD q (0, 0)))

/-- Elements of the vector that a member works on. -/
def vecUnits (o : CollOp) (ms : List (Nat × Nat)) (counts : List Nat) : Nat :=
  if o.kind = 3 ∨ o.kind = 4 then counts.sum
  else if o.kind = 2 then ms.length * collUnits o o.count
  else if o.kind = 6 then 0
  else collUnits o o.count

/-- Ranges that part `j` of `k` takes from the blocks of a set of local members, in bytes. -/
def stripeOf (eb k j : Nat) (blocks : List (List (Nat × Nat))) (who : List Nat) : List (Nat × Nat) :=
  (who.flatMap (fun l => (blocks.getD l []).map (fun b =>
    let p := partOf k j b
    (p.1 * eb, p.2 * eb)))).filter (fun p => decide (0 < p.2))

/-- Exponent of the largest power of two that `n` members hold. -/
def log2Of (n : Nat) : Nat := Nat.log2 n

/-- The local members whose blocks rank `q` of `p` carries (R406). -/
def carried (n p q : Nat) : List Nat := (List.range n).filter (fun b => b % p == q)

/-- The blocks that stay with `q` when the dimensions `ds` have been exchanged: those that agree with it there. -/
def agreeing (n p q : Nat) (ds : List Nat) : List Nat :=
  (List.range n).filter (fun b => ds.all (fun d => (b % p).testBit d == q.testBit d))

/-- Reduce-scatter over `p = 2^k` of the local members: stripe `j` uses dimension (t + j) mod k at step t (R405). -/
def halving (rng : List Nat → List (Nat × Nat)) (n p k j q : Nat) (loc : List Nat) : List Xfer :=
  (List.range k).map (fun t =>
    let ds := (List.range t).map (fun u => (u + j) % k)
    let d := (t + j) % k
    let held := agreeing n p q ds
    ⟨loc.getD (Nat.xor q (2 ^ d)) 0, rng (held.filter (fun b => (b % p).testBit d != q.testBit d)),
     rng (held.filter (fun b => (b % p).testBit d == q.testBit d)), true⟩)

/-- All-gather: the same dimensions in reverse. -/
def doubling (rng : List Nat → List (Nat × Nat)) (n p k j q : Nat) (loc : List Nat) : List Xfer :=
  (List.range k).reverse.map (fun t =>
    let ds := (List.range t).map (fun u => (u + j) % k)
    let d := (t + j) % k
    let held := agreeing n p q ds
    ⟨loc.getD (Nat.xor q (2 ^ d)) 0, rng (held.filter (fun b => (b % p).testBit d == q.testBit d)),
     rng (held.filter (fun b => (b % p).testBit d != q.testBit d)), false⟩)

/-- BROADCAST's scatter from local member `root` by recursive halving. -/
def scattering (rng : List Nat → List (Nat × Nat)) (n p k j q root : Nat) (loc : List Nat) : List Xfer :=
  (List.range k).filterMap (fun t =>
    let d := (t + j) % k
    let ds := (List.range t).map (fun u => (u + j) % k)
    let later := (List.range k).drop (t + 1) |>.map (fun u => (u + j) % k)
    let same := later.all (fun e => q.testBit e == root.testBit e)
    if !same then none
    else if q.testBit d == root.testBit d then
      some ⟨loc.getD (Nat.xor q (2 ^ d)) 0, rng ((agreeing n p q ds).filter (fun b => (b % p).testBit d != q.testBit d)), [], false⟩
    else some ⟨loc.getD (Nat.xor q (2 ^ d)) 0, [], rng ((agreeing n p q ds).filter (fun b => (b % p).testBit d == q.testBit d)), false⟩)

/-- The ring over the rails for one half of a member's blocks: partial sums pass in shoal order (ascending for the half
that travels up, descending for the other) to the last shoal, and the result passes on round the ring (R408). -/
def ringHalf (rails : List Nat) (me : Nat) (reduce : Bool) (up : Bool) (rs : List (Nat × Nat)) : List Xfer :=
  let order := if up then rails else rails.reverse
  let m := order.length
  let i := (firstIdx (fun x => x == me) order).getD 0
  let prev := order.getD ((i + m - 1) % m) 0
  let next := order.getD ((i + 1) % m) 0
  if m < 2 ∨ rs.isEmpty then []
  else if reduce then
    (if 0 < i then [Xfer.mk prev [] rs true] else []) ++
    (if i + 1 < m then [Xfer.mk next rs [] false] else []) ++
    (if i + 1 < m then [Xfer.mk prev [] rs false] else []) ++
    (if i + 2 < m ∨ i + 1 = m then [Xfer.mk next rs [] false] else [])
  else []

/-- Round the ring, each member's own blocks are copied to the others (R408). -/
def ringCopy (rails : List Nat) (me : Nat) (own : Nat → List (Nat × Nat)) : List Xfer :=
  let m := rails.length
  let i := (firstIdx (fun x => x == me) rails).getD 0
  if m < 2 then []
  else (List.range (m - 1)).flatMap (fun t =>
    [Xfer.mk (rails.getD ((i + 1) % m) 0) (own ((i + m - t) % m)) [] false,
     Xfer.mk (rails.getD ((i + m - 1) % m) 0) [] (own ((i + m - 1 - t) % m)) false])

/-- The schedule of stripe `j` for a member of rank `r`. -/
def stripePlan (o : CollOp) (ms : List (Nat × Nat)) (r : Nat) (counts : List Nat) (j : Nat) : List Xfer :=
  let loc := localRanks ms r
  let n := loc.length
  let k := log2Of n
  let p := 2 ^ k
  let q0 := (firstIdx (fun x => x == r) loc).getD 0
  let q := q0 % p
  let eb := collBytes o
  let blocks := ownBlocks o ms r counts
  let rng := stripeOf eb o.stripes j blocks
  let all := rng (List.range n)
  let rails := railRanks ms r
  let reduces := o.kind == 0 || o.kind == 1 || o.kind == 4
  let gathers := o.kind == 0 || o.kind == 2 || o.kind == 3 || o.kind == 5
  let rootLoc := (firstIdx (fun x => workerOf ((ms.getD x (0, 0)).1) == workerOf ((ms.getD o.root (0, 0)).1)) loc).getD 0
  let inRoot := loc.contains o.root
  let low := fun x => loc.getD x 0
  let mine := rng (carried n p q)
  let ring := if reduces then
      ringHalf rails r true true (mine.map (halfOf 0)) ++ ringHalf rails r true false (mine.map (halfOf 1))
    else if o.kind = 5 then
      (if inRoot then (rails.filter (fun x => x != r)).map (fun x => Xfer.mk x mine [] false)
       else [Xfer.mk ((rails.filter (fun x => shoalOf ((ms.getD x (0, 0)).1) == shoalOf ((ms.getD o.root (0, 0)).1))).headD 0) [] mine false])
    else ringCopy rails r (fun w => (mine.zipIdx.filter (fun (e : (Nat × Nat) × Nat) => e.2 % rails.length == w)).map (·.1))
  if q0 ≥ p then
    let partner := low (q0 - p)
    let give := if o.kind = 2 ∨ o.kind = 3 then rng [q0] else if o.kind = 5 then (if o.root = r then all else []) else all
    let take := if o.kind = 1 ∨ o.kind = 4 then rng [q0] else if o.kind = 5 ∧ o.root = r then [] else all
    (if give.isEmpty then [] else [Xfer.mk partner give [] false]) ++ (if take.isEmpty then [] else [Xfer.mk partner [] take false])
  else
    let folded := q0 + p < n
    let partner := low (q0 + p)
    let first := if !folded then []
      else if reduces then [Xfer.mk partner [] all true]
      else if o.kind = 5 then (if inRoot ∧ rootLoc = q0 + p then [Xfer.mk partner [] all false] else [])
      else [Xfer.mk partner [] (rng [q0 + p]) false]
    let last := if !folded then []
      else if o.kind = 1 ∨ o.kind = 4 then [Xfer.mk partner (rng [q0 + p]) [] false]
      else if o.kind = 5 ∧ inRoot ∧ rootLoc = q0 + p then []
      else [Xfer.mk partner all [] false]
    first ++
    (if reduces then halving rng n p k j q loc
     else if o.kind = 5 ∧ inRoot then scattering rng n p k j q (rootLoc % p) loc else []) ++
    ring ++
    (if gathers then doubling rng n p k j q loc else []) ++ last

/-- Segments of a vector of `n` bytes in the manager's switch: one up to 8 MiB, else of 1 MiB each, cut at element
boundaries (R409). -/
def switchSegs (eb n : Nat) : List (Nat × Nat) :=
  if n = 0 then []
  else if n ≤ 2 ^ 23 then [(0, n)]
  else
    let m := 2 ^ 20 / eb * eb
    (List.range (ceilDiv n m)).map (fun i => (i * m, min n ((i + 1) * m) - i * m))

/-- A member's schedule with the manager, which stands as rank 65536: at most 8 segments are out at once (R409). -/
def switchPlan (segs : List (Nat × Nat)) : List Xfer :=
  let give := fun (r : Nat × Nat) => Xfer.mk 65536 [r] [] false
  (segs.take 8).map give ++ segs.zipIdx.flatMap (fun (e : (Nat × Nat) × Nat) =>
    Xfer.mk 65536 [] [e.1] false :: (segs[e.2 + 8]?).toList.map give)

/-- The whole schedule: one list for each stripe; with IN_SWITCH the vector goes to the manager and comes back (R409). -/
def planOf (o : CollOp) (ms : List (Nat × Nat)) (r : Nat) (counts : List Nat) : List (List Xfer) :=
  if o.kind = 6 then []
  else if o.inSwitch then
    [switchPlan (switchSegs (collBytes o) (vecUnits o ms counts * collBytes o))]
  else (List.range o.stripes).map (fun j =>
    (stripePlan o ms r counts j).filter (fun x => !(x.send.isEmpty) || !(x.recv.isEmpty)))

/-- What a member reads from its source, and where that stands in the vector: bytes and offset. -/
def sourceOf (o : CollOp) (r : Nat) (counts : List Nat) : Nat × Nat :=
  let eb := collBytes o
  match o.kind with
  | 2 => (collUnits o o.count * eb, r * collUnits o o.count * eb)
  | 3 => (counts.getD r 0 * eb, (counts.take r).sum * eb)
  | 4 => (counts.sum * eb, 0)
  | 5 => (if o.root = r then collUnits o o.count * eb else 0, 0)
  | 6 => (0, 0)
  | _ => (collUnits o o.count * eb, 0)

/-- The part of the finished vector that is the member's result: offset and bytes. -/
def resultOf (o : CollOp) (ms : List (Nat × Nat)) (r : Nat) (counts : List Nat) : Nat × Nat :=
  let eb := collBytes o
  let b := match o.kind with
    | 1 => (evenBlocks (collUnits o o.count) ms.length).getD r (0, 0)
    | 4 => (countBlocks counts).getD r (0, 0)
    | _ => (0, vecUnits o ms counts)
  (b.1 * eb, b.2 * eb)

end Sys2Proof.Machine
end

