-- ==== Sys2Proof/Machine/Dispatcher.lean ====
section
/-!
DEFINITION. The dispatcher: the checks that a task descriptor passes, where a task may run, which task starts next,
kills and the reset of reef resources (R133-R137, R172-R178, R211-R214, R352-R373).
-/
namespace Sys2Proof.Machine

/-! ### What a task names -/

/-- Operand indices that a program uses: OPA, OPB, OPC of its instructions and its operand address generators (R178). -/
def operandsUsed (p : Program) : List Nat :=
  p.insns.flatMap (fun w =>
    let u := opUses w.op
    (if u.opa then [w.opa] else []) ++ (if u.opb then [w.opb] else []) ++ (if u.opc then [w.opc] else [])) ++
  p.ags.filterMap (·.operand)

/-- Format codes that a task names: its operands, and the conversions of LOAD and STORE (R111). -/
def namedFmts (ops : List Operand) (p : Program) : List Nat :=
  ops.map (fun o => fmtCode o.fmt) ++
  p.insns.filterMap (fun w => if w.op = .load ∨ w.op = .store then some (w.flags % 16) else none)

/-- The domain and the island both enable every format; FP32 and BF16 always are (R111, R168). -/
def fmtsOn (s : State) (d i : Nat) (fs : List Nat) : Bool :=
  fs.all (fun f => decide (f < 2) ||
    (bit (numRec s d).formats f && bit (sparseGet 0xFFFF s.conf.islFormats i) f))

/-! ### Reading the argument block (R176, step 1 of R178) -/

/-- The operands of an argument block, or the status of its refusal. -/
def argBlock (s : State) (d va : Nat) : State × Except Status (List Operand) :=
  match vaFetch s d va 64 with
  | (s, .error e) => (s, .error e)
  | (s, .ok h) =>
    let n := leAt h 0 1
    if n = 0 ∨ 16 < n ∨ !(zeroAt h 1 63) then (s, .error .descriptorBad)
    else
      match vaFetch s d (va + 64) (32 * n) with
      | (s, .error e) => (s, .error e)
      | (s, .ok b) =>
        match allSome ((List.range n).map (fun i => readOperand (slice b (32 * i) 32))) with
        | none => (s, .error .descriptorBad)
        | some ops => (s, if 4 < (ops.filter (·.output)).length then .error .descriptorBad else .ok ops)

/-- The anchor K range covers the task's K range (R178 step 1). -/
def anchorCovers (x : Desc) : Bool := x.anchorLen == 0 || (decide (x.anchorFirst ≤ 0) &&
  decide ((x.k : Int) ≤ x.anchorFirst + x.anchorLen))

/-! ### Widening (R133-R137) -/

/-- Rungs of the ladder from the bottom. -/
def ladder : List Fmt := [.k3, .fp4, .e4m3, .bf16]

/-- The rung a ladder operand goes to; none for an operand that widening leaves alone (R136). -/
def widenTo (o : Operand) (w : Nat) : Option Fmt :=
  if o.output ∨ w = 0 ∨ (o.fmt = .fp4 ∧ o.mx) then none
  else match firstIdx (fun f => decide (f = o.fmt)) ladder with
    | none => none
    | some i => if o.fmt = .bf16 then none else some (ladder.getD (min 3 (i + w)) .bf16)

/-- Bytes from the shadow row's start to a column (R136). -/
def shadowCol (f : Fmt) (n : Nat) : Nat :=
  match layoutOf f false with
  | some l => if n % groupSize l = 0 then n / groupSize l * 128 else Config.shadowOffset n
  | none => n * elemBytes f

/-- An operand taken from its wide shadow (R136 step 3, R152). -/
def widenWith (e : Shadow) (f : Fmt) (o : Operand) : Operand :=
  let off := o.base - e.narrowVa
  let row := if o.pitch = 0 then 0 else off / o.pitch
  let rem := if o.pitch = 0 then off else off % o.pitch
  let col := if isNarrow o.fmt then rem / 128 * opGroup o else rem / elemBytes o.fmt
  let sc := ofF32 e.scale
  let ex := if isFin sc && !(isZero sc) then expOf sc else Config.shadowScaleExp e.scale
  { o with base := e.shadowVa + row * e.pitch + shadowCol f col, pitch := e.pitch, fmt := f, mx := false,
           scaleKind := 1, scale := e.scale, bound := e.anchor - ex, widened := true }

/-- Widen one operand; none when no entry of the target rung holds its base address (R136). -/
def widenOperand (s : State) (d w : Nat) (o : Operand) : Option Operand :=
  match widenTo o w with
  | none => some o
  | some f =>
    ((domAt s d).shadows.findSome? (fun e => match e.2 with
      | some x => if x.rung = fmtCode f ∧ x.narrowVa ≤ o.base ∧ o.base < x.narrowVa + x.len then some x else none
      | none => none)).map (fun x => widenWith x f o)

/-! ### Building a task: steps 7 to 10 (R178, R211-R214) -/

/-- The extents of a descriptor. -/
def descExt (x : Desc) : List Nat := [x.m, x.n, x.k, x.g]

/-- The extents of a task: in a program without a group block, G has the extent 1 (R206, R207). -/
def taskExt (x : Desc) (p : Program) : List Nat := [x.m, x.n, x.k, if hasGroup p then x.g else 1]

/-- Set one extent. -/
def setExt (ext : List Nat) (d e : Nat) : List Nat := setAt ext d e

/-- A share's extents, operands, K offset, and whether another share follows it along the split dimension. -/
def shareTask (x : Desc) (p : Program) (ops : List Operand) : List Nat × List Operand × Nat × Bool :=
  let ext := taskExt x p
  if x.splitCount < 2 then (ext, ops, 0, false)
  else
    let d := p.splitDim
    let e := ext.getD d 0
    let (o, n) := shareOf e (shareQuantum d ops) x.splitCount x.splitIndex
    let ext' := setExt ext d n
    (ext', ops.map (splitOperand d o x.splitIndex ext'), if d = 2 then o else 0, decide (o + n < e))

/-- A narrow output whose first column is no group boundary cannot complete its groups (R162): groups start on bursts. -/
def groupsSplit (ops : List Operand) : Bool := ops.any (fun o => o.output && isNarrow o.fmt && o.base % 128 != 0)

/-- Steps 7 to 10 for a task or a share: its bucket, operands and ranges, or the status of its refusal. -/
def buildTask (s : State) (src : Src) (x : Desc) (serial : Nat) (p : Program) (ops : List Operand) (tag : Nat) :
    Except Status Task :=
  if 2 ≤ x.splitCount ∧ p.splitDim = 0xFF then .error .descriptorBad
  else
    let fmts := namedFmts ops p
    let (ext, ops, ko, inner) := shareTask x p ops
    match selectBucket p (setExt ext 3 x.g) x.bucket with
    | none => .error .shapeBeyondBucket
    | some (idx, r) =>
      let outs := (ops.filter (·.output)).map (outRange ext)
      let ins := (ops.filter (fun o => !o.output)).map (inRange ext)
      if groupsSplit ops then .error .groupSplit
      else if !x.pinned && ins.any (fun a => outs.any (fun b => overlaps a b)) then .error .inPlace
      else
        match allSome (ops.map (widenOperand s x.domain x.widen)) with
        | none => .error .noShadow
        | some ops =>
          .ok { tag := tag, src := src, desc := x, ops := ops, prog := p, serial := serial, idx := idx, tile := r,
                ext := ext, anchorFirst := x.anchorFirst - ko,
                anchorLen := if x.anchorLen = 0 then x.k else x.anchorLen, phase := .queued, order := s.order,
                attempt := 0, island := none, started := none, kills := 0, snap := (domAt s x.domain).listSeq,
                torn := 0, innerShare := inner, accFp := [], share := none, drained := true, fmts := fmts }

/-! ### Where a task may run (R358) -/

/-- Bytes of a domain's resident programs (R183). -/
def residentBytes (s : State) (d : Nat) : Nat :=
  ((domAt s d).programs.map (fun e => match e.2 with
    | some (_, p) => if isResident p then p.bytes else 0
    | none => 0)).sum

/-- The digest of the bank in force on an island. -/
def bankDigest (s : State) (i : Nat) : Option (List Byte) := (bankInForce (islandAt s i).fun_).map (·.digest)

/-- Another domain's lendable island can take a BE task: its store has room beside the owner's resident programs, and
in a D2 domain its bank carries the set of the domain's lowest island (R183, R243, R358). -/
def lentOk (s : State) (d o i : Nat) (p : Program) : Bool :=
  decide (p.bytes ≤ 262144 - residentBytes s o) &&
  ((numRec s d).det != 2 || (match (ownedIslands s d).head? with
    | some j => decide (bankDigest s j = bankDigest s i)
    | none => false))

/-- The islands of a class (R358), whatever the kill count: own islands that are no BE islands for LC; own islands and
others' lendable islands for BE. -/
def classMay (s : State) (d : Nat) (lc : Bool) (i : Nat) (p : Program) : Bool :=
  let r := islRec s i
  match r.owner with
  | none => false
  | some o =>
    if o = d then !(lc && r.be)
    else !lc && r.lendable && lentOk s d o i p

/-- The islands that a task may use (R358). -/
def mayUse (s : State) (t : Task) (i : Nat) : Bool :=
  let d := t.desc.domain
  i / 64 == t.tag / 2 ^ 14 && fmtsOn s d i t.fmts && classMay s d t.desc.lc i t.prog &&
  (match t.desc.place with
  | some q => i == q
  | none => t.desc.lc || decide (t.kills < 3) || (beIslands s d).isEmpty || ((beIslands s d).contains i))

/-! ### Admission (R178, R356, R357) -/

/-- The reef resources of a descriptor lie in the domain's range (R178 step 3). -/
def reefOk (s : State) (x : Desc) : Bool :=
  x.waits.all (fun w => semInRange s x.domain w.1) && x.signals.all (fun w => semInRange s x.domain w.1) &&
  (x.gangSemCount == 0 || (decide (x.gangSemFirst % 2 ^ 12 + x.gangSemCount ≤ 2 ^ 12) &&
    (List.range x.gangSemCount).all (fun k => semInRange s x.domain (x.gangSemFirst + k)))) &&
  (match x.gangBarrier with | some b => barInRange s x.domain b | none => true)

/-- The members of a gang in flight. -/
def gangLive (s : State) (x : Desc) : List Task :=
  if x.gangId = 0 then []
  else s.tasks.filter (fun u => u.desc.domain == x.domain && u.desc.gangId == x.gangId)

/-- The program uses straits. -/
def usesStraits (p : Program) : Bool := p.sendMask != 0 || p.recvMask != 0

/-- Atolls where a domain owns islands, ascending. -/
def domAtolls (s : State) (d : Nat) : List Nat :=
  (List.range 4).filter (fun a => (ownedIslands s d).any (fun i => i / 64 == a))

/-- Islands that the gang may use (R357 step 15): the PLACEs of its placed members, and for members unplaced or still
to come those of their class where the formats are enabled. -/
def gangIslands (s : State) (x : Desc) (live : List Task) (p : Program) (fs : List Nat) : List Nat :=
  let places := live.filterMap (·.desc.place) ++ x.place.toList
  let open_ := x.place.isNone || decide (live.length + 1 < x.gangSize)
  let cls := fun (i : Nat) => (open_ && classMay s x.domain x.lc i p) ||
    live.any (fun u => u.desc.place.isNone && classMay s x.domain u.desc.lc i u.prog)
  (List.range 256).filter (fun i => places.contains i ||
    (cls i && (domAtolls s x.domain).contains (i / 64) && fmtsOn s x.domain i fs))

/-- Steps 11 to 16 (R357): the first that fails. -/
def placementFault (s : State) (x : Desc) (p : Program) (fs : List Nat) : Option Status :=
  let live := gangLive s x
  let lcDom := match domRec s x.domain with | some r => r.lc | none => false
  let placeOk := match x.place with
    | none => true
    | some q => decide (q < 256) && (match (islRec s q).owner with
      | none => false
      | some o => if o = x.domain then !(x.lc && (islRec s q).be) else !x.lc && (islRec s q).lendable)
  let straitOk := (!(usesStraits p) || (match x.place with | some q => p.straitIslands.contains q | none => false)) &&
    !(usesStraits p && live.any (fun u => u.desc.place.isNone)) &&
    !(x.place.isNone && live.any (fun u => usesStraits u.prog))
  let gangOk := decide (x.gangRank < x.gangSize) && (match live.head? with
    | none => true
    | some u => u.desc.gangSize == x.gangSize && decide (u.desc.gangBarrier = x.gangBarrier) &&
        u.desc.gangSemFirst == x.gangSemFirst && u.desc.gangSemCount == x.gangSemCount) &&
    live.all (fun u => u.desc.gangRank != x.gangRank)
  let sizeOk := decide (x.gangSize ≤ (gangIslands s x live p fs).length) &&
    (match x.place with | some q => live.all (fun u => decide (u.desc.place ≠ some q)) | none => true)
  if x.lc && !lcDom then some .classRefused
  else if !placeOk then some .placementBad
  else if !straitOk then some .placementBad
  else if !gangOk then some .placementBad
  else if !sizeOk then some .placementBad
  else if x.pinned && x.gangSize != 1 then some .pinRefused
  else none

/-- Steps 1 to 16 of dispatch for a descriptor that the dispatcher of `atoll` takes (R178, R357). -/
def checkTask (s : State) (src : Src) (d atoll : Nat) (raw : List Byte) (tag : Nat) :
    State × Except Status (Task × List Operand) :=
  match readDesc raw d with
  | none => (s, .error .descriptorBad)
  | some x =>
    match argBlock s d x.argVa with
    | (s, .error e) => (s, .error e)
    | (s, .ok ops) =>
      let r : Except Status (Task × List Operand) :=
        if !(anchorCovers x) then .error .descriptorBad
        else match sparseGet none (domAt s d).programs x.program with
          | none => .error .programUnknown
          | some (serial, p) =>
            let fs := namedFmts ops p
            let fmtOk := match x.place with
              | some q => decide (256 ≤ q) || fmtsOn s d q fs
              | none => (List.range 64).any (fun i =>
                  classMay s d x.lc (64 * atoll + i) p && fmtsOn s d (64 * atoll + i) fs)
            if (operandsUsed p).any (fun i => decide (ops.length ≤ i)) then .error .descriptorBad
            else if !(reefOk s x) then .error .syncScope
            else if !fmtOk then .error .formatDisabled
            else if (numRec s d).det = 2 ∧ p.acc.any (fun a => decide (a.2 = .fp32)) then .error .detLevelConflict
            else if 2 ^ 27 < (if x.anchorLen = 0 then x.k else x.anchorLen) then .error .kTooLong
            else match buildTask s src x serial p ops tag with
              | .error e => .error e
              | .ok t => match placementFault s x p fs with
                | some e => .error e
                | none => .ok (t, ops)
      (s, r)

/-- Tasks that a dispatcher holds; the shares of a D0 split count once (R356, R359). -/
def heldBy (s : State) (a : Nat) (d : Option Nat) : Nat :=
  let l := s.tasks.filter (fun t => t.tag / 2 ^ 14 == a && (match d with | some d => t.desc.domain == d | none => true))
  (l.filter (fun t => match t.share with
    | none => true
    | some p => !(l.any (fun u => decide (u.share = some p) && decide (u.tag < t.tag))))).length

/-- The quota of a domain on an atoll (R353): 0 in the record means 16,384; without a record none is in force (R377). -/
def quotaOf (s : State) (d a : Nat) : Nat :=
  match domRec s d with
  | none => 0
  | some r => let q := r.quota.getD a 0; if q = 0 then 16384 else q

/-- A slot is free on a dispatcher for a domain (R356). -/
def slotFree (s : State) (d a : Nat) : Bool :=
  decide (heldBy s a none < 16384) && decide (heldBy s a (some d) < quotaOf s d a) && (freeSlot s a).isSome

/-- The atoll whose turn it is for an unplaced task of the domain (R356). -/
def turnAtoll (s : State) (d : Nat) : Nat :=
  let l := domAtolls s d
  (((l.filter (fun a => decide ((domAt s d).turn ≤ a))) ++ l).head?).getD 0

/-- The atoll whose dispatcher takes a descriptor: that of its PLACE, else the one whose turn it is (R356). -/
def homeAtoll (s : State) (d place : Nat) : Nat := if place < 256 then place / 64 else turnAtoll s d

/-! ### The dispatcher's own split at D0 (R359) -/

/-- The program and the descriptor allow the dispatcher to split the task. -/
def splittable (s : State) (t : Task) : Bool :=
  (numRec s t.desc.domain).det == 0 && t.desc.place.isNone && t.desc.gangId == 0 && !(usesStraits t.prog) &&
  decide (t.prog.splitDim < 2) && t.desc.splitAuto

/-- Shares that the dispatcher makes: idle islands, blocks of 128 and 64 bound them (R359). -/
def shareCount (s : State) (t : Task) : Nat :=
  let a := t.tag / 2 ^ 14
  let idle := (ownedIslands s t.desc.domain).filter (fun i => i / 64 == a && decide ((islandAt s i).task = none))
  max 1 (min idle.length (min (ceilDiv ((descExt t.desc).getD t.prog.splitDim 0) 128) 64))

/-- The `n` lowest free slots of a dispatcher. -/
def freeSlots (s : State) (a : Nat) : Nat → List Nat → List Nat
  | 0, acc => acc
  | n + 1, acc =>
    match lowestFree (s.tasks.map (·.tag) ++ acc) (a * 2 ^ 14) (2 ^ 14) (s.tasks.length + acc.length + 1) 0 with
    | none => acc
    | some t => freeSlots s a n (acc ++ [t])

/-- The tasks that an admitted task becomes: itself, or its shares when the dispatcher chooses to split it. -/
def sharesMade (s : State) (t : Task) (ops : List Operand) : List Task :=
  let n := shareCount s t
  let tags := freeSlots s (t.tag / 2 ^ 14) n []
  if splittable s t ∧ 2 ≤ n ∧ tags.length = n ∧ Config.choice s.free % 2 = 1 then
    let made := (List.range n).map (fun i =>
      buildTask s t.src { t.desc with splitIndex := i, splitCount := n } t.serial t.prog ops (tags.getD i 0))
    if made.all (fun r => match r with | .ok _ => true | .error _ => false) then
      made.filterMap (fun r => match r with | .ok u => some { u with share := some s.order } | .error _ => none)
    else [t]
  else [t]

/-! ### Dispatch of a TASK record -/

/-- A descriptor refused at dispatch: one KIND 1 record and an info entry (R178, R435, R472). -/
def refuseTask (s : State) (src : Src) (d tag : Nat) (st : Status) : State :=
  cplDeliver (logE 0 st (if st = .hostReadFault then some 0x207 else none) d [] s) src.vf (cqOf s src) (cplRecord tag st src.sq 1 0 0xFFFFFFFF)

/-- Put an admitted task, or its shares, in flight; FULL raises its event (R359, R375, R455). -/
def enterTask (s : State) (t : Task) (ops : List Operand) : State :=
  let a := t.tag / 2 ^ 14
  let l := sharesMade s t ops
  let mates := ((gangLive s t.desc).head?.map (·.mates)).getD 0
  let s1 := { s with tasks := s.tasks ++ l.map (fun u => { u with mates := mates }), order := s.order + 1, free := if splittable s t then s.free + 1 else s.free }
  if heldBy s1 a none = 16384 ∧ heldBy s a none ≠ 16384 then raise (0x1C4 + a) s1 else s1

/-- Take one descriptor: checked, then refused or in flight; the acceptance of an unplaced task takes the domain's turn (R172,
R178, R356, R357). -/
def takeDesc (s : State) (src : Src) (d : Nat) (raw : List Byte) : State :=
  let place := leAt raw 8 2
  let a := homeAtoll s d place
  match checkTask s src d a raw ((freeSlot s a).getD 0) with
  | (s, .error e) => refuseTask s src d (leAt raw 0x60 4) e
  | (s, .ok (t, ops)) => enterTask (if place < 256 then s else modDom s d (fun x => { x with turn := a + 1 })) t ops

/-- Bytes of host memory that the module reads (R448). -/
def hostBytes (s : State) (a n : Nat) : List Byte := (List.range n).map (fun i => sparseGet 0 s.host (a + i))

/-- Take the descriptors of a domain's TASK records, in address order, as long as slots are free (R356, R434). -/
def dispatchGo (d : Nat) : Nat → State → State
  | 0, s => s
  | fuel + 1, s =>
    match (domAt s d).tasking with
    | [] => s
    | (src, a, n) :: rest =>
      if n = 0 then dispatchGo d fuel (modDom s d (fun x => { x with tasking := rest }))
      else
        let raw := hostBytes s a 128
        if slotFree s d (homeAtoll s d (leAt raw 8 2)) then
          let s := modDom s d (fun x => { x with tasking := (src, a + 128, n - 1) :: rest })
          dispatchGo d fuel (takeDesc s src d raw)
        else s

/-- Descriptors and records that still wait, as a bound for the loop. -/
def taskingSize (s : State) (d : Nat) : Nat := ((domAt s d).tasking.map (fun e => e.2.2 + 1)).sum

/-- Dispatch what a domain's TASK records hold. -/
def dispatchDom (s : State) (d : Nat) : State := dispatchGo d (taskingSize s d) s

/-- TASK (R439, R441): refused as a whole, or its descriptors dispatched one by one. -/
def doTask (src : Src) (addr count : Nat) (s : State) : State :=
  ringCmd src 0x01 [.active] (fun d s =>
    if count = 0 ∨ 256 < count ∨ addr % 128 ≠ 0 then refuse src .commandBad s
    else dispatchDom (modDom s d (fun x => { x with tasking := x.tasking ++ [(src, addr, count)] })) d) s

/-! ### Which task starts next (R355, R360, R361) -/

/-- The domain is held at an epoch barrier (R49). -/
def domHeld (s : State) (d : Nat) : Bool :=
  match s.img.cur with
  | none => false
  | some g => g.protocol && decide (g.phase ≠ .prepare) && g.doms.contains d

/-- The island belongs to the scope of a group at its barrier, and starts nothing until commit (R49). -/
def islHeld (s : State) (i : Nat) : Bool :=
  match s.img.cur with
  | none => false
  | some g => g.protocol && decide (g.phase ≠ .prepare) && g.islands.contains i

/-- The start conditions of one task: WAIT targets, no overlapping output of an earlier task, no epoch barrier; a killed task
is Ready again at once (R173, R195, R355). -/
def memberReady (s : State) (t : Task) : Bool :=
  decide (t.phase ≠ .running) && !(domHeld s t.desc.domain) && t.desc.waits.all (fun w => decide (w.2 ≤ semAt s w.1)) &&
  (decide (t.phase = .killed) ||
   !(s.tasks.any (fun u => decide (u.order < t.order) && u.desc.domain == t.desc.domain &&
      (outRanges u).any (fun a => (outRanges t).any (fun b => overlaps a b)))))

/-- A task is Ready with its whole gang, but for the members that have committed (R174, R355). -/
def isReady (s : State) (t : Task) : Bool :=
  let g := gangOf s t
  decide (t.desc.gangSize ≤ g.length + t.mates) && g.all (memberReady s)

/-- The writes and VENG operations of a killed attempt have completed (R365). -/
def settled (s : State) (t : Task) : Bool := decide (t.phase ≠ .killed) || (t.drained && !(oldVengs s t))

/-- A change of LENDABLE is due at the island's task boundary, before its next task starts (R45, R354). -/
def lendDue (s : State) (i : Nat) : Bool :=
  match s.img.cur with
  | none => false
  | some g => decide (g.phase ≠ .prepare) && g.lend.contains i

/-- An island can take a task now. -/
def isFree (s : State) (i : Nat) : Bool :=
  (islRec s i).owner.isSome && decide ((islandAt s i).task = none) && !(islHeld s i) && !(lendDue s i)

/-- Augmenting paths: give task `u` an island, moving others if needed (`fuel` bounds the path). -/
def augment (adj : List (List Nat)) : Nat → Nat → List (Nat × Nat) × List Nat → Bool × List (Nat × Nat) × List Nat
  | 0, _, st => (false, st)
  | fuel + 1, u, st =>
    (adj.getD u []).foldl (fun acc i =>
      match acc with
      | (true, st) => (true, st)
      | (false, own, seen) =>
        if seen.contains i then (false, own, seen)
        else match own.find? (fun e => e.1 == i) with
          | none => (true, own ++ [(i, u)], i :: seen)
          | some (_, v) =>
            match augment adj fuel v (own, i :: seen) with
            | (true, own', seen') => (true, own'.filter (fun e => e.1 != i) ++ [(i, u)], seen')
            | (false, own', seen') => (false, own', seen')) (false, st)

/-- Every task can have an island of its own. -/
def canMatch (adj : List (List Nat)) : Bool :=
  ((List.range adj.length).foldl (fun acc u =>
    if acc.1 then
      let (ok, own, _) := augment adj (adj.length + 1) u (acc.2, [])
      (ok, own)
    else acc) (true, [])).1

/-- Free islands that each member of a task's gang may use. -/
def gangAdj (s : State) (t : Task) : List (List Nat) :=
  (gangOf s t).map (fun m => (List.range 256).filter (fun i => isFree s i && mayUse s m i))

/-- A Ready task's gang can start now: what its killed attempts left is through, and each member has a free island. -/
def canStart (s : State) (t : Task) : Bool :=
  decide (t.phase ≠ .running) && isReady s t && (gangOf s t).all (settled s) && canMatch (gangAdj s t)

/-- The oldest Ready BE task of a domain (R361). -/
def oldestBe (s : State) (d : Nat) : Option Task :=
  s.tasks.find? (fun t => t.desc.domain == d && !t.desc.lc && decide (t.phase ≠ .running) && isReady s t)

/-- Islands reserved for a domain's oldest gang, with the order of its oldest member (R361). -/
def reservedFor (s : State) (d : Nat) : Option (Task × List Nat) :=
  match oldestBe s d with
  | none => none
  | some t =>
    if 2 ≤ t.desc.gangSize ∧ !(canStart s t) then some (t, ((gangAdj s t).flatMap id).eraseDups) else none

/-- No younger BE task of the domain starts on reserved islands (R361). -/
def reservedAgainst (s : State) (t : Task) (i : Nat) : Bool :=
  match reservedFor s t.desc.domain with
  | none => false
  | some (g, l) => !t.desc.lc && decide (g.order < t.order) && g.desc.gangId != t.desc.gangId && l.contains i

/-- A Ready task or gang can start now, one of its members on island `i`. -/
def couldStart (s : State) (t : Task) (i : Nat) : Bool :=
  mayUse s t i && !(reservedAgainst s t i) && canStart s t

/-- The entry of R360's table that a task comes under on an island. -/
def entryOf (s : State) (t : Task) (i : Nat) : Nat :=
  let r := islRec s i
  if r.be then (if 3 ≤ t.kills then 1 else 2)
  else if decide (r.owner = some t.desc.domain) then (if t.desc.lc then 1 else 2)
  else 3

/-- Task `u` comes before task `t` on an island (R360). -/
def precedes (s : State) (u t : Task) (i : Nat) : Bool :=
  let a := entryOf s u i
  let b := entryOf s t i
  let turn := fun (d : Nat) => (d + 16 - s.rot.getD (i / 64) 0) % 16
  decide (a < b) || (a == b && (if u.desc.domain = t.desc.domain then decide (u.order < t.order)
    else decide (turn u.desc.domain < turn t.desc.domain)))

/-- The members of a gang in dispatch order, each with its island. -/
def startPairs (s : State) (t : Task) (isls : List Nat) : List (Task × Nat) := (gangOf s t).zip isls

/-- Tasks of other gangs that could start on an island and come before a task there. -/
def before (s : State) (t : Task) (i : Nat) : List Task :=
  s.tasks.filter (fun u => !((gangOf s t).any (fun v => v.tag == u.tag)) && couldStart s u i && precedes s u t i)

/-- The first of the tasks that could start on an island. -/
def firstOf (s : State) (i : Nat) : List Task → Option Task
  | [] => none
  | t :: l => match firstOf s i l with
    | none => some t
    | some u => if precedes s u t i then some u else some t

/-- Nothing that could start comes before the task's gang on any free island that it may use. -/
def unpreceded (s : State) (t : Task) : Bool :=
  (gangOf s t).all (fun m => (List.range 256).all (fun i => !(isFree s i && mayUse s m i) || (before s m i).isEmpty))

/-- The first task of those that come before a task on an island keeps it from starting there: an LC task, a task in no gang, or
a gang that nothing precedes anywhere (R360). -/
def obstructed (s : State) (t : Task) (i : Nat) : Bool :=
  match firstOf s i (before s t i) with
  | none => false
  | some u => u.desc.lc || decide (u.desc.gangSize < 2) || unpreceded s u

/-- Before a gang re-runs its semaphores are zero and its barrier is reset (R174). -/
def resetGang (s : State) (x : Desc) : State :=
  let s := { s with sems := (List.range x.gangSemCount).foldl (fun m k => sparseErase m (gangSem x k)) s.sems }
  match x.gangBarrier with
  | some b => { s with bars := sparseErase s.bars b }
  | none => s

/-- The images of a store, the most recently used first, that stay where `room` bytes are left for cached ones: from the first
that does not fit on, all cached ones go. -/
def keepRecent (res : List Nat) : Nat → List (Nat × Nat) → List (Nat × Nat)
  | _, [] => []
  | room, e :: t =>
    if res.contains e.1 then e :: keepRecent res room t
    else if e.2 ≤ room then e :: keepRecent res (room - e.2) t
    else keepRecent res 0 t

/-- The cached programs that leave an island's store: least recently used first, until its images fit beside the
resident ones; the newest is the running task's (R183). -/
def trimStore (s : State) (i : Nat) : State :=
  let res : List Nat := match (islRec s i).owner with
    | some d => (domAt s d).programs.filterMap (fun (e : Nat × Option (Nat × Program)) => match e.2 with
        | some (n, p) => if isResident p then some n else none
        | none => none)
    | none => []
  modIsland s i (fun (x : Island) =>
    let cap := 262144 - ((x.store.filter (fun (e : Nat × Nat) => res.contains e.1)).map (fun (e : Nat × Nat) => e.2)).sum
    { x with store := keepRecent res cap x.store })

/-! ### Victims of an LC task (R362, R368) -/

/-- A gang may be killed when each member that runs may be. -/
def gangKillable (s : State) (t : Task) : Bool :=
  let g := (gangOf s t).filter (fun u => decide (u.phase = .running))
  !g.isEmpty && g.all (killable s)

/-- Order of victims within a step of R368: tasks in no gang first, the most recently started first, then the lowest
island. -/
def victimBefore (a b : Task) : Bool :=
  let ga := decide (a.desc.gangId ≠ 0)
  let gb := decide (b.desc.gangId ≠ 0)
  let sa := a.started.getD 0
  let sb := b.started.getD 0
  if ga != gb then gb
  else if sa ≠ sb then decide (sb < sa)
  else decide (a.island.getD 0 < b.island.getD 0)

/-- The first victim of a list. -/
def firstVictim (l : List Task) : Option Task :=
  l.foldl (fun acc t => match acc with | none => some t | some b => if victimBefore t b then some t else some b) none

/-- Tasks that can have an island of their own at the same time, at most. -/
def matchCount (adj : List (List Nat)) : Nat :=
  ((List.range adj.length).foldl (fun (acc : List (Nat × Nat)) u => (augment adj (adj.length + 1) u (acc, [])).2.1) []).length

/-- Islands that each member of a task's gang may use, of a set. -/
def adjIn (s : State) (t : Task) (l : List Nat) : List (List Nat) :=
  (gangOf s t).map (fun m => l.filter (fun i => mayUse s m i))

/-- The task that the dispatcher kills next for a Ready LC task with too few free islands: step 1, then step 2 of R368. It kills
when the islands that it can free give every member its island, and takes a victim whose island brings it nearer to that. -/
def nextVictim (s : State) (t : Task) : Option Task :=
  let cand := (List.range 256).filter (fun i => (gangOf s t).any (fun m => mayUse s m i))
  let idle := cand.filter (isFree s)
  let vics := (cand.filterMap (taskAt s)).filter (gangKillable s)
  let now := matchCount (adjIn s t idle)
  let n := (gangOf s t).length
  let useful := vics.filter (fun v => decide (now < matchCount (adjIn s t (v.island.toList ++ idle))))
  if n ≤ now ∨ matchCount (adjIn s t (idle ++ vics.filterMap (·.island))) < n then none
  else match firstVictim (useful.filter (fun v => v.desc.domain != t.desc.domain)) with
    | some v => some v
    | none => firstVictim (useful.filter (fun v => v.desc.domain == t.desc.domain))

/-- A Ready LC task for which the dispatcher still frees islands claims those that are free: no BE task starts there (R368). -/
def claimed (s : State) (i : Nat) : Bool :=
  s.tasks.any (fun u => u.desc.lc && decide (u.phase ≠ .running) && isReady s u && (gangOf s u).any (fun m => mayUse s m i) &&
    (nextVictim s u).isSome)

/-! ### Starts -/

/-- The start is the one the dispatcher makes: the gang is Ready and whole, its islands are free and usable, on one of them it is
the first that could start, and on none of them does another stand in its way (R174, R360, R361, R365, R368). DESIGN CHOICE: gangs
that each come first on one of the islands they need, and not on another, may start in either order; R360 names no order among
islands that are free at once. -/
def startLegal (s : State) (t : Task) (isls : List Nat) : Bool :=
  isReady s t && (gangOf s t).all (settled s) && decide (isls.length = (gangOf s t).length) && decide (isls.eraseDups = isls) &&
  (startPairs s t isls).any (fun (m, i) => (before s m i).isEmpty) &&
  (startPairs s t isls).all (fun (m, i) => isFree s i && mayUse s m i && !(reservedAgainst s m i) && !(obstructed s m i) &&
    (m.desc.lc || !(claimed s i)))

/-- Start a task with its whole gang (R174, R194, R360). -/
def startGang (s : State) (t : Task) (isls : List Nat) : State :=
  let g := gangOf s t
  let pairs := startPairs s t isls
  let s := if g.any (fun m => decide (0 < m.attempt)) then resetGang s t.desc else s
  let s := pairs.foldl (fun s (m, i) => trimStore (startOne s m i) i) s
  let served := pairs.filter (fun (m, i) => entryOf s m i == 3)
  { s with rot := served.foldl (fun r (m, i) => setAt r (i / 64) ((m.desc.domain + 1) % 16)) s.rot }

/-- TASK_START: the dispatcher starts a Ready task, or a gang as a whole, on free islands. -/
def execTaskStart (tag : BitVec 16) (isls : List (Fin 256)) (s : State) : Outcome :=
  match taskOf s tag.toNat with
  | none => notNow "TASK_START"
  | some t =>
    let l := isls.map (·.val)
    if startLegal s t l then .next (startGang s t l) else notNow "TASK_START"

/-! ### Kills (R362-R368) -/

/-- TASK_KILL: the task on an island is killed, with its gang, for an LC task that is Ready (R363, R368). -/
def execTaskKill (i : Fin 256) (s : State) : Outcome :=
  match taskAt s i with
  | none => notNow "TASK_KILL"
  | some v =>
    if s.tasks.any (fun t => t.desc.lc && decide (t.phase ≠ .running) && isReady s t &&
        (match nextVictim s t with
        | some w => (gangOf s w).any (fun u => u.tag == v.tag)
        | none => false)) then .next (killGang s v)
    else notNow "TASK_KILL"

/-- KILL_WRITES_DRAINED: the writes and VENG operations of a killed attempt have completed (R365). -/
def execKillWritesDrained (tag : BitVec 16) (s : State) : Outcome :=
  match taskOf s tag.toNat with
  | none => notNow "KILL_WRITES_DRAINED"
  | some t =>
    if t.phase = .killed ∧ !t.drained ∧ !(oldVengs s t) then .next (setTask s { t with drained := true })
    else notNow "KILL_WRITES_DRAINED"

/-- PIN_OVERRUN: 20 µs after its first instruction issued a pinned task has not reached its commit point (R367, R376). -/
def execPinOverrun (tag : BitVec 16) (s : State) : Outcome :=
  match taskOf s tag.toNat with
  | none => notNow "PIN_OVERRUN"
  | some t =>
    match (t.island.map (islandAt s)).bind (·.firstAt) with
    | none => notNow "PIN_OVERRUN"
    | some t0 => if t.desc.pinned ∧ t.phase = .running ∧ t0 + 20000 ≤ s.now then .next (overrun s t) else notNow "PIN_OVERRUN"

/-! ### RESET_SYNC (R373) -/

/-- Numbers `first` to `first + count − 1` of an atoll's resources of `2^w` each. -/
def reefList (w atoll first count : Nat) : List Nat := (List.range count).map (fun k => atoll * 2 ^ w + first + k)

/-- A task in flight names a semaphore or a barrier of the lists (R373). -/
def syncInUse (s : State) (sems bars : List Nat) : Bool :=
  s.tasks.any (fun t => t.desc.waits.any (fun w => sems.contains w.1) || t.desc.signals.any (fun w => sems.contains w.1) ||
    (List.range t.desc.gangSemCount).any (fun k => sems.contains (gangSem t.desc k)) ||
    (match t.desc.gangBarrier with | some b => bars.contains b | none => false))

/-- The whole range lies within an atoll and within the domain's reef range. -/
def rangeInReef (s : State) (d : Nat) (sem : Bool) (atoll first count : Nat) : Bool :=
  count == 0 || (match domRec s d with
    | none => false
    | some r =>
      let x := (if sem then r.sem else r.bar).getD atoll (0, 0)
      decide (x.1 ≤ first) && decide (first + count ≤ x.1 + x.2))

/-- RESET_SYNC: counts and phases of the ranges become zero. -/
def doResetSync (src : Src) (atoll sf sc bf bc : Nat) (s : State) : State :=
  ringCmd src 0x1A setupStates (fun d s =>
    if 4 ≤ atoll then refuse src .commandBad s
    else if !(rangeInReef s d true atoll sf sc && rangeInReef s d false atoll bf bc) then refuse src .syncScope s
    else
      let sems := reefList 12 atoll sf sc
      let bars := reefList 10 atoll bf bc
      if syncInUse s sems bars then refuse src .syncBusy s
      else succeed src { s with sems := sparseClear s.sems (atoll * 2 ^ 12 + sf) sc,
                                bars := sparseClear s.bars (atoll * 2 ^ 10 + bf) bc }) s

end Sys2Proof.Machine
end

