-- ==== Sys2Proof/Machine/Setup.lean ====
section
/-!
DEFINITION. What a domain sets up on its rings besides memory: programs, shadows, attention lists and the prefix index
(R134, R135, R179-R183, R263-R266, R282-R284).
-/
namespace Sys2Proof.Machine

/-! ### Programs (R179, R182, R183) -/

/-- Send and receive channels open on an island, as masks (R23, R182). -/
def openMask (s : State) (i : Nat) (send : Bool) : Nat :=
  (s.conf.straits.filter (fun x => (if send then x.src else x.dst) == i)).foldl (fun m x =>
    m ||| 2 ^ (if send then x.sch else x.rch)) 0

/-- The programs of a domain's table but for one index. -/
def otherPrograms (s : State) (d idx : Nat) : List Program :=
  (domAt s d).programs.filterMap (fun (e : Nat × Option (Nat × Program)) =>
    if e.1 = idx then none else e.2.map (·.2))

/-- The program store limits of R183 for a program loaded at an index. -/
def storeOk (s : State) (d idx : Nat) (p : Program) : Bool :=
  let others := otherPrograms s d idx
  let res := ((others.filter isResident).map (·.bytes)).sum
  let cached := ((others.filter (fun q => !(isResident q))).map (·.bytes)).foldl max 0
  if isResident p then decide (res + p.bytes ≤ 131072) && decide (cached ≤ 262144 - (res + p.bytes))
  else decide (p.bytes ≤ 262144 - res)

/-- A resident program in the store of every island of its domain (R183). -/
def storeEverywhere (s : State) (d serial bytes : Nat) : State :=
  (ownedIslands s d).foldl (fun s i =>
    trimStore (modIsland s i (fun x => { x with store := x.store.filter (fun e => e.1 != serial) ++ [(serial, bytes)] })) i) s

/-- A program that is in no table any more leaves the stores of islands where it was resident (R183). -/
def dropResident (s : State) (d serial : Nat) : State :=
  (ownedIslands s d).foldl (fun s i =>
    modIsland s i (fun x => { x with store := x.store.filter (fun e => e.1 != serial) })) s

/-- The program table's entry at an index changes; the image it held goes with its last task (R183). -/
def setProgram (s : State) (d idx : Nat) (p : Option (Nat × Program)) : State :=
  let old := sparseGet none (domAt s d).programs idx
  let s := modDom s d (fun x => { x with programs := sparseSet none x.programs idx p })
  match old with
  | none => s
  | some (n, q) => releaseProgram (if isResident q then dropResident s d n else s) d n

/-- The image's checks and its entry in the table (R182): PROGRAM_BAD, then FOOTPRINT_REFUSED, then NEAR_FULL. -/
def enterProgram (src : Src) (d idx : Nat) (img : List Byte) (s : State) : State :=
  match readProgram img with
  | none => refuse src .programBad s
  | some p =>
    if !(footprintOk p ((List.range 256).map (fun i => openMask s i true)) ((List.range 256).map (fun i => openMask s i false)))
        || !(storeOk s d idx p) then refuse src .footprintRefused s
    else
      match allocStruct s d (.program s.order) (ceilDiv p.bytes pageSize) with
      | none => refuse src .nearFull s
      | some s1 =>
        let n := s.order
        let s2 := setProgram { s1 with order := n + 1 } d idx (some (n, p))
        succeed src (if isResident p then storeEverywhere s2 d n p.bytes else s2)

/-- LOAD_PROGRAM (R179, R182): an image that cannot be read takes the status of the failed read. -/
def doLoadProgram (src : Src) (idx va : Nat) (s : State) : State :=
  ringCmd src 0x18 setupStates (fun (d : Nat) (s : State) =>
    if 1024 ≤ idx then refuse src .commandBad s
    else match vaFetch s d va 64 with
      | (s, .error e) => refuse src e s
      | (s, .ok h) =>
        if !(progHeaderOk h) then refuse src .programBad s
        else match vaFetch s d va (imageLength h) with
        | (s, .error e) => refuse src e s
        | (s, .ok img) => enterProgram src d idx img s) s

/-- UNLOAD_PROGRAM (R183). -/
def doUnloadProgram (src : Src) (idx : Nat) (s : State) : State :=
  ringCmd src 0x19 setupStates (fun (d : Nat) (s : State) =>
    if 1024 ≤ idx then refuse src .commandBad s
    else if (sparseGet none (domAt s d).programs idx).isNone then refuse src .programUnknown s
    else succeed src (setProgram s d idx none)) s

/-! ### Shadows (R134, R135) -/

/-- Read a shadow entry; none when a reserved field is set or RUNG is no rung of the ladder (R134, R135). -/
def readShadow (b : List Byte) : Option Shadow :=
  let rung := leAt b 0x1C 1
  if leAt b 0x1D 1 ≠ 0 ∨ ¬ (rung = 6 ∨ rung = 3 ∨ rung = 1) then none
  else some ⟨leAt b 0 8, leAt b 8 8, leAt b 0x10 4, leAt b 0x14 4, leAt b 0x18 4, rung, signed 16 (leAt b 0x1E 2)⟩

/-- Every page of a range is mapped and sealed. -/
def rangeSealed (s : State) (d va n : Nat) : Bool :=
  (piecesOf va n).all (fun (a, _) => match xlat s d none a with | .ok p => p.sealed | .error _ => false)

/-- The narrow range overlaps that of another entry with the same rung (R135). -/
def shadowClash (s : State) (d idx : Nat) (e : Shadow) : Bool :=
  (domAt s d).shadows.any (fun (x : Nat × Option Shadow) => x.1 != idx && (match x.2 with
    | some o => o.rung == e.rung && overlaps (o.narrowVa, o.len) (e.narrowVa, e.len)
    | none => false))

/-- Bytes of a shadow: what the narrow tensor's bytes take at the entry's rung, in whole rows of SHADOW_PITCH (R133-R135). DESIGN
CHOICE: the entry says neither the tensor's own rung nor its rows; the tensor is taken to stand one rung below RUNG (4/3, 3/2 or 2
times its bytes) and without padding. -/
def shadowBytes (e : Shadow) : Nat :=
  let n := if e.rung = 6 then ceilDiv (4 * e.len) 3 else if e.rung = 3 then ceilDiv (3 * e.len) 2 else 2 * e.len
  if e.pitch = 0 then n else ceilDiv n e.pitch * e.pitch

/-- SET_SHADOW (R135). -/
def doSetShadow (src : Src) (idx : Nat) (entry : List Byte) (s : State) : State :=
  ringCmd src 0x26 setupStates (fun (d : Nat) (s : State) =>
    match readShadow entry with
    | none => refuse src .shadowBad s
    | some e =>
      if 1024 ≤ idx ∨ !(rangeSealed s d e.shadowVa (shadowBytes e)) ∨ shadowClash s d idx e then refuse src .shadowBad s
      else if e.pitch % 64 ≠ 0 then refuse src .commandBad s
      else match ensureStruct s d .shadows 1 with
        | none => refuse src .nearFull s
        | some s => succeed src (modDom s d (fun x => { x with shadows := sparseSet none x.shadows idx (some e) }))) s

/-- CLEAR_SHADOW (R134). -/
def doClearShadow (src : Src) (idx : Nat) (s : State) : State :=
  ringCmd src 0x27 setupStates (fun (d : Nat) (s : State) =>
    if 1024 ≤ idx then refuse src .commandBad s
    else succeed src (modDom s d (fun x => { x with shadows := sparseSet none x.shadows idx none }))) s

/-! ### Attention lists (R261-R266) -/

/-- A source or edit entry: TAG and reserved bits zero, FIRST + COUNT + 1 at most 128 (R261, R263). -/
def entryFine (w : Nat) : Bool :=
  !(bit w 15) && bits w 23 16 == 0 && bits w 63 56 == 0 && decide (bits w 14 8 + bits w 7 1 + 1 ≤ 128)

/-- The bytes of a list body: header and entries, each with the generation's tag (R261, R264). -/
def listBody (id gen : Nat) (es : List Nat) : List Byte :=
  leBytes 4 id ++ leBytes 4 gen ++ leBytes 4 es.length ++ List.replicate 52 0 ++
    es.flatMap (fun e => leBytes 8 (e - bits e 23 16 * 2 ^ 16 + gen % 256 * 2 ^ 16))

/-- The range of a list body. -/
def bodyRange (va n : Nat) : Nat × Nat := (va, 64 + 8 * n)

/-- A body may lie there: aligned, in mapped unsealed T1 pages, and over no live body (R263). -/
def bodyOk (s : State) (d va n : Nat) : Bool :=
  va % 64 == 0 && (piecesOf va (64 + 8 * n)).all (fun (a, _) => match xlat s d none a with
    | .ok p => p.tier == .t1 && !p.sealed
    | .error _ => false) &&
  (domAt s d).lists.all (fun g => !(overlaps (bodyRange g.body g.entries) (bodyRange va n)))

/-- The current generation of a list. -/
def currentList (s : State) (d id : Nat) : Option ListGen :=
  (domAt s d).lists.find? (fun g => g.id == id && g.until_.isNone)

/-- Lists in the directory. -/
def listCount (s : State) (d : Nat) : Nat := ((domAt s d).lists.filter (fun g => g.until_.isNone)).length

/-- A generation is superseded, or its list destroyed, at the next sequence number: it waits for the tasks in flight
(R264, R266). -/
def supersede (s : State) (d id : Nat) : State :=
  let tags := domTags s d
  modDom s d (fun x => { x with lists := x.lists.map (fun g =>
    if g.id = id ∧ g.until_.isNone then { g with until_ := some (x.listSeq + 1), tags := tags } else g) })

/-- Write a body and publish it: the sequence number advances and the directory points at it (R264). -/
def publish (s : State) (d id gen va : Nat) (es : List Nat) : State :=
  let s := vaWrite s d none va ((listBody id gen es).map (fun b => (b, false)))
  modDom s d (fun x => { x with listSeq := x.listSeq + 1,
                                lists := x.lists ++ [⟨id, gen, va, es.length, x.listSeq + 1, none, []⟩] })

/-- The status of a list command whose operand memory cannot be read: POISON, else a malformed source (R70, R263). -/
def listFault : Status → Status
  | .poison => .poison
  | _ => .listBad

/-- The 8-byte words of a byte string. -/
def words8 (b : List Byte) (n : Nat) : List Nat := (List.range n).map (fun i => leAt b (8 * i) 8)

/-- CREATE_LIST (R263). -/
def doCreateList (src : Src) (id n source body : Nat) (s : State) : State :=
  ringCmd src 0x30 setupStates (fun (d : Nat) (s : State) =>
    if 65536 ≤ listCount s d ∨ (currentList s d id).isSome then refuse src .listFull s
    else if 16384 < n then refuse src .listBad s
    else match vaFetch s d source (8 * n) with
      | (s, .error e) => refuse src (listFault e) s
      | (s, .ok b) =>
        let es := words8 b n
        if !(es.all entryFine) || !(bodyOk s d body n) then refuse src .listBad s
        else match ensureStruct s d .lists 1 with
          | none => refuse src .nearFull s
          | some s => succeed src (publish s d id 1 body es)) s

/-- Apply one edit record; none where it breaks a limit (R264). -/
def editOne (es : List Nat) (r : List Byte) : Option (List Nat) :=
  let op := leAt r 0 1
  let i := leAt r 4 4
  let e := leAt r 8 8
  if !(zeroAt r 1 3) then none
  else if op = 1 ∧ i < es.length ∧ entryFine e then some (setAt es i e)
  else if op = 2 ∧ i = 0 ∧ entryFine e ∧ es.length < 16384 then some (es ++ [e])
  else if op = 3 ∧ i ≤ es.length ∧ e = 0 then some (es.take i)
  else none

/-- Apply the edit records in order. -/
def editAll : List (List Byte) → List Nat → Option (List Nat)
  | [], es => some es
  | r :: t, es => (editOne es r).bind (editAll t)

/-- EDIT_LIST (R264): copy-on-write of the current generation. -/
def doEditList (src : Src) (id base body edit n : Nat) (s : State) : State :=
  ringCmd src 0x31 setupStates (fun (d : Nat) (s : State) =>
    match currentList s d id with
    | none => refuse src .listUnknown s
    | some g =>
      if g.gen ≠ base then refuse src .listGenMismatch s
      else match vaFetch s d (g.body + 64) (8 * g.entries) with
        | (s, .error e) => refuse src (listFault e) s
        | (s, .ok old) =>
          match vaFetch s d edit (16 * n) with
          | (s, .error e) => refuse src (listFault e) s
          | (s, .ok recs) =>
            match editAll ((List.range n).map (fun i => slice recs (16 * i) 16)) (words8 old g.entries) with
            | none => refuse src .listBad s
            | some es =>
              if !(bodyOk s d body es.length) then refuse src .listBad s
              else
                let gen := wrap32 (base + 1)
                complete src .success gen (publish (supersede s d id) d id gen body es)) s

/-- DESTROY_LIST (R263). -/
def doDestroyList (src : Src) (id : Nat) (s : State) : State :=
  ringCmd src 0x32 setupStates (fun (d : Nat) (s : State) =>
    match currentList s d id with
    | none => refuse src .listUnknown s
    | some _ =>
      let s := supersede s d id
      succeed src (modDom s d (fun x => { x with listSeq := x.listSeq + 1 }))) s

/-- LIST_RECLAIMED: a superseded generation, or one of a destroyed list, that no task in flight may still use is
reclaimed, and its body VA is reported (R266). -/
def execListReclaimed (dom : Fin 16) (body : BitVec 64) (s : State) : Outcome :=
  let done := fun (g : ListGen) => g.body == body.toNat && g.until_.isSome && g.tags.isEmpty
  if (domAt s dom).lists.any done then
    .next (inform dom .listReclaimed body.toNat
      (modDom s dom (fun x => { x with lists := x.lists.filter (fun g => !(done g)) })))
  else notNow "LIST_RECLAIMED"

/-! ### The prefix index (R282-R284) -/

/-- The hash of a block (R282). -/
def blockHash (parent : Nat) (ids : List Byte) : Nat := leAt (sha3 (leBytes 8 parent ++ ids)) 0 8

/-- A node holds these ids, byte for byte, in the memory its VA names (R284). -/
def nodeHolds (s : State) (d : Nat) (n : PrefixNode) (ids : List Byte) : Bool :=
  (vaFault s d none n.idsVa 512).isNone && plain (vaBytes s d none n.idsVa 512) == ids

/-- The lowest-numbered node that a block hits: equal hash, same parent, all ids equal (R283, R284). -/
def findNode (s : State) (d : Nat) (parent : Option Nat) (h : Nat) (ids : List Byte) : Option PrefixNode :=
  (domAt s d).nodes.foldl (fun acc n =>
    if n.hash = h ∧ n.parent = parent ∧ nodeHolds s d n ids then
      match acc with
      | none => some n
      | some b => if n.id < b.id then some n else some b
    else acc) none

/-- One more reference on a node. -/
def takeRef (s : State) (d id : Nat) : State :=
  modDom s d (fun x => { x with nodes := x.nodes.map (fun n => if n.id = id then { n with refs := n.refs + 1 } else n) })

/-- The range's pages are mapped (else UNMAPPED) and sealed (else PREFIX_NOT_SEALED). -/
def sealedFault (s : State) (d va n : Nat) : Option Status :=
  match vaFault s d none va n with
  | some e => some e
  | none => if rangeSealed s d va n then none else some .prefixNotSealed

/-- PREFIX_INSERT (R283). A root block's parent is ROOT; the page table's first byte tells whether it is sealed. -/
def doPrefixInsert (src : Src) (root parent ids table : Nat) (s : State) : State :=
  ringCmd src 0x33 setupStates (fun (d : Nat) (s : State) =>
    let pn : Option Nat := if parent = 0xFFFFFFFF then none else some parent
    let ph : Option Nat := match pn with
      | none => some root
      | some p => ((domAt s d).nodes.find? (fun (n : PrefixNode) => n.id == p)).map PrefixNode.hash
    match ph with
    | none => refuse src .commandBad s
    | some ph =>
      match sealedFault s d ids 512, sealedFault s d table 1 with
      | some e, _ => refuse src e s
      | none, some e => refuse src e s
      | none, none =>
        match vaFetch s d ids 512 with
        | (s, .error e) => refuse src e s
        | (s, .ok b) =>
          let h := blockHash ph b
          match findNode s d pn h b with
          | some n => complete src .success n.id (takeRef s d n.id)
          | none =>
            let nodes : List PrefixNode := (domAt s d).nodes
            match lowestFree (nodes.map PrefixNode.id) 0 262144 (nodes.length + 1) 0 with
            | none => refuse src .prefixFull s
            | some id =>
              match ensureStruct s d .prefixes 1 with
              | none => refuse src .nearFull s
              | some s =>
                complete src .success id (modDom s d (fun x => { x with nodes := x.nodes ++ [PrefixNode.mk id h pn ids table 1] }))) s

/-- The chain that PREFIX_LOOKUP follows, or the status of the read that fails (R284). -/
def lookupGo (d ids : Nat) : Nat → Nat → Nat → Option Nat → State → State × Except Status (List PrefixNode)
  | 0, _, _, _, s => (s, .ok [])
  | n + 1, b, ph, pn, s =>
    match vaFetch s d (ids + 512 * b) 512 with
    | (s, .error e) => (s, .error e)
    | (s, .ok blk) =>
      let h := blockHash ph blk
      match findNode s d pn h blk with
      | none => (s, .ok [])
      | some c =>
        match lookupGo d ids n (b + 1) h (some c.id) s with
        | (s, .error e) => (s, .error e)
        | (s, .ok l) => (s, .ok (c :: l))

/-- PREFIX_LOOKUP (R284): the hits are written at OUT_VA, 16 bytes each. -/
def doPrefixLookup (src : Src) (root blocks ids out : Nat) (s : State) : State :=
  ringCmd src 0x34 setupStates (fun (d : Nat) (s : State) =>
    match lookupGo d ids blocks 0 root none s with
    | (s, .error e) => refuse src e s
    | (s, .ok hits) =>
      let b := hits.flatMap (fun n => leBytes 4 n.id ++ leBytes 4 0 ++ leBytes 8 n.tableVa)
      match vaFault s d none out b.length with
      | some e => refuse src e s
      | none =>
        if (piecesOf out b.length).any (fun (a, _) => match xlat s d none a with
            | .ok p => p.tier != .t1 || p.sealed
            | .error _ => false) then refuse src .sealedWrite s
        else
          let s := hits.foldl (fun s n => takeRef s d n.id) s
          complete src .success hits.length (vaWrite s d none out (b.map (fun v => (v, false))))) s

/-- Remove, among the named nodes, those at zero references without children, until none is left (`fuel` rounds). -/
def pruneNodes (ids : List Nat) : Nat → List PrefixNode → List PrefixNode
  | 0, ns => ns
  | fuel + 1, ns => pruneNodes ids fuel (ns.filter (fun n =>
      !(ids.contains n.id && n.refs == 0 && !(ns.any (fun c => decide (c.parent = some n.id))))))

/-- PREFIX_RELEASE (R283). A number that names no node is passed over. -/
def doPrefixRelease (src : Src) (list count flags : Nat) (s : State) : State :=
  ringCmd src 0x35 setupStates (fun (d : Nat) (s : State) =>
    if 2 ≤ flags then refuse src .commandBad s
    else match vaFetch s d list (4 * count) with
      | (s, .error e) => refuse src e s
      | (s, .ok b) =>
        let ids := (List.range count).map (fun i => leAt b (4 * i) 4)
        let drop := fun (ns : List PrefixNode) (id : Nat) =>
          ns.map (fun n => if n.id = id then { n with refs := n.refs - 1 } else n)
        succeed src (modDom s d (fun x =>
          let ns := ids.foldl drop x.nodes
          { x with nodes := if flags = 1 then pruneNodes ids ns.length ns else ns }))) s

end Sys2Proof.Machine
end

