-- ==== Sys2Proof/Machine/Vector.lean ====
section
/-!
DEFINITION. The vector unit, the function unit and the row reductions (R110, R186, R190, R228, R231, R232, R239, R550,
R553).
-/
namespace Sys2Proof.Machine

/-- FP32 values at an address generator, consumed. -/
def withF32At (c : Ctx) (ag imm n : Nat) (s : State) (k : State → List Val → Res) : Res :=
  withBytesAt c ag imm (4 * n) s (fun s b => k s ((List.range n).map (fun i => ofF32 (leAt b (4 * i) 4))))

/-- An element-wise operation on COUNT elements of AG1 and AG2 (R186). -/
def binaryRes (f : Val → Val → Val) (c : Ctx) (s : State) : Res :=
  withF32At c c.w.ag1 c.w.imm1 c.w.count s (fun s a =>
    withF32At c c.w.ag2 0 c.w.count s (fun s b =>
      putAt c c.w.ag3 0 (f32Bytes ((a.zip b).map (fun p => f p.1 p.2))) s))

def execVadd (i : Fin 256) (s : State) : Outcome := runInsn "VADD" (isOp .vadd) i s (binaryRes addF)
def execVmul (i : Fin 256) (s : State) : Outcome := runInsn "VMUL" (isOp .vmul) i s (binaryRes mulF)
def execVmax (i : Fin 256) (s : State) : Outcome := runInsn "VMAX" (isOp .vmax) i s (binaryRes maxVal)
def execVmin (i : Fin 256) (s : State) : Outcome := runInsn "VMIN" (isOp .vmin) i s (binaryRes minVal)

/-- VFMA: d = a × b + d, rounded once (R186). -/
def vfmaRes (c : Ctx) (s : State) : Res :=
  withF32At c c.w.ag1 c.w.imm1 c.w.count s (fun s a =>
    withF32At c c.w.ag2 0 c.w.count s (fun s b =>
      withF32At c c.w.ag3 0 c.w.count s (fun s d =>
        putAt c c.w.ag3 0 (f32Bytes (((a.zip b).zip d).map (fun p => fmaF p.1.1 p.1.2 p.2))) s)))

def execVfma (i : Fin 256) (s : State) : Outcome := runInsn "VFMA" (isOp .vfma) i s vfmaRes

/-- VCVT: COUNT elements in rows of IMM2, from OPA's format to OPC's (R553). -/
def vcvtRes (c : Ctx) (s : State) : Res :=
  let so := operandOf c c.w.opa
  let d := operandOf c c.w.opc
  if isNarrow so.fmt ∨ isNarrow d.fmt then .fault s .burstMismatch
  else
    let len := if c.w.imm2 = 0 then max c.w.count 1 else c.w.imm2
    let rows := ceilDiv c.w.count len
    let row := fun (o : Operand) (j : Nat) => ((originNow c o.rdim + j : Nat) : Int)
    let need := fun (o : Operand) => if o.fmt = .int8 then (List.range rows).flatMap (fun j => scaleRange c o (row o j)) else []
    withRead c false (need so ++ need d) s (fun s =>
      withBytesAt c c.w.ag1 c.w.imm1 (c.w.count * elemBytes so.fmt) s (fun s b =>
        orFault s (allOk ((List.range rows).map (fun j =>
            match (if so.fmt = .int8 then scaleOf s c so (row so j) else .ok vone),
                  (if d.fmt = .int8 then scaleOf s c d (row d j) else .ok vone) with
            | .ok ss, .ok ds =>
              let w := elemBytes so.fmt
              .ok (convertRow so.fmt d.fmt ss ds ((b.drop (j * len * w)).take (len * w)))
            | .error e, _ => .error e
            | _, .error e => .error e))) (fun out => putAt c c.w.ag3 0 out.flatten s)))

def execVcvt (i : Fin 256) (s : State) : Outcome := runInsn "VCVT" (isOp .vcvt) i s vcvtRes

/-- COUNT rows at AG1, IMM2 elements apart, the elements that CLIP leaves. -/
def withRows (c : Ctx) (s : State) (k : State → List (List Val) → Res) : Res :=
  let a := agAt c c.w.ag1 c.w.imm1
  let n := rowLen c
  withPieces c (agOperand c c.w.ag1) ((List.range c.w.count).map (fun (r : Nat) => (a + (4 * c.w.imm2 * r : Nat), 4 * n))) s
    (fun s bs => k s (bs.map (fun b => (List.range n).map (fun i => ofF32 (leAt b (4 * i) 4)))))

/-- A row form: one value per row from AG2 (R186, R228). Elements that CLIP cuts off are left as they are. -/
def rowFormRes (f : Val → Val → Val) (c : Ctx) (s : State) : Res :=
  withRows c s (fun s rows =>
    withF32At c c.w.ag2 0 c.w.count s (fun s vs =>
      let d := agAt c c.w.ag3 0
      let out := ((List.range rows.length).zip (rows.zip vs)).map (fun p =>
        (d + (4 * c.w.imm2 * p.1 : Nat), f32Bytes (p.2.1.map (fun v => f v p.2.2))))
      match agOperand c c.w.ag3 with
      | none => putRanges c (out.map (fun w => (w.1, clean w.2))) s
      | some o =>
        if o.output then
          withWrite c (out.flatMap (fun w =>
            (segs c o w.1 w.2.length).map (fun g => (g.2.1, clean ((w.2.drop g.1).take g.2.2))))) s .next
        else .fault s .overflowFault))

def execVrowmul (i : Fin 256) (s : State) : Outcome := runInsn "VROWMUL" (isOp .vrowmul) i s (rowFormRes mulF)
def execVrowadd (i : Fin 256) (s : State) : Outcome := runInsn "VROWADD" (isOp .vrowadd) i s (rowFormRes addF)

/-- FEVAL (R232). -/
def fevalRes (c : Ctx) (s : State) : Res :=
  orFault s (tableFn s c c.w.imm2) (fun f =>
    withF32At c c.w.ag1 c.w.imm1 c.w.count s (fun s vs => putAt c c.w.ag3 0 (f32Bytes (vs.map f)) s))

def execFeval (i : Fin 256) (s : State) : Outcome := runInsn "FEVAL" (isOp .feval) i s fevalRes

/-- A row's sum: exact and rounded once under W128, which D2 implies; else the tree over chunks of 64 (R190). -/
def rowSum (s : State) (c : Ctx) (vs : List Val) : Val :=
  if bit c.w.flags 0 || decide ((numRec s c.t.desc.domain).det = 2) then exactSum vs else chunkSum vs

/-- A row's sum of squares (R190): under W128 the squares are exact. -/
def rowSumSq (s : State) (c : Ctx) (vs : List Val) : Val :=
  if bit c.w.flags 0 || decide ((numRec s c.t.desc.domain).det = 2) then exactSum (vs.map (fun v => mulEx v v))
  else chunkSum (vs.map (fun v => mulF v v))

/-- A row's maximum; −∞ where nothing takes part (R228, R550). -/
def rowMax (vs : List Val) : Val := match vs with | [] => .inf true | v :: t => t.foldl maxVal v

/-- A reduction: one FP32 result per row (R186). -/
def reduceRes (f : State → Ctx → List Val → Val) (c : Ctx) (s : State) : Res :=
  withRows c s (fun s rows => putAt c c.w.ag3 0 (f32Bytes (rows.map (f s c))) s)

def execRsum (i : Fin 256) (s : State) : Outcome := runInsn "RSUM" (isOp .rsum) i s (reduceRes rowSum)
def execRsumsq (i : Fin 256) (s : State) : Outcome := runInsn "RSUMSQ" (isOp .rsumsq) i s (reduceRes rowSumSq)
def execRmax (i : Fin 256) (s : State) : Outcome := runInsn "RMAX" (isOp .rmax) i s (reduceRes (fun _ _ vs => rowMax vs))

end Sys2Proof.Machine
end

