-- ==== Sys2Proof/Machine/Lens.lean ====
section
/-!
DEFINITION. The lens unit: control blocks, walks, scores, the soft maximum in two passes and as a stream, statistics
records, the backward walk (R248-R254, R259-R281).
-/
namespace Sys2Proof.Machine

/-! ### Control block and walk (R260-R262, R267, R269) -/

/-- A KV or Q format code (R260). -/
def kvFmt : Nat → Option Fmt
  | 1 => some .bf16 | 3 => some .e4m3 | 4 => some .e5m2 | _ => none

/-- Modes of a lens control block. -/
def lcbStream (l : Lcb) : Bool := bit l.mode 0
def lcbStatsIn (l : Lcb) : Bool := bit l.mode 1
def lcbBackward (l : Lcb) : Bool := bit l.mode 2
def lcbRecompute (l : Lcb) : Bool := bit l.mode 3
def lcbSpillFp (l : Lcb) : Bool := bit l.mode 4

/-- Read a lens control block; none where a value is reserved, unused or conflicting (R269, R273). -/
def readLcb (b : List Byte) (opa : Nat) : Option Lcb :=
  let l : Lcb := ⟨leAt b 0 4, leAt b 4 4, leAt b 8 4, leAt b 0xC 1, leAt b 0xD 1, leAt b 0xE 1, leAt b 0x10 4, leAt b 0x14 4,
    signed 16 (leAt b 0x18 2), signed 16 (leAt b 0x1A 2), signed 16 (leAt b 0x1C 2), signed 16 (leAt b 0x1E 2),
    leAt b 0x20 4, leAt b 0x24 4, leAt b 0x28 4, leAt b 0x2C 2⟩
  let ok := decide (l.mode < 32) && decide (l.kv < 32) && (kvFmt (l.kv % 16)).isSome && !(l.kv % 16 == 1 && bit l.kv 4) &&
    (kvFmt l.qFormat).isSome && leAt b 0xF 1 == 0 && zeroAt b 0x2E 18 &&
    decide (1 ≤ l.rows) && decide (l.rows ≤ 256) &&
    (lcbBackward l || (decide (l.boundDo = 0) && l.doOff == 0 && l.dOff == 0)) &&
    !(lcbStatsIn l && (lcbStream l || lcbBackward l)) && !(lcbRecompute l && lcbStream l) &&
    (!(lcbRecompute l) || opa == 0)
  if ok then some l else none

/-- The generation that a snapshot resolves a list to (R265). -/
def resolveList (s : State) (t : Task) (id : Nat) : Option ListGen :=
  (domAt s t.desc.domain).lists.find? (fun g => g.id == id && decide (g.since ≤ t.snap) &&
    (match g.until_ with | none => true | some u => decide (t.snap < u)))

/-- A list entry has a reserved bit set or breaks the FIRST and COUNT limit (R261, R263, R267). -/
def entryBad (e : Nat) : Bool :=
  bit e 15 || bits e 63 56 != 0 || decide (bits e 14 8 + bits e 7 1 + 1 > 128)

/-- A key of a walk: the page and the token in it. -/
abbrev Key := Nat × Nat

/-- The keys that an entry contributes (R262). -/
def entryKeys (e : Nat) : List Key :=
  if bit e 0 then (List.range (bits e 7 1 + 1)).map (fun j => (bits e 55 24, bits e 14 8 + j)) else []

/-- Read the entries of the open walk, then go on with its keys; an entry that disagrees with the snapshot ends the
attempt (R267). -/
def withKeys (c : Ctx) (s : State) (k : State → List Key → Res) : Res :=
  let l := c.x.lens
  let a := l.body + 0x40 + 8 * l.first
  withRead c false [(a, 8 * l.count)] s (fun s =>
    let d := taskBytes s c a (8 * l.count)
    if anyMark d then .fault s .poison
    else
      let es := (List.range l.count).map (fun i => leAt (plain d) (8 * i) 8)
      if es.any (fun e => entryBad e || bits e 23 16 != l.gen % 256) then .torn s
      else k s (es.flatMap entryKeys))

/-- Entries of a walk that give at least `need` keys: how many it must reach. -/
def entriesFor : Nat → List Nat → Nat
  | _, [] => 0
  | 0, _ :: _ => 0
  | need + 1, e :: t => 1 + entriesFor (need + 1 - (entryKeys e).length) t

/-- The keys of the next block of a backward walk, with the lens behind it: the walker reads and checks the entries that this
block reaches, those before them no more (R267, R280). -/
def withBlock (c : Ctx) (s : State) (k : State → List Key → Lens → Res) : Res :=
  let l := c.x.lens
  let a := l.body + 0x40 + 8 * (l.first + l.next)
  let words := fun (s : State) (n : Nat) => (List.range n).map (fun i => leAt (plain (taskBytes s c a (8 * n))) (8 * i) 8)
  let left := words s (l.count - l.next)
  let n := entriesFor (512 - l.rest.length) left
  withRead c false [(a, 8 * n)] s (fun s =>
    let es := words s n
    if anyMark (taskBytes s c a (8 * n)) then .fault s .poison
    else if es.any (fun e => entryBad e || bits e 23 16 != l.gen % 256) then .torn s
    else
      let ks := l.rest ++ es.flatMap entryKeys
      let more := decide (512 < ks.length) || (left.drop n).any (fun e => bit e 0)
      k s (ks.take 512) { l with next := l.next + n, rest := ks.drop 512, keys := l.keys + min 512 ks.length, block := l.block + 1,
                                 phase := if more then .back else .closed })

/-- The bytes of one token of a page: keys from 0, values from 0x8000, the head's half in FP8 (R259, R260). -/
def tokenRange (l : Lcb) (val : Bool) (k : Key) : Nat × Nat :=
  let base := k.1 * pageSize + (if val then 0x8000 else 0) + 256 * k.2
  if l.kv % 16 = 1 then (base, 256) else (base + (if bit l.kv 4 then 128 else 0), 128)

/-- The 128 elements of each key, or value, of a walk. -/
def withTokens (c : Ctx) (val : Bool) (ks : List Key) (s : State) (k : State → List (List Val) → Res) : Res :=
  let l := c.x.lens.lcb
  let f := (kvFmt (l.kv % 16)).getD .bf16
  let rs := ks.map (tokenRange l val)
  withRead c false rs s (fun s =>
    let ds := rs.map (fun r => taskBytes s c r.1 r.2)
    if ds.any anyMark then .fault s .poison
    else k s (ds.map (fun d => (List.range 128).map (elemAt f (plain d)))))

/-- Rows of 128 elements in the scratchpad; rows from ROWS on read as zero (R270). -/
def lensRows (c : Ctx) (off : Nat) (f : Fmt) : Except Status (List (List Val)) :=
  let w := 128 * elemBytes f
  match allOk ((List.range c.x.lens.lcb.rows).map (fun r => scratchUse c (off + r * w : Nat) w)) with
  | .error e => .error e
  | .ok rows => .ok ((List.range 256).map (fun r => match rows[r]? with
      | some b => (List.range 128).map (elemAt f b)
      | none => List.replicate 128 vzero))

/-- A dot product on the W128 grid at an anchor, drained (R270, R280). -/
def dotGrid (a : Int) (xs ys : List Val) : Val :=
  drainW128 a ((xs.zip ys).foldl (fun cell p => addProduct a cell (mulEx p.1 p.2)) {})

/-- The scaled score of a query row with a key (R248, R270). -/
def scoreOf (l : Lcb) (q k : List Val) : Val :=
  mulF (mulF (dotGrid (l.boundQ + l.boundK) q k) (ofF32 l.qkScale)) (ofF32 l.c)

/-- A score in the spill format. -/
def spillRound (fp : Bool) (u : Val) : Val := if fp then u else decodeFmt .bf16 (encodeFp .bf16 u)

/-- The scores of a walk, by row and key, in the spill format unless they are streamed. -/
def withScores (c : Ctx) (round : Bool) (ks : List Key) (s : State) (k : State → List (List Val) → Res) : Res :=
  let l := c.x.lens.lcb
  withTokens c false ks s (fun s keys =>
    orFault s (lensRows c l.qOff ((kvFmt l.qFormat).getD .bf16)) (fun qs =>
      k s (qs.map (fun q => keys.map (fun key =>
        let u := scoreOf l q key
        if round then spillRound c.x.lens.spillFp u else u)))))

/-! ### The soft maximum (R248-R254) -/

/-- Slots 1 and 3 of the bank that the task took: powers of two and reciprocals (R248, R239). -/
def softTables (s : State) (c : Ctx) : Except Status ((TableSet × TabEntry) × (TableSet × TabEntry)) :=
  let b := bankInForce c.x.fun_
  match slotKind b 1 2, slotKind b 3 4 with
  | some p, some r =>
    if (numRec s c.t.desc.domain).det = 2 ∧ ¬ p.1.published then .error .tableUnpublished else .ok (p, r)
  | _, _ => .error .functionUnknown

/-- A score that counts: not −∞. -/
def counts (u : Val) : Bool := decide (u ≠ .inf true)

/-- NaN or +∞ makes a row NaN (R252). -/
def badScore (u : Val) : Bool := isNan u || decide (u = .inf false)

/-- One block of pass 1 (R249). -/
def pass1Block (p : TableSet × TabEntry) (st : RowStat) (us : List Val) : RowStat :=
  if us.any badScore then { st with nan := true }
  else
    let live := us.filter counts
    match live with
    | [] => st
    | u0 :: rest =>
      let m := vfloor (rest.foldl maxVal u0) + 1
      let (r, n) := match st.r with
        | none => (m, st.n)
        | some r => if r < m then (m, shiftDown st.n (m - r).toNat) else (r, st.n)
      let n := live.foldl (fun n u =>
        let (i, y) := exp2Parts p (subF u (ofInt r))
        n + floorAt (-(i + 100)) y) n
      { st with r := some r, n := n }

/-- A row's statistics as FP32 words (R251, R252). -/
def finishStat (st : RowStat) : RowStat :=
  if st.nan then { st with rBits := fpNan .fp32, lBits := fpNan .fp32 }
  else match st.r with
    | none => { st with rBits := 0xFF800000, lBits := 0 }
    | some r => { st with rBits := f32 (ofInt r), lBits := f32 (.fin (decide (st.n < 0)) st.n.natAbs (-100)) }

/-- Pass 1 of a row over its blocks of 512 (R249). -/
def pass1Row (p : TableSet × TabEntry) (us : List Val) : RowStat :=
  finishStat ((chunksOf 512 (us.length + 1) us).foldl (pass1Block p) {})

/-- The reference that a row's pass 2 takes: r itself, or the record's R. -/
def refVal (st : RowStat) : Val := match st.r with | some r => ofInt r | none => ofF32 st.rBits

/-- The probability of one score in FP32 (R250, R252). -/
def probOf (p r : TableSet × TabEntry) (st : RowStat) (u : Val) : Val :=
  if st.nan then .nan
  else if !(counts u) || decide (refVal st = .inf true) then vzero
  else
    let (i, y) := exp2Parts p (subF u (refVal st))
    toFp32 (mulEx (mulEx y (evalEntry r.1 r.2 (ofF32 st.lBits))) (pow2 i))

/-- Round to a BF16 value. -/
def toBf16 (v : Val) : Val := decodeFmt .bf16 (encodeFp .bf16 v)

/-- A row of values as operand elements of the matrix engine. -/
def asElems (vs : List Val) : List KElem :=
  (((List.range vs.length).zip vs).filter (fun e => !(isZero e.2))).map (fun e => (e.1, e.2, false))

/-- The columns of a block of value rows: element `col` of each key. -/
def columnsOf (vals : List (List Val)) : List (List Val) :=
  (List.range 128).map (fun col => vals.map (fun v => v.getD col vzero))

/-- Add P × V of one block to a tile, in operand steps of 64 keys (R274). -/
def addPv (t : AccTile) (ps : List (List Val)) (vals : List (List Val)) : AccTile :=
  mmaTile t 8 (ps.map asElems) ((columnsOf vals).map asElems)

/-- One block of the streamed pass on a row: maximum, sum, and the e_j (R253). -/
def streamBlock (p : TableSet × TabEntry) (m l : Val) (us : List Val) : Val × Val × Val × List Val :=
  let m' := (us.filter counts).foldl maxVal m
  let exp2 := evalEntry p.1 p.2
  let alpha := if m = .inf true then vzero else exp2 (subF m m')
  let es := us.map (fun u => if counts u then exp2 (subF u m') else vzero)
  (m', fmaF l alpha (chunkSum es), alpha, es)

/-- The whole streamed pass of a tile: per row m, l and whether it is NaN, with the tile (R253, R275). The factors e_j
enter the engine as BF16. -/
def streamTile (p r : TableSet × TabEntry) (t : AccTile) (us : List (List Val)) (vals : List (List Val)) :
    AccTile × List RowStat :=
  let start : AccTile × List (Val × Val) := (freshTile t.shape t.fp, us.map (fun _ => (.inf true, vzero)))
  let blocks := chunksOf 512 (vals.length + 1) vals
  let (t, ml) := ((List.range blocks.length).zip blocks).foldl (fun acc (b, vs) =>
    let out := (acc.2.zip us).map (fun e => streamBlock p e.1.1 e.1.2 ((e.2.drop (512 * b)).take 512))
    let scaled : AccTile := { acc.1 with cells := sparseMap {} ((acc.1.cells.map (fun e =>
      let alpha := (out.getD (e.1 / 128) (vzero, vzero, vone, [])).2.2.1
      (e.1, { e.2 with n := BitVec.ofNat 128 (f32 (mulF (ofF32 e.2.n.toNat) alpha)) })))) id }
    (addPv scaled (out.map (fun o => o.2.2.2.map toBf16)) vs, out.map (fun o => (o.1, o.2.1)))) start
  let stats := (ml.zip us).map (fun e =>
    let bad := e.2.any badScore
    ({ nan := bad, r := none, n := 0, rBits := if bad then fpNan .fp32 else f32 e.1.1,
       lBits := if bad then fpNan .fp32 else f32 e.1.2 } : RowStat))
  let cells := (List.range 256).flatMap (fun row => (List.range 128).map (fun col =>
    let st := stats.getD row {}
    let o := ofF32 (cellAt t row col).n.toNat
    let v := if st.nan then Val.nan else if st.rBits = 0xFF800000 then vzero
      else mulF o (evalEntry r.1 r.2 (ofF32 st.lBits))
    (cellKey row col, v)))
  ({ t with cells := cells.foldl (fun m e => sparseSet {} m e.1 { n := BitVec.ofNat 128 (f32 e.2), st := .fin }) [] },
   stats)

/-! ### Spill and statistics records (R273, R278, R279) -/

/-- Bytes of a spilled score. -/
def spillBytes (fp : Bool) : Nat := if fp then 4 else 2

/-- The blocks of the spill: block b at b × 256 × 512 elements, masked columns −∞ (R273). -/
def spillBlocks (fp : Bool) (us : List (List Val)) (n : Nat) : List (List Byte) :=
  (List.range (ceilDiv n 512)).map (fun b =>
    us.flatMap (fun row => (List.range 512).flatMap (fun j =>
      toFmt (if fp then .fp32 else .bf16) vone (row.getD (512 * b + j) (.inf true)))))

/-- A range of an operand counted from its BASE; bytes beyond its rows × pitch read as zero. -/
def linearRange (c : Ctx) (o : Operand) (off n : Nat) : Nat × Nat :=
  let len := (extOf c o).1 * (if o.pitch = 0 then colBytes o (extOf c o).2 else o.pitch)
  (o.base + off, min n (len - off))

/-- Read a range of an operand counted from its BASE. -/
def withLinear (c : Ctx) (own : Bool) (o : Operand) (off n : Nat) (s : State) (k : State → List Byte → Res) : Res :=
  let r := linearRange c o off n
  withRead c own [r] s (fun s =>
    let d := taskBytes s c r.1 r.2
    if anyMark d then .fault s .poison else k s (slice (plain d) 0 n))

/-- The scores of blocks `b0` onward, `nb` of them, as the spill holds them: 256 rows of 512 × `nb` columns. -/
def withSpill (c : Ctx) (own : Bool) (b0 nb : Nat) (s : State) (k : State → List (List Val) → Res) : Res :=
  let fp := c.x.lens.spillFp
  let w := spillBytes fp
  let o := operandOf c c.x.lens.opa
  withLinear c own o (b0 * 131072 * w) (nb * 131072 * w) s (fun s b =>
    k s ((List.range 256).map (fun row => (List.range nb).flatMap (fun bl =>
      (List.range 512).map (fun j =>
        elemAt (if fp then .fp32 else .bf16) b (bl * 131072 + row * 512 + j))))))

/-- A row record as it stands in memory. -/
def rowRecord (st : RowStat) : List Byte :=
  leBytes 4 st.rBits ++ leBytes 4 st.lBits ++ leBytes 16 (unsigned 128 st.n) ++ List.replicate 8 0#8

/-- A statistics record (R278): identity, then 256 rows, those from ROWS on zero. -/
def statsRecord (list gen first count keys cc : Nat) (fp : Bool) (rows : Nat) (stats : List RowStat) : List Byte :=
  leBytes 4 list ++ leBytes 4 gen ++ leBytes 4 first ++ leBytes 4 count ++ leBytes 4 keys ++ leBytes 4 cc ++
    leBytes 1 (b2n (!fp)) ++ [0#8] ++ leBytes 2 rows ++ List.replicate 36 0#8 ++
    (List.range 256).flatMap (fun i => if i < rows then rowRecord (stats.getD i {}) else List.replicate 32 0#8)

/-- A row record read back. -/
def readRow (b : List Byte) (i : Nat) : RowStat :=
  let o := 64 + 32 * i
  let r := leAt b o 4
  let l := leAt b (o + 4) 4
  { nan := isNan (ofF32 r) || isNan (ofF32 l)
    r := if isFin (ofF32 r) && decide (f32 (ofInt (vfloor (ofF32 r))) = r) then some (vfloor (ofF32 r)) else none
    n := signed 128 (leAt b (o + 8) 16), rBits := r, lBits := l }

/-- The record was written after a STREAM pass: a row whose sum is zero beside an l that is not (R278). -/
def streamRecord (b : List Byte) : Bool :=
  (List.range (min 256 (leAt b 0x1A 2))).any (fun i =>
    let st := readRow b i
    !st.nan && decide (st.n = 0) && !(isZero (ofF32 st.lBits)))

/-- What two statistics records, or a record and a walk, must share (R279). -/
def statsKey (b : List Byte) : Nat × Nat × Nat × Nat × Nat := (leAt b 0 4, leAt b 4 4, leAt b 0x14 4, leAt b 0x18 1, leAt b 0x1A 2)

/-! ### The instructions (R271, R272) -/

/-- Put a lens unit's state. -/
def setLens (c : Ctx) (l : Lens) (s : State) : State := modIsland s c.isl (fun x => { x with lens := l })

/-- The lens instruction stands in the sequence, or the task ends (R272). -/
def inSequence (c : Ctx) (ok : Lens → Bool) (s : State) (k : Res) : Res :=
  if ok c.x.lens then k else .fault s .sequenceFault

/-- LOPEN (R265, R267, R269, R271, R279, R280). -/
def lopenRes (c : Ctx) (s : State) : Res :=
  inSequence c (fun l => decide (l.phase = .closed) || decide (l.phase = .done)) s
    (withBytesAt c c.w.ag1 c.w.imm1 64 s (fun s b =>
      match readLcb b c.w.opa with
      | none => .fault s .lensControlBad
      | some l =>
        match resolveList s c.t l.listId with
        | none => .fault s .listUnknown
        | some g =>
          withRead c false [(g.body, 64)] s (fun s =>
            let d := taskBytes s c g.body 64
            let h := plain d
            if anyMark d then .fault s .poison
            else if leAt h 0 4 ≠ g.id ∨ leAt h 4 4 ≠ g.gen then .torn s
            else
              let entries := leAt h 8 4
              let room := entries - l.firstEntry
              let count := if l.entryCount = 0 then room else min l.entryCount room
              let stream := lcbStream l && decide ((numRec s c.t.desc.domain).det ≠ 2)
              let lens : Lens :=
                { c.x.lens with
                  phase := if lcbBackward l then .back else .opened
                  lcb := l, gen := g.gen, body := g.body, first := l.firstEntry, count := count
                  opa := c.w.opa, opb := c.w.opb, asStream := stream && !(lcbBackward l)
                  spillFp := lcbSpillFp l, block := 0, next := 0, rest := [], keys := 0, stats := [] }
              if lcbStatsIn l || lcbBackward l then
                withLinear c false (operandOf c c.w.opb) 0 statsSize s (fun s r =>
                  if statsKey r ≠ (l.listId, g.gen, l.c, b2n (!(lcbSpillFp l)), l.rows) ∨
                      (lcbStatsIn l && streamRecord r) then .fault s .statsMismatch
                  else .next (setLens c { lens with stats := (List.range 256).map (readRow r) } s))
              else .next (setLens c lens s))))

def execLopen (i : Fin 256) (s : State) : Outcome := runInsn "LOPEN" (isOp .lopen) i s lopenRes

/-- LSCORE: pass 1 over the whole walk, with the spill unless RECOMPUTE is set; a spill operand too small for the walk's blocks ends
the task (R249, R270, R273). -/
def lscoreRes (c : Ctx) (s : State) : Res :=
  let l := c.x.lens
  inSequence c (fun l => decide (l.phase = .opened) && !(lcbStream l.lcb) && !(lcbStatsIn l.lcb)) s
    (orFault s (softTables s c) (fun (p, _) =>
      withKeys c s (fun s ks =>
        withScores c true ks s (fun s us =>
          let l' := { l with phase := .scored, keys := ks.length, stats := us.map (pass1Row p) }
          if lcbRecompute l.lcb then .next (setLens c l' s)
          else
            let o := operandOf c l.opa
            let bs := spillBlocks l.spillFp us ks.length
            let w := 131072 * spillBytes l.spillFp
            if !o.output || decide ((outRange c.ext o).2 < bs.length * w) then .fault s .overflowFault
            else withWrite c (((List.range bs.length).zip bs).map (fun e => (o.base + e.1 * w, clean e.2))) s
              (fun s => .next (setLens c l' s))))))

def execLscore (i : Fin 256) (s : State) : Outcome := runInsn "LSCORE" (isOp .lscore) i s lscoreRes

/-- The anchors of a tile that P × V adds to: 1 + BOUND_V where none is set (R274). -/
def pvTile (l : Lcb) (t : AccTile) : AccTile :=
  if t.fp then t else { t with anchors := t.anchors.map (fun a => some (a.getD (1 + l.boundV))) }

/-- Pass 2 on a tile from scores and statistics (R250, R274). -/
def pass2Tile (p r : TableSet × TabEntry) (l : Lcb) (t : AccTile) (stats : List RowStat) (us vals : List (List Val)) :
    AccTile :=
  let blocks := chunksOf 512 (vals.length + 1) vals
  ((List.range blocks.length).zip blocks).foldl (fun t (b, vs) =>
    addPv t (((List.range 256).map (fun row =>
      (((us.getD row []).drop (512 * b)).take vs.length).map (fun u => toBf16 (probOf p r (stats.getD row {}) u))))) vs)
    (pvTile l t)

/-- LPV: pass 2, or the single streamed pass (R253, R274, R275). -/
def lpvRes (c : Ctx) (s : State) : Res :=
  let l := c.x.lens
  inSequence c (fun l => decide (l.phase = .scored) ||
      (decide (l.phase = .opened) && (lcbStream l.lcb || lcbStatsIn l.lcb))) s
    (withTile c s (fun t =>
      if t.shape ≠ 5 ∨ (l.asStream ∧ ¬ t.fp) then .fault s .accAlias
      else orFault s (softTables s c) (fun (p, r) =>
        withKeys c s (fun s ks =>
          let fin := fun (s : State) (t : AccTile) (stats : List RowStat) =>
            Res.next (setLens c { l with phase := .done, keys := ks.length, stats := stats } (putTile c t s))
          let second := fun (s : State) (us : List (List Val)) (stats : List RowStat) =>
            withTokens c true ks s (fun s vals => fin s (pass2Tile p r l.lcb t stats us vals) stats)
          if l.asStream then
            withScores c false ks s (fun s us =>
              withTokens c true ks s (fun s vals =>
                let (t, stats) := streamTile p r t us vals
                fin s t stats))
          else if lcbStream l.lcb then withScores c true ks s (fun s us => second s us (us.map (pass1Row p)))
          else if lcbRecompute l.lcb then withScores c true ks s (fun s us => second s us l.stats)
          else withSpill c (decide (l.phase = .scored)) 0 (ceilDiv ks.length 512) s (fun s us => second s us l.stats)))))

def execLpv (i : Fin 256) (s : State) : Outcome := runInsn "LPV" (isOp .lpv) i s (scoreboard lpvRes)

/-- LSTATS: the statistics record of the walk (R272, R278). -/
def lstatsRes (c : Ctx) (s : State) : Res :=
  let l := c.x.lens
  inSequence c (fun l => decide (l.phase = .scored) || decide (l.phase = .done)) s
    (andThen (putAt c c.w.ag3 0
        (statsRecord l.lcb.listId l.gen l.first l.count l.keys l.lcb.c l.spillFp l.lcb.rows l.stats) s)
      (setLens c { l with phase := .closed }))

def execLstats (i : Fin 256) (s : State) : Outcome :=
  runInsn "LSTATS" (fun w => isOp .lstats w && !(bit w.flags 0)) i s lstatsRes

/-- The combination of partial rows in listed order (R251, R279). -/
def combineRows (rows : List RowStat) : RowStat :=
  if rows.any (·.nan) then finishStat { nan := true }
  else
    let live := rows.filterMap (fun st => st.r.map (fun r => (r, st.n)))
    match live with
    | [] => finishStat {}
    | (r0, _) :: t =>
      let r := t.foldl (fun m e => max m e.1) r0
      finishStat { r := some r, n := (live.map (fun e => shiftDown e.2 (r - e.1).toNat)).sum }

/-- LSTATS with COMBINE (R279). -/
def lcombineRes (c : Ctx) (s : State) : Res :=
  inSequence c (fun l => decide (l.phase = .closed)) s
    (withBytesAt c c.w.ag1 c.w.imm1 (c.w.count * statsSize) s (fun s b =>
      let recs := (List.range c.w.count).map (fun i => slice b (i * statsSize) statsSize)
      let h := recs.headD []
      if recs.any (fun r => decide (statsKey r ≠ statsKey h) || streamRecord r) then .fault s .statsMismatch
      else
        let rows := (List.range 256).map (fun i => combineRows (recs.map (fun r => readRow r i)))
        putAt c c.w.ag3 0 (statsRecord (leAt h 0 4) (leAt h 4 4) (leAt h 8 4)
          ((recs.map (fun r => leAt r 0xC 4)).sum) ((recs.map (fun r => leAt r 0x10 4)).sum) (leAt h 0x14 4)
          (leAt h 0x18 1 == 0) (leAt h 0x1A 2) rows) s))

def execLstatsCombine (i : Fin 256) (s : State) : Outcome :=
  runInsn "LSTATS_COMBINE" (fun w => isOp .lstats w && bit w.flags 0) i s lcombineRes

/-- Write pieces at offsets from an address generator. -/
def putPieces (c : Ctx) (ag : Nat) (l : List (Nat × List Byte)) (s : State) : Res :=
  let a := agAt c ag 0
  match agOperand c ag with
  | none => putRanges c (l.map (fun p => (a + (p.1 : Nat), clean p.2))) s
  | some o =>
    if o.output then
      withWrite c (l.flatMap (fun p => (segs c o (a + (p.1 : Nat)) p.2.length).map (fun g =>
        (g.2.1, clean ((p.2.drop g.1).take g.2.2))))) s .next
    else .fault s .overflowFault

/-- P, dS and the page addresses of one backward block (R280). -/
def backBlock (p r : TableSet × TabEntry) (l : Lens) (us dos vals : List (List Val)) (ds : List Val) (ks : List Key) :
    List (Nat × List Byte) :=
  let ps := (List.range 256).map (fun row => (List.range 512).map (fun j =>
    probOf p r (l.stats.getD row {}) ((us.getD row []).getD j (.inf true))))
  let dS := (List.range 256).map (fun row => (List.range 512).map (fun j =>
    let dP := match vals[j]? with
      | some v => dotGrid (l.lcb.boundDo + l.lcb.boundV) (dos.getD row []) v
      | none => vzero
    mulF ((ps.getD row []).getD j vzero) (subF dP (ds.getD row vzero))))
  let bf := fun (m : List (List Val)) => m.flatMap (fun row => row.flatMap (toFmt .bf16 vone))
  [(0, bf ps), (0x40000, bf dS),
   (0x80000, (List.range 4).flatMap (fun q => leBytes 8 (match ks[128 * q]? with | some k => k.1 * pageSize | none => 0)))]

/-- LBACK: the next key block of a backward walk (R280, R281). -/
def lbackRes (c : Ctx) (s : State) : Res :=
  let l := c.x.lens
  inSequence c (fun l => decide (l.phase = .back)) s
    (orFault s (softTables s c) (fun (p, r) =>
      withBlock c s (fun s mine l' =>
        if mine.isEmpty then .next (setLens c l' s)
        else
          withTokens c true mine s (fun s vals =>
            orFault s (lensRows c l.lcb.doOff .bf16) (fun dos =>
              orFault s (scratchF32 c l.lcb.dOff l.lcb.rows) (fun ds =>
                let fin := fun (s : State) (us : List (List Val)) =>
                  andThen (putPieces c c.w.ag3 (backBlock p r l us dos vals ds mine) s) (setLens c l')
                if l.opa = 0 then withScores c true mine s fin
                else withSpill c false l.block 1 s fin))))))

def execLback (i : Fin 256) (s : State) : Outcome := runInsn "LBACK" (isOp .lback) i s lbackRes

end Sys2Proof.Machine
end

