-- ==== Sys2Proof/Machine/Taps.lean ====
section
/-!
DEFINITION. The tap gatherer: LOAD with TAPS (R290-R304).
-/
namespace Sys2Proof.Machine

/-- A geometry record (R293). Three-entry lists run over T, H and W. -/
structure Geom where
  mode : Nat
  c32 : Bool
  d3 : Bool
  causal : Bool
  exclPad : Bool
  pad : Nat
  factor : Nat
  c : Nat
  inp : List Nat
  ker : List Nat
  str : List Nat
  dil : List Nat
  lo : List Nat
  hi : List Nat
  const : Nat
  sH : Nat
  sT : Nat
  sCB : Nat
  sN : Nat
  deriving DecidableEq, Repr

/-- Lanes of a channel vector (R290). -/
def lanes (g : Geom) : Nat := if g.c32 then 32 else 16

/-- The output extent along axis `x` by the convolution formula (R294). -/
def convOut (g : Geom) (x : Nat) : Int :=
  ((g.inp.getD x 0 : Int) + g.lo.getD x 0 + g.hi.getD x 0 - (g.dil.getD x 0 * (g.ker.getD x 0 - 1) : Nat) - 1) /
    (g.str.getD x 1 : Int) + 1

/-- The output extent along axis `x` (R294). -/
def outExt (g : Geom) (x : Nat) : Int :=
  if g.mode ≤ 2 then convOut g x
  else if x = 0 then g.inp.getD 0 0 else (g.factor * g.inp.getD x 0 : Nat)

/-- Read a geometry record with every check that it decides (R293, R295, R298, R302-R304); `b` is the element size. -/
def readGeom (r : List Byte) (b : Nat) : Option Geom :=
  let ly := leAt r 1 1
  let by3 := fun o => [leAt r o 1, leAt r (o + 1) 1, leAt r (o + 2) 1]
  let ker := by3 0xC
  let dil := by3 0x14
  let causal := bit ly 2
  let g : Geom := ⟨leAt r 0 1, bit ly 0, bit ly 1, causal, bit ly 3, leAt r 2 1, leAt r 3 1, leAt r 4 2,
    [leAt r 6 2, leAt r 8 2, leAt r 0xA 2], ker, by3 0x10, dil,
    [if causal then dil.getD 0 0 * (ker.getD 0 0 - 1) else leAt r 0x18 1, leAt r 0x1A 1, leAt r 0x1C 1],
    [leAt r 0x19 1, leAt r 0x1B 1, leAt r 0x1D 1], leAt r 0x20 4, leAt r 0x24 4, leAt r 0x28 4, leAt r 0x2C 4, leAt r 0x30 8⟩
  let dils := [1, 2, 4, 8, 16, 32]
  let in_ := fun (v lo hi : Nat) => decide (lo ≤ v) && decide (v ≤ hi)
  let plainWin := ker.all (· == 1) && g.str.all (· == 1) && dil.all (· == 1) && leAt r 0x18 1 == 0 &&
    (g.lo.drop 1).all (· == 0) && g.hi.all (· == 0)
  let ok := decide (g.mode ≤ 5) && decide (ly < 16) && decide (g.pad < 4) && leAt r 0xF 1 == 0 && leAt r 0x13 1 == 0 &&
    leAt r 0x17 1 == 0 && zeroAt r 0x1E 2 && zeroAt r 0x38 8 && decide (g.const < 256 ^ b) &&
    decide (1 ≤ g.c) && g.inp.all (fun v => decide (1 ≤ v)) &&
    in_ (ker.getD 1 0) 1 7 && in_ (ker.getD 2 0) 1 7 && in_ (ker.getD 0 0) 1 (if g.d3 then 5 else 1) &&
    in_ (g.str.getD 1 0) 1 4 && in_ (g.str.getD 2 0) 1 4 && in_ (g.str.getD 0 0) 1 (if g.d3 then 2 else 1) &&
    dils.contains (dil.getD 1 0) && dils.contains (dil.getD 2 0) &&
    (if g.d3 then dils.contains (dil.getD 0 0) else dil.getD 0 0 == 1 && leAt r 0x18 2 == 0) &&
    (!causal || (g.d3 && leAt r 0x18 2 == 0 && g.pad != 2)) &&
    (if g.mode ≤ 2 then g.factor == 0 else (g.factor == 2 || g.factor == 4) && plainWin) &&
    (g.mode != 5 || g.c % (g.factor * g.factor) == 0) && g.sH % (lanes g * b) == 0 &&
    (List.range 3).all (fun x => decide (1 ≤ outExt g x))
  if ok then some g else none

/-- Where a value comes from: memory, the padding constant, or nothing (zero). -/
inductive TapSrc where
  | mem (a : Nat)
  | const
  | zero
  deriving DecidableEq, Repr

/-- The mirror fold (R297). -/
def mirrorIdx (n : Nat) (i : Int) : Nat :=
  if n ≤ 1 then 0
  else
    let p := 2 * (n - 1)
    let j := (i % (p : Int)).toNat
    if j < n then j else p - j

/-- An input index along an axis, mapped by the padding mode: inside, folded, clamped, or none where the tap reads a
padding value (R297). -/
def padIdx (pad n : Nat) (i : Int) : Option Nat :=
  if 0 ≤ i ∧ i < (n : Int) then some i.toNat
  else match pad with
    | 2 => some (mirrorIdx n i)
    | 3 => some (if i < 0 then 0 else n - 1)
    | _ => none

/-- The address of a channel at a position (R290). -/
def elemAddr (g : Geom) (o : Operand) (b n c t h w : Nat) : Nat :=
  o.base + n * g.sN + c / lanes g * g.sCB + t * g.sT + h * g.sH + w * lanes g * b + c % lanes g * b

/-- The source of channel `c` for a tap at input indices (R291, R297). -/
def tapSrc (g : Geom) (o : Operand) (b n c : Nat) (i : List Int) : TapSrc :=
  if c ≥ g.c then .zero
  else
    match padIdx g.pad (g.inp.getD 0 0) (i.getD 0 0), padIdx g.pad (g.inp.getD 1 0) (i.getD 1 0),
        padIdx g.pad (g.inp.getD 2 0) (i.getD 2 0) with
    | some t, some h, some w => .mem (elemAddr g o b n c t h w)
    | _, _, _ => if g.pad = 1 then .const else .zero

/-- A tap index is within the input on every axis. -/
def insideTap (g : Geom) (i : List Int) : Bool :=
  (List.range 3).all (fun x => decide (0 ≤ i.getD x 0) && decide (i.getD x 0 < (g.inp.getD x 0 : Int)))

/-- The input index of a tap at an output (R294). -/
def tapIdx (g : Geom) (x : Nat) (out k : Nat) : Int :=
  (out * g.str.getD x 0 : Nat) + (g.dil.getD x 0 * k : Nat) - (g.lo.getD x 0 : Nat)

/-- The taps of an axis that are live under zero padding (R299). -/
def liveAxis (g : Geom) (x : Nat) : List Nat :=
  (List.range (g.ker.getD x 0)).filter (fun k => g.pad != 0 ||
    (List.range (outExt g x).toNat).any (fun out =>
      decide (0 ≤ tapIdx g x out k) && decide (tapIdx g x out k < (g.inp.getD x 0 : Int))))

/-- Taps in ascending order of (kt, kh, kw). -/
def tapList (ks : List (List Nat)) : List (List Nat) :=
  (ks.getD 0 []).flatMap (fun t => (ks.getD 1 []).flatMap (fun h => (ks.getD 2 []).map (fun w => [t, h, w])))

/-- An output position: n, t, h, w (R292). -/
def outPos (g : Geom) (m : Nat) : Nat × Nat × Nat × Nat :=
  let e := fun x => (outExt g x).toNat
  (m / (e 2 * e 1 * e 0), m / (e 2 * e 1) % e 0, m / e 2 % e 1, m % e 2)

/-- Padded channels (R292). -/
def padC (g : Geom) : Nat := ceilDiv g.c (lanes g) * lanes g

/-- Input indices of a tap at an output position. -/
def tapAt (g : Geom) (p : Nat × Nat × Nat × Nat) (k : List Nat) : List Int :=
  [tapIdx g 0 p.2.1 (k.getD 0 0), tapIdx g 1 p.2.2.1 (k.getD 1 0), tapIdx g 2 p.2.2.2 (k.getD 2 0)]

/-- Half-pixel interpolation along an axis: the two clamped indices and the weight of the second in units of 1 / 2F
(R302). -/
def halfPixel (f n out : Nat) : Nat × Nat × Nat :=
  let q : Int := 2 * (out : Int) + 1 - f
  let i0 : Int := q / (2 * f : Nat)
  let clamp := fun (i : Int) => (max 0 (min i ((n : Int) - 1))).toNat
  (clamp i0, clamp (i0 + 1), (q - i0 * (2 * f : Nat)).toNat)

/-- The sources of one destination element: one for CONV, UP_NEAREST and PIXEL_SHUFFLE, the window's for the poolings,
four for UP_BILINEAR (R292-R303). -/
def elemSrcs (g : Geom) (o : Operand) (b : Nat) (taps : List (List Nat)) (m j : Nat) : List TapSrc :=
  let p := outPos g m
  match g.mode with
  | 0 =>
    (match taps[j / padC g]? with
     | some k => [tapSrc g o b p.1 (j % padC g) (tapAt g p k)]
     | none => [.zero])
  | 1 => (taps.filter (fun k => !(g.exclPad && !(insideTap g (tapAt g p k))))).map (fun k => tapSrc g o b p.1 j (tapAt g p k))
  | 2 => (taps.filter (fun k => !(g.exclPad && !(insideTap g (tapAt g p k))))).map (fun k => tapSrc g o b p.1 j (tapAt g p k))
  | 3 => [tapSrc g o b p.1 j [p.2.1, ((p.2.2.1 / g.factor : Nat) : Int), ((p.2.2.2 / g.factor : Nat) : Int)]]
  | 4 =>
    let hh := halfPixel g.factor (g.inp.getD 1 0) p.2.2.1
    let ww := halfPixel g.factor (g.inp.getD 2 0) p.2.2.2
    [(hh.1, ww.1), (hh.1, ww.2.1), (hh.2.1, ww.1), (hh.2.1, ww.2.1)].map (fun q =>
      tapSrc g o b p.1 j [p.2.1, (q.1 : Int), (q.2 : Int)])
  | _ =>
    let f := g.factor
    if j ≥ g.c / (f * f) then [.zero]
    else [tapSrc g o b p.1 (j * f * f + p.2.2.1 % f * f + p.2.2.2 % f)
      [p.2.1, ((p.2.2.1 / f : Nat) : Int), ((p.2.2.2 / f : Nat) : Int)]]

/-- The mean of values: the exact sum divided by their number, rounded once (R301). -/
def meanOf (vs : List Val) : Val :=
  match vs.foldl addEx vzero with
  | .nan => .nan
  | .inf s => .inf s
  | .fin s m e =>
    if m = 0 ∨ vs.isEmpty then vzero
    else
      -- m × 2^e / n to nearest even: enough quotient bits with a sticky bit below them
      let k : Nat := 320
      let q := m * 2 ^ k / vs.length
      let sticky := if m * 2 ^ k % vs.length = 0 then 0 else 1
      toFp32 (.fin s (2 * q + sticky) (e - (k : Int) - 1))

/-- One interpolation step (R302). -/
def lerp (t : Val) (a b : Val) : Val := fmaF b t (mulF a (toFp32 (addEx vone (vneg t))))

/-- The result of a mode that computes (R301, R302). -/
def tapValue (g : Geom) (m : Nat) (vs : List Val) : Val :=
  match g.mode with
  | 1 => rowMax vs
  | 2 => meanOf vs
  | 4 =>
    let p := outPos g m
    let hh := halfPixel g.factor (g.inp.getD 1 0) p.2.2.1
    let ww := halfPixel g.factor (g.inp.getD 2 0) p.2.2.2
    let tv := fun (n : Nat) => mulEx (ofInt n) (pow2 (-(Nat.log2 (2 * g.factor) : Int)))
    lerp (tv hh.2.2) (lerp (tv ww.2.2) (vs.getD 0 vzero) (vs.getD 1 vzero)) (lerp (tv ww.2.2) (vs.getD 2 vzero) (vs.getD 3 vzero))
  | _ => vs.headD vzero

/-- The bytes of a source. -/
def srcBytes (s : State) (c : Ctx) (g : Geom) (b : Nat) : TapSrc → List MByte
  | .mem a => loadBytes s c a b
  | .const => clean (leBytes b g.const)
  | .zero => List.replicate b (0, false)

/-- Element bits are copied unchanged: CONV, and modes 3 and 5 into the input's own format (R296, R300). -/
def tapRaw (g : Geom) (o : Operand) (df : Fmt) : Bool := g.mode == 0 || (decide (df = o.fmt) && (g.mode == 3 || g.mode == 5))

/-- The element of one destination position. DESIGN CHOICE: CONST of an INT8 input with row scales takes the scale of row 0; the
spec gives a padding value no row. -/
def tapElem (s : State) (c : Ctx) (g : Geom) (o : Operand) (b : Nat) (df : Fmt) (m : Nat) (srcs : List TapSrc) :
    Except Status (List MByte) :=
  if tapRaw g o df then .ok (srcBytes s c g b (srcs.headD .zero))
  else
    match allOk (srcs.map (fun (q : TapSrc) =>
        let d := srcBytes s c g b q
        if anyMark d then .error .poison
        else
          match (match q with
            | .mem a => if o.fmt = Fmt.int8 then scaleOf s c o (rowCol o (a : Nat)).1 else .ok vone
            | .const => if o.fmt = Fmt.int8 then scaleOf s c o 0 else .ok vone
            | .zero => .ok vone) with
          | .error e => .error e
          | .ok sc => .ok (fromFmt o.fmt sc (elemAt o.fmt (plain d) 0)))) with
    | .error e => .error e
    | .ok vs => .ok (clean (toFmt df vone (tapValue g m vs)))

/-- The sources of every destination element of a TAPS load, `w` bytes each: by row, the output position and the elements. -/
def tapCells (c : Ctx) (g : Geom) (o : Operand) (b w : Nat) : List (Nat × List (List TapSrc)) :=
  let taps := tapList ((List.range 3).map (fun x => if g.mode = 0 then liveAxis g x else List.range (g.ker.getD x 0)))
  let dim := if g.mode = 0 then 2 else 1
  (List.range c.w.count).map (fun r =>
    let m := originNow c 0 + c.w.imm1 + r
    (m, (List.range (c.w.imm2 / w)).map (fun j =>
      let k := originNow c dim + j
      if m < c.ext.getD 0 0 ∧ k < c.ext.getD dim 0 then elemSrcs g o b taps m k else [.zero])))

/-- What a TAPS load reads: its source elements, and the scales of those that it decodes. -/
def tapReads (c : Ctx) (g : Geom) (o : Operand) (df : Fmt) : List (Nat × Nat) :=
  let b := elemBytes o.fmt
  let srcs := (tapCells c g o b (elemBytes df)).flatMap (fun row => row.2.flatten)
  let addrs : List Nat := (srcs.filterMap (fun q => match q with
    | .mem a => some a
    | .const => none
    | .zero => none)).eraseDups
  let const := srcs.any (fun q => decide (q = .const))
  addrs.map (fun (a : Nat) => (a, b)) ++
    (if o.fmt = .int8 ∧ !(tapRaw g o df) then
      addrs.flatMap (fun (a : Nat) => scaleRange c o (rowCol o (a : Int)).1) ++ (if const then scaleRange c o 0 else [])
    else [])

/-- The rows that a TAPS load puts into the scratchpad. -/
def tapRows (s : State) (c : Ctx) (g : Geom) (o : Operand) (df : Fmt) : Except Status (List (List MByte)) :=
  allOk ((tapCells c g o (elemBytes o.fmt) (elemBytes df)).map (fun row =>
    match allOk (row.2.map (tapElem s c g o (elemBytes o.fmt) df row.1)) with
    | .error e => .error e
    | .ok es => .ok es.flatten))

/-- LOAD with TAPS (R293). -/
def tapsRes (c : Ctx) (s : State) : Res :=
  match agOperand c c.w.ag1, fmtOf (c.w.flags % 16) with
  | some o, some df =>
    let b := elemBytes o.fmt
    let w := elemBytes df
    let d := agAt c c.w.ag3 0
    if isNarrow o.fmt ∨ isNarrow df then .fault s .burstMismatch
    else withBytesAt c c.w.ag2 0 64 s (fun s r =>
      match readGeom r b with
      | none => .fault s .convGeometryBad
      | some g =>
        if (g.mode = 0 ∧ (df ≠ o.fmt ∨ df = .fp32)) ∨ c.w.imm2 % w ≠ 0 then .fault s .convGeometryBad
        else withLoad c (tapReads c g o df) s (fun s =>
          orFault s (tapRows s c g o df) (fun rows =>
            putRanges c ((List.range rows.length).map (fun (r : Nat) => (d + (r * c.w.imm2 : Nat), rows.getD r []))) s)))
  | _, _ => .fault s .burstMismatch

def execLoadTaps (i : Fin 256) (s : State) : Outcome :=
  runInsn "LOAD_TAPS" (fun w => isOp .load w && bit w.flags 5) i s tapsRes

end Sys2Proof.Machine
end

