-- ==== Sys2Proof/Machine/VaultEngine.lean ====
section
/-!
DEFINITION. The vault engine: records, the VENG instruction, the nine operations, completion; ECC registers and patrol
scrub (R68-R71, R93-R101, R186, R548, R549).
-/
namespace Sys2Proof.Machine

/-- A vault-engine record (R96). -/
structure VRec where
  op : Nat
  flags : Nat
  resv : Nat
  count : Nat
  src : Nat
  dst : Nat
  aux : Nat
  deriving DecidableEq, Repr

/-- Read a 32-byte record (R96). -/
def readVRec (b : List Byte) : VRec :=
  ⟨leAt b 0 1, leAt b 1 1, leAt b 2 2, leAt b 4 4, leAt b 8 8, leAt b 0x10 8, leAt b 0x18 8⟩

/-- Row length and rows of ROW_MAX and ROW_SUM (R93). -/
def auxLen (aux : Nat) : Nat := aux % 2 ^ 32
def auxRows (aux : Nat) : Nat := aux / 2 ^ 32

/-- The layout that PACK writes: K3, or FP4 in the group mode that AUX names, 0 K4 and 1 MX (R94, R123). -/
def packLayout (flags aux : Nat) : Option Layout :=
  (fmtOf (flags / 16)).bind (fun f => layoutOf f (decide (f = .fp4) && bit aux 0))

/-- AUX of a PACK: bits above the group mode are zero (R123). DESIGN CHOICE: another value is COMMAND_BAD, as any reserved bit of a
record; the spec names no status. -/
def auxBad (op aux : Nat) : Bool := op == 6 && decide (2 ≤ aux)

/-- PACK: source FP32 or BF16, destination narrow; UNPACK the other way round (R93, R94). -/
def packOk (op flags : Nat) : Bool :=
  let s := fmtOf (flags % 16)
  let d := fmtOf (flags / 16)
  let wide := fun (f : Option Fmt) => decide (f = some .fp32) || decide (f = some .bf16)
  let narrow := fun (f : Option Fmt) => decide (f = some .fp4) || decide (f = some .k3)
  if op = 6 then wide s && narrow d else if op = 7 then narrow s && wide d else true

/-- Elements of the groups that PACK makes. -/
def narrowGroup (flags aux : Nat) : Nat := match packLayout flags aux with | some l => groupSize l | none => 1

/-- Bytes of the source operand. -/
def vSrcLen (r : VRec) : Nat :=
  match r.op with
  | 1 => r.count
  | 3 => 4 * r.count
  | 4 => auxRows r.aux * auxLen r.aux * 4
  | 5 => auxRows r.aux * auxLen r.aux * 4
  | 6 => r.count
  | 7 => r.count
  | 8 => 512
  | 9 => r.count
  | _ => 0

/-- Elements that the bursts of an UNPACK give, from their headers. -/
def unpackCount (f : Fmt) (b : List Byte) : Nat :=
  ((List.range (b.length / 128)).map (fun j =>
    match burstLayout f (slice b (128 * j) 128) with | some l => groupSize l | none => 0)).sum

/-- Bytes of the destination operand; those of an UNPACK follow from the burst headers in its source. -/
def vDstLen (r : VRec) (src : List Byte) : Nat :=
  match r.op with
  | 1 => r.count
  | 2 => r.count
  | 3 => r.count * pageSize
  | 4 => auxRows r.aux * 4
  | 5 => auxRows r.aux * 4
  | 6 => ceilDiv (r.count / (match fmtOf (r.flags % 16) with | some f => elemBytes f | none => 1))
      (narrowGroup r.flags r.aux) * 128
  | 7 => unpackCount ((fmtOf (r.flags % 16)).getD .k3) src *
      (match fmtOf (r.flags / 16) with | some f => elemBytes f | none => 1)
  | 8 => 512
  | 9 => 32
  | _ => 0

/-- The operation of a record on runs of physical addresses; TOKEN_COMPARE reads both operands and writes none. -/
def vopOf (r : VRec) (src dst : List (Nat × Nat)) (owner : VOwner) (isl resultAt : Nat) : VOp :=
  { op := r.op, flags := r.flags, count := r.count, aux := r.aux, src := if r.op = 8 then src ++ dst else src,
    dst := if r.op = 8 then [] else dst, owner := owner, island := isl, resultAt := resultAt, done := false,
    status := .success, result := false }

/-- Queue an operation at a vault's engine. -/
def queueOp (s : State) (v : Nat) (o : VOp) : State := modVault s v (fun x => { x with ops := x.ops ++ [o] })

/-- The runs of a domain range, when it lies whole in one vault. -/
def vaultRuns (s : State) (c : Ctx) (v va n : Nat) : Except Status (List (Nat × Nat)) :=
  allOk ((piecesOf va n).map (fun (a, m) =>
    match xlat s c.t.desc.domain (some c.t.tag) a with
    | .error e => .error e
    | .ok p => if p.tier = .t1 ∧ p.addr / 2 ^ 30 = v then .ok (p.addr, m) else .error .vaultEngineRange))

/-- A gate that lets the engine's own queue order accesses to its destinations (R95). -/
def pastEngine (g : Gate) (k : State → Res) : Res :=
  match g with
  | .go s => k s
  | .wait s why => if why = .engine then k s else .wait s why
  | .fault s st => .fault s st

/-- The granules that a GATHER reads, by the list in its source. -/
def granules (v n : Nat) (b : List Byte) : List (Nat × Nat) :=
  (List.range n).map (fun i => (v * 2 ^ 30 + leAt b (4 * i) 4, pageSize))

/-- The gate of a GATHER's granules, which its list names by vault offset: IN_PLACE where one lies in the task's own output
ranges, held where one is pending elsewhere (R196, R197). -/
def gatherGate (s : State) (c : Ctx) (v : Nat) (r : VRec) : Gate :=
  if r.op = 3 then
    let g := granules v r.count (plain (taskBytes s c r.src (4 * r.count)))
    let hit := fun (l : List (Nat × Nat)) => l.any (fun o => g.any (overlaps o))
    let d := c.t.desc.domain
    if !c.t.desc.pinned && hit (runsOf s d (some c.t.tag) (outRanges c.t)) then .fault s .inPlace
    else if hit (runsOf s d none (pendingRanges s d (some c.t.tag))) then .wait s .held
    else .go s
  else .go s

/-- An island issues an operation to a vault's engine: the operation takes the VENG's place in the island's order, and later
instructions come behind it. -/
def issueOp (c : Ctx) (v : Nat) (o : VOp) (s : State) : State :=
  modIsland (queueOp s v { o with insn := c.id, pc := c.x.pc }) c.isl (fun x => { x with issued := max x.issued (c.id + 1) })

/-- VENG: read the record, check its ranges, queue the operation at the vault of its destination (R93-R96, R177). -/
def vengRes (c : Ctx) (s : State) : Res :=
  withBytesAt c c.w.ag1 c.w.imm1 32 s (fun s b =>
    let r := readVRec b
    let d := c.t.desc.domain
    let ra := agAt c c.w.ag3 0
    let resultAt := match agOperand c c.w.ag3 with | none => ra.toNat | some _ => 2 ^ 64 + vaOf ra
    let resultOk := match agOperand c c.w.ag3 with
      | none => inScratch c ra 4
      | some o => o.output && decide ((segs c o ra 4) = [(0, ra.toNat, 4)])
    if r.op = 0 ∨ r.op > 9 ∨ r.resv ≠ 0 ∨ auxBad r.op r.aux = true then .fault s .commandBad
    else if !(packOk r.op r.flags) then .fault s .burstMismatch
    else if !resultOk then .fault s .overflowFault
    else
      match xlat s d (some c.t.tag) r.dst with
      | .error e => .fault s e
      | .ok p =>
        let v := p.addr / 2 ^ 30
        if p.tier ≠ .t1 ∨ (r.op = 9 ∧ r.count > 65536) then .fault s .vaultEngineRange
        else
          orFault s (vaultRuns s c v r.src (vSrcLen r)) (fun src =>
            let n := vDstLen r (if r.op = 7 then plain (taskBytes s c r.src r.count) else [])
            orFault s (vaultRuns s c v r.dst n) (fun dst =>
              let reads := (r.src, vSrcLen r) :: (if r.op = 8 then [(r.dst, 512)] else [])
              let writes := (if r.op = 8 then [] else [(r.dst, n)]) ++
                (if resultAt ≥ 2 ^ 64 then [(resultAt - 2 ^ 64, 4)] else [])
              pastEngine (readGate s c.t c.isl false false reads) (fun s =>
                pastEngine (gatherGate s c v r) (fun s =>
                  pastEngine (writeGate s c.t writes) (fun s =>
                    .next (issueOp c v (vopOf r src dst (.task c.t.tag c.t.attempt) c.isl resultAt) s)))))))

def execVeng (i : Fin 256) (s : State) : Outcome := runInsn "VENG" (isOp .veng) i s vengRes

/-! ### The operations (R93, R94) -/

/-- The bytes of runs, each beat met by the ECC (R68). -/
def runsRead (s : State) (l : List (Nat × Nat)) : State × List MByte :=
  let s := l.foldl (fun s r => touch s r.1 r.2) s
  (s, l.flatMap (fun r => dramRead s r.1 r.2))

/-- Write bytes over runs. -/
def runsWrite (s : State) (l : List (Nat × Nat)) (d : List MByte) : State :=
  (l.foldl (fun (acc : State × List MByte) r => (dramWrite acc.1 r.1 (acc.2.take r.2), acc.2.drop r.2)) (s, d)).1

/-- Rows of FP32 values in bytes. -/
def f32Rows (b : List Byte) (len rows : Nat) : List (List Val) :=
  (List.range rows).map (fun r => (List.range len).map (fun i => ofF32 (leAt b (4 * (r * len + i)) 4)))

/-- PACK: groups along the source, one burst each, the last with TAIL; a poisoned source poisons its burst (R94). -/
def packOut (flags aux : Nat) (d : List MByte) : List MByte :=
  match fmtOf (flags % 16), packLayout flags aux with
  | some f, some l =>
    let w := elemBytes f
    let n := d.length / w
    let g := groupSize l
    (List.range (ceilDiv n g)).flatMap (fun j =>
      let part := (d.drop (j * g * w)).take (g * w)
      let vs := (List.range (part.length / w)).map (elemAt f (plain part))
      (packGroup l vs (decide (n ≤ (j + 1) * g))).map (fun b => (b, anyMark part)))
  | _, _ => []

/-- UNPACK: the header of each burst states its layout; a poisoned burst poisons what it gives (R94, R123). -/
def unpackOut (flags : Nat) (d : List MByte) : Except Status (List MByte) :=
  match fmtOf (flags % 16), fmtOf (flags / 16) with
  | some f, some df =>
    match allOk ((List.range (d.length / 128)).map (fun j =>
        let part := (d.drop (128 * j)).take 128
        let b := plain part
        match burstLayout f b with
        | none => .error .burstMismatch
        | some l =>
          if burstBad l b && !(anyMark part) then .error .burstMismatch
          else .ok (((decodeBurst l b).flatMap (fun e => toFmt df vone e.val)).map (fun v => (v, anyMark part))))) with
    | .error e => .error e
    | .ok l => .ok l.flatten
  | _, _ => .error .burstMismatch

/-- Zero-fill runs of physical addresses: a beat in part is read first (R69). -/
def runsZero (s : State) (rs : List (Nat × Nat)) : State :=
  rs.foldl (fun s r =>
    let part := (unitsOf 64 r.1 r.2).filter (fun b => decide (64 * b < r.1) || decide (r.1 + r.2 < 64 * b + 64))
    dramZero (part.foldl (touchBeat false) s) r.1 r.2) s

/-- What an operation gives: the bytes for its destination and RESULT, or the status it ends with (R93, R94). DESIGN CHOICE: a
GATHER whose list of offsets lies in a poisoned beat ends with POISON; R70 and R93 speak of its source granules, whose poison it
carries on. -/
def vopOut (s : State) (v : Nat) (o : VOp) (d : List MByte) : Except Status (List MByte × Bool) :=
  let b := plain d
  match o.op with
  | 1 => .ok (d, false)
  | 2 => .ok ([], false)
  | 3 =>
    let offs := (List.range o.count).map (fun i => leAt b (4 * i) 4)
    if anyMark d then .error .poison
    else if offs.any (fun x => decide (x + pageSize > 2 ^ 30)) then .error .vaultEngineRange
    else .ok (offs.flatMap (fun x => dramRead s (v * 2 ^ 30 + x) pageSize), false)
  | 4 =>
    if anyMark d then .error .poison
    else .ok (clean (f32Bytes ((f32Rows b (auxLen o.aux) (auxRows o.aux)).map rowMax)), false)
  | 5 =>
    if anyMark d then .error .poison
    else .ok (clean (f32Bytes ((f32Rows b (auxLen o.aux) (auxRows o.aux)).map exactSum)), false)
  | 6 => .ok (packOut o.flags o.aux d, false)
  | 7 => (match unpackOut o.flags d with | .error e => .error e | .ok x => .ok (x, false))
  | 8 => if anyMark d then .error .poison else .ok ([], decide (b.take 512 = b.drop 512))
  | 9 => if anyMark d then .error .poison else .ok (clean (sha3 b), false)
  | _ => .error .commandBad

/-- Beats that a GATHER reads beyond its list. -/
def gatherTouch (s : State) (v : Nat) (o : VOp) (b : List Byte) : State :=
  if o.op = 3 then
    ((List.range o.count).map (fun i => leAt b (4 * i) 4)).foldl (fun s x =>
      if x + pageSize > 2 ^ 30 then s else touch s (v * 2 ^ 30 + x) pageSize) s
  else s

/-- Carry out the first operation of a vault's queue that has not run, when it has this code. -/
def runVop (name : String) (code : Nat) (v : Nat) (s : State) : Outcome :=
  let x := vaultAt s v
  match firstIdx (fun (o : VOp) => !o.done) x.ops with
  | none => notNow name
  | some i =>
    match x.ops[i]? with
    | none => notNow name
    | some o =>
      if o.op ≠ code ∨ x.retraining ∨ x.untrained then notNow name
      else
        let (s, d) := runsRead s o.src
        let s := gatherTouch s v o (plain d)
        match vopOut s v o d with
        | .error e => .next (modVault s v (fun x => { x with ops := setAt x.ops i { o with done := true, status := e } }))
        | .ok (out, res) =>
          .next (modVault (if code = 2 then runsZero s o.dst else runsWrite s o.dst out) v (fun x => { x with ops := setAt x.ops i { o with done := true, result := res } }))

def execVengCopy (v : Fin 256) (s : State) : Outcome := runVop "VENG_COPY" 1 v s
def execVengZeroFill (v : Fin 256) (s : State) : Outcome := runVop "VENG_ZERO_FILL" 2 v s
def execVengGather (v : Fin 256) (s : State) : Outcome := runVop "VENG_GATHER" 3 v s
def execVengRowMax (v : Fin 256) (s : State) : Outcome := runVop "VENG_ROW_MAX" 4 v s
def execVengRowSum (v : Fin 256) (s : State) : Outcome := runVop "VENG_ROW_SUM" 5 v s
def execVengPack (v : Fin 256) (s : State) : Outcome := runVop "VENG_PACK" 6 v s
def execVengUnpack (v : Fin 256) (s : State) : Outcome := runVop "VENG_UNPACK" 7 v s
def execVengTokenCompare (v : Fin 256) (s : State) : Outcome := runVop "VENG_TOKEN_COMPARE" 8 v s
def execVengDigest (v : Fin 256) (s : State) : Outcome := runVop "VENG_DIGEST" 9 v s

/-- The result word of a task's operation, while the attempt that issued it runs. -/
def vopResult (s : State) (o : VOp) : State :=
  match o.owner with
  | .task tag att =>
    (match taskOf s tag with
     | none => s
     | some t =>
       if t.attempt = att ∧ t.phase = .running then
         if o.status ≠ .success then endTask s t o.status (some o.pc)
         else
           let w := clean (leBytes 4 (b2n o.result))
           releaseSignals (if o.resultAt < 2 ^ 64 then modIsland s o.island (fun x => putScratch x o.resultAt w)
             else taskWrite s t o.island [(o.resultAt - 2 ^ 64, w)]) o.island
       else s)
  | .host => s
  | .hub => s

/-- The zero-fill of a vault that leaves its owner is through (R47). -/
def hubDone (v : Nat) (o : VOp) (s : State) : State :=
  match o.owner, s.img.cur with
  | .hub, some g => { s with img := { s.img with cur := some { g with zeroed := g.zeroed ++ [v] } } }
  | _, _ => s

/-- VAULT_ENGINE_DONE: the operation at the head of a vault's queue ends: a host's shows in VLT_ENG_STAT, a task's gives
its result word, or ends its task when it failed (R93, R101). -/
def execVaultEngineDone (v : Fin 256) (s : State) : Outcome :=
  match (vaultAt s v).ops with
  | [] => notNow "VAULT_ENGINE_DONE"
  | o :: rest =>
    if o.done then
      let s := modVault s v (fun x =>
        match o.owner with
        | .host => { x with ops := rest, busy := false, result := o.result, status := o.status }
        | .task _ _ => { x with ops := rest }
        | .hub => { x with ops := rest })
      .next (hubDone v o (vopResult s o))
    else notNow "VAULT_ENGINE_DONE"

/-- The host may issue records for a vault whose island belongs to no domain, or to one that is neither ACTIVE nor
DRAINING (R96). -/
def hostMayRun (s : State) (v : Nat) : Bool :=
  match (islRec s v).owner with
  | none => true
  | some d => decide ((domAt s d).st ≠ .active) && decide ((domAt s d).st ≠ .draining)

/-- GO of VLT_ENG_CTRL: the record in VLT_ENG_CMD is issued; a refused one ends at once with its status (R96, R101). GO
while BUSY is ignored. -/
def vaultGo (v : Nat) (s : State) : State :=
  let x := vaultAt s v
  let r := readVRec (x.engCmd.flatMap (fun w => leBytes 4 w.toNat))
  let bad := fun (e : Status) => modVault s v (fun x => { x with status := e, result := false })
  if x.busy then s
  else if !(hostMayRun s v) then bad .stateRefused
  else if r.op = 0 ∨ r.op > 9 ∨ r.resv ≠ 0 ∨ auxBad r.op r.aux = true then bad .commandBad
  else if !(packOk r.op r.flags) then bad .burstMismatch
  else if r.src + vSrcLen r > 2 ^ 30 ∨ (r.op = 9 ∧ r.count > 65536) then bad .vaultEngineRange
  else
    let m := vDstLen r (if r.op = 7 then plain (dramRead s (v * 2 ^ 30 + r.src) r.count) else [])
    let run := fun a n => if n = 0 then [] else [(v * 2 ^ 30 + a, n)]
    if r.dst + m > 2 ^ 30 then bad .vaultEngineRange
    else queueOp (modVault s v (fun x => { x with busy := true, result := false })) v
      (vopOf r (run r.src (vSrcLen r)) (run r.dst m) .host v 0)

/-! ### ECC registers (R97, R549) -/

/-- CLEAR of an error register clears both counts and VALID (R97, R98, R549). -/
def eccClear (r : EccRegs) : EccRegs := { r with corrected := 0, uncorrected := 0, valid := false }

def execVltEccClear (v : Fin 256) (s : State) : Outcome := .next (viaHost s (fun s => modVault s v (fun x => { x with ecc := eccClear x.ecc })))

def execFarEccClear (ch : Fin 16) (s : State) : Outcome :=
  .next (viaHost s (fun s => setChan s ch { chanAt s ch with ecc := eccClear (chanAt s ch).ecc }))

end Sys2Proof.Machine
end

