-- ==== Sys2Proof/Machine/MemoryCommands.lean ====
section
/-!
DEFINITION. The memory commands and the migration engine: MAP, UNMAP, SEAL, PROMOTE, DEMOTE, COPY, heat, moves, lower-tier
reads (R47, R77-R91, R547).
-/
namespace Sys2Proof.Machine

/-! ### Room in T1 (R88) -/

/-- Page ranges of the memory commands: aligned, at least one page, within 48 bits (R87, R88). -/
def pageRangeOk (va n : Nat) : Bool := va % pageSize == 0 && decide (1 ≤ n) && decide (va / pageSize + n ≤ 2 ^ 32)

/-- The pages of a range. -/
def pagesOf (va n : Nat) : List Nat := (List.range n).map (fun i => va / pageSize + i)

/-- The entry of a page. -/
def pageAt (s : State) (d k : Nat) : Option Page := sparseGet none (domAt s d).pages k

/-- Set the entry of a page. -/
def setPage (s : State) (d k : Nat) (p : Option Page) : State :=
  modDom s d (fun x => { x with pages := sparseSet none x.pages k p })

/-- Demotable sealed pages of some vaults, but for the pages of the command's own range; none while demotion is disabled
(R88). -/
def spare (s : State) (d : Nat) (vs own : List Nat) : List (Nat × Page) :=
  if (memRec s d).highWater = 0 then []
  else (domPages s d).filter (fun (k, p) => vs.contains (p.frame / 16384) && demotable s d k p && !(own.contains k))

/-- Free frames of some vaults. -/
def freeCount (s : State) (vs : List Nat) : Nat := (vs.map (fun v => 16384 - vaultPages s v)).sum

/-- The page of lowest heat, ties by lowest page number (R83). -/
def coldest (l : List (Nat × Page)) : Option (Nat × Page) :=
  l.foldl (fun acc e => match acc with
    | none => some e
    | some b => if e.2.heat < b.2.heat then some e else some b) none

/-- Demote pages of the vaults until `need` frames are free (R88). DESIGN CHOICE: where T2 has no frame for a page that must go,
the command completes with FAR_FULL; the spec names no status for it. -/
def makeRoom (d : Nat) (vs own : List Nat) (need : Nat) : Nat → State → Except Status State
  | 0, s => .ok s
  | fuel + 1, s =>
    if need ≤ freeCount s vs then .ok s
    else match coldest (spare s d vs own) with
      | none => .error .nearFull
      | some (k, p) => match demotePage s d k p with
        | none => .error .farFull
        | some s => makeRoom d vs own need fuel s

/-- NEAR_FULL is decided first, then room is made (R88). -/
def roomFor (s : State) (d : Nat) (vs own : List Nat) (need : Nat) : Except Status State :=
  if freeCount s vs + (spare s d vs own).length < need then .error .nearFull
  else makeRoom d vs own need (need + 1) s

/-- The vault operand of MAP and PROMOTE: a vault of the domain, or default placement (R88). -/
inductive VaultArg where
  | default | named (v : Nat) | bad | shut
  deriving DecidableEq, Repr

def vaultArg (s : State) (d v : Nat) : VaultArg :=
  if v = 0xFFFF then .default
  else if !((ownedIslands s d).contains v) then .bad
  else if (closedVaults s).contains v then .shut
  else .named v

/-- The frame that the next page takes. -/
def frameFor (s : State) (d : Nat) : VaultArg → Option Nat
  | .default => defaultFrame s d
  | .named v => freeInVault s v
  | .bad => none
  | .shut => none

/-- Vaults that a command may use. -/
def vaultsFor (s : State) (d : Nat) : VaultArg → List Nat
  | .default => openVaults s d
  | .named v => [v]
  | .bad => []
  | .shut => []

/-! ### MAP and UNMAP (R77, R80, R87, R88) -/

/-- The leaf tables of a range, eight frames each where they are new (R77). -/
def ensureLeaves (s : State) (d : Nat) (ks : List Nat) : Option State :=
  ((ks.map (· / 65536)).eraseDups).foldl (fun acc span => acc.bind (fun s => ensureStruct s d (.leaf span) 8)) (some s)

/-- Map one page to a zero-filled DRAM frame. -/
def mapFrame (s : State) (d k : Nat) (t : Tier) (f : Nat) : State :=
  setPage (dramZero s (f * pageSize) pageSize) d k (some ⟨t, decide (t ≠ .t1), false, 0, f⟩)

/-- Pages of a T1 MAP, in ascending order. -/
def mapNear (d : Nat) (a : VaultArg) : List Nat → State → Except Status State
  | [], s => .ok s
  | k :: t, s => match frameFor s d a with
    | none => .error .nearFull
    | some f => mapNear d a t (mapFrame s d k .t1 f)

/-- Pages of a T2 MAP. DESIGN CHOICE: each goes to channel (page mod n), as a demoted page does, else to the next channel in
ascending order, wrapping, that has a frame; the spec does not say which channel a mapped page takes. -/
def mapFar (d : Nat) : List Nat → State → Except Status State
  | [], s => .ok s
  | k :: t, s => match chanFrame s d k true with
    | none => .error .farFull
    | some f => mapFar d t (mapFrame s d k .t2 f)

/-- The bus addresses of a host list (R87, R438). -/
def hostList (s : State) (a n : Nat) : List Nat := words8 (hostBytes s a (8 * n)) n

/-- FRAME of a T3 page: the 36 bits of the bus address that a leaf entry holds (R78). DESIGN CHOICE: the spec refuses no
higher address, so its upper bits are dropped. -/
def hostFrame (b : Nat) : Nat := b / pageSize % 2 ^ 36

/-- Pages of a T3 MAP. -/
def mapHost (s : State) (d : Nat) (ks : List Nat) (l : List Nat) : State :=
  (ks.zip l).foldl (fun s (k, b) => setPage s d k (some ⟨.t3, true, false, 0, hostFrame b⟩)) s

/-- MAP in unified mode. -/
def mapUnified (s : State) (d va n tier vault list : Nat) : Except Status State :=
  let ks := pagesOf va n
  if !(pageRangeOk va n) then .error .rangeBad
  else if ks.any (fun k => (pageAt s d k).isSome) then .error .rangeBad
  else if tier = 2 ∧ (hostList s list n).any (fun b => b % pageSize != 0) then .error .rangeBad
  else
    let a := vaultArg s d vault
    if a = .bad then .error .rangeBad
    else if a = .shut then .error .nearFull
    else match ensureLeaves s d ks with
      | none => .error .nearFull
      | some s1 =>
        if tier = 0 then
          match roomFor s1 d (vaultsFor s1 d a) [] n with
          | .error e => .error e
          | .ok s2 => mapNear d a ks s2
        else if tier = 1 then mapFar d ks s1
        else .ok (mapHost s1 d ks (hostList s list n))

/-- MAP in split mode: HOST entries only (R80, R87). -/
def mapSplit (s : State) (d va n tier vault list : Nat) : Except Status State :=
  let l := hostList s list n
  let k0 := va % 2 ^ 46 / pageSize
  if vaultArg s d vault = .bad then .error .rangeBad
  else if vaultArg s d vault = .shut then .error .nearFull
  else if va % pageSize ≠ 0 ∨ n = 0 ∨ va / 2 ^ 46 ≠ 2 ∨ 65536 < k0 + n ∨ tier ≠ 2 then .error .rangeBad
  else if ((List.range n).any (fun i => (sparseGet none (domAt s d).hostPages (k0 + i)).isSome)) then .error .rangeBad
  else if l.any (fun b => b % pageSize != 0) then .error .rangeBad
  else .ok (modDom s d (fun x =>
    let m := ((List.range n).zip l).foldl (fun m e => sparseSet none m (k0 + e.1) (some (hostFrame e.2))) x.hostPages
    { x with hostPages := m }))

/-- Finish a command that either changes the state or is refused without change. -/
def finish (src : Src) (s : State) : Except Status State → State
  | .ok s' => succeed src s'
  | .error e => refuse src e s

/-- A VAULT operand that R438 allows: a vault, or 0xFFFF for default placement. -/
def vaultField (v : Nat) : Bool := decide (v ≤ 255) || v == 0xFFFF

def doMap (src : Src) (va n tier vault list : Nat) (s : State) : State :=
  ringCmd src 0x20 setupStates (fun d s =>
    if 3 ≤ tier || !(vaultField vault) then refuse src .commandBad s
    else finish src s (if (memRec s d).split then mapSplit s d va n tier vault list else mapUnified s d va n tier vault list)) s

/-- Tags of the domain's running tasks. -/
def runningTags (s : State) (d : Nat) : List Nat :=
  (s.tasks.filter (fun t => t.desc.domain == d && decide (t.phase = .running))).map (·.tag)

/-- An entry taken out: the tasks that are running keep it until they end (R87). -/
def keepFor (s : State) (d k : Nat) (p : Page) : State :=
  let tags := runningTags s d
  if tags.isEmpty then s else { s with mig := { s.mig with unmaps := s.mig.unmaps ++ [⟨d, k, p, tags⟩] } }

/-- UNMAP (R87). -/
def unmapRange (s : State) (d va n : Nat) : Except Status State :=
  if !(pageRangeOk va n) then .error .rangeBad
  else if (memRec s d).split then
    let ks := pagesOf va n
    if va / 2 ^ 46 ≠ 2 ∨ 65536 < va % 2 ^ 46 / pageSize + n then .error .rangeBad
    else if ks.any (fun k => (sparseGet none (domAt s d).hostPages (k % 2 ^ 30)).isNone) then .error .rangeBad
    else .ok (ks.foldl (fun s k => match sparseGet none (domAt s d).hostPages (k % 2 ^ 30) with
      | none => s
      | some f => modDom (keepFor s d k ⟨.t3, true, false, 0, f⟩) d (fun x =>
          { x with hostPages := sparseSet none x.hostPages (k % 2 ^ 30) none })) s)
  else
    let ks := pagesOf va n
    if ks.any (fun k => (pageAt s d k).isNone) then .error .rangeBad
    else .ok (ks.foldl (fun s k => match pageAt s d k with
      | none => s
      | some p => dropXlat (setPage (keepFor s d k p) d k none) d k) s)

/-! ### Vaults and channels that leave a domain (R47, R547) -/

/-- The zero-fill of a whole vault, issued by the hub (R47). -/
def zeroVault (v : Nat) : VOp :=
  { op := 2, flags := 0, count := 2 ^ 30, aux := 0, src := [], dst := [(v * 2 ^ 30, 2 ^ 30)], owner := .hub, island := 0,
    resultAt := 0, done := false, status := .success, result := false }

/-- A split-mode domain is drained for a change of its vaults: it is neither ACTIVE nor DRAINING (R80). -/
def drainedSplit (s : State) (d : Nat) : Bool := !([DomState.active, .draining].contains (domAt s d).st)

/-- The new place of a structure frame: in the reserve at the top of the highest vault that stays, in the lowest-indexed open
vault for the directory, else in the first open vault that has a free frame (R47, R77, R81). -/
def newStructFrame (s : State) (d : Nat) (k : StructKind) : Option Nat :=
  if (memRec s d).split then (reserveFrames (memRec s d) (openVaults s d)).bind (fun r => freeFrame s r.1 r.2)
  else if k = .directory then (openVaults s d).head?.bind (freeInVault s)
  else (openVaults s d).findSome? (fun v => freeInVault s v)

/-- One structure frame leaves a closed vault as far as a place is free; a leaf table moves whole (R47, R78). -/
def moveStruct (s : State) (d : Nat) (e : Nat × StructKind) : State :=
  let single := fun (s : State) => match newStructFrame s d e.2 with
    | none => s
    | some f => modDom s d (fun x => { x with frames := x.frames.map (fun g => if g.1 = e.1 then (f, g.2) else g) })
  match e.2 with
  | .leaf _ =>
    if (domAt s d).frames.contains e then
      let n := ((domAt s d).frames.filter (fun g => decide (g.2 = e.2))).length
      match leafRun s d n with
      | none => s
      | some f =>
        let new := (List.range n).map (fun i => (f + i, e.2))
        modDom s d (fun x => { x with frames := x.frames.filter (fun g => decide (g.2 ≠ e.2)) ++ new })
    else s
  | .directory => single s
  | .program _ => single s
  | .lists => single s
  | .prefixes => single s
  | .shadows => single s

/-- Structures held in closed vaults move to open ones; those of a split-mode domain once it is drained (R47, R80, R81). -/
def moveStructs (s : State) : State :=
  (List.range 16).foldl (fun s d =>
    if (memRec s d).split && !(drainedSplit s d) then s
    else ((domAt s d).frames.filter (fun e => (closedVaults s).contains (e.1 / 16384))).foldl (fun s e => moveStruct s d e) s) s

/-- Bound domains that the group in Prepare moves to unified mode (R77). -/
def comesUnified (s : State) (d : Nat) : Bool :=
  match s.img.cur with
  | none => false
  | some g => (memRec s d).split && !((sparseGet {} g.target.mems d).split) && decide ((domAt s d).st ≠ .empty)

/-- A domain holds its directory. -/
def hasDirectory (s : State) (d : Nat) : Bool := (domAt s d).frames.any (fun e => decide (e.2 = .directory))

/-- The directory of a domain that comes to unified mode is taken during Prepare: the eight lowest free frames of its
lowest-indexed vault (R77). -/
def takeDirectory (s : State) (d : Nat) : State :=
  if comesUnified s d && !(hasDirectory s d) then
    (allocFrames (fun s => (openVaults s d).head?.bind (freeInVault s)) d .directory 8 s).getD s
  else s

/-- A vault holds nothing of its owner: no frame in use, and no NEAR range of a split domain at work. -/
def vaultEmpty (s : State) (v : Nat) : Bool :=
  vaultPages s v == 0 && (match (islRec s v).owner with
    | none => true
    | some d => !((memRec s d).split) || drainedSplit s d)

/-- During Prepare: directories are taken, structures move, and a vault that holds nothing more is zero-filled (R47, R77). -/
def prepareTick (s : State) : State :=
  match s.img.cur with
  | none => s
  | some g =>
    if g.phase = .prepare then
      let s := moveStructs ((List.range 16).foldl takeDirectory s)
      g.closed.foldl (fun s v =>
        if vaultEmpty s v && !(g.zeroed.contains v) && !((vaultAt s v).ops.any (fun o => decide (o.owner = .hub))) then
          queueOp s v (zeroVault v)
        else s) s
    else s

def doUnmap (src : Src) (va n : Nat) (s : State) : State :=
  ringCmd src 0x21 setupStates (fun d s => prepareTick (finish src s (unmapRange s d va n))) s

/-- The pages of a domain that must leave closed vaults, ascending (R47). -/
def leavingVault (s : State) (d : Nat) : List (Nat × Page) :=
  if (closedVaults s).isEmpty then []
  else (domPages s d).filter (fun (_, p) => p.tier == .t1 && (closedVaults s).contains (p.frame / 16384))

/-- The pages of a domain on channels that a change takes from it, ascending (R547). -/
def leavingChan (s : State) (d : Nat) : List (Nat × Page) :=
  match s.img.cur with
  | none => []
  | some g =>
    if g.phase = .prepare then
      (domPages s d).filter (fun (_, p) => p.tier == .t2 &&
        !(bit (sparseGet {} g.target.mems d).channels ((p.frame - 2 ^ 24) / 2 ^ 20)))
    else []

/-- A page leaves a closed vault: to an open vault, else to T2 when it is sealed, else it waits (R47). -/
def evacuate (s : State) (d k : Nat) (p : Page) : Option State :=
  match defaultFrame s d with
  | some f => some (movePage s d k p .t1 f)
  | none => if p.sealed then demotePage s d k p else none

/-- The promotion at the head of the queue: the page moves to its vault; it is given up when the page has gone, is in T1
or finds no frame (R83, R85). -/
def runPromotion (s : State) (q : Promo) : State :=
  let s := { s with mig := { s.mig with promos := s.mig.promos.drop 1 } }
  match pageAt s q.dom q.page with
  | none => s
  | some p =>
    if p.tier = .t1 ∨ (closedVaults s).contains q.vault ∨ (islRec s q.vault).owner ≠ some q.dom then s
    else match freeInVault s q.vault with
      | none => s
      | some f => countMove (movePage s q.dom q.page p .t1 f) true f

/-- PAGE_MOVE: the migration engine's next move of a page of a domain: out of a vault or a channel that is being taken,
in ascending page number, or the promotion at the head of the queue (R47, R83-R85, R547). -/
def execPageMove (dom : Fin 16) (page : BitVec 32) (s : State) : Outcome :=
  match (leavingVault s dom).head? with
  | some (k, p) =>
    if k = page.toNat then
      match evacuate s dom k p with
      | some s => .next (prepareTick s)
      | none => notNow "PAGE_MOVE"
    else notNow "PAGE_MOVE"
  | none =>
    match (leavingChan s dom).head? with
    | some (k, p) =>
      if k = page.toNat then
        match chanFrame s dom k true with
        | some f => .next (movePage s dom k p .t2 f)
        | none => .next (farFull s dom)
      else notNow "PAGE_MOVE"
    | none =>
      match s.mig.promos with
      | [] => notNow "PAGE_MOVE"
      | q :: _ => if q.dom = dom.val ∧ q.page = page.toNat then .next (runPromotion s q) else notNow "PAGE_MOVE"

/-- PAGE_FRAME_FREE: no read is outstanding against the old frame of a moved page (R84 step 5). -/
def execPageFrameFree (frame : BitVec 36) (s : State) : Outcome :=
  if s.mig.olds.any (fun o => o.frame == frame.toNat) && !(frameRead s frame.toNat) then
    .next (prepareTick { s with mig := { s.mig with olds := s.mig.olds.filter (fun o => o.frame != frame.toNat) } })
  else notNow "PAGE_FRAME_FREE"

/-- UNMAP_FRAME_FREE: the tasks that were running when a page was unmapped have ended (R87). -/
def execUnmapFrameFree (dom : Fin 16) (page : BitVec 32) (s : State) : Outcome :=
  let done := fun (u : Unmapping) => u.dom == dom.val && u.page == page.toNat && u.tags.isEmpty
  if s.mig.unmaps.any done then
    .next (prepareTick { s with mig := { s.mig with unmaps := s.mig.unmaps.filter (fun u => !(done u)) } })
  else notNow "UNMAP_FRAME_FREE"

/-! ### SEAL, PROMOTE, DEMOTE (R86-R88) -/

/-- Tasks that have started and write into a page range. -/
def writersOf (s : State) (d va n : Nat) : List Nat :=
  (s.tasks.filter (fun t => t.desc.domain == d && hasEntered t &&
    (outRanges t).any (fun o => overlaps o (va, n * pageSize)))).map (·.tag)

def doSeal (src : Src) (va n : Nat) (s : State) : State :=
  ringCmd src 0x22 setupStates (fun d s =>
    if (memRec s d).split then refuse src .modeMismatch s
    else if !(pageRangeOk va n) then refuse src .rangeBad s
    else if (pagesOf va n).any (fun k => (pageAt s d k).isNone) then refuse src .unmapped s
    else
      let tags := writersOf s d va n
      let s := (pagesOf va n).foldl (fun s k => match pageAt s d k with
        | none => s
        | some p => setPage s d k (some { p with sealed := true })) s
      if tags.isEmpty then succeed src s
      else { s with mig := { s.mig with seals := s.mig.seals ++ [⟨d, va / pageSize, n, tags, src⟩] } }) s

/-- SEAL_COMPLETE: every task that wrote into the range of a domain's SEAL has committed or ended (R87). -/
def execSealComplete (dom : Fin 16) (page : BitVec 32) (s : State) : Outcome :=
  let done := fun (q : Sealing) => q.dom == dom.val && q.first == page.toNat && q.tags.isEmpty
  match s.mig.seals.find? done with
  | none => notNow "SEAL_COMPLETE"
  | some q =>
    .next (succeed q.src { s with mig := { s.mig with seals := s.mig.seals.eraseP done } })

/-- The page needs a new T1 frame under a PROMOTE (R88). -/
def needsFrame (a : VaultArg) (p : Page) : Bool :=
  p.tier != .t1 || (match a with | .named v => p.frame / 16384 != v | .default => false | .bad => false | .shut => false)

/-- Bring one page into T1, drop its lagoon copies, then clear SEALED (R87). -/
def promoteOne (s : State) (d k : Nat) (a : VaultArg) (p : Page) : Except Status State :=
  let openUp := fun (s : State) => match pageAt s d k with
    | none => s
    | some q => setPage (dropLagoon (dropLagoon s d p) d q) d k (some { q with sealed := false })
  if needsFrame a p then
    match frameFor s d a with
    | none => .error .nearFull
    | some f =>
      let s := movePage s d k p .t1 f
      .ok (openUp (if p.tier = .t1 then s else countMove s true f))
  else .ok (openUp s)

/-- Promote the pages of a range in ascending order. -/
def promoteAll (d : Nat) (a : VaultArg) : List Nat → State → Except Status State
  | [], s => .ok s
  | k :: t, s => match pageAt s d k with
    | none => .error .unmapped
    | some p => match promoteOne s d k a p with
      | .error e => .error e
      | .ok s => promoteAll d a t s

def doPromote (src : Src) (va n vault : Nat) (s : State) : State :=
  ringCmd src 0x23 setupStates (fun d s =>
    let ks := pagesOf va n
    let a := vaultArg s d vault
    if !(vaultField vault) then refuse src .commandBad s
    else if (memRec s d).split then refuse src .modeMismatch s
    else if !(pageRangeOk va n) then refuse src .rangeBad s
    else if ks.any (fun k => (pageAt s d k).isNone) then refuse src .unmapped s
    else if a = .bad then refuse src .rangeBad s
    else if a = .shut then refuse src .nearFull s
    else
      let need := (ks.filter (fun k => match pageAt s d k with | some p => needsFrame a p | none => false)).length
      finish src s (match roomFor s d (vaultsFor s d a) ks need with
        | .error e => .error e
        | .ok s => promoteAll d a ks s)) s

/-- A page that goes to T2 while its heat is at P or above is not queued for promotion before its heat has been below P (the
case that follows R89). -/
def barPage (d k : Nat) (p : Page) (s : State) : State :=
  let pt := (memRec s d).promoteT
  if pt ≠ 0 ∧ pt ≤ p.heat then { s with mig := { s.mig with barred := (d, k) :: s.mig.barred } } else s

/-- Demote the T1 pages of a range. -/
def demoteAll (d : Nat) : List Nat → State → Except Status State
  | [], s => .ok s
  | k :: t, s => match pageAt s d k with
    | none => .error .unmapped
    | some p =>
      if p.tier = .t1 then
        match demotePage s d k p with
        | none => .error .farFull
        | some s => demoteAll d t (barPage d k p s)
      else demoteAll d t s

def doDemote (src : Src) (va n : Nat) (s : State) : State :=
  ringCmd src 0x24 setupStates (fun d s =>
    let ks := pagesOf va n
    if (memRec s d).split then refuse src .modeMismatch s
    else if !(pageRangeOk va n) then refuse src .rangeBad s
    else if ks.any (fun k => (pageAt s d k).isNone) then refuse src .unmapped s
    else if ks.any (fun k => match pageAt s d k with | some p => p.tier == .t1 && !p.sealed | none => false) then
      refuse src .notSealed s
    else prepareTick (finish src s (demoteAll d ks s))) s

/-! ### COPY in split mode (R80, R87) -/

/-- Bytes for host memory: what a poisoned byte gives is free. -/
def hostOf (s : State) (data : List MByte) : List Byte :=
  data.zipIdx.map (fun (b, i) => if b.2 then Config.freeByte s.free i else b.1)

/-- Write a split-mode range, HOST included. -/
def splitWrite (s : State) (d va : Nat) (data : List MByte) : State :=
  (piecesOf va data.length).foldl (fun s (a, m) =>
    let part := (data.drop (a - va)).take m
    match xlat s d none a with
    | .ok p => if p.tier = .t3 then { s with host := hostWrite s.host p.addr (hostOf s part) } else dramWrite s p.addr part
    | .error _ => s) s

/-- COPY: a whole range is read, then written; poison marks travel with the data (R70). -/
def doCopy (src : Src) (from_ to_ n : Nat) (s : State) : State :=
  ringCmd src 0x25 setupStates (fun d s =>
    if !((memRec s d).split) then refuse src .modeMismatch s
    else if (vaFault s d none from_ n).isSome || (vaFault s d none to_ n).isSome then refuse src .rangeBad s
    else
      let s := (piecesOf from_ n).foldl (fun s (a, m) => match xlat s d none a with
        | .ok p => if p.tier = .t3 then s else touch s p.addr m
        | .error _ => s) s
      let data := undefOver s (pendingRanges s d) from_ (vaBytes s d none from_ n)
      let s := keepStaged s d to_ n
      let s := if anyMark data then takeFree (splitWrite s d to_ data) else splitWrite s d to_ data
      succeed src s) s

/-! ### Heat, occupancy, lower tiers (R82, R83, R85, R90, R91) -/

/-- HEAT_HALVING: a whole millisecond of the module time base has passed; every heat counter is halved (R82), but for the time
of a reset (R105). -/
def execHeatHalving (s : State) : Outcome :=
  if s.mig.heatMs < s.now / 1000000 ∧ s.pow.restore.isNone then
    .next { s with
      mig := { s.mig with
        heatMs := s.mig.heatMs + 1
        barred := s.mig.barred.filter (fun (b : Nat × Nat) => match pageAt s b.1 b.2 with
          | some p => decide ((memRec s b.1).promoteT ≤ p.heat / 2)
          | none => false) }
      doms := sparseMap {} s.doms (fun d =>
        { d with pages := sparseMap none d.pages (fun p => p.map (fun q => { q with heat := q.heat / 2 })) }) }
  else notNow "HEAT_HALVING"

/-- The vault lies above a percentage. -/
def above (s : State) (v pct : Nat) : Bool := decide (pct * 16384 < vaultPages s v * 100)

/-- A demotion by occupancy is due in a vault: above H, or on the way down to H − 5 (R83). -/
def demoteDue (s : State) (v d : Nat) : Bool :=
  let h := (memRec s d).highWater
  h != 0 && (above s v h || ((vaultAt s v).demoting && above s v (h - 5)))

/-- OCCUPANCY_DEMOTION: the next sealed page of a crowded vault goes to T2 (R83, R85). -/
def execOccupancyDemotion (v : Fin 256) (s : State) : Outcome :=
  match (islRec s v).owner with
  | none => notNow "OCCUPANCY_DEMOTION"
  | some d =>
    if demoteDue s v d then
      match nextDemote s d [v.val] with
      | none => notNow "OCCUPANCY_DEMOTION"
      | some (k, p) => match demotePage s d k p with
        | none => .next (farFull s d)
        | some s1 => .next (prepareTick (modVault s1 v (fun x => { x with demoting := above s1 v ((memRec s d).highWater - 5) })))
    else notNow "OCCUPANCY_DEMOTION"

/-- Demotion, or a move off a channel, stands still for lack of T2 frames (R85, R547). -/
def farStalled (s : State) (d : Nat) : Bool :=
  (ownedIslands s d).any (fun v => demoteDue s v d && (match nextDemote s d [v] with
    | some (k, _) => (chanFrame s d k false).isNone
    | none => false)) ||
  (match (leavingChan s d).head? with | some (k, _) => (chanFrame s d k true).isNone | none => false)

/-- FAR_FULL_LOG: while T2 has no frame for the domain, FAR_FULL is logged once per millisecond (R85, R547). -/
def execFarFullLog (dom : Fin 16) (s : State) : Outcome :=
  let due := match s.mig.farLogAt with | some t => decide (t + 1000000 ≤ s.now) | none => true
  if farStalled s dom && due then .next (farFull s dom) else notNow "FAR_FULL_LOG"

/-- The 50 µs of a read have run out (R90). -/
def readExpired (s : State) (r : LowRead) : Bool := decide (r.t0 + 50000 ≤ s.now)

/-- LOWER_TIER_TIMEOUT: a read of the island's task has stood for 50 µs (R90). -/
def execLowerTierTimeout (i : Fin 256) (s : State) : Outcome :=
  match taskAt s i with
  | none => notNow "LOWER_TIER_TIMEOUT"
  | some t =>
    match s.mig.reads.find? (fun r => r.island == i.val && r.tag == t.tag && r.live && !r.served && readExpired s r) with
    | some r => .next (endTask s t .lowerTierTimeout (some r.pc))
    | none => notNow "LOWER_TIER_TIMEOUT"

/-- LOWER_TIER_DATA_ARRIVE: a line of T2 or T3 reaches an atoll; it fills the lagoon and serves the requesters whose 50 µs
have not run out (R90, R91). -/
def execLowerTierDataArrive (atoll : Fin 4) (line : BitVec 64) (s : State) : Outcome :=
  let mine := fun (r : LowRead) => r.island / 64 == atoll.val && r.line == line.toNat && !r.served
  let l := s.mig.reads.filter mine
  if l.isEmpty then notNow "LOWER_TIER_DATA_ARRIVE"
  else
    let s := ((l.map (·.dom)).eraseDups).foldl (fun s d => fillLine atoll d false s line.toNat) s
    .next { s with mig := { s.mig with
      reads := (s.mig.reads.filter (fun r => r.live || !(mine r))).map (fun r =>
        if mine r && !(readExpired s r) then { r with served := true } else r) } }

end Sys2Proof.Machine
end

