-- ==== Sys2Proof/Machine/Stream.lean ====
section
/-!
DEFINITION. What the encoder works from (R313, R314, R318-R340): geometry, quantisers, tools and signalling of a stream,
source superblocks with their padding, the search aperture, and the parts that open a frame.
-/
namespace Sys2Proof.Machine

/-! ### Geometry (R313, R324) -/

def sbCols (c : EncCfg) : Nat := ceilDiv c.width 64
def sbRows (c : EncCfg) : Nat := ceilDiv c.height 64

/-- The 16 × 16 blocks of a picture, across and down (R308, R328). -/
def mapCols (c : EncCfg) : Nat := ceilDiv c.width 16
def mapRows (c : EncCfg) : Nat := ceilDiv c.height 16

/-- Bytes of a sample in memory (R320). -/
def sampleBytes (c : EncCfg) : Nat := if c.bit10 then 2 else 1

/-- The slices or tiles of a unit across the picture: one, or one for each of the gang's pipelines in uniform tile columns
(R324). -/
def unitParts (c : EncCfg) (g : Nat) : List (Nat × Nat) :=
  if c.premium && !c.wpp then (List.range g).map (fun i => (i * sbCols c / g, (i + 1) * sbCols c / g)) else [(0, sbCols c)]

/-- The pipelines of the gang that code a unit: the one of its row under WPP, else one for each part in turn (R324). -/
def unitPipes (c : EncCfg) (g row : Nat) : List Nat := if c.wpp then [row % g] else List.range (unitParts c g).length

/-- Superblocks by which a row's coding lags the row above (R324). -/
def unitLag (c : EncCfg) : Nat := if c.wpp then 2 else 0

/-! ### Quantisers (R318, R331, R333) -/

def clampInt (lo hi x : Int) : Int := max lo (min hi x)

/-- qindex of a QP (R318). -/
def qIndex (q : Int) : Int := min 255 (5 * q)

/-- A QP in the units of the standard. -/
def quantOf (c : EncCfg) (q : Int) : Int := if c.hevc then q else qIndex q

/-- Maximum QP (R333). -/
def maxQuant (c : EncCfg) : Int := if c.hevc then 51 else 255

/-- The AV1 segment of a map delta (R331). -/
def altSeg (d : Int) : Nat := (clampInt 0 7 ((d + 4) / 8 + 4)).toNat

/-- The quantiser of a block whose unit has a QP, under a map delta (R331). -/
def blockQuant (c : EncCfg) (q d : Int) : Int :=
  if c.hevc then clampInt c.qpMin c.qpMax (q + d)
  else clampInt (qIndex c.qpMin) (qIndex c.qpMax) (qIndex q + 32 * ((altSeg d : Int) - 4))

/-- A unit's QP: the rate control's, within QP_MIN and QP_MAX (R333). -/
def unitQp (past : List UnitIn) (p : PicIn) (u : Nat) : Int := clampInt p.cfg.qpMin p.cfg.qpMax (Config.rateQp past p u)

/-! ### Tools and signalling (R314, R320, R323, R332, R338) -/

def av1Tools : List CodTool :=
  [.superblock64, .partitionNone, .partitionHorz, .partitionVert, .partitionSplit8, .intraDc, .intraDirectional,
   .intraSmooth, .intraPaeth, .intraCfl, .singleReference, .compoundAverage, .nearestMv, .nearMv, .newMv,
   .globalMvIdentity, .quarterSample, .eightTapRegular, .dctAdst4To32, .dct64, .segmentationAltQ, .deblocking, .cdef,
   .wienerRestoration, .tileColumns]

def hevcTools : List CodTool :=
  [.ctu64, .cu8To64, .tu4To32, .intra35, .pPictures, .bPictures, .merge, .amvp, .tmvp, .quarterSample, .cuQpDelta16,
   .signDataHiding, .transformSkip4, .deblocking, .sao, .independentSlices, .longTermReferences, .accessUnitDelimiters,
   .fillerData, .bufferingPeriodSei, .pictureTimingSei]

/-- The tools of a channel: HEVC's tiles or WPP are for premium channels only (R314). -/
def toolsOf (c : EncCfg) : List CodTool :=
  if c.hevc then hevcTools ++ (if c.premium then [if c.wpp then .wavefront else .tileColumns] else []) else av1Tools

def profileOf (c : EncCfg) : Profile := if c.hevc then (if c.bit10 then .hevcMain10 else .hevcMain) else .av1Main

/-- What the stream of a channel signals of itself (R314, R320, R332). -/
def seqOf (c : EncCfg) : SeqIn :=
  { profile := profileOf c, tier := c.tier, level := c.level, width := c.width, height := c.height,
    codedWidth := 64 * sbCols c, codedHeight := 64 * sbRows c,
    hrd := ⟨c.cbr, c.bitrate, c.buffer, c.init, c.fpsDen, c.fpsNum⟩, tools := toolsOf c }

/-- The lowest AV1 reference slot that no held buffer but `i` occupies (R338). -/
def slotFor (bufs : List RefBuf) (i : Nat) : Nat :=
  let held := (bufs.zipIdx.filter (fun (b, j) => b.mark != 0 && j != i)).map (fun (b, _) => b.slot)
  ((List.range (held.length + 1)).find? (fun k => !(held.contains k))).getD 0

/-- A picture: its references, and the marks as it signals them (R327, R338-R340). -/
def picOf (c : EncCfg) (n : Nat) (key : Bool) (refs : List Nat) (bufs : List RefBuf) (store : Option Nat) (slot : Nat) :
    PicIn :=
  let frames := fun (p : Nat → Bool) => if key then [] else (bufs.filter (fun b => p b.mark)).map (·.frame)
  { cfg := c, seq := seqOf c, number := n,
    kind := if key then .key else if refs.length = 2 then .pair else .single,
    nal := if key then .idrNLp else if store.isNone then .trailN else .trailR,
    shortSet := frames (· == 1), longSet := frames (2 ≤ ·),
    refresh := match store with | none => 0 | some _ => 2 ^ slot,
    refs := refs.map (fun i => (bufs.getD i {}).frame) }

/-- The parts that open a frame, in order (R323). -/
def openingOf (p : PicIn) : List StreamItem :=
  let key := p.kind == .key
  if p.cfg.hevc then [.aud] ++ (if key then [.vps, .sps, .pps, .bufferingPeriod] else []) ++ [.pictureTiming]
  else [.temporalDelimiter] ++ (if key then [.sequenceHeader] else []) ++ [.frameHeader]

/-- The parts that count as parameter sets or sequence header (R334). -/
def isParams : StreamItem → Bool
  | .vps | .sps | .pps | .sequenceHeader => true
  | .aud | .bufferingPeriod | .pictureTiming | .temporalDelimiter | .frameHeader => false

/-- The bytes of the opening parts: at most `h` bytes of header and `p` of parameter sets (R334). -/
def itemsOf (past : List UnitIn) (pic : PicIn) : List StreamItem → Nat → Nat → List Byte
  | [], _, _ => []
  | it :: rest, h, p =>
    let b := (Config.itemBytes past pic it).take (if isParams it then p else h)
    b ++ (if isParams it then itemsOf past pic rest h (p - b.length) else itemsOf past pic rest (h - b.length) p)

/-- What opens a frame: header of at most 2,048 bits, parameter sets of at most 4,096 (R334). -/
def headOf (past : List UnitIn) (pic : PicIn) : List Byte := itemsOf past pic (openingOf pic) 256 512

/-! ### Source samples (R320) -/

/-- A list to a length, its last entry repeated: edge replication (R320). -/
def padEdge {α : Type} (n : Nat) (z : α) (l : List α) : List α := l ++ List.replicate (n - l.length) (l.getLastD z)

/-- Rows of bytes as a plane of samples of `k` bytes, padded by edge replication. -/
def planeOf (k w h : Nat) (rows : List (List Byte)) : List Nat :=
  (padEdge h [] (rows.map (fun r => padEdge w 0 ((chunksOf k r.length r).map leOf)))).flatten

/-- The luma rows of a superblock in the source frame, then its chroma rows (R320). -/
def sbRanges (c : EncCfg) (q : CodReq) (col row : Nat) : List (Nat × Nat) × List (Nat × Nat) :=
  let p := sampleBytes c
  let w := min 64 (c.width - 64 * col) * p
  let h := min 64 (c.height - 64 * row)
  ((List.range h).map (fun i => (q.luma + (64 * row + i) * q.pitch + 64 * col * p, w)),
   (List.range (h / 2)).map (fun i => (q.chroma + (32 * row + i) * q.pitch + 64 * col * p, w)))

/-- Read ranges one by one: latent errors are met; the bytes of each, or none where a beat is poisoned or has no page. -/
def fetchRows (s : State) (d : Nat) (rs : List (Nat × Nat)) : State × List (Option (List Byte)) :=
  rs.foldl (fun (acc : State × List (Option (List Byte))) r => match vaFetch acc.1 d r.1 r.2 with
    | (s, .ok b) => (s, acc.2 ++ [some b])
    | (s, .error _) => (s, acc.2 ++ [none])) (s, [])

/-- A late beat lies in some of the ranges. -/
def lateIn (late : List Nat) (rs : List (Nat × Nat)) : Bool :=
  late.any (fun a => rs.any (fun r => overlaps (a / 64 * 64, 64) r))

/-- A superblock as it comes from the source: column, row, its samples; none of them when it needed a beat that is
poisoned or late; and which of the two it was (R322). -/
structure SbSource where
  col : Nat
  row : Nat
  luma : List Nat
  chroma : List Nat
  poisoned : Bool
  late : Bool
  deriving DecidableEq, Repr

/-- Read a superblock of the source (R320, R322). -/
def fetchSb (s : State) (d : Nat) (c : EncCfg) (q : CodReq) (late : List Nat) (col row : Nat) : State × SbSource :=
  let (lr, cr) := sbRanges c q col row
  let (s, l) := fetchRows s d lr
  let (s, k) := fetchRows s d cr
  let p := (l ++ k).any (·.isNone)
  let t := lateIn late (lr ++ cr)
  let rows := fun (x : List (Option (List Byte))) => if p || t then [] else x.filterMap id
  (s, ⟨col, row, planeOf (sampleBytes c) 64 64 (rows l), planeOf (2 * sampleBytes c) 32 32 (rows k), p, t⟩)

/-- Read the superblocks of a unit, row by row. -/
def fetchUnit (s : State) (d : Nat) (c : EncCfg) (q : CodReq) (late : List Nat) (r0 r1 : Nat) : State × List SbSource :=
  ((List.range (r1 - r0)).flatMap (fun r => (List.range (sbCols c)).map (fun k => (k, r0 + r)))).foldl
    (fun (acc : State × List SbSource) e =>
      let (s, b) := fetchSb acc.1 d c q late e.1 e.2
      (s, acc.2 ++ [b])) (s, [])

/-! ### The search aperture (R326) -/

/-- The aperture around a superblock: luma at displacements of up to 512 and 192 samples with a margin of 8. From one
superblock of a row to the next it gains one superblock column and loses one. A vector beyond it is never evaluated, since
the coding of a superblock is a function of the samples held here. Samples outside the picture are its edge's. -/
def apertureOf (c : EncCfg) (ref : List Byte) (col row : Nat) : Aperture :=
  let x0 : Int := 64 * col - 520
  let y0 : Int := 64 * row - 200
  let px := fun (chroma : Bool) (x y : Int) =>
    let w := if chroma then c.width / 2 else c.width
    let h := if chroma then c.height / 2 else c.height
    Config.reconSample c ref chroma (clampInt 0 (w - 1) x).toNat (clampInt 0 (h - 1) y).toNat
  let grid := fun (chroma : Bool) (x0 y0 : Int) (w h : Nat) =>
    (List.range h).flatMap (fun (j : Nat) => (List.range w).map (fun (i : Nat) => px chroma (x0 + i) (y0 + j)))
  ⟨x0, y0, 1104, 464, grid false x0 y0 1104 464, grid true (x0 / 2) (y0 / 2) 552 232⟩

/-! ### A unit as it is coded (R322, R324, R329, R331, R333) -/

/-- The map delta of a picture's 16 × 16 block: zero without a map and outside the picture (R331). -/
def deltaAt (c : EncCfg) (deltas : List Int) (bx byy : Nat) : Int :=
  if bx < mapCols c then deltas.getD (byy * mapCols c + bx) 0 else 0

/-- The 16 blocks of a superblock in raster order. -/
def sbBlocks (col row : Nat) : List (Nat × Nat) := (List.range 16).map (fun i => (4 * col + i % 4, 4 * row + i / 4))

/-- A superblock coded in a mode: its quantisers, segments and candidates. At maximum QP the map is ignored (R331). -/
def sbIn (f : FrameRun) (qp : Int) (apers : List Aperture) (mode : SbMode) (x : SbSource) : SbIn :=
  let c := f.pic.cfg
  let ds := (sbBlocks x.col x.row).map (fun (bx, byy) => deltaAt c f.deltas bx byy)
  { col := x.col, row := x.row, mode := mode,
    quant := match mode with
      | .normal => ds.map (blockQuant c qp) | .maxQp => List.replicate 16 (maxQuant c) | .skip => [] | .dc => [],
    segs := match mode with
      | .normal => if c.hevc then [] else ds.map altSeg | .maxQp => [] | .skip => [] | .dc => [],
    cands := f.cands.filter (fun e => (sbBlocks x.col x.row).any (fun (bx, byy) =>
      decide (bx < mapCols c) && e.1 == byy * mapCols c + bx)),
    luma := x.luma, chroma := x.chroma, aper := apers }

/-- Forced minimal coding of a picture's kind (R333). -/
def minimalMode (p : PicIn) : SbMode := if p.kind = .key then .dc else .skip

/-- A unit of a frame, its superblocks coded in a mode but for those that lost a beat, which are given forced minimal
coding (R322, R333). `refs` are the bytes of the frame's reference buffers. -/
def unitIn (f : FrameRun) (past : List UnitIn) (g h : Nat) (refs : List (List Byte)) (sbs : List SbSource) (mode : SbMode) :
    UnitIn :=
  let c := f.pic.cfg
  let qp := unitQp past f.pic f.unit
  { pic := f.pic, index := f.unit, row0 := f.unit * h, row1 := min ((f.unit + 1) * h) (sbRows c), parts := unitParts c g,
    pipes := unitPipes c g (f.unit * h), lag := unitLag c,
    sbs := sbs.map (fun x => sbIn f qp (refs.map (fun r => apertureOf c r x.col x.row))
      (if x.poisoned || x.late then minimalMode f.pic else mode) x) }

end Sys2Proof.Machine
end

