-- ==== Sys2Proof/Machine/Codec.lean ====
section
/-!
DEFINITION. The video codec cluster: slots, channels, frames, emission units under the buffer model, reference marks,
decoding and closing (R312-R351).
-/
namespace Sys2Proof.Machine

def codAt (s : State) (c : Nat) : CodChan := sparseGet {} s.codec.chans c
def setCod (s : State) (c : Nat) (x : CodChan) : State :=
  { s with codec := { s.codec with chans := sparseSet {} s.codec.chans c x } }
def modCod (s : State) (c : Nat) (f : CodChan → CodChan) : State := setCod s c (f (codAt s c))

/-- Encode channels are numbered below 32 (R317). -/
def isEnc (c : Nat) : Bool := decide (c < 32)

/-! ### Slots (R312, R313, R315) -/

/-- The slots that a channel needs (R313). -/
def slotsFor (w h num den : Nat) : Nat := ceilDiv (ceilDiv w 64 * ceilDiv h 64 * num) (den * 30600)

/-- The open channels of a kind, ascending. -/
def openChansOf (s : State) (enc : Bool) : List (Nat × CodChan) :=
  s.codec.chans.filter (fun (e : Nat × CodChan) => decide (e.2.st ≠ .closed) && isEnc e.1 == enc)

/-- Slots that a domain's open ordinary channels hold on a pipeline. -/
def slotsHeld (s : State) (d pipe : Nat) (enc : Bool) : Nat :=
  (((openChansOf s enc).filter (fun (e : Nat × CodChan) =>
    e.2.dom == d && e.2.pipe == pipe && !e.2.cfg.premium)).map (fun (e : Nat × CodChan) => e.2.slots)).sum

/-- Slots that open channels hold on a pipeline of a kind. A premium channel's slots are spread over its gang's pipelines as
evenly as they go, lower pipelines first: R313 gives the bound of 4 alone (DESIGN CHOICE, log). -/
def slotsInUse (s : State) (pipe : Nat) (enc : Bool) : Nat :=
  ((List.range 16).map (fun d => slotsHeld s d pipe enc)).sum +
    (((openChansOf s enc).filter (fun (e : Nat × CodChan) => e.2.cfg.premium)).map (fun (e : Nat × CodChan) =>
      match s.conf.video.gangs.getD e.2.cfg.gang none with
      | none => 0
      | some (_, p) =>
        let l := bitsSet 8 p
        match firstIdx (· == pipe) l with
        | none => 0
        | some i => (e.2.slots + (l.length - 1 - i)) / l.length)).sum

/-- Slots that an allocation gives a domain on a pipeline. -/
def slotsGiven (v : Video) (d pipe : Nat) (enc : Bool) : Nat := (sparseGet [] (if enc then v.enc else v.dec) d).getD pipe 0

/-- The lowest pipeline on which a domain has `n` slots free. -/
def pipeFor (s : State) (d n : Nat) (enc : Bool) : Option Nat :=
  (List.range (if enc then 8 else 4)).find? (fun p =>
    decide (slotsHeld s d p enc + n ≤ slotsGiven s.conf.video d p enc))

/-- Pipelines of a valid gang that a domain owns. -/
def gangPipes (v : Video) (d g : Nat) : Option Nat :=
  match v.gangs.getD g none with
  | some (o, p) => if o = d then some p else none
  | none => none

/-- A channel's slots no longer lie within an allocation: its gang has gone, or the channels of its domain on its
pipeline, taken in ascending number up to this one, need more than is given (R316). -/
def revoked (s : State) (v : Video) (c : Nat) : Bool :=
  let x := codAt s c
  if x.st = .closed then false
  else if x.cfg.premium then decide (gangPipes v x.dom x.cfg.gang ≠ gangPipes s.conf.video x.dom x.cfg.gang)
  else
    let mine := (openChansOf s (isEnc c)).filter (fun (e : Nat × CodChan) =>
      e.2.dom == x.dom && e.2.pipe == x.pipe && !e.2.cfg.premium && decide (e.1 ≤ c))
    decide (slotsGiven v x.dom x.pipe (isEnc c) < (mine.map (fun (e : Nat × CodChan) => e.2.slots)).sum)

/-! ### Units and the buffer model (R324, R332-R337) -/

/-- Pipelines of a channel: those of its gang, else one. -/
def gangWidth (v : Video) (d : Nat) (c : EncCfg) : Nat :=
  if c.premium then match gangPipes v d c.gang with | some p => (bitsSet 8 p).length | none => 1 else 1

/-- MaxTiles of an AV1 level: the spec's examples give three (R324). -/
def maxTiles : Nat → Nat
  | 41 => 32 | 52 => 64 | 61 => 128 | l => Config.av1MaxTiles l

/-- Superblock rows of an emission unit (R324). -/
def unitRows (c : EncCfg) (g : Nat) : Nat :=
  if c.hevc then 1
  else (((List.range (sbRows c)).map (· + 1)).find? (fun h => decide (ceilDiv (sbRows c) h * g ≤ maxTiles c.level))).getD
    (max 1 (sbRows c))

/-- Units of a frame. -/
def unitCount (c : EncCfg) (g : Nat) : Nat := ceilDiv (sbRows c) (unitRows c g)

/-- The bound of forced minimal coding for a unit, in bits (R334). -/
def minUnit (c : EncCfg) (g : Nat) (key : Bool) : Nat := sbCols c * unitRows c g * (if key then 64 else 16) + 256

/-- FRAME_MIN of a key frame (R335). -/
def frameMinKey (c : EncCfg) (g : Nat) : Nat := 6144 + unitCount c g * minUnit c g true

/-- The rate-control feasibility conditions; b is R × FPS_DEN / FPS_NUM (R335). -/
def feasible (c : EncCfg) (g : Nat) : Bool :=
  decide (frameMinKey c g ≤ c.init) && decide (frameMinKey c g * c.fpsNum ≤ c.bitrate * c.fpsDen) &&
  decide (c.init ≤ c.buffer) && decide (c.bitrate * c.fpsDen ≤ c.buffer * c.fpsNum)

/-- Bytes of a reference buffer (R337). -/
def refBytes (c : EncCfg) : Nat :=
  (ceilDiv (sbCols c * sbRows c * 6144 * (if c.bit10 then 2 else 1)) 65536 + 1) * 65536

/-- Reference buffers that the level allows besides the new frame (R339). -/
def refLimit (c : EncCfg) : Nat := if c.hevc then Config.hevcMaxDpb c.level c.width c.height - 1 else 7

/-! ### Records (R342, R435) -/

/-- The KIND 2 record and the KIND 3 record that follows it. -/
def codRecords (s : State) (src : Src) (c : Nat) (st : Status) (wptr bytes unit maxQp minimal flags number : Nat) :
    State :=
  let cq := cqOf s src
  let s := cplDeliver s src.vf cq (cplRecord src.cmd st src.sq 2 c (wptr % 2 ^ 32 + bytes % 2 ^ 24 * 2 ^ 32))
  cplDeliver s src.vf cq (leBytes 2 unit ++ leBytes 2 maxQp ++ leBytes 2 minimal ++ leBytes 1 (src.sq % 8 + 24) ++
    leBytes 1 flags ++ leBytes 8 number)

/-- The records of a queued frame that will not be coded. -/
def codDiscard (st : Status) (c : Nat) (s : State) (q : CodReq) : State :=
  if isEnc c then codRecords s q.src c st (codAt s c).wptr 0 0xFFFF 0 0 0 q.number else complete q.src st 0 s

/-! ### Closing (R316, R317, R345, R346) -/

/-- A channel that has closed: its counts and pointers stay until it opens again. -/
def shut (x : CodChan) : CodChan :=
  { x with st := .closed, dom := 0, pipe := 0, slots := 0, queue := [], frame := none, marks := [], bufs := [],
           forceKey := false, closeSrc := none, coded := [], broken := false, past := [], ahead := [] }

/-- Close a channel at a frame boundary: its queue completes with a status, an ENC_CLOSE or DEC_CLOSE that waits with
success, and MARK and ACK commands that wait find it closed. -/
def closeChan (s : State) (c : Nat) (st : Status) : State :=
  let x := codAt s c
  let s := x.queue.foldl (codDiscard st c) s
  let s := x.marks.foldl (fun s m => complete m.src .channelClosed 0 s) s
  let s := match x.closeSrc with | some src => succeed src s | none => s
  setCod s c (shut x)

/-- Close a channel at once, with its event and no records (R346, R455). -/
def dropChan (s : State) (c : Nat) : State :=
  let x := codAt s c
  if x.st = .closed then s
  else raise (0x180 + c) (setCod s c (shut x))

/-- Drop every channel of a domain, with the signals that wait for records of its VF. -/
def dropChansOf (s : State) (d : Nat) : State :=
  let s := { s with codec := { s.codec with sigs := s.codec.sigs.filter (fun g => decide (vfOfDom s d ≠ some g.vf)) } }
  (List.range 48).foldl (fun s c => if (codAt s c).dom = d then dropChan s c else s) s

/-- A frame boundary of a channel that is to close: after ENC_CLOSE, or when its domain drains and its queue is empty
(R317, R443). -/
def settleChan (s : State) (c : Nat) : State :=
  let x := codAt s c
  let idle := x.frame.isNone && (isEnc c || x.queue.isEmpty)
  if x.st = .closing ∧ idle then closeChan s c .channelClosed
  else if x.st = .open_ ∧ idle ∧ x.queue.isEmpty ∧ (domAt s x.dom).st = .draining then closeChan s c .channelClosed
  else s

/-- The channels of a domain that DRAIN finds at a boundary close (R443). -/
def settleChansOf (s : State) (d : Nat) : State :=
  (List.range 48).foldl (fun s c => if (codAt s c).dom = d then settleChan s c else s) s

/-- An allocation that takes a channel's slots awaits the channel's frame boundary (R316). -/
def leaving (s : State) (c : Nat) : Bool :=
  match s.img.cur with
  | none => false
  | some g => decide (g.phase ≠ .prepare) && revoked s g.target.video c

/-- VIDEO_ALLOC_APPLY: at its frame boundary a channel whose slots leave its domain closes (R45, R316). -/
def execVideoAllocApply (c : Fin 48) (s : State) : Outcome :=
  match s.img.cur with
  | none => notNow "VIDEO_ALLOC_APPLY"
  | some _ =>
    if leaving s c ∧ (codAt s c).frame.isNone then
      .next (raise (0x180 + c) (closeChan (logE 1 .channelRevoked (some (0x180 + c)) (codAt s c).dom [] s) c .channelRevoked))
    else notNow "VIDEO_ALLOC_APPLY"

/-! ### ENC_OPEN (R317-R319) -/

/-- A QP byte as two's complement. -/
def qpOf (b : Nat) : Int := signed 8 b

/-- Step 1 of ENC_OPEN: the block, when nothing reserved is set and every field is in range (R318, R319). -/
def readEncCfg (v : Video) (d : Nat) (b : List Byte) : Option EncCfg :=
  let fl := leAt b 1 1
  let c : EncCfg :=
    { hevc := leAt b 0 1 == 1, bit10 := bit fl 0, cbr := bit fl 1, ackOnly := bit fl 2, rowNotify := bit fl 3,
      premium := bit fl 4, wpp := bit fl 5, level := leAt b 2 1, tier := leAt b 3 1, width := leAt b 4 2,
      height := leAt b 6 2, fpsNum := leAt b 8 2, fpsDen := leAt b 0xA 2, bitrate := leAt b 0xC 4, buffer := leAt b 0x10 4,
      init := leAt b 0x14 4, qpMin := qpOf (leAt b 0x18 1), qpMax := qpOf (leAt b 0x19 1), shortMax := leAt b 0x1A 1,
      pool := leAt b 0x1B 1, hintMin := leAt b 0x1C 1, gang := leAt b 0x1D 1, poolVa := leAt b 0x20 8,
      ringAddr := leAt b 0x28 8, ringSize := leAt b 0x30 4 }
  let low : Int := if c.hevc && c.bit10 then -12 else 0
  let ok := decide (leAt b 0 1 < 2) && decide (fl < 64) && decide (c.tier < 2) && (c.hevc || c.tier == 0) &&
    c.width % 8 == 0 && decide (128 ≤ c.width) && decide (c.width ≤ 8192) &&
    c.height % 8 == 0 && decide (128 ≤ c.height) && decide (c.height ≤ 4352) &&
    c.fpsNum != 0 && c.fpsDen != 0 && decide (low ≤ c.qpMin) && decide (c.qpMin ≤ c.qpMax) && decide (c.qpMax ≤ 51) &&
    decide (1 ≤ c.shortMax) && decide (c.shortMax ≤ 8) && decide (2 ≤ c.pool) && decide (c.pool ≤ 16) &&
    (if c.premium then decide (c.gang < 2) && (gangPipes v d c.gang).isSome else c.gang == 0) &&
    (!c.wpp || (c.hevc && c.premium)) && zeroAt b 0x1E 2 && c.poolVa % 65536 == 0 && c.ringAddr % 4096 == 0 &&
    decide (2 ^ 16 ≤ c.ringSize) && decide (c.ringSize ≤ 2 ^ 26) && 2 ^ Nat.log2 c.ringSize == c.ringSize &&
    zeroAt b 0x34 12 && decide (ceilDiv c.buffer 4 ≤ c.ringSize)
  if ok then some c else none

/-- The pool lies in mapped, unsealed T1 pages (R319 step 5). -/
def poolOk (s : State) (d : Nat) (c : EncCfg) : Bool :=
  (piecesOf c.poolVa (c.pool * refBytes c)).all (fun (a, _) => match xlat s d none a with
    | .ok p => p.tier == .t1 && !p.sealed
    | .error _ => false)

/-- Where a channel's slots come from (R319 step 4): a pipeline, or the lowest of its gang. -/
def slotPlace (s : State) (d : Nat) (c : EncCfg) : Option (Nat × Nat) :=
  let n := slotsFor c.width c.height c.fpsNum c.fpsDen
  if c.premium then
    match gangPipes s.conf.video d c.gang with
    | none => none
    | some p =>
      let l := bitsSet 8 p
      if n ≤ 4 * l.length ∧ !((openChansOf s true).any (fun (e : Nat × CodChan) => e.2.cfg.premium && e.2.cfg.gang == c.gang))
      then some (l.headD 0, n) else none
  else if n ≤ 4 then (pipeFor s d n true).map (fun p => (p, n)) else none

/-- The channel that an OPEN takes: the one named, or the lowest closed one for 0xFF. -/
def chanFor (s : State) (c lo n : Nat) : Option Nat :=
  if c = 0xFF then ((List.range n).map (lo + ·)).find? (fun i => decide ((codAt s i).st = .closed))
  else if (codAt s c).st = .closed then some c else none

/-- Checks 2 to 5 of ENC_OPEN: the highest level is 5.1, of a premium channel 6.1 (R313, R314, R319). -/
def encOpenFault (s : State) (d : Nat) (c : EncCfg) : Option Status :=
  let g := gangWidth s.conf.video d c
  if !(Config.levelAdmits c.hevc [c.level, c.tier, c.width, c.height, c.fpsNum, c.fpsDen, c.bitrate, c.buffer]) ||
      decide ((if c.premium then 61 else 51) < c.level) then some .levelExceeded
  else if !(feasible c g) then some .rcInfeasible
  else if (slotPlace s d c).isNone then some .noSlots
  else if !(poolOk s d c) then some .poolBad
  else none

/-- A channel as ENC_OPEN leaves it. -/
def encOpened (d : Nat) (c : EncCfg) (pipe slots : Nat) : CodChan :=
  { st := .open_, dom := d, cfg := c, pipe := pipe, slots := slots, bufs := List.replicate c.pool {},
    full := c.init * c.fpsNum }

def doEncOpen (src : Src) (chan va : Nat) (s : State) : State :=
  ringCmd src 0x40 [.active] (fun d s =>
    if ¬ (chan < 32 ∨ chan = 0xFF) ∨ va % 64 ≠ 0 then refuse src .configBad s
    else match vaFetch s d va 64 with
      | (s, .error e) => refuse src e s
      | (s, .ok b) =>
        match readEncCfg s.conf.video d b with
        | none => refuse src .configBad s
        | some c =>
          match encOpenFault s d c, chanFor s chan 0 32, slotPlace s d c with
          | some e, _, _ => refuse src e s
          | none, some i, some (p, n) => complete src .success i (setCod s i (encOpened d c p n))
          | _, _, _ => refuse src .noSlots s) s

/-! ### Commands on a channel (R317, R321, R338, R341) -/

/-- The channel is open, of this kind, and the domain's (R317). -/
def chanOpen (s : State) (d c : Nat) (enc : Bool) : Bool :=
  decide (c < 48) && isEnc c == enc && decide ((codAt s c).st = .open_) && (codAt s c).dom == d

/-- A 2-byte semaphore name (R173): none when not valid. -/
def semOf (w : Nat) : Option Nat := if bit w 15 then some (w % 2 ^ 14) else none

/-- A semaphore name is well formed and lies in the domain's reef range. -/
def semFine (s : State) (d w : Nat) : Bool :=
  !(bit w 14) && (match semOf w with | some n => semInRange s d n | none => true)

def doEncFrame (src : Src) (chan flags pitch wait signal luma chroma roi hint target inc : Nat) (s : State) : State :=
  ringCmd src 0x41 [.active] (fun d s =>
    let x := codAt s chan
    if 2 ≤ flags then refuse src .commandBad s
    else if !(chanOpen s d chan true) then refuse src .channelClosed s
    else if 8 ≤ x.queue.length then refuse src .queueFull s
    else if pitch % 64 ≠ 0 ∨ !(semFine s d wait) ∨ !(semFine s d signal) ∨ ((semOf signal).isSome ∧ inc = 0) then
      refuse src .configBad s
    else
      let q : CodReq := ⟨src, x.next, bit flags 0, pitch, luma, chroma, roi, hint, semOf wait, target, semOf signal, inc, 0, 0⟩
      setCod s chan { x with queue := x.queue ++ [q], next := x.next + 1 }) s

/-- States that accept commands on open channels (R441). -/
def chanStates : List DomState := [.active, .draining]

def doForceKey (src : Src) (chan : Nat) (s : State) : State :=
  ringCmd src 0x42 chanStates (fun d s =>
    if !(chanOpen s d chan true) then refuse src .channelClosed s
    else succeed src (modCod s chan (fun x => { x with forceKey := true }))) s

/-- Buffers that hold a frame. -/
def heldBufs (bufs : List RefBuf) : Nat := (bufs.filter (fun b => b.mark != 0)).length

/-- Apply one MARK or ACK at a frame boundary: MARK_BAD when no buffer holds the frame or the limit is exceeded; UNUSED on an
UNUSED buffer that held the frame last changes nothing (R338, R339). -/
def applyMark (c : Nat) (s : State) (m : MarkCmd) : State :=
  let x := codAt s c
  match firstIdx (fun (b : RefBuf) => b.mark != 0 && b.frame == m.frame) x.bufs with
  | none =>
    if m.mark = some 0 ∧ x.bufs.any (fun (b : RefBuf) => b.used && b.frame == m.frame) then succeed m.src s
    else complete m.src .markBad 0 s
  | some i =>
    let set := fun (f : RefBuf → RefBuf) => succeed m.src (setCod s c { x with bufs := modAt x.bufs i f })
    match m.mark with
    | none => set (fun b => { b with acked := true })
    | some 0 => set (fun b => { b with mark := 0 })
    | some _ =>
      if refLimit x.cfg < heldBufs x.bufs then complete m.src .markBad 0 s else set (fun b => { b with mark := 2 })

/-- MARK and ACK take effect at once at a frame boundary, else wait for it (R338). -/
def markOrWait (s : State) (c : Nat) (m : MarkCmd) : State :=
  if (codAt s c).frame.isNone then applyMark c s m else modCod s c (fun x => { x with marks := x.marks ++ [m] })

def doMark (src : Src) (chan mark frame : Nat) (s : State) : State :=
  ringCmd src 0x43 chanStates (fun d s =>
    if ¬ (mark = 0 ∨ mark = 2) then refuse src .commandBad s
    else if !(chanOpen s d chan true) then refuse src .channelClosed s
    else markOrWait s chan ⟨src, some mark, frame⟩) s

def doAck (src : Src) (chan frame : Nat) (s : State) : State :=
  ringCmd src 0x44 chanStates (fun d s =>
    if !(chanOpen s d chan true) then refuse src .channelClosed s else markOrWait s chan ⟨src, none, frame⟩) s

/-- ENC_CLOSE: queued frames complete with CHANNEL_CLOSED; the channel closes after the frame in progress (R317). -/
def doEncClose (src : Src) (chan : Nat) (s : State) : State :=
  ringCmd src 0x45 chanStates (fun d s =>
    if !(chanOpen s d chan true) then refuse src .channelClosed s
    else
      let s := (codAt s chan).queue.foldl (codDiscard .channelClosed chan) s
      settleChan (modCod s chan (fun x => { x with queue := [], st := .closing, closeSrc := some src })) chan) s

/-! ### A frame (R320-R340) -/

/-- Some piece of a range lies in T2 or T3, so that it may come late. -/
def lowerTier (s : State) (d : Nat) (rs : List (Nat × Nat)) : Bool :=
  (rs.flatMap (fun r => piecesOf r.1 r.2)).any (fun (a, _) => match xlat s d none a with
    | .ok p => p.tier != .t1
    | .error _ => false)

/-- The bytes of a map or plane that may be used; none when pending, poisoned, unmapped or late. -/
def planeBytes (s : State) (d va n : Nat) (late : Bool) : Option (List Byte) :=
  if rangePending s d (va, n) || (late && lowerTier s d [(va, n)]) then none
  else match vaFetch s d va n with
    | (_, .ok b) => some b
    | (_, .error _) => none

/-- The deltas of a frame's ROI map, block by block; none when the map is not used (R308, R330). -/
def roiDeltas (s : State) (d va n : Nat) (c : EncCfg) (late : Bool) : Option (List Int) :=
  let cols := mapCols c
  let rows := mapRows c
  let pitch := ceilDiv cols 64 * 64
  match planeBytes s d va (64 + rows * pitch) late with
  | none => none
  | some b =>
    if leAt b 0 8 == n && leAt b 8 2 == cols && leAt b 0xA 2 == rows && leAt b 0xC 2 == pitch && zeroAt b 0xE 50 then
      some ((List.range rows).flatMap (fun r => (List.range cols).map (fun k => signed 8 (leAt b (64 + r * pitch + k) 1))))
    else none

/-- The candidate that a hint record gives: its confidence suffices and its reference is one of the frame's `nrefs`; the
vector is clamped into the aperture (R328, R329). -/
def candOf (c : EncCfg) (nrefs : Nat) (b : List Byte) (at_ : Nat) : Option Cand :=
  let r := leAt b (at_ + 4) 1
  if c.hintMin ≤ leAt b (at_ + 5) 1 ∧ r < nrefs then
    some ⟨r, clampInt (-2048) 2048 (signed 16 (leAt b at_ 2)), clampInt (-768) 768 (signed 16 (leAt b (at_ + 2) 2))⟩
  else none

/-- The candidates of a frame's hint plane by block; none when the plane is not used (R328, R329). -/
def hintCands (s : State) (d va n nrefs : Nat) (c : EncCfg) (late : Bool) : Option (List (Nat × Cand)) :=
  let cols := mapCols c
  let rows := mapRows c
  match planeBytes s d va 64 late with
  | none => none
  | some h =>
    let pitch := leAt h 0xC 2
    if !(leAt h 0 8 == n && leAt h 8 2 == cols && leAt h 0xA 2 == rows && pitch % 64 == 0 && decide (8 * cols ≤ pitch) &&
        zeroAt h 0xE 50) then none
    else match planeBytes s d va (64 + rows * pitch) late with
      | none => none
      | some b =>
        let recs := (List.range rows).flatMap (fun r => (List.range cols).map (fun k => (r * cols + k, 64 + r * pitch + 8 * k)))
        if recs.all (fun e => zeroAt b (e.2 + 6) 2) then
          some (recs.filterMap (fun e => (candOf c nrefs b e.2).map (fun v => (e.1, v))))
        else none

/-- The buffer with the lowest frame number among those of a mark. -/
def oldestOf (mark : Nat) (bufs : List RefBuf) : Option Nat :=
  (bufs.zipIdx.filter (fun (b, _) => b.mark == mark)).foldl (fun acc (b, i) =>
    match acc with
    | none => some i
    | some j => if b.frame < (bufs.getD j {}).frame then some i else some j) none

/-- A buffer is eligible as a reference (R340). -/
def eligible (c : EncCfg) (b : RefBuf) : Bool := b.mark == 3 || (b.mark != 0 && (!c.ackOnly || b.acked))

/-- The one or two eligible buffers that hold the highest frame numbers (R340). -/
def refsFor (c : EncCfg) (bufs : List RefBuf) : List Nat :=
  let best := fun (skip : List Nat) => (bufs.zipIdx.filter (fun (b, i) => eligible c b && !(skip.contains i))).foldl
    (fun (acc : Option Nat) (e : RefBuf × Nat) => match acc with
      | none => some e.2
      | some j => if (bufs.getD j {}).frame < e.1.frame then some e.2 else some j) none
  match best [] with
  | none => []
  | some i => match best [i] with | none => [i] | some j => [i, j]

/-- Where a new frame is stored, with the marks after room is made: none for a non-reference frame (R339). -/
def storeFor (c : EncCfg) (bufs : List RefBuf) (key : Bool) : Option Nat × List RefBuf :=
  let held := heldBufs bufs
  match firstIdx (fun (b : RefBuf) => b.mark == 0) bufs with
  | some i => if key || decide (held + 1 ≤ refLimit c + 1 ∧ held ≤ refLimit c) then (some i, bufs) else (none, bufs)
  | none =>
    match oldestOf 1 bufs with
    | some i =>
      let bufs := modAt bufs i (fun b => { b with mark := 0 })
      if key || decide (held - 1 ≤ refLimit c) then (some i, bufs) else (none, bufs)
    | none => if key then (some 0, bufs) else (none, bufs)

/-- Oldest SHORT buffers become UNUSED while SHORTs exceed SHORT_MAX (R338). -/
def trimShort (max : Nat) : Nat → List RefBuf → List RefBuf
  | 0, bufs => bufs
  | fuel + 1, bufs =>
    if max < (bufs.filter (fun b => b.mark == 1)).length then
      match oldestOf 1 bufs with
      | none => bufs
      | some i => trimShort max fuel (modAt bufs i (fun b => { b with mark := 0 }))
    else bufs

/-- The marks after a new frame takes its buffer (R338). -/
def storedMarks (c : EncCfg) (bufs : List RefBuf) (store : Option Nat) (key : Bool) (n : Nat) : List RefBuf :=
  match store with
  | none => bufs
  | some i =>
    let bufs := if key then bufs.map (fun b => { b with mark := 0 }) else bufs
    let bufs := bufs.set i { mark := if key then 3 else 1, frame := n, used := true, slot := slotFor bufs i }
    if key then bufs else trimShort c.shortMax bufs.length bufs

/-- The WAIT condition of a frame holds for a superblock row (R321). -/
def waitMet (s : State) (q : CodReq) (row : Nat) : Bool :=
  match q.wait with
  | none => true
  | some n => decide (q.target + (if q.rowWait then row else 0) ≤ semAt s n)

/-- FRAME_BEGIN: the next queued frame begins: marks that waited, FORCE_KEY, references, ROI map and hint plane; either
may come late from T2 or T3 (R321, R329, R330, R338-R341). A channel whose slots leave its domain begins no frame (R316). -/
def execFrameBegin (c : Fin 32) (roiLate hintLate : Bool) (s : State) : Outcome :=
  let x := codAt s c
  match x.queue with
  | [] => notNow "FRAME_BEGIN"
  | q :: rest =>
    if x.st = .open_ ∧ x.frame.isNone ∧ waitMet s q 0 ∧ !(leaving s c) then
      let refs0 := refsFor x.cfg x.bufs
      let key := x.forceKey || refs0.isEmpty
      let (store, bufs) := storeFor x.cfg x.bufs key
      let marks := storedMarks x.cfg bufs store key q.number
      let refs := if key then [] else refs0
      let roi := if q.roi = 0 then some [] else roiDeltas s x.dom q.roi q.number x.cfg roiLate
      let hint := if q.hint = 0 ∨ x.cfg.hintMin = 0 then some []
        else hintCands s x.dom q.hint q.number refs.length x.cfg hintLate
      let pic := picOf x.cfg q.number key refs x.bufs store (marks.getD (store.getD 0) {}).slot
      let head := headOf x.past pic
      let f : FrameRun := { req := q, key := key, fallback := refs0.isEmpty, store := store, refs := refs,
                            roiSkip := roi.isNone, hintSkip := hint.isNone, head := head, bits := 8 * head.length,
                            pic := pic, deltas := roi.getD [], cands := hint.getD [] }
      .next (setCod s c { x with queue := rest, frame := some f, forceKey := false, bufs := marks })
    else notNow "FRAME_BEGIN"

/-- The source ranges of the superblock rows of a unit: luma rows, then chroma rows (R320). -/
def unitSource (c : EncCfg) (q : CodReq) (r0 r1 : Nat) : List (Nat × Nat) :=
  let w := c.width * (if c.bit10 then 2 else 1)
  let lo := 64 * r0
  let hi := min (64 * r1) c.height
  (List.range (hi - lo)).map (fun i => (q.luma + (lo + i) * q.pitch, w)) ++
  (List.range (hi / 2 - lo / 2)).map (fun i => (q.chroma + (lo / 2 + i) * q.pitch, w))

/-- Put bytes into an output ring in host memory, around its end (R323). -/
def ringPut (m : Sparse Byte) (base size wptr : Nat) (b : List Byte) : Sparse Byte :=
  b.zipIdx.foldl (fun m e => sparseSet 0 m (base + (wptr + e.2) % size) e.1) m

/-- Room in an output ring (R323). -/
def ringRoom (x : CodChan) : Nat := x.cfg.ringSize - (x.wptr + 2 ^ 32 - x.rptr) % 2 ^ 32

/-- Write bytes of the stream. -/
def emitBytes (s : State) (c : Nat) (b : List Byte) : State :=
  let x := codAt s c
  setCod { s with host := ringPut s.host x.cfg.ringAddr x.cfg.ringSize x.wptr b } c
    { x with wptr := wrap32 (x.wptr + b.length) }

/-- The bytes of each reference buffer of a frame (R327, R337). -/
def refBufs (s : State) (x : CodChan) (f : FrameRun) : List (List Byte) :=
  f.refs.map (fun i => plain (vaBytes s x.dom none (x.cfg.poolVa + i * refBytes x.cfg) (refBytes x.cfg)))

/-- A unit as it is coded. -/
structure UnitCode where
  unit : UnitIn
  bytes : List Byte
  maxQp : Bool
  minimal : Bool
  deriving DecidableEq, Repr

/-- The coding that a unit takes under its ceiling: normal, else at maximum QP, else forced minimal, whose cost is bounded
(R333, R334). -/
def unitChoice (past : List UnitIn) (ceil minU : Nat) (at_ : SbMode → UnitIn) (least : SbMode) : UnitCode :=
  let code := fun (m : SbMode) => Config.unitBytes past (at_ m)
  if 8 * (code .normal).length ≤ ceil then ⟨at_ .normal, code .normal, false, false⟩
  else if 8 * (code .maxQp).length ≤ ceil then ⟨at_ .maxQp, code .maxQp, true, false⟩
  else ⟨at_ least, (code least).take (minU / 8), false, true⟩

/-- The ceiling C_u in bits, rounded down: a unit fits it when its bits do (R333). -/
def ceilingOf (x : CodChan) (f : FrameRun) (nu minU : Nat) : Nat :=
  x.full / x.cfg.fpsNum - f.bits - (nu - 1 - f.unit) * minU

/-- The flags of a codec record (R342, R435). -/
def codFlags (f : FrameRun) (filler : Bool) : Nat :=
  b2n f.key + 2 * b2n f.fallback + 4 * b2n f.store.isNone + 8 * b2n f.roiSkip + 16 * b2n f.hintSkip +
  32 * b2n f.poisoned + 64 * b2n f.late + 128 * b2n filler

/-- A frame after a unit of it (R322, R333). -/
def afterUnit (f : FrameRun) (sbs : List SbSource) (k : UnitCode) : FrameRun :=
  { f with unit := f.unit + 1, bits := f.bits + 8 * k.bytes.length, poisoned := f.poisoned || sbs.any (·.poisoned),
           late := f.late || sbs.any (·.late), maxQp := f.maxQp + b2n k.maxQp, minimal := f.minimal + b2n k.minimal }

/-- The next unit of a channel's frame: the state after its source is read, the superblocks read, and the coding taken
(R320-R333). -/
def codeUnit (s : State) (x : CodChan) (f : FrameRun) (late : List Nat) : State × List SbSource × UnitCode :=
  let g := gangWidth s.conf.video x.dom x.cfg
  let h := unitRows x.cfg g
  let (t, sbs) := fetchUnit s x.dom x.cfg f.req late (f.unit * h) (min ((f.unit + 1) * h) (sbRows x.cfg))
  let minU := minUnit x.cfg g f.key
  (t, sbs, unitChoice x.past (ceilingOf x f (unitCount x.cfg g) minU) minU (unitIn f x.past g h (refBufs s x f) sbs)
    (minimalMode f.pic))

/-- EMISSION_UNIT: the next unit of the frame is coded under its ceiling and written to the output ring, with what opens the
frame before the first. It waits for its rows' semaphore count, for pending source ranges and for ring space; `late` are
beats in T2 or T3 that are not answered in time (R196, R321-R325, R333). -/
def execEmissionUnit (c : Fin 32) (late : List (BitVec 64)) (s : State) : Outcome :=
  let x := codAt s c
  match x.frame with
  | none => notNow "EMISSION_UNIT"
  | some f =>
    let g := gangWidth s.conf.video x.dom x.cfg
    let h := unitRows x.cfg g
    let beats := late.map (·.toNat)
    let r1 := min ((f.unit + 1) * h) (sbRows x.cfg)
    let src := unitSource x.cfg f.req (f.unit * h) r1
    if unitCount x.cfg g ≤ f.unit ∨ !(waitMet s f.req (r1 - 1)) ∨ src.any (rangePending s x.dom) ∨
        beats.any (fun a => !(lateIn [a] src && lowerTier s x.dom [(a, 1)])) then notNow "EMISSION_UNIT"
    else
      let (s, sbs, k) := codeUnit s x f beats
      let bytes := (if f.unit = 0 then f.head else []) ++ k.bytes
      if ringRoom x < bytes.length then notNow "EMISSION_UNIT"
      else
        let f' := afterUnit f sbs k
        let s := emitBytes s c bytes
        let s := modCod s c (fun y =>
          { y with frame := some f', minimal := wrap32 (y.minimal + b2n k.minimal), past := k.unit :: y.past })
        .next (if x.cfg.rowNotify then
            codRecords s f.req.src c .success (codAt s c).wptr bytes.length f.unit 0 0 (codFlags f' false) f.req.number
          else s)

/-- Filler bits of a CBR frame, a whole number of bytes: the model's fullness is kept within B (R336). -/
def fillerBits (x : CodChan) (bits : Nat) : Nat :=
  let excess := x.full + x.cfg.bitrate * x.cfg.fpsDen - bits * x.cfg.fpsNum - x.cfg.buffer * x.cfg.fpsNum
  if x.cfg.cbr then 8 * ceilDiv excess (8 * x.cfg.fpsNum) else 0

/-- The fullness before the next removal (R332). -/
def nextFull (x : CodChan) (bits : Nat) : Nat :=
  let n := x.full - bits * x.cfg.fpsNum + x.cfg.bitrate * x.cfg.fpsDen
  if x.cfg.cbr then n else min (x.cfg.buffer * x.cfg.fpsNum) n

/-- The reconstruction is stored in its buffer; its bytes there are free (R322, R337). -/
def storeRecon (s : State) (x : CodChan) (f : FrameRun) : State :=
  match f.store with
  | none => s
  | some i =>
    let n := refBytes x.cfg
    vaWrite s x.dom none (x.cfg.poolVa + i * n) ((List.range n).map (fun j => (Config.reconByte x.past j, false)))

/-- Apply a frame's SIGNAL, or keep it until the record that its VF's CQ has no room for is in place (R321, R437). -/
def codSignal (s : State) (src : Src) (n inc : Nat) : State :=
  let k := ((vfAt s src.vf).waitCpl.filter (fun w => w.1 == cqOf s src)).length
  if k = 0 then semAdd s n inc
  else { s with codec := { s.codec with sigs := s.codec.sigs ++ [⟨src.vf, cqOf s src, k, n, inc⟩] } }

/-- Apply the signals whose records are in place, after `placed` records of a VF's CQ were written (R321, R437). -/
def codPlaced (s : State) (v c placed : Nat) : State :=
  let l := s.codec.sigs.map (fun g => if g.vf = v ∧ g.cq = c then { g with left := g.left - placed } else g)
  (l.filter (fun g => g.left == 0)).foldl (fun s g => semAdd s g.sem g.inc)
    { s with codec := { s.codec with sigs := l.filter (fun g => g.left != 0) } }

/-- FRAME_END: filler, the reconstruction, the frame's records, then its SIGNAL; the channel comes to a frame boundary
(R321, R332, R336, R338, R342). -/
def execFrameEnd (c : Fin 32) (s : State) : Outcome :=
  let x := codAt s c
  match x.frame with
  | none => notNow "FRAME_END"
  | some f =>
    let g := gangWidth s.conf.video x.dom x.cfg
    let fill := fillerBits x f.bits
    if f.unit < unitCount x.cfg g ∨ ringRoom x < fill / 8 then notNow "FRAME_END"
    else
      let s := storeRecon (if fill = 0 then s
        else emitBytes s c ((List.range (fill / 8)).map (Config.fillerByte x.cfg.hevc (fill / 8)))) x f
      let total := f.bits + fill
      let s := modCod s c (fun y => { y with frame := none, frames := wrap32 (y.frames + 1), full := nextFull x total,
                                             marks := [] })
      let s := codRecords s f.req.src c .success (codAt s c).wptr (total / 8) 0xFFFF f.maxQp f.minimal
        (codFlags f (fill != 0)) f.req.number
      let s := match f.req.signal with | some n => codSignal s f.req.src n f.req.inc | none => s
      .next (settleChan (x.marks.foldl (applyMark c) s) c)

/-! ### Decoding (R344, R345) -/

def doDecOpen (src : Src) (chan standard w h num den : Nat) (s : State) : State :=
  ringCmd src 0x48 [.active] (fun d s =>
    let n := slotsFor w h num den
    if ¬ ((32 ≤ chan ∧ chan < 48) ∨ chan = 0xFF) ∨ 2 ≤ standard ∨ w = 0 ∨ h = 0 ∨ num = 0 ∨ den = 0 then
      refuse src .configBad s
    else if !(Config.decLevelAdmits (standard == 1) w h num den) then refuse src .levelExceeded s
    else match chanFor s chan 32 16, (if n ≤ 4 then pipeFor s d n false else none) with
      | some i, some p =>
        let g := { hevc := standard == 1, width := w, height := h, fpsNum := num, fpsDen := den }
        complete src .success i (setCod s i { st := .open_, dom := d, pipe := p, slots := n, cfg := g })
      | _, _ => refuse src .noSlots s) s

/-- The output buffers of a decode lie in unsealed T1 pages (R344). -/
def decOutOk (s : State) (d : Nat) (x : CodChan) (pitch luma chroma : Nat) : Bool :=
  (piecesOf luma (pitch * x.cfg.height) ++ piecesOf chroma (pitch * (x.cfg.height / 2))).all (fun (a, _) =>
    match xlat s d none a with
    | .ok p => p.tier == .t1 && !p.sealed
    | .error _ => false)

def doDecFrame (src : Src) (chan pitch signal inc va bytes luma chroma : Nat) (s : State) : State :=
  ringCmd src 0x49 [.active] (fun d s =>
    let x := codAt s chan
    if !(chanOpen s d chan false) then refuse src .channelClosed s
    else if 8 ≤ x.queue.length then refuse src .queueFull s
    else if pitch % 64 ≠ 0 ∨ !(semFine s d signal) ∨ ((semOf signal).isSome ∧ inc = 0) ∨ !(decOutOk s d x pitch luma chroma)
      then refuse src .configBad s
    else
      let q : CodReq := ⟨src, x.next, false, pitch, luma, chroma, 0, 0, none, 0, semOf signal, inc, va, bytes⟩
      setCod s chan { x with queue := x.queue ++ [q], next := x.next + 1 }) s

/-- DEC_CLOSE: the units whose pictures wait, or else the unit in progress, end; those behind complete with CHANNEL_CLOSED
(R345). -/
def doDecClose (src : Src) (chan : Nat) (s : State) : State :=
  ringCmd src 0x4A chanStates (fun d s =>
    if !(chanOpen s d chan false) then refuse src .channelClosed s
    else
      let n := max 1 (codAt s chan).ahead.length
      let s := ((codAt s chan).queue.drop n).foldl (codDiscard .channelClosed chan) s
      settleChan (modCod s chan (fun x =>
        { x with queue := x.queue.take n, st := .closing, closeSrc := some src })) chan) s

/-- Write rows of bytes, one at each address. -/
def writeRows (s : State) (d : Nat) (rows : List (Nat × List Byte)) : State :=
  rows.foldl (fun s r => vaWrite s d none r.1 (r.2.map (fun b => (b, false)))) s

/-- The rows of an output of `w` bytes by `h` luma rows, with the bytes that `f` gives by row and column (R320, R344). -/
def outRows (q : CodReq) (w h : Nat) (f : Nat → Nat → Byte) : List (Nat × List Byte) :=
  ((List.range h).map (fun r => q.luma + r * q.pitch) ++ (List.range (h / 2)).map (fun r => q.chroma + r * q.pitch)).zipIdx.map
    (fun (a, r) => (a, (List.range (min q.pitch w)).map (f r)))

/-- A decoded picture is written to the buffers of a DEC_FRAME: NV12, or P010 with two bytes a sample, at the picture's own
size, which is at most the channel's (R344). -/
def writePicture (s : State) (x : CodChan) (q : CodReq) (n : Nat) : State :=
  let (w, h, deep) := Config.decPicture x.coded n
  writeRows s x.dom (outRows q (min w x.cfg.width * (if deep then 2 else 1)) (min h x.cfg.height) (Config.decByte x.coded n))

/-- The output of a failed unit is undefined: free values (R345). -/
def undefPicture (s : State) (x : CodChan) (q : CodReq) : State :=
  takeFree (writeRows s x.dom (outRows q (2 * x.cfg.width) x.cfg.height (fun r i => Config.undefByte s.free (r * 2 ^ 16 + i))))

/-- The picture to write next, as a place among those that wait; once no further unit comes, the oldest (R344, R345). -/
def nextOut (x : CodChan) : Option Nat :=
  if x.ahead = [] then none
  else match Config.decNext x.coded x.ahead with
    | some i => some (i % x.ahead.length)
    | none => if x.st = .closing ∧ x.queue.length ≤ x.ahead.length then some 0 else none

/-- A channel without the picture it wrote and the DEC_FRAME that took it. -/
def outDone (x : CodChan) (i : Nat) : CodChan :=
  { x with queue := x.queue.drop 1, ahead := x.ahead.eraseIdx i, frames := wrap32 (x.frames + 1) }

/-- Write the picture that is next in output order to the buffers of the oldest DEC_FRAME, which signals its semaphore and
completes with the picture's number; none while no picture is due (R344, R438). -/
def putPicture (s : State) (c : Nat) : Option State :=
  let x := codAt s c
  match nextOut x, x.queue with
  | some i, q :: _ =>
    let n := x.ahead.getD i 0
    let s := setCod (writePicture s x q n) c (outDone x i)
    some (settleChan (complete q.src .success n (match q.signal with | some k => semAdd s k q.inc | none => s)) c)
  | _, _ => none

/-- A channel after it read a unit, and whether the unit decodes: its input was whole, it conforms, and it neither misses a
reference nor depends on a unit that failed (R345). -/
def readUnit (x : CodChan) (q : CodReq) (input : Option (List Byte)) : CodChan × Bool :=
  let coded := x.coded ++ [input.getD []]
  let key := Config.decIsKey coded
  let ok := input.isSome && Config.decOk coded && (!x.broken || key || !(Config.decDepends coded))
  ({ x with coded := coded, broken := !ok || (x.broken && !key), ahead := if ok then x.ahead ++ [q.number] else x.ahead,
            queue := if ok then x.queue else x.queue.eraseIdx x.ahead.length }, ok)

/-- DEC_PICTURE_OUT: the picture that is due is written; when none is, the channel's next unit is decoded, and then the
picture that is due, if any. A unit that fails completes with BITSTREAM_ERROR and an event. Input from T2 or T3 may come late
(R344, R345). -/
def execDecPictureOut (ch : Fin 16) (late : Bool) (s : State) : Outcome :=
  let c := 32 + ch.val
  let x := codAt s c
  match (if late then none else putPicture s c), x.queue[x.ahead.length]? with
  | some t, _ => .next t
  | none, none => notNow "DEC_PICTURE_OUT"
  | none, some q =>
    if (nextOut x).isSome ∨ (late ∧ !(lowerTier s x.dom [(q.unitVa, q.unitBytes)])) then notNow "DEC_PICTURE_OUT"
    else
      let (s, r) := vaFetch s x.dom q.unitVa q.unitBytes
      let (y, ok) := readUnit x q (match r with | .ok b => if late then none else some b | .error _ => none)
      let s := setCod s c y
      .next (if ok then (putPicture s c).getD s
        else settleChan (complete q.src .bitstreamError 0 (raise (0x180 + c) (undefPicture s x q))) c)

/-! ### VCC_CH_RPTR (R323) -/

def execVccChRptrWrite (c : Fin 48) (v : Word) (s : State) : Outcome :=
  .next (viaHost s (fun s =>
    let x := codAt s c
    setCod s c (if x.cfg.ringSize < (x.wptr + 2 ^ 32 - v.toNat) % 2 ^ 32 then { x with rptrErr := true }
      else { x with rptr := v.toNat })))

end Sys2Proof.Machine
end

