-- ==== Sys2Proof/Machine/Groups.lean ====
section
/-!
DEFINITION. Running collectives: digests, contexts, moving data, the end of a collective on its member and on its
authority, forming and losing groups (R386, R393-R404, R409, R411, R413).
-/
namespace Sys2Proof.Machine

/-! ### Digests (R400, R401) -/

/-- The table digest of a domain; none when its islands carry different sets (R401). -/
def tablesDigest (s : State) (d : Nat) : Option (List Byte) :=
  let l := (ownedIslands s d).map (fun i => (bankInForce (islandAt s i).fun_).map (·.digest))
  match l.eraseDups with
  | [] => some (List.replicate 32 0)
  | [x] => some (x.getD (List.replicate 32 0))
  | _ => none

/-- The group digest over the block of R400. -/
def groupDigest (s : State) (g : Group) (tables : List Byte) : List Byte :=
  let n := numRec s g.dom
  sha3 (leBytes 2 g.id ++ leBytes 2 0 ++ leBytes 4 g.gen ++ leBytes 1 n.det ++ leBytes 1 (b2n n.accFp) ++
    leBytes 2 n.formats ++ leBytes 4 0 ++ tables ++ (s.cores.take 8).flatMap (fun c => leBytes 8 c.version) ++
    leBytes 1 s.net.role.shoals ++ leBytes 1 s.net.role.archCtx ++ leBytes 14 0)

/-- The operation digest. DESIGN CHOICE: the fields of R400 in the order it names them. -/
def opDigest (o : CollOp) : List Byte :=
  sha3 (leBytes 1 o.kind ++ leBytes 1 o.op ++ leBytes 1 o.fmt ++ leBytes 2 o.root ++ leBytes 1 o.stripes ++
    leBytes 1 (b2n o.inSwitch) ++ leBytes 2 (max o.run 1) ++ (if o.kind = 3 ∨ o.kind = 4 then [] else leBytes 4 o.count))

/-- What the operation is, for a manager that reduces in its switch. -/
def howOf (o : CollOp) : Nat := b2n o.inSwitch + 2 * (o.op % 4) + 8 * b2n o.w128 + 16 * (o.fmt % 2) + 32 * o.kind

/-! ### Contexts (R397, R398) -/

/-- Contexts that collectives and runs hold on this module. -/
def ctxHeld (s : State) : List Nat := (s.net.colls.filterMap (·.ctx) ++ s.net.runs.map (fun r => r.2.1)).eraseDups

/-- Contexts of a pool: the archipelago pool is the last ARCH_CONTEXTS of the 64. -/
def poolOf (s : State) (arch : Bool) : List Nat :=
  (List.range 64).filter (fun c => decide (64 - s.net.role.archCtx ≤ c) == arch)

/-- Contexts that a domain may hold (R389 CTX_QUOTA). -/
def ctxQuota (s : State) (d : Nat) : Nat :=
  let q := s.net.role.quota.getD d 0
  if q = 0 then 64 else q

/-- Contexts that a domain holds. -/
def ctxOfDom (s : State) (d : Nat) : Nat :=
  let runs := s.net.runs.filter (fun r => match groupOf s r.1 with | some g => g.dom == d | none => false)
  ((s.net.colls.filter (fun c => c.dom == d)).filterMap (·.ctx) ++ runs.map (fun r => r.2.1)).eraseDups.length

/-- Grant the RESERVEs of one pool strictly in arrival order (R397). -/
def grantPool (arch : Bool) : Nat → State → State
  | 0, s => s
  | fuel + 1, s =>
    match s.net.resvs.find? (fun r => r.arch == arch) with
    | none => s
    | some r =>
      let rest := s.net.resvs.filter (fun x => !(x == r))
      match collOf s r.group r.seq, groupOf s r.group with
      | some c, some g =>
        match (poolOf s arch).find? (fun x => !((ctxHeld s).contains x)) with
        | none => s
        | some x =>
          if ctxOfDom s c.dom < ctxQuota s c.dom then
            let s := setColl { s with net := { s.net with resvs := rest } } { c with ph := .reserved, ctx := some x }
            grantPool arch fuel (sendMsg s (authorityId s g.members) (.reserved r.group r.seq g.rank))
          else s
      | _, _ => grantPool arch fuel { s with net := { s.net with resvs := rest } }

/-- Grant what can be granted in both pools. -/
def grant (s : State) : State :=
  let n := s.net.resvs.length
  grantPool true n (grantPool false n s)

/-! ### The end of a collective on a member (R399-R404, R411) -/

/-- A collective leaves a member: its context is free unless a run goes on with it. -/
def releaseColl (s : State) (c : Coll) : State :=
  let s := dropColl s c
  grant { s with net := { s.net with
    resvs := s.net.resvs.filter (fun r => !(r.group == c.o.group && r.seq == c.o.seq))
    credits := s.net.credits.filter (fun r => !(r.1 == c.o.group && r.2.1 == c.o.seq)) } }

/-- A collective ends with a status: destination released, SIGNAL not applied, its run over (R404). -/
def quitColl (s : State) (c : Coll) (st : Status) : State :=
  let s := complete c.src st 0 (logE 1 st none c.dom [] s)
  releaseColl { s with net := { s.net with runs := s.net.runs.filter (fun r => r.1 != c.o.group) } } c

/-- A collective that ends with a status leaves its destination undefined once it was entered (R404); a digest difference that
ends it before its own writes leaves the bytes as they are (R401). -/
def endColl (s : State) (c : Coll) (st : Status) : State :=
  quitColl (if (c.ph = .moving ∧ st ≠ .groupMismatch) ∨ c.ph = .written then undefineBytes s c.dom none [(c.outAt, c.outLen)] else s) c st

/-- It commits: pending entries released, SIGNAL applied, completion written, context freed after the run's last (R398,
R404). -/
def commitColl (s : State) (c : Coll) : State :=
  let s := match c.o.signal with | some n => semAdd s n c.o.inc | none => s
  let s := complete c.src .success 0 s
  let runs := s.net.runs.filterMap (fun (r : Nat × Nat × Nat × Nat) =>
    if r.1 = c.o.group then (if c.o.seq ≥ r.2.2.2 then none else some (r.1, r.2.1, c.o.seq + 1, r.2.2.2)) else some r)
  releaseColl { s with net := { s.net with runs := runs } } c

/-! ### Moving data (R386, R404, R405) -/

/-- The port by which this module reaches another: its own link, a relay through the manager, or a rail (R408, R412). -/
def portToModule (s : State) (id : Nat) : Option Nat :=
  let up := fun p => if portUp s p then some p else none
  let mgr := (managerPort s).bind up
  let r := s.net.role
  if id / 256 ≠ 0 then mgr
  else if shoalOf id = r.shoal then
    match (portOf s 1 (workerOf id)).bind up with
    | some p => some p
    | none => mgr
  else
    let rail := fun role => ((List.range 18).find? (fun p => portRole s p == role)).bind up
    let above := (shoalOf id + r.shoals - r.shoal) % r.shoals
    if above ≤ r.shoals - above then (match rail 4 with | some p => some p | none => rail 3)
    else (match rail 3 with | some p => some p | none => rail 4)

/-- The port to a member by rank; rank 65536 is the manager. -/
def portToRank (s : State) (g : Group) (rank : Nat) : Option Nat :=
  if rank = 65536 then (managerPort s).bind (fun p => if portUp s p then some p else none)
  else portToModule s (g.members.getD rank (0, 0)).1

/-- Read the source into the vector when nothing holds it; a read that fails ends the collective on this member. -/
def loadColl (s : State) (g : Group) (c : Coll) : State :=
  let n := sourceOf c.o g.rank c.counts
  let len := vecUnits c.o g.members c.counts * collBytes c.o
  let start := fun (s : State) (b : List Byte) =>
    let plan := planOf c.o g.members g.rank c.counts
    setColl s { c with loaded := true, vec := List.replicate n.2 0 ++ b ++ List.replicate (len - n.2 - b.length) 0,
                       sched := plan, out := plan.map (fun _ => false), asked := plan.map (fun _ => false) }
  if n.1 = 0 then start s []
  else if rangePending s c.dom (c.o.srcVa, n.1) then s
  else match vaFetch s c.dom c.o.srcVa n.1 with
    | (s, .ok b) => start s b
    | (s, .error e) => endColl s c e

/-- Take the message that the head of a stripe's schedule waits for. -/
def takeEarly (c : Coll) (stripe peer : Nat) : Option (List Byte × List (Nat × List Byte)) :=
  let k := 4 * peer + stripe
  match c.early.find? (fun e => e.1 == k) with
  | none => none
  | some e => (firstIdx (fun (x : Nat × List Byte) => x.1 == k) c.early).map (fun i => (e.2, c.early.eraseIdx i))

/-- The module of a rank; rank 65536 is the manager. -/
def peerModule (s : State) (g : Group) (rank : Nat) : Nat :=
  if rank = 65536 then authorityId s g.members else (g.members.getD rank (0, 0)).1

/-- A collective ends everywhere: on this member, and by way of the authority (R401, R403). -/
def endEverywhere (s : State) (g : Group) (c : Coll) (st : Status) : State :=
  sendMsg (endColl s c st) (authorityId s g.members) (.ended c.o.group c.o.seq st)

/-- The data handshake with a partner: a context credit for its next message in a stripe, with the member's context and its
group digest; without a digest the collective ends (R386, R400, R401). -/
def giveCredit (s : State) (g : Group) (c : Coll) (j peer : Nat) : State :=
  match tablesDigest s g.dom with
  | none => endEverywhere s g c .groupMismatch
  | some t => sendMsg (setColl s { c with asked := setAt c.asked j true }) (peerModule s g peer)
      (.credit c.o.group c.o.seq g.rank j (c.ctx.getD 0) (groupDigest s g t))

/-- Use up a credit of a partner for a stripe: the context it names (R386). -/
def useCredit (s : State) (c : Coll) (j peer : Nat) : Option (Nat × State) :=
  match firstIdx (fun (r : Nat × Nat × Nat × Nat) => r.1 == c.o.group && r.2.1 == c.o.seq && r.2.2.1 == 4 * peer + j)
      s.net.credits with
  | none => none
  | some i => some ((s.net.credits.getD i (0, 0, 0, 0)).2.2.2, { s with net := { s.net with credits := s.net.credits.eraseIdx i } })

/-- A stripe goes on to its next transfer. -/
def nextXfer (c : Coll) (j : Nat) (rest : List Xfer) : Coll :=
  { c with sched := setAt c.sched j rest, out := setAt c.out j false, asked := setAt c.asked j false }

/-- One move of a stripe: give a credit for the message it waits for, send its own against a credit, or take the one it waits
for. None when the stripe stands still. -/
def stripeStep (s : State) (g : Group) (c : Coll) (j : Nat) : Option State :=
  match c.sched.getD j [] with
  | [] => none
  | x :: rest =>
    if !(x.recv.isEmpty) && !(c.asked.getD j false) then some (giveCredit s g c j x.peer)
    else if !(x.send.isEmpty) && !(c.out.getD j false) then
      match portToRank s g x.peer, useCredit s c j x.peer with
      | some p, some (ctx, s) =>
        some (sendMessage (setColl s { c with out := setAt c.out j true }) p 0 (ctx + 64 * j) (gatherRanges c.vec x.send))
      | _, _ => none
    else if x.recv.isEmpty then some (setColl s (nextXfer c j rest))
    else
      match takeEarly c j x.peer with
      | none => none
      | some (b, early) =>
        let old := gatherRanges c.vec x.recv
        let new := if x.reduce then (if x.peer < g.rank then reduceBytes c.o (slice b 0 old.length) old
            else reduceBytes c.o old (slice b 0 old.length)) else some (slice b 0 old.length)
        match new with
        | none => some (endEverywhere s g c .anchorMismatch)
        | some v => some (setColl s { nextXfer c j rest with early := early, vec := scatterRanges c.vec x.recv v })

/-- Carry a collective on as far as it goes. -/
def advanceColl (gid seq : Nat) : Nat → State → State
  | 0, s => s
  | fuel + 1, s =>
    match collOf s gid seq, groupOf s gid with
    | some c, some g =>
      if c.ph ≠ .moving then s
      else if !c.loaded then
        let s' := loadColl s g c
        match collOf s' gid seq with
        | some c' => if c'.loaded then advanceColl gid seq fuel s' else s'
        | none => s'
      else
        match (List.range c.sched.length).findSome? (fun j => stripeStep s g c j) with
        | some s' => advanceColl gid seq fuel s'
        | none => s
    | _, _ => s

/-- Moves that a collective can still make, as a bound. -/
def collFuel (s : State) (gid seq : Nat) : Nat :=
  match collOf s gid seq, groupOf s gid with
  | some c, some g => 2 + 4 * (((if c.loaded then c.sched else planOf c.o g.members g.rank c.counts).map (·.length)).sum)
  | _, _ => 0

def advance (s : State) (gid seq : Nat) : State := advanceColl gid seq (collFuel s gid seq) s

/-- A context credit of a partner arrives, with its group digest: a difference ends the collective everywhere (R386, R401). -/
def takeCredit (s : State) (gid seq rank stripe ctx : Nat) (dig : List Byte) : State :=
  match groupOf s gid with
  | none => s
  | some g =>
    let t := { s with net := { s.net with credits := s.net.credits ++ [(gid, seq, 4 * rank + stripe, ctx)] } }
    match collOf s gid seq with
    | none => t
    | some c =>
      if (match tablesDigest s g.dom with | some b => decide (groupDigest s g b = dig) | none => false) then advance t gid seq
      else endEverywhere s g c .groupMismatch

/-- A message of collective data arrives for a context (R381, R386). -/
def collData (s : State) (from_ ctx stripe : Nat) (b : List Byte) : State :=
  match s.net.colls.find? (fun c => decide (c.ctx = some ctx) && decide (c.ph = .moving ∨ c.ph = .reserved)) with
  | none => s
  | some c =>
    match groupOf s c.o.group with
    | none => s
    | some g =>
      let expected := match c.sched.getD stripe [] with | x :: _ => x.peer | [] => 65536
      let rank := if 256 ≤ from_ then (if c.o.inSwitch then 65536 else expected)
        else (firstIdx (fun (m : Nat × Nat) => m.1 == from_) g.members).getD expected
      let s := setColl s { c with early := c.early ++ [(4 * rank + stripe, b)] }
      advance s c.o.group c.o.seq

/-- The next collective of a run, once posted and its WAIT met, starts without a ticket of its own (R398). -/
def startRun (s : State) (gid : Nat) : State :=
  match s.net.runs.find? (fun r => r.1 == gid) with
  | none => s
  | some (_, ctx, next, _) =>
    match collOf s gid next with
    | some c =>
      if c.ph = .queued then
        let r := match groupOf s gid with | some g => resultOf c.o g.members g.rank c.counts | none => (0, 0)
        let s := dropStagedIn s c.dom [(c.o.dstVa, r.2)]
        advance (setColl s { c with ph := .moving, ctx := some ctx, outAt := c.o.dstVa, outLen := r.2 }) gid next
      else s
    | none => s

/-! ### Losing groups (R392, R393, R411, R413) -/

/-- A domain leaves one of its groups: its collectives there end with MEMBER_LOST (R411); `keep` is set when the domain's
memory is kept as it stands (R444, R445). -/
def partGroup (keep : Bool) (s : State) (g : Group) : State :=
  let s := (s.net.colls.filter (fun c => c.o.group == g.id)).foldl (fun s c =>
    if keep then quitColl s c .memberLost else endColl s c .memberLost) s
  { s with net := { s.net with groups := s.net.groups.filter (fun x => x.id != g.id),
                               credits := s.net.credits.filter (fun r => r.1 != g.id) } }

def leaveGroup (s : State) (g : Group) : State := partGroup false s g

/-- The domain counts as lost to every group it is in, and its joins end (R411). -/
def partGroups (keep : Bool) (s : State) (d : Nat) : State :=
  let s := (s.net.groups.filter (fun g => g.dom == d)).foldl (fun s g =>
    partGroup keep (sendMsg s (authorityId s g.members) (.leave g.id d)) g) s
  (s.net.joins.filter (fun j => j.dom == d)).foldl (fun s j =>
    complete j.src .memberLost 0 { s with net := { s.net with joins := s.net.joins.filter (fun x => !(x == j)) } }) s

def leaveGroups (s : State) (d : Nat) : State := partGroups false s d

/-- The module leaves every group: a change of ROLE, SHOAL or WORKER, or a manager replaced (R392, R414). -/
def leaveAllGroups (s : State) : State := (List.range 16).foldl leaveGroups s

/-- A group re-forms on a member: generation, ranks, an informational record; collectives of the old generation end, those
that had asked with MEMBER_LOST, those merely posted with GROUP_MISMATCH (R411). -/
def regroup (s : State) (gid gen : Nat) (ms : List (Nat × Nat)) : State :=
  match groupOf s gid with
  | none => s
  | some g =>
    let s := (s.net.colls.filter (fun c => c.o.group == gid)).foldl (fun s c =>
      endColl s c (if c.ph = .posted then .groupMismatch else .memberLost)) s
    match firstIdx (fun (m : Nat × Nat) => m.1 == ownId s && m.2 == g.dom) ms with
    | none => { s with net := { s.net with groups := s.net.groups.filter (fun x => x.id != gid) } }
    | some r =>
      let groups := s.net.groups.map (fun x =>
        if x.id = gid then { x with gen := gen, rank := r, members := ms, next := 1 } else x)
      let s := { s with net := { s.net with groups := groups, credits := s.net.credits.filter (fun r => r.1 != gid) } }
      inform g.dom .groupChanged (gid + 2 ^ 16 * (gen % 2 ^ 32) + 2 ^ 48 * r + 2 ^ 56 * (ms.length - 1)) s

/-! ### The authority (R393, R396-R401, R409, R411) -/

/-- Tell every member of a list. -/
def tellAll (s : State) (ms : List (Nat × Nat)) (m : Msg) : State := ms.foldl (fun s x => sendMsg s x.1 m) s

/-- In-switch contexts in use, 16 at most (R409). -/
def switchHeld (s : State) : Nat := (s.net.orders.filterMap (·.switch)).length

/-- The lowest in-switch context that is free. -/
def freeSwitch (s : State) : Option Nat := (List.range 16).find? (fun x => !((s.net.orders.filterMap (·.switch)).contains x))

/-- A collective ends on every member that requested it (R399, R401). Its record stays, so that members that ask later are
told. -/
def endOrder (s : State) (o : Order) (st : Status) : State :=
  match authOf s o.group with
  | none => dropOrder s o
  | some a =>
    let s := o.reqs.foldl (fun s r => sendMsg s (a.members.getD r.rank (0, 0)).1 (.ended o.group o.seq st)) s
    setOrder (logE 1 st none 0xFF [] s) { o with ph := .ended st, switch := none }

/-- TICKET to every member, with all counts in rank order. -/
def ticketOrder (s : State) (o : Order) : State :=
  match authOf s o.group with
  | none => s
  | some a =>
    let counts := (List.range a.members.length).map (fun r =>
      match o.reqs.find? (fun q => q.rank == r) with | some q => q.count | none => 0)
    tellAll (setOrder s { o with ph := .ticketed }) a.members (.ticket o.group o.seq counts)

/-- The collective asks for an in-switch context. -/
def wantsSwitch (o : Order) : Bool := o.reqs.any (fun r => bit r.how 0)

/-- The operation that a manager reduces in its switch, and its vector in segments (R409). -/
def switchOp (a : AuthGroup) (o : Order) : CollOp × List (Nat × Nat) :=
  let q := o.reqs.headD ⟨0, [], [], 0, 0, 0⟩
  let h := q.how
  let op : CollOp := ⟨o.group, o.gen, o.seq, bits h 7 5, bits h 2 1, bits h 4 4, true, 1, bit h 3, 0, 0, 0, q.count, 0, none, 0,
    none, 0, 0⟩
  let counts := (List.range a.members.length).map (fun r =>
    match o.reqs.find? (fun q => q.rank == r) with | some q => q.count | none => 0)
  (op, switchSegs (collBytes op) (vecUnits op a.members counts * collBytes op))

/-- The manager's credits for the next `n` segments go to every member; a run's collectives follow one another (R386, R398,
R409). -/
def creditSwitch (s : State) (a : AuthGroup) (o : Order) (n : Nat) : State :=
  let segs := (switchOp a o).2.length
  let all := segs * (o.reqs.headD ⟨0, [], [], 0, 0, 0⟩).run
  let top := min all (o.cut + n)
  (List.range (top - o.cut)).foldl (fun s k =>
    tellAll s a.members (.credit o.group (o.seq + (o.cut + k) / segs) 65536 0 (o.switch.getD 0)
      (o.reqs.headD ⟨0, [], [], 0, 0, 0⟩).gdig))
    (setOrder s { o with cut := top })

/-- The ticket of a collective IN_SWITCH: a context of the manager, and credits for a window of 8 segments. -/
def ticketSwitch (s : State) (o : Order) (x : Nat) : State :=
  let o := { o with switch := some x }
  match authOf s o.group with
  | none => s
  | some a => creditSwitch (ticketOrder (setOrder s o) o) a { o with ph := .ticketed } 8

/-- Tickets for collectives that every member has reserved, in the total order; those IN_SWITCH wait for a context of the
manager (R397). None goes out once TICKET_TIMEOUT has passed (R399). -/
def issueTickets : Nat → State → State
  | 0, s => s
  | fuel + 1, s =>
    let full := s.net.orders.filter (fun o => decide (o.ph = .reserving) && decide (s.now < o.t0 + ticketTimeout s) &&
      (match authOf s o.group with | some a => decide (a.members.length ≤ o.reserved.length) | none => false))
    let first := full.foldl (fun (acc : Option Order) o => match acc with
      | none => some o
      | some b => if o.pos < b.pos then some o else acc) none
    let ready := full.filter (fun o => !(wantsSwitch o))
    match ready, first with
    | o :: _, _ => issueTickets fuel (ticketOrder s o)
    | [], some o =>
      match freeSwitch s with
      | some x => issueTickets fuel (ticketSwitch s o x)
      | none => s
    | [], none => s

def tickets (s : State) : State := issueTickets s.net.orders.length s

/-- The authority ends what a lost member takes part in and re-forms its groups, or one of them (R411). -/
def loseMember (s : State) (which : AuthGroup → Bool) (lost : Nat × Nat → Bool) : State :=
  (s.net.auth.filter (fun a => a.formed && which a && a.members.any lost)).foldl (fun s a =>
    let s := (s.net.orders.filter (fun o => o.group == a.id)).foldl (fun s o =>
      match o.ph with
      | .ended _ => dropOrder s o
      | _ => dropOrder (endOrder s o .memberLost) o) s
    let ms := a.members.filter (fun m => !(lost m))
    let s := { s with net := { s.net with auth := s.net.auth.map (fun x =>
      if x.id = a.id ∧ x.formed then { x with members := ms, gen := a.gen + 1, joined := List.range ms.length } else x) } }
    tickets (tellAll s ms (.changed a.id (a.gen + 1) ms))) s

/-- A join reaches the authority: it forms the group when all have joined with one list, and fails all when two disagree,
or when TICKET_TIMEOUT has passed since the first (R393). -/
def authJoin (s : State) (key : Nat) (ms : List (Nat × Nat)) (rank : Nat) : State :=
  match s.net.auth.find? (fun a => a.key == key && !a.formed) with
  | none =>
    if membersOk ms then
      { s with net := { s.net with auth := s.net.auth ++ [⟨0, 0, key, ms, [rank], false, s.now⟩] } }
    else tellAll s ms (.joinEnded key .groupBad)
  | some a =>
    let others := { s with net := { s.net with auth := s.net.auth.filter (fun x => !(x.key == key && !x.formed)) } }
    if a.t0 + ticketTimeout s ≤ s.now then tellAll (tellAll others a.members (.joinEnded key .ticketTimeout)) ms
        (.joinEnded key .ticketTimeout)
    else if a.members ≠ ms then tellAll (tellAll others a.members (.joinEnded key .groupBad)) ms (.joinEnded key .groupBad)
    else
      let joined := (rank :: a.joined).eraseDups
      if ms.length ≤ joined.length then
        -- DESIGN CHOICE: the top manager numbers its groups from 0x8000, so that no two authorities give a member one GROUP_ID
        let lo := if crossShoal ms then 2 ^ 15 else 1
        let id := (lowestFree (s.net.auth.filterMap (fun x => if x.formed then some x.id else none)) lo (2 ^ 15 - 1)
          (s.net.auth.length + 1) 0).getD 0
        let g : AuthGroup := { a with id := id, gen := 1, joined := joined, formed := true }
        tellAll { others with net := { others.net with auth := others.net.auth ++ [g] } } ms (.formed key id 1)
      else
        { others with net := { others.net with auth := others.net.auth ++ [{ a with joined := joined }] } }

/-- Results leave the manager against the credits that members gave (R386, R409). -/
def flushSwitch (a : AuthGroup) : Nat → State → Order → State
  | 0, s, o => setOrder s o
  | fuel + 1, s, o =>
    match firstIdx (fun (e : Nat × List Byte) => o.creds.any (fun c => c.1 == e.1)) o.outs with
    | none => setOrder s o
    | some i =>
      let (r, b) := o.outs.getD i (0, [])
      let k := (firstIdx (fun (c : Nat × Nat) => c.1 == r) o.creds).getD 0
      let s := match portOf s 5 (workerOf (a.members.getD r (0, 0)).1) with
        | some p => sendMessage s p 0 (o.creds.getD k (0, 0)).2 b
        | none => s
      flushSwitch a fuel s { o with outs := o.outs.eraseIdx i, creds := o.creds.eraseIdx k }

/-- The oldest vector of every rank, and what is left; none while some rank has none. -/
def takeVecs (n : Nat) (vecs : List (Nat × List Byte)) : Option (List (List Byte) × List (Nat × List Byte)) :=
  (List.range n).foldl (fun acc r => acc.bind (fun (p : List (List Byte) × List (Nat × List Byte)) =>
    (firstIdx (fun (v : Nat × List Byte) => v.1 == r) p.2).map (fun i => (p.1 ++ [(p.2.getD i (0, [])).2], p.2.eraseIdx i))))
    (some ([], vecs))

/-- The manager's reduction in its switch: once every member's vector or segment is there, they are reduced in rank order and the
result goes to each; the next segment has its credits (R386, R409, R410). -/
def switchData (s : State) (from_ stream : Nat) (b : List Byte) : State :=
  match s.net.orders.find? (fun o => decide (o.switch = some (stream % 64) ∧ o.ph = .ticketed)) with
  | none => s
  | some o =>
    match authOf s o.group with
    | none => s
    | some a =>
      match firstIdx (fun (m : Nat × Nat) => m.1 == from_) a.members with
      | none => s
      | some r =>
        let o := { o with vecs := o.vecs ++ [(r, b)] }
        match takeVecs a.members.length o.vecs with
        | none => setOrder s o
        | some (l, rest) =>
          match l.tail.foldl (fun acc v => acc.bind (fun x => reduceBytes (switchOp a o).1 x v)) (some (l.headD [])) with
          | none => endOrder s o .anchorMismatch
          | some x =>
            let o := { o with vecs := rest, outs := o.outs ++ (List.range a.members.length).map (fun r => (r, x)) }
            let s := creditSwitch s a o 1
            match orderOf s o.group o.seq with
            | some o => flushSwitch a o.outs.length s o
            | none => s

/-- A member's credit for a result reaches the manager (R386). -/
def switchCredit (s : State) (gid seq rank ctx : Nat) : State :=
  match s.net.orders.find? (fun o => o.group == gid && o.switch.isSome && decide (o.seq ≤ seq) &&
      decide (seq < o.seq + (o.reqs.headD ⟨0, [], [], 0, 0, 0⟩).run)), authOf s gid with
  | some o, some a => flushSwitch a (o.outs.length + 1) s { o with creds := o.creds ++ [(rank, ctx)] }
  | _, _ => s

end Sys2Proof.Machine
end

