-- ==== Sys2Proof/Machine/ShoalCommands.lean ====
section
/-!
DEFINITION. The commands and events of chapter 13: flits and links, groups, collectives on member and authority, shoal
time, remote memory (R381-R386, R391-R418, R536, R540).
-/
namespace Sys2Proof.Machine

/-! ### Remote memory (R415, R416) -/

/-- Two records stand for one transfer. -/
def sameXfer (a b : RmemXfer) : Bool := a.num == b.num && a.owner == b.owner && (!a.owner || a.peer == b.peer)

def setXfer (s : State) (x : RmemXfer) : State :=
  { s with net := { s.net with xfers := s.net.xfers.map (fun y => if sameXfer x y then x else y) } }

def dropXfer (s : State) (x : RmemXfer) : State :=
  { s with net := { s.net with xfers := s.net.xfers.filter (fun y => !(sameXfer x y)) } }

/-- A window of a domain. -/
def windowAt (s : State) (d w : Nat) : Option Window := sparseGet none (domAt s d).windows w

def setWindow (s : State) (d w : Nat) (x : Option Window) : State :=
  modDom s d (fun y => { y with windows := sparseSet none y.windows w x })

/-- A window that closes is gone once the transfers accepted on it have ended (R416). -/
def settleWindow (s : State) (d w : Nat) : State :=
  match windowAt s d w with
  | none => s
  | some x =>
    if x.shut ∧ ¬ (s.net.xfers.any (fun y => y.owner && y.dom == d && y.window == w)) then
      let s := setWindow s d w none
      match x.closing with | some src => succeed src s | none => s
    else s

/-- A transfer ends on its caller with a status; SIGNAL only with success, else what it fetched is undefined (R416). -/
def endXfer (s : State) (x : RmemXfer) (st : Status) : State :=
  let s := dropXfer (if st ≠ .success ∧ x.begun = true ∧ x.put = false then undefineBytes s x.dom none [(x.va, x.len)] else s) x
  let s := if st = .success then (match x.signal with | some n => semAdd s n x.inc | none => s) else s
  match x.src with
  | some src => complete src st 0 s
  | none => s

/-- The WAIT condition of a command holds. -/
def waitHolds (s : State) (wait : Option Nat) (target : Nat) : Bool :=
  match wait with | none => true | some n => decide (target ≤ semAt s n)

/-- The module of a rank. -/
def moduleOf (g : Group) (rank : Nat) : Nat := (g.members.getD rank (0, 0)).1

/-- A transfer of this module's domain begins: its WAIT holds and, for RMEM_PUT, its source is not pending. -/
def beginXfer (s : State) (x : RmemXfer) : State :=
  if x.begun || x.owner || !(waitHolds s x.wait x.target) then s
  else match groupOf s x.group with
    | none => endXfer s x .memberLost
    | some g =>
      let ask := fun (s : State) =>
        sendMsg (setXfer s { x with begun := true, t0 := s.now }) x.peer
          (.rmem x.put x.num x.window x.group g.rank x.off x.len)
      if !x.put then ask (dropStagedIn s x.dom [(x.va, x.len)])
      else if rangePending s x.dom (x.va, x.len) then s
      else match vaFetch s x.dom x.va x.len with
        | (s, .error e) => endXfer s x e
        | (s, .ok b) =>
          match portToModule s x.peer with
          | some p => sendMessage (ask s) p 3 x.num b
          | none => ask s

/-- The owner of a window serves an RMEM_GET once its source is not pending. -/
def serveXfer (s : State) (x : RmemXfer) : State :=
  if !x.owner || x.put || rangePending s x.dom (x.va, x.len) then s
  else match vaFetch s x.dom x.va x.len with
    | (s, .error e) => settleWindow (dropXfer (sendMsg s x.peer (.rmemEnded x.num e)) x) x.dom x.window
    | (s, .ok b) =>
      match portToModule s x.peer with
      | some p => settleWindow (dropXfer (sendMessage s p 3 x.num b) x) x.dom x.window
      | none => s

/-- A request for a window reaches its owner: unknown window, range, permission or group gives WINDOW_BAD (R415). -/
def rmemRequest (s : State) (put : Bool) (num window gid rank off len : Nat) : State :=
  match groupOf s gid with
  | none => s
  | some g =>
    let bad := sendMsg s (moduleOf g rank) (.rmemEnded num .windowBad)
    match windowAt s g.dom window with
    | none => bad
    | some w =>
      if w.shut ∨ w.group ≠ gid ∨ w.len < off + len ∨ (if put then !w.writable else !w.readable) then bad
      else
        let x : RmemXfer := { num := num, src := none, dom := g.dom, put := put, owner := true, group := gid, rank := rank,
                              peer := moduleOf g rank, window := window, va := w.base + off, off := off, len := len, wait := none, target := 0,
                              signal := if put then w.signal else none, inc := w.inc, got := 0, begun := put, t0 := s.now }
        let s := if put then dropStagedIn s g.dom [(x.va, x.len)] else s
        serveXfer { s with net := { s.net with xfers := s.net.xfers ++ [x] } } x

/-- The local range of a transfer's destination lies in unsealed T1 pages. -/
def getRangeFault (s : State) (d va n : Nat) : Option Status :=
  match vaFault s d none va n with
  | some e => some e
  | none =>
    if (piecesOf va n).any (fun (a, _) => match xlat s d none a with
        | .ok p => p.tier != .t1 || p.sealed
        | .error _ => false) then some .sealedWrite
    else none

/-- A transfer's bytes arrive: an RMEM_GET on its caller, or an RMEM_PUT on the window's owner. DESIGN CHOICE: where a page of the
destination has been unmapped, sealed or demoted since the transfer was accepted, nothing is written: only migration and host DMA
write below T1, and the spec gives no status; an RMEM_GET ends with the fault, an RMEM_PUT with WINDOW_BAD (R65, R415). What comes 1 ms after the
request or later is no answer (R416). -/
def rmemData (s : State) (from_ num : Nat) (b : List Byte) : State :=
  let owner := fun (x : RmemXfer) => x.owner && x.put && (x.peer == from_ || decide (256 ≤ from_))
  match s.net.xfers.find? (fun x => x.num == num && x.got == 0 &&
      (owner x || (!x.owner && !x.put && x.begun && decide (s.now < x.t0 + 1000000)))) with
  | none => s
  | some x =>
    match getRangeFault s x.dom x.va x.len with
    | some e =>
      if x.owner then settleWindow (dropXfer (sendMsg s x.peer (.rmemEnded num .windowBad)) x) x.dom x.window
      else endXfer s x e
    | none =>
      let s := vaWrite s x.dom none x.va ((slice b 0 x.len).map (fun v => (v, false)))
      setXfer s { x with got := x.len }

/-- The peer can be reached: by its mesh port, a relay, or a rail to a neighbouring shoal (R415). -/
def rmemPath (s : State) (g : Group) (rank : Nat) : Bool :=
  let id := moduleOf g rank
  let r := s.net.role
  decide (rank < g.members.length) && rank != g.rank && (portToRank s g rank).isSome &&
    (shoalOf id == r.shoal || (workerOf id == r.worker &&
      (shoalOf id == (r.shoal + 1) % r.shoals || shoalOf id == (r.shoal + r.shoals - 1) % r.shoals)))

/-- RMEM_GET and RMEM_PUT (R415). A length of zero is refused with COMMAND_BAD. -/
def doRmem (put : Bool) (src : Src) (window gid rank wait va off len target signal inc : Nat) (s : State) : State :=
  ringCmd src (if put then 0x5B else 0x5A) [.active] (fun d s =>
    if len = 0 ∨ ((semOf signal).isSome ∧ inc = 0) then refuse src .commandBad s
    else if !(semFine s d wait) || !(semFine s d signal) then refuse src .syncScope s
    else match s.net.groups.find? (fun g => g.id == gid && g.dom == d) with
      | none => refuse src .windowBad s
      | some g =>
        if 64 ≤ window ∨ !(rmemPath s g rank) then refuse src .windowBad s
        else match (if put then vaFault s d none va len else getRangeFault s d va len) with
          | some e => refuse src e s
          | none =>
            let n := (lowestFree ((s.net.xfers.filter (fun x => !x.owner)).map (·.num)) 0 65536 (s.net.xfers.length + 1) 0).getD 0
            let x : RmemXfer := { num := n, src := some src, dom := d, put := put, owner := false, group := gid, rank := rank,
                                  peer := moduleOf g rank, window := window, va := va, off := off, len := len, wait := semOf wait, target := target,
                                  signal := semOf signal, inc := inc, got := 0, begun := false, t0 := s.now }
            beginXfer { s with net := { s.net with xfers := s.net.xfers ++ [x] } } x) s

def doRmemGet : Src → Nat → Nat → Nat → Nat → Nat → Nat → Nat → Nat → Nat → Nat → State → State := doRmem false
def doRmemPut : Src → Nat → Nat → Nat → Nat → Nat → Nat → Nat → Nat → Nat → Nat → State → State := doRmem true

/-- RMEM_EXPOSE (R415). A number that names an open window is refused. -/
def doRmemExpose (src : Src) (window perm gid sem inc va len : Nat) (s : State) : State :=
  ringCmd src 0x58 [.active] (fun d s =>
    if 64 ≤ window ∨ 4 ≤ perm ∨ len = 0 ∨ ((semOf sem).isSome ∧ inc = 0) then refuse src .commandBad s
    else if !(semFine s d sem) then refuse src .syncScope s
    else if !(s.net.groups.any (fun g => g.id == gid && g.dom == d)) || (windowAt s d window).isSome ||
        (vaFault s d none va len).isSome ||
        (bit perm 1 && (piecesOf va len).any (fun (a, _) => match xlat s d none a with
          | .ok p => p.sealed
          | .error _ => true)) then refuse src .windowBad s
    else succeed src (setWindow s d window (some
      { base := va, len := len, readable := bit perm 0, writable := bit perm 1, group := gid, signal := semOf sem, inc := inc,
        shut := false, closing := none }))) s

/-- RMEM_UNEXPOSE (R416). -/
def doRmemUnexpose (src : Src) (window : Nat) (s : State) : State :=
  ringCmd src 0x59 [.active] (fun d s =>
    match (if window < 64 then windowAt s d window else none) with
    | none => refuse src .windowBad s
    | some w =>
      if w.shut then refuse src .windowBad s
      else settleWindow (setWindow s d window (some { w with shut := true, closing := some src })) d window) s

/-- Every window of a domain closes once the transfers accepted on it have ended (R443). -/
def shutWindows (s : State) (d : Nat) : State :=
  (domAt s d).windows.foldl (fun s (e : Nat × Option Window) => match e.2 with
    | some w => settleWindow (setWindow s d e.1 (some { w with shut := true })) d e.1
    | none => s) s

/-- The remote-memory transfers of a domain end: those of its own with MEMBER_LOST, and those at its windows, whose callers
are told (R445). `tell` is clear when completion records are discarded with the rings. -/
def endXfersOf (s : State) (d : Nat) (tell : Bool) : State :=
  (s.net.xfers.filter (fun x => x.dom == d)).foldl (fun s x =>
    if x.owner then
      dropXfer (sendMsg s x.peer (.rmemEnded x.num .memberLost)) x
    else if tell then endXfer s x .memberLost else dropXfer s x) s

/-- RMEM_TRANSFER_DONE: the writes of a transfer are acknowledged: at the caller SIGNAL is applied and the command completes;
at a window's owner REMOTE_SIGNAL is applied and the caller told (R416). -/
def execRmemTransferDone (num : BitVec 16) (owner : Bool) (s : State) : Outcome :=
  match s.net.xfers.find? (fun x => x.num == num.toNat && x.owner == owner && decide (0 < x.got)) with
  | none => notNow "RMEM_TRANSFER_DONE"
  | some x =>
    if owner then
      let s := match x.signal with | some n => semAdd s n x.inc | none => s
      .next (settleWindow (dropXfer (sendMsg s x.peer (.rmemEnded x.num .success)) x) x.dom x.window)
    else .next (endXfer s x .success)

/-- RMEM_TIMEOUT: a transfer has gone 1 ms without an answer, or its peer is lost or out of reach (R416). -/
def execRmemTimeout (num : BitVec 16) (s : State) : Outcome :=
  match s.net.xfers.find? (fun x => x.num == num.toNat && !x.owner && x.begun && x.got == 0) with
  | none => notNow "RMEM_TIMEOUT"
  | some x =>
    let lost := (portToModule s x.peer).isNone || (match groupOf s x.group with
      | none => false
      | some g => !(g.members.any (fun m => m.1 == x.peer)))
    if lost = true ∨ x.t0 + 1000000 ≤ s.now then .next (endXfer s x .memberLost) else notNow "RMEM_TIMEOUT"

/-! ### Messages of VC 1 and VC 2 -/

/-- A status from its code in a control message. -/
def stOfCode (n : Nat) : Status :=
  ([Status.success, .unmapped, .rangeBad, .poison, .sealedWrite, .groupMismatch, .memberLost, .ticketTimeout, .headless,
    .opMismatch, .groupBad, .windowBad, .anchorMismatch].find? (fun s => statusCode s == n)).getD .memberLost

/-- Pairs from a list. -/
def pairUp : List Nat → List (Nat × Nat)
  | a :: b :: t => (a, b) :: pairUp t
  | _ => []

/-- A join completes: the group is formed, or all its joins failed (R393). -/
def joinDone (s : State) (key : Nat) (r : Except Status (Nat × Nat)) : State :=
  (s.net.joins.filter (fun j => j.key == key)).foldl (fun s j =>
    let s := { s with net := { s.net with joins := s.net.joins.filter (fun x => !(x == j)) } }
    match r with
    | .error e => complete j.src e 0 (logE 0 e none j.dom [] s)
    | .ok (id, gen) =>
      match firstIdx (fun (m : Nat × Nat) => m.1 == ownId s && m.2 == j.dom) j.members with
      | none => s
      | some rank =>
        let g : Group := ⟨id, gen, key, j.dom, rank, j.members, 1⟩
        complete j.src .success (id + 2 ^ 16 * gen + 2 ^ 48 * rank) { s with net := { s.net with groups := s.net.groups ++ [g] } }) s

/-- A collective has ended: on this member, or, told by a member, on this authority (R399, R401, R403). -/
def collEnded (s : State) (gid seq : Nat) (st : Status) : State :=
  match authOf s gid, orderOf s gid seq with
  | some _, some o => tickets (endOrder s o st)
  | _, _ =>
    match collOf s gid seq, groupOf s gid with
    | some c, _ => endColl s c st
    | none, some g => if st = .ticketTimeout then { s with net := { s.net with timed := s.net.timed ++ [(gid, g.gen, seq)] } } else s
    | none, none => s

/-- A control message whose meaning the bytes give (DESIGN CHOICE: the spec gives them no layout). -/
def ctlDeliver (s : State) (b : List Byte) : State :=
  match Config.ctlFields b with
  | 1 :: key :: id :: gen :: _ => joinDone s key (.ok (id, gen))
  | 2 :: key :: code :: _ => joinDone s key (.error (stOfCode code))
  | 3 :: gid :: seq :: code :: _ => collEnded s gid seq (stOfCode code)
  | 4 :: gid :: gen :: ms => regroup s gid gen (pairUp ms)
  | 5 :: key :: rank :: ms => authJoin s key (pairUp ms) rank
  | 6 :: gid :: m :: d :: _ => loseMember s (fun a => a.id == gid) (fun x => x == (m, d))
  | 7 :: put :: num :: window :: gid :: rank :: off :: len :: _ => rmemRequest s (put != 0) num window gid rank off len
  | 8 :: num :: code :: _ =>
    (match s.net.xfers.find? (fun x => x.num == num && !x.owner && x.begun && decide (s.now < x.t0 + 1000000)) with
     | none => s
     | some x => if stOfCode code = .success then setXfer s { x with got := x.len } else endXfer s x (stOfCode code))
  | 9 :: gid :: seq :: rank :: stripe :: ctx :: dig :: _ =>
    if 2 ≤ s.net.role.role then switchCredit s gid seq rank ctx else takeCredit s gid seq rank stripe ctx (leBytes 32 dig)
  | _ => s

/-! ### Flits (R381-R386) -/

/-- A whole message is delivered to its VC. -/
def deliverMessage (s : State) (p vc stream : Nat) (b : List Byte) : State :=
  let from_ := (portAt s p).peer
  if vc = 0 then
    (if portRole s p = 5 then switchData s from_ stream b else collData s from_ (stream % 64) (stream / 64 % 4) b)
  else if vc = 3 then rmemData s from_ stream b
  else ctlDeliver s b

/-- A PAYLOAD flit accepted in order: FIRST begins a message of its VC, LAST ends it. A credit for its VC goes back at once
with the acknowledgement. -/
def acceptFlit (s : State) (p : Nat) (f : List Byte) : State :=
  let x := portAt s p
  let info := leAt f 1 1
  let vc := info % 4
  let stream := leAt f 0xA 2
  let data := slice f 0xC (min 240 (leAt f 8 2))
  let sofar : Partial := if bit info 2 then some (stream, []) else x.parts.getD vc none
  let parts := fun (v : Partial) => setAt x.parts vc v
  let ack := fun (s : State) => sendCtl s p 0 vc 1 false
  let s := { s with pow := { s.pow with st := if s.pow.st = 1 then 0 else s.pow.st } }
  match sofar with
  | none => ack (setPort s p { x with rx := (x.rx + 1) % 65536 })
  | some (st, bytes) =>
    if bit info 3 then
      deliverMessage (ack (setPort s p { x with rx := (x.rx + 1) % 65536, parts := parts none })) p vc st (bytes ++ data)
    else ack (setPort s p { x with rx := (x.rx + 1) % 65536, parts := parts (some (st, bytes ++ data)) })

/-- The acknowledgement, credits and NAK that every flit carries: the replay buffer drops what ACK_SEQ covers, credits are
added, and a NAK replays every flit after it; the eighth replay of one flit in a row takes the link down (R383, R384). -/
def flitControl (s : State) (p : Nat) (f : List Byte) : State :=
  let x := portAt s p
  let first := match x.buf with | [] => x.tx | b :: _ => b.1
  let n := (leAt f 4 2 + 65536 - first + 1) % 65536
  let buf := if n ≤ x.buf.length then x.buf.drop n else x.buf
  let cr := leAt f 6 1
  let caps : List Nat := [1024, 64, 64, 512]
  let credits := modAt x.credits (cr % 4) (fun c => min (caps.getD (cr % 4) 0) (c + leAt f 7 1))
  let x := { x with buf := buf, credits := credits }
  if bit cr 2 && !buf.isEmpty then
    let head := match buf with | [] => 0 | b :: _ => b.1
    let run := if x.nakRun ≠ 0 ∧ x.nakAt = head then x.nakRun + 1 else 1
    let s := setPort s p { x with replays := wrap32 (x.replays + 1), nakAt := head, nakRun := run }
    if 8 ≤ run then linkDown s p else pump (buf.foldl (fun s b => sendRaw s p b.2) s) p
  else pump (setPort s p { x with nakRun := if n = 0 then x.nakRun else 0 }) p

/-- A flit arrives at a port with a number of corrected symbols; `bad` when it lies in an uncorrectable codeword. It is
discarded when bad or when its CRC fails, and NAK asks for it again (R382, R383). -/
def recvFlit (name : String) (type : Nat) (p : Fin 18) (flit : BitVec 2048) (corrected : Nat) (bad : Bool) (s : State) :
    Outcome :=
  let f := leBytes 256 flit.toNat
  let good := !bad && leAt f 0xFC 4 == crc32c (f.take 252)
  if !(portUp s p) || (good && leAt f 0 1 != type) then notNow name
  else
    let x := portAt s p
    let s := setPort s p { x with corr := wrap32 (x.corr + corrected), uncorr := wrap32 (x.uncorr + b2n bad) }
    if !good then .next (sendCtl s p 2 0 0 true)
    else
      let s := flitControl s p f
      if type ≠ 1 || !(portUp s p) then .next s
      else
        let s := wakeS2 s
        let seq := leAt f 2 2
        let rx := (portAt s p).rx
        if seq = rx then .next (acceptFlit s p f)
        else if (seq + 65536 - rx) % 65536 < 32768 then .next (sendCtl s p 2 0 0 true)
        else .next (sendCtl s p 0 0 0 false)

def execPayloadFlit (p : Fin 18) (flit : BitVec 2048) (corrected : BitVec 8) (bad : Bool) (s : State) : Outcome :=
  recvFlit "PAYLOAD_FLIT" 1 p flit corrected.toNat bad s

def execLinkCtrlFlit (p : Fin 18) (flit : BitVec 2048) (corrected : BitVec 8) (bad : Bool) (s : State) : Outcome :=
  recvFlit "LINK_CTRL_FLIT" 2 p flit corrected.toNat bad s

def execIdleFlit (p : Fin 18) (flit : BitVec 2048) (corrected : BitVec 8) (bad : Bool) (s : State) : Outcome :=
  recvFlit "IDLE_FLIT" 0 p flit corrected.toNat bad s

/-! ### Links (R384, R391, R418, R540) -/

/-- PORT_TRAINED: an enabled port in use ends its training; the peer's MODULE_ID and PORT_ROLE decide whether it comes up
(R380, R391). -/
def execPortTrained (p : Fin 18) (half : Bool) (id : BitVec 10) (role : BitVec 4) (s : State) : Outcome :=
  let x := portAt s p
  if running s && portRole s p != 0 && !x.disable && !x.cableOff && [1, 2, 4, 5].contains x.st then
    .next (portTrained s p half id.toNat role.toNat)
  else notNow "PORT_TRAINED"

/-- LINK_DOWN: an end of an up port declares its link down (R384). -/
def execLinkDown (p : Fin 18) (s : State) : Outcome := if portUp s p then .next (linkDown s p) else notNow "LINK_DOWN"

/-- PORT_RETRAIN: SND_PORT_CTRL.RETRAIN retrains this port alone; a port unused or held down rests (R418, R422). -/
def execPortRetrain (p : Fin 18) (s : State) : Outcome :=
  .next (viaHost s (fun s => if portRole s p = 0 ∨ (portAt s p).disable then s
    else setPort s p { freshLink (portAt s p) with st := 4, half := false, downAt := s.now }))

/-- CBL_3V3_SHORT: the connector's cable supply is off; an up port goes down, and the port retries training (R540). -/
def execCbl3v3Short (p : Fin 18) (s : State) : Outcome :=
  let s := if portUp s p then linkDown s p else s
  .next (setPort s p { portAt s p with cableOff := true })

/-! ### Groups (R393, R394, R411) -/

/-- The member list at a VA: MODULE_ID and domain for each entry; none when a reserved byte is set. -/
def readMembers (b : List Byte) (n : Nat) : Option (List (Nat × Nat)) :=
  let es := (List.range n).map (fun i => slice b (4 * i) 4)
  if es.all (fun e => leAt e 3 1 == 0) then some (es.map (fun e => (leAt e 0 2, leAt e 2 1))) else none

/-- GROUP_JOIN (R393, R394, R413). -/
def doGroupJoin (src : Src) (key list count : Nat) (s : State) : State :=
  ringCmd src 0x50 [.active] (fun d s =>
    if s.net.headless then refuse src .headless s
    else if count < 2 ∨ 256 < count then refuse src .groupBad s
    else match vaFetch s d list (4 * count) with
      | (s, .error e) => refuse src e s
      | (s, .ok b) =>
        match readMembers b count with
        | none => refuse src .groupBad s
        | some ms =>
          if !(membersOk ms) || s.net.role.role != 1 then refuse src .groupBad s
          else match firstIdx (fun (m : Nat × Nat) => m == (ownId s, d)) ms with
            | none => refuse src .groupBad s
            | some rank =>
              sendMsg { s with net := { s.net with joins := s.net.joins ++ [⟨src, d, key, ms, s.now⟩] } }
                (authorityId s ms) (.join key ms rank)) s

/-- JOIN_TIMEOUT: TICKET_TIMEOUT has passed since the first join that this module knows of, as authority or as member
(R393). -/
def execJoinTimeout (key : BitVec 64) (s : State) : Outcome :=
  let due := fun t => decide (t + ticketTimeout s ≤ s.now)
  match s.net.auth.find? (fun a => a.key == key.toNat && !a.formed && due a.t0) with
  | some a =>
    let s := { s with net := { s.net with auth := s.net.auth.filter (fun x => !(x.key == key.toNat && !x.formed)) } }
    .next (tellAll s (a.joined.map (fun r => a.members.getD r (0, 0))) (.joinEnded key.toNat .ticketTimeout))
  | none =>
    if s.net.joins.any (fun j => j.key == key.toNat && due j.t0) then .next (joinDone s key.toNat (.error .ticketTimeout))
    else notNow "JOIN_TIMEOUT"

/-- GROUP_LEAVE (R394, R411). -/
def doGroupLeave (src : Src) (gid : Nat) (s : State) : State :=
  ringCmd src 0x51 [.active] (fun d s =>
    match s.net.groups.find? (fun g => g.id == gid && g.dom == d) with
    | none => refuse src .groupMismatch s
    | some g => succeed src (leaveGroup (sendMsg s (authorityId s g.members) (.leave gid d)) g)) s

/-! ### COLL on a member (R394-R399, R403, R404) -/

/-- The record of a COLL as its operands (R438). -/
def collOpOf (group root gen seq kind op fmt flags srcVa dstVa countsVa count target wait signal inc run : Nat) : CollOp :=
  { group := group, gen := gen, seq := seq, kind := kind, op := op, fmt := fmt, inSwitch := bit flags 0,
    stripes := bits flags 2 1 + 1, w128 := bit flags 3, srcVa := srcVa, dstVa := dstVa, countsVa := countsVa, count := count,
    root := root, wait := semOf wait, target := target, signal := semOf signal, inc := inc, run := run }

/-- KIND, OP and FORMAT hold no reserved value (R8) and are a combination of R403; only reductions run in the manager's switch. -/
def collFine (o : CollOp) (n : Nat) : Bool :=
  decide (o.run ≤ 256) && (o.signal.isNone || o.inc != 0) && decide (o.op < 3) && (fmtOf o.fmt).isSome &&
  (if o.kind = 6 then true
   else if o.kind = 0 ∨ o.kind = 1 ∨ o.kind = 4 then
     (if o.op = 0 then o.w128 || o.fmt == 0 else !o.w128 && decide (o.fmt < 2))
   else decide (o.kind < 6) && !o.inSwitch) &&
  (o.kind != 5 || decide (o.root < n))

/-- Collectives that a domain has posted. -/
def postedOf (s : State) (d : Nat) : Nat := (s.net.colls.filter (fun c => c.dom == d)).length

/-- Source and destination ranges overlap (R394). -/
def collInPlace (o : CollOp) (g : Group) (counts : List Nat) : Bool :=
  overlaps (o.srcVa, (sourceOf o g.rank counts).1) (o.dstVa, (resultOf o g.members g.rank counts).2)

/-- COLL (R394, R395, R398, R401, R403, R409, R413). -/
def doColl (src : Src) (flags wait signal : Nat) (o : CollOp) (s : State) : State :=
  ringCmd src 0x52 [.active] (fun d s =>
    if 16 ≤ flags then refuse src .commandBad s
    else match s.net.groups.find? (fun g => g.id == o.group && g.dom == d) with
      | none => refuse src .groupMismatch s
      | some g =>
        if g.gen ≠ o.gen then refuse src .groupMismatch s
        else if !(collFine o g.members.length) then refuse src .commandBad s
        else if !(semFine s d wait) || !(semFine s d signal) then refuse src .syncScope s
        else if 256 ≤ s.net.colls.length ∨ 4 * ctxQuota s d ≤ postedOf s d then refuse src .noContext s
        else if s.net.headless then refuse src .headless s
        else
          let n := g.members.length
          match (if o.kind = 3 ∨ o.kind = 4 then vaFetch s d o.countsVa (4 * n) else (s, .ok [])) with
          | (s, .error e) => refuse src e s
          | (s, .ok b) =>
            let counts := if o.kind = 3 ∨ o.kind = 4 then (List.range n).map (fun i => leAt b (4 * i) 4) else []
            if collInPlace o g counts then refuse src .inPlace s
            else if (numRec s d).det = 2 ∧ o.op = 0 ∧ !o.w128 ∧ (o.kind = 0 ∨ o.kind = 1 ∨ o.kind = 4) then
              refuse src .detLevelConflict s
            else if o.seq ≠ g.next ∨ (o.inSwitch ∧ crossShoal g.members) then refuse src .groupBad s
            else if (tablesDigest s d).isNone then refuse src .groupMismatch s
            else
              let late := s.net.timed.contains (o.group, o.gen, o.seq)
              let s := { s with net := { s.net with
                groups := s.net.groups.map (fun x => if x.id = g.id then { x with next := x.next + 1 } else x)
                timed := s.net.timed.filter (fun t => !(t == (o.group, o.gen, o.seq))) } }
              if late then complete src .ticketTimeout 0 s
              else { s with net := { s.net with colls := s.net.colls ++ [{ src := src, dom := d, o := o, counts := counts }] } }) s

/-- COLL_WAIT_MET: the WAIT of a posted collective holds: REQUEST goes to the authority, or, within a run of tickets, the
collective takes its turn (R396, R398, R400, R401). -/
def execCollWaitMet (gid : BitVec 16) (seq : BitVec 32) (s : State) : Outcome :=
  match collOf s gid.toNat seq.toNat, groupOf s gid.toNat with
  | some c, some g =>
    if decide (c.ph ≠ .posted) || !(waitHolds s c.o.wait c.o.target) then notNow "COLL_WAIT_MET"
    else if s.net.runs.any (fun r => r.1 == g.id && decide (r.2.2.1 ≤ c.o.seq) && decide (c.o.seq ≤ r.2.2.2)) then
      .next (startRun (setColl s { c with ph := .queued }) g.id)
    else match tablesDigest s g.dom with
      | none => .next (endColl s c .groupMismatch)
      | some t =>
        .next (sendMsg (setColl s { c with ph := .requested }) (authorityId s g.members)
          (.request g.id g.gen c.o.seq g.rank (groupDigest s g t) (opDigest c.o) (max c.o.run 1) c.o.count (howOf c.o)))
  | _, _ => notNow "COLL_WAIT_MET"

/-- COLL_RESERVE: the member queues the RESERVE and grants contexts in arrival order (R397). -/
def execCollReserve (gid : BitVec 16) (seq : BitVec 32) (s : State) : Outcome :=
  match collOf s gid.toNat seq.toNat, groupOf s gid.toNat with
  | some c, some g =>
    if c.ph = .requested then
      .next (grant { s with net := { s.net with resvs := s.net.resvs ++ [⟨crossShoal g.members, g.id, c.o.seq⟩] } })
    else notNow "COLL_RESERVE"
  | _, _ => notNow "COLL_RESERVE"

/-- COLL_TICKET: the destination range becomes pending, a run of tickets opens, and data moves (R397, R398, R404). -/
def execCollTicket (gid : BitVec 16) (seq : BitVec 32) (counts : List (BitVec 32)) (s : State) : Outcome :=
  match collOf s gid.toNat seq.toNat, groupOf s gid.toNat with
  | some c, some g =>
    if c.ph = .reserved ∧ counts.length = g.members.length then
      let counts := counts.map BitVec.toNat
      let r := resultOf c.o g.members g.rank counts
      let runs := if 2 ≤ c.o.run then s.net.runs ++ [(g.id, c.ctx.getD 0, c.o.seq, c.o.seq + c.o.run - 1)] else s.net.runs
      let s := setColl (dropStagedIn { s with net := { s.net with runs := runs } } c.dom [(c.o.dstVa, r.2)])
        { c with ph := .moving, counts := counts, outAt := c.o.dstVa, outLen := r.2 }
      .next (advance s g.id c.o.seq)
    else notNow "COLL_TICKET"
  | _, _ => notNow "COLL_TICKET"

/-- COLL_WRITES_DONE: the schedule is through and the result written and acknowledged: DONE goes to the authority. A
destination that cannot be written ends the collective (R404). -/
def execCollWritesDone (gid : BitVec 16) (seq : BitVec 32) (s : State) : Outcome :=
  match collOf s gid.toNat seq.toNat, groupOf s gid.toNat with
  | some c, some g =>
    if decide (c.ph = .moving) && c.loaded && c.sched.all List.isEmpty then
      let r := resultOf c.o g.members g.rank c.counts
      match getRangeFault s c.dom c.o.dstVa r.2 with
      | some e => .next (sendMsg (endColl s c e) (authorityId s g.members) (.ended g.id c.o.seq e))
      | none =>
        let s := vaWrite s c.dom none c.o.dstVa ((slice c.vec r.1 r.2).map (fun b => (b, false)))
        .next (sendMsg (setColl s { c with ph := .written, doneAt := some s.now }) (authorityId s g.members)
          (.done g.id c.o.seq g.rank))
    else notNow "COLL_WRITES_DONE"
  | _, _ => notNow "COLL_WRITES_DONE"

/-- A member that sent DONE in a headless shoal has waited 20 µs, from then or from when the shoal became headless; collectives
of the top manager go on (R413). -/
def commitLate (s : State) (g : Group) (c : Coll) : Bool :=
  s.net.headless && !(crossShoal g.members) &&
    (match c.doneAt with | some t => decide (max t s.net.headlessAt + 20000 ≤ s.now) | none => false)

/-- COLL_COMMIT: COMMIT from the authority or a peer: forwarded to every other member over the mesh ports, then the collective
commits and a run goes on (R397, R398, R404, R413). -/
def execCollCommit (gid : BitVec 16) (seq : BitVec 32) (s : State) : Outcome :=
  match collOf s gid.toNat seq.toNat, groupOf s gid.toNat with
  | some c, some g =>
    if c.ph = .written ∧ !(commitLate s g c) then
      let peers := (g.members.map (·.1)).filter (fun m => m != ownId s && shoalOf m == s.net.role.shoal &&
        (match portOf s 1 (workerOf m) with | some p => portUp s p | none => false))
      let s := peers.foldl (fun s m => sendMsg s m (.commit g.id c.o.seq)) s
      .next (startRun (commitColl s c) g.id)
    else notNow "COLL_COMMIT"
  | _, _ => notNow "COLL_COMMIT"

/-- HEADLESS_COMMIT_TIMEOUT: no COMMIT was forwarded in time (R413). -/
def execHeadlessCommitTimeout (gid : BitVec 16) (seq : BitVec 32) (s : State) : Outcome :=
  match collOf s gid.toNat seq.toNat, groupOf s gid.toNat with
  | some c, some g =>
    if c.ph = .written ∧ commitLate s g c then .next (endColl s c .headless)
    else notNow "HEADLESS_COMMIT_TIMEOUT"
  | _, _ => notNow "HEADLESS_COMMIT_TIMEOUT"

/-! ### COLL on the authority (R396, R397, R399, R401, R404) -/

/-- The members whose digests differ from the first request's, with a log entry for each, and the end of the collective
(R401). -/
def endDiffering (s : State) (o : Order) (st : Status) (dig : Request → List Byte) : State :=
  let first := match o.reqs with | [] => [] | r :: _ => dig r
  let s := (o.reqs.filter (fun r => dig r != first)).foldl (fun s r =>
    logE 1 st (some 0x175) 0xFF (leBytes 2 r.rank ++ (dig r).take 8) s) s
  tickets (endOrder (raise 0x175 s) o st)

/-- A REQUEST against those held: digests, then the total order and RESERVE to every member (R396, R401). -/
def takeRequest (s : State) (a : AuthGroup) (o : Order) (r : Request) : State :=
  let o := { o with reqs := o.reqs ++ [r] }
  let s := setOrder s o
  if o.reqs.any (fun q => q.gdig != (o.reqs.headD r).gdig) then endDiffering s o .groupMismatch (·.gdig)
  else if o.reqs.any (fun q => q.odig != (o.reqs.headD r).odig) then endDiffering s o .opMismatch (·.odig)
  else if a.members.length ≤ o.reqs.length then
    let s := setOrder s { o with ph := .reserving, pos := s.net.nextPos }
    tellAll { s with net := { s.net with nextPos := s.net.nextPos + 1 } } a.members (.reserve o.group o.seq)
  else s

/-- COLL_REQUEST: a member's REQUEST reaches its authority. A stale generation is answered with GROUP_MISMATCH, a request for
a collective that has ended with its status (R396, R399, R401). -/
def execCollRequest (gid : BitVec 16) (gen seq : BitVec 32) (rank : BitVec 8) (gdig odig : BitVec 256) (run : BitVec 16)
    (count : BitVec 32) (how : BitVec 8) (s : State) : Outcome :=
  match authOf s gid.toNat with
  | none => notNow "COLL_REQUEST"
  | some a =>
    let m := (a.members.getD rank.toNat (0, 0)).1
    let r : Request := ⟨rank.toNat, leBytes 32 gdig.toNat, leBytes 32 odig.toNat, run.toNat, count.toNat, how.toNat⟩
    if a.members.length ≤ rank.toNat then notNow "COLL_REQUEST"
    else if a.gen ≠ gen.toNat then .next (sendMsg s m (.ended a.id seq.toNat .groupMismatch))
    else match orderOf s a.id seq.toNat with
      | none =>
        let o : Order := { group := a.id, gen := a.gen, seq := seq.toNat, t0 := s.now, reqs := [] }
        .next (takeRequest { s with net := { s.net with orders := s.net.orders ++ [o] } } a o r)
      | some o =>
        match o.ph with
        | .ended st => .next (sendMsg s m (.ended a.id seq.toNat st))
        | .collecting =>
          if o.reqs.any (fun q => q.rank == rank.toNat) then notNow "COLL_REQUEST" else .next (takeRequest s a o r)
        | .reserving => notNow "COLL_REQUEST"
        | .ticketed => notNow "COLL_REQUEST"

/-- COLL_RESERVED: a member has granted its context; with all of them TICKET goes out (R397). -/
def execCollReserved (gid : BitVec 16) (seq : BitVec 32) (rank : BitVec 8) (s : State) : Outcome :=
  match orderOf s gid.toNat seq.toNat with
  | none => notNow "COLL_RESERVED"
  | some o =>
    if o.ph = .reserving ∧ ¬ (o.reserved.contains rank.toNat) ∧ o.reqs.any (fun q => q.rank == rank.toNat) then
      .next (tickets (setOrder s { o with reserved := o.reserved ++ [rank.toNat] }))
    else notNow "COLL_RESERVED"

/-- COLL_DONE: with DONE from every member COMMIT goes out, and the in-switch context is free after the last of a run. The collectives that follow the
first of a run have no REQUEST, and their record opens here (R398, R404). -/
def execCollDone (gid : BitVec 16) (seq : BitVec 32) (rank : BitVec 8) (s : State) : Outcome :=
  match authOf s gid.toNat with
  | none => notNow "COLL_DONE"
  | some a =>
    let inRun := s.net.orders.any (fun o => o.group == a.id && decide (o.seq < seq.toNat) &&
      o.reqs.any (fun r => decide (seq.toNat < o.seq + r.run)))
    let s := match orderOf s a.id seq.toNat with
      | some _ => s
      | none => if inRun then { s with net := { s.net with orders := s.net.orders ++
          [{ group := a.id, gen := a.gen, seq := seq.toNat, t0 := s.now, reqs := [], ph := .ticketed }] } } else s
    match orderOf s a.id seq.toNat with
    | none => notNow "COLL_DONE"
    | some o =>
      if o.ph = .ticketed ∧ rank.toNat < a.members.length ∧ ¬ (o.dones.contains rank.toNat) then
        let o := { o with dones := o.dones ++ [rank.toNat] }
        if o.dones.length < a.members.length then .next (setOrder s o)
        else
          let keep := fun (x : Order) => !(x.group == a.id && decide (x.seq + ((x.reqs.map (·.run)).foldl max 1) ≤ seq.toNat + 1))
          let s := setOrder s { o with switch := if seq.toNat + 1 < o.seq + (o.reqs.map (·.run)).foldl max 1 then o.switch else none }
          let s := { s with net := { s.net with orders := s.net.orders.filter keep } }
          .next (tickets (tellAll s a.members (.commit a.id seq.toNat)))
      else notNow "COLL_DONE"

/-- TICKET_TIMEOUT: no ticket within TICKET_TIMEOUT of the first REQUEST (R399). -/
def execTicketTimeout (gid : BitVec 16) (seq : BitVec 32) (s : State) : Outcome :=
  match orderOf s gid.toNat seq.toNat with
  | none => notNow "TICKET_TIMEOUT"
  | some o =>
    if (o.ph = .collecting ∨ o.ph = .reserving) ∧ o.t0 + ticketTimeout s ≤ s.now then .next (tickets (endOrder s o .ticketTimeout))
    else notNow "TICKET_TIMEOUT"

/-! ### Loss of members and managers (R411, R413) -/

/-- MEMBER_UNREACHABLE: the authority has had no link to a module for 10 µs (R411). -/
def execMemberUnreachable (module : BitVec 10) (s : State) : Outcome :=
  let id := module.toNat
  let p := if s.net.role.role = 3 then portOf s 8 (shoalOf id) else portOf s 5 (workerOf id)
  match p with
  | none => notNow "MEMBER_UNREACHABLE"
  | some p =>
    if 2 ≤ s.net.role.role ∧ id < 256 ∧ ¬ (portUp s p) ∧ (portAt s p).downAt + 10000 ≤ s.now then
      .next (loseMember s (fun _ => true) (fun m => m.1 == id))
    else notNow "MEMBER_UNREACHABLE"

/-- MANAGER_LOST: a worker has had no path to its manager for 10 µs: the shoal is headless; joins, and collectives of the
shoal's own order that have no ticket, end with HEADLESS (R413). -/
def execManagerLost (s : State) : Outcome :=
  match managerPort s with
  | none => notNow "MANAGER_LOST"
  | some p =>
    if s.net.role.role = 1 ∧ ¬ s.net.headless ∧ ¬ (portUp s p) ∧ (portAt s p).downAt + 10000 ≤ s.now then
      let s := raise 0x174 (logE 1 .headless (some 0x174) 0xFF [] 
        { s with net := { s.net with headless := true, headlessAt := s.now } })
      let s := s.net.joins.foldl (fun s j => joinDone s j.key (.error .headless)) s
      let stuck := fun (c : Coll) => decide (c.ph = .posted ∨ c.ph = .requested ∨ c.ph = .reserved) &&
        (match groupOf s c.o.group with | some g => !(crossShoal g.members) | none => true)
      .next ((s.net.colls.filter stuck).foldl (fun s c => endColl s c .headless) s)
    else notNow "MANAGER_LOST"

/-! ### Shoal time (R402, R536) -/

/-- TIME_BEACON: a beacon's time and the measured round trip correct shoal time on a module that follows another. -/
def execTimeBeacon (time : BitVec 64) (rtt : BitVec 32) (s : State) : Outcome :=
  if s.net.role.role = 0 ∨ timeSource s.net then notNow "TIME_BEACON" else .next (timeBeacon s time.toNat rtt.toNat)

/-- TIME_BEACON_SEND: 100 µs have passed: a manager sends a beacon to each module that it serves. -/
def execTimeBeaconSend (s : State) : Outcome :=
  if 2 ≤ s.net.role.role ∧ s.net.beatAt + 100000 ≤ s.now then
    .next ((beaconPeers s).foldl (fun s m => sendMsg s m (.beacon (shoalTime s))) { s with net := { s.net with beatAt := s.now } })
  else notNow "TIME_BEACON_SEND"

/-- SHOAL_PULSE: a whole millisecond of shoal time at a manager with PULSE_OUT in S0, S1 or S2 (R402, R536). -/
def execShoalPulse (s : State) : Outcome :=
  let ms := shoalTime s / 1000000
  if 2 ≤ s.net.role.role ∧ s.net.role.pulse ∧ s.pow.st < 3 ∧ s.net.pulseAt < ms then
    .next { s with sent := s.sent ++ [.pulse (ms * 1000000)], net := { s.net with pulseAt := ms } }
  else notNow "SHOAL_PULSE"

/-- What waits in the sound fabric goes on as far as it can: transfers whose WAIT or hold has ended, collectives whose source
was held, runs. -/
def netTick (s : State) : State :=
  let s := s.net.xfers.foldl (fun s x => if x.owner then serveXfer s x else beginXfer s x) s
  let s := s.net.groups.foldl (fun s g => startRun s g.id) s
  s.net.colls.foldl (fun s c => if c.ph = .moving then advance s c.o.group c.o.seq else s) s

end Sys2Proof.Machine
end

