-- ==== Sys2Proof/Machine/DomainCommands.lean ====
section
/-!
DEFINITION. The life of a domain: BIND to UNBIND, draining, zeroisation, faults, and the end of all that a domain has in
flight (R71, R77, R105, R370, R440-R446).
-/
namespace Sys2Proof.Machine

/-! ### The end of what a domain has in flight (R370, R445) -/

/-- Every task of a domain ends without commit and without a record; its straits are fenced and its reef counts zero. The
straits between lent islands, where tasks of other domains run on, are left (R370). -/
def endTasksOf (s : State) (d : Nat) : State :=
  let mine := s.tasks.filter (fun t => t.desc.domain == d)
  let foreign := (s.tasks.filter (fun t => t.desc.domain != d)).filterMap (·.island)
  let isls := ((ownedIslands s d).filter (fun i => !(foreign.contains i)) ++ mine.filterMap (·.island)).eraseDups
  let s := mine.foldl removeTask (fenceBetween s isls)
  let s := modDom s d (fun x => { x with tasking := [] })
  match domRec s d with
  | none => s
  | some r =>
    let clear := fun (w : Nat) (rs : List ReefRange) (m : Nat → Nat → State → State) (s : State) =>
      rs.zipIdx.foldl (fun s (e : ReefRange × Nat) => m (e.2 * 2 ^ w + e.1.1) e.1.2 s) s
    let s := clear 12 r.sem (fun a n s => { s with sems := sparseClear s.sems a n }) s
    clear 10 r.bar (fun a n s => { s with bars := sparseClear s.bars a n }) s

/-- Tasks, channels, groups, transfers and windows of a domain end (R370, R445). -/
def stopDomain (s : State) (d : Nat) : State :=
  let s := dropChansOf (endTasksOf s d) d
  let s := partGroups true (endXfersOf s d false) d
  modDom s d (fun x => { x with windows := [] })

/-- Commands of a domain that still wait are refused: its state has moved on. -/
def refuseWaiting (s : State) (d : Nat) : State :=
  let x := domAt s d
  let l := x.waitBind ++ x.waitArm ++ x.waitDrain.toList
  let s := modDom s d (fun x => { x with waitBind := [], waitArm := [], waitDrain := none })
  l.foldl (fun s src => complete src .stateRefused 0 s) s

/-- A domain enters FAULTED: event, fatal log entry, memory kept (R444). -/
def faultDomain (s : State) (d : Nat) (cause : Status) : State :=
  if (domAt s d).st = .faulted then s
  else
    let s := refuseWaiting (stopDomain s d) d
    let s := modDom s d (fun x => { x with st := .faulted, fault := statusCode cause })
    raise (0x100 + d) (logE 3 cause (some (0x100 + d)) d [] s)

/-- What the migration engine, the lagoons and the translation caches hold of a domain is gone. -/
def forgetDomain (s : State) (d : Nat) : State :=
  { s with
    islands := sparseMap {} s.islands (fun i => { i with xlat := i.xlat.filter (fun e => e.1 / 2 ^ 32 != d) })
    mig := { s.mig with
      promos := s.mig.promos.filter (fun q => q.dom != d)
      barred := s.mig.barred.filter (fun q => q.1 != d)
      olds := s.mig.olds.filter (fun q => q.dom != d)
      unmaps := s.mig.unmaps.filter (fun q => q.dom != d)
      seals := s.mig.seals.filter (fun q => q.dom != d)
      reads := s.mig.reads.filter (fun q => q.dom != d)
      lag := s.mig.lag.filter (fun q => q.dom != d)
      stagings := s.mig.stagings.filter (fun q => q.id.dom != d) } }

/-- A domain enters EMPTY with ZEROISING set: page map, programs, lists, prefixes, shadows and all else it held are
gone (R105, R443, R445). -/
def emptyDomain (s : State) (d : Nat) : State :=
  let s := forgetDomain s d
  let serials := (domAt s d).programs.filterMap (fun (e : Nat × Option (Nat × Program)) => e.2.map (·.1))
  let s := { s with islands := sparseMap {} s.islands (fun i =>
    { i with store := i.store.filter (fun e => !(serials.contains e.1)) }) }
  let bars := match domRec s d with | some r => (r.sem, r.bar) | none => ([], [])
  let s := bars.1.zipIdx.foldl (fun s (e : ReefRange × Nat) =>
    { s with sems := sparseClear s.sems (e.2 * 2 ^ 12 + e.1.1) e.1.2 }) s
  let s := bars.2.zipIdx.foldl (fun s (e : ReefRange × Nat) =>
    { s with bars := sparseClear s.bars (e.2 * 2 ^ 10 + e.1.1) e.1.2 }) s
  setDom s d { zeroising := true }

/-- A domain's vaults and channels read zero, with poison and latent errors gone (R105, R106). -/
def zeroDomain (s : State) (d : Nat) : State :=
  let s := (ownedIslands s d).foldl (fun s v => dramZero s (v * 2 ^ 30) (2 ^ 30)) s
  (chanList (memRec s d)).foldl (fun s c => dramZero s (2 ^ 40 + c * 2 ^ 36) (2 ^ 36)) s

/-! ### BIND to UNBIND (R441, R443) -/

/-- The domain is bound; a unified one takes the eight frames of its directory (R77). -/
def bindNow (src : Src) (d : Nat) (s : State) : State :=
  let done := fun (s : State) => complete src .success d (modDom s d (fun x => { x with st := .bound }))
  if (memRec s d).split then done s
  else match ensureStruct s d .directory 8 with
    | none => refuse src .nearFull s
    | some s => done s

/-- DRAM that was lost is still being initialised: no domain can be bound (R106). -/
def initWait (s : State) : Bool := s.pow.initing && (List.range 16).any (fun e => (domAt s e).zeroising)

/-- BIND: DOMAIN_UNKNOWN where no record names the VF; it waits while ZEROISING is set, or DRAM is initialised (R106, R443). -/
def doBind (src : Src) (s : State) : State :=
  match domOfVf s src.vf with
  | none => refuse src .domainUnknown s
  | some d =>
    if (domAt s d).st ≠ .empty then refuseState src 0x10 (some d) s
    else if (domAt s d).zeroising || initWait s then modDom s d (fun x => { x with waitBind := x.waitBind ++ [src] })
    else bindNow src d s

/-- The resident programs of a domain: serial and bytes. -/
def residents (x : Dom) : List (Nat × Nat) :=
  x.programs.filterMap (fun (e : Nat × Option (Nat × Program)) => match e.2 with
    | some (n, p) => if isResident p then some (n, p.bytes) else none
    | none => none)

/-- ARM: with no resident program it completes at once; else the programs go to the stores, and ARM_COMPLETE ends it (R443). -/
def doArm (src : Src) (s : State) : State :=
  ringCmd src 0x11 [.bound] (fun d s =>
    if (residents (domAt s d)).isEmpty then succeed src (modDom s d (fun x => { x with st := .loaded }))
    else modDom s d (fun x => { x with waitArm := x.waitArm ++ [src] })) s

/-- ARM_COMPLETE: every resident program is in the store of every island of the domain, which enters LOADED. -/
def execArmComplete (dom : Fin 16) (s : State) : Outcome :=
  let x := domAt s dom
  if x.waitArm.isEmpty ∨ x.st ≠ .bound then notNow "ARM_COMPLETE"
  else
    let s := (residents x).foldl (fun s e => storeEverywhere s dom e.1 e.2) s
    let s := modDom s dom (fun x => { x with st := .loaded, waitArm := [] })
    .next (x.waitArm.foldl (fun s src => succeed src s) s)

/-- START takes effect when it completes (R443). -/
def doStart (src : Src) (s : State) : State :=
  ringCmd src 0x12 [.loaded] (fun d s => succeed src (modDom s d (fun x => { x with st := .active }))) s

/-- DRAIN: work in flight runs on; channels close as their queues end, the domain is lost to its groups, and its windows
close once accepted transfers end (R411, R443). -/
def doDrain (src : Src) (s : State) : State :=
  ringCmd src 0x13 [.active] (fun d s =>
    let s := modDom s d (fun x => { x with st := .draining, waitDrain := some src })
    settleChansOf (shutWindows (leaveGroups s d) d) d) s

/-- Nothing of a domain is in flight. -/
def nothingLeft (s : State) (d : Nat) : Bool :=
  let x := domAt s d
  !(s.tasks.any (fun t => t.desc.domain == d)) && x.tasking.isEmpty && x.windows.isEmpty &&
  !(s.net.xfers.any (fun y => y.dom == d)) && !(s.net.colls.any (fun c => c.dom == d)) &&
  !(s.codec.chans.any (fun (e : Nat × CodChan) => decide (e.2.st ≠ .closed) && e.2.dom == d))

/-- DRAIN_QUIESCED: nothing remains; the domain enters QUIESCED and DRAIN completes with 1 (R443). -/
def execDrainQuiesced (dom : Fin 16) (s : State) : Outcome :=
  let x := domAt s dom
  if x.st = .draining ∧ nothingLeft s dom then
    let s := modDom s dom (fun x => { x with st := .quiesced, waitDrain := none })
    .next (match x.waitDrain with | some src => complete src .success 1 s | none => s)
  else notNow "DRAIN_QUIESCED"

/-- RESUME: back to ACTIVE, and DRAIN completes with 0 (R443). -/
def doResume (src : Src) (s : State) : State :=
  ringCmd src 0x14 [.draining] (fun d s =>
    let w := (domAt s d).waitDrain
    let s := modDom s d (fun x => { x with st := .active, waitDrain := none })
    succeed src (match w with | some q => complete q .success 0 s | none => s)) s

/-- UNBIND: EMPTY with ZEROISING set, at once; a SEAL or an ARM still to be reported completes (R442, R443). -/
def doUnbind (src : Src) (s : State) : State :=
  ringCmd src 0x15 [.bound, .loaded, .quiesced] (fun d s =>
    let arms := (domAt s d).waitArm
    let s := modDom s d (fun x => { x with waitArm := [] })
    let s := ((s.mig.seals.filter (fun q => q.dom == d)).map (·.src) ++ arms).foldl (fun s q => succeed q s) s
    succeed src (emptyDomain s d)) s

/-- The BINDs that wait in a domain go on, once it is no longer being zeroised. -/
def releaseBinds (s : State) (d : Nat) : State :=
  let x := domAt s d
  if x.zeroising || x.waitBind.isEmpty then s
  else x.waitBind.foldl (fun s src =>
    if (domAt s d).st = .empty then bindNow src d s else complete src .success d s) (modDom s d (fun x => { x with waitBind := [] }))

/-- ZEROISATION_DONE: the memory of an emptied domain is zero; ZEROISING clears and a BIND that waits goes on. With the last
domain the initialisation of lost DRAM has ended, too, and frees every BIND (R105, R106, R443, R445). -/
def execZeroisationDone (dom : Fin 16) (s : State) : Outcome :=
  let x := domAt s dom
  if x.zeroising ∧ x.st = .empty ∧ s.pow.restore.isNone then
    let s := raise (0x120 + dom.val) (modDom (zeroDomain s dom) dom (fun x => { x with zeroising := false }))
    .next (if initWait s then s
      else (List.range 16).foldl releaseBinds { s with pow := { s.pow with initing := false } })
  else notNow "ZEROISATION_DONE"

/-! ### Patrol scrub (R71, R444) -/

/-- The domain whose page map, list directory, prefix index or programs lie in a frame (R444). -/
def structOwner (s : State) (frame : Nat) : Option Nat :=
  (List.range 16).find? (fun d => (domAt s d).frames.any (fun e => e.1 == frame && decide (e.2 ≠ .shadows)))

/-- PATROL_SCRUB: the scrubber of a vault reads one beat; a correctable error is corrected, written back and logged, an
uncorrectable one poisons the beat (R71); poison in a structure faults its domain (R444). The beats of a vault are visited
in turn. -/
def execPatrolScrub (v : Fin 256) (s : State) : Outcome :=
  let x := vaultAt s v
  if x.scrubOn && !x.untrained && !x.retraining && decide (s.pow.st < 3) && s.pow.mainOk then
    let b := v.val * 2 ^ 24 + x.scrubAt
    let was := sparseGet false s.poison b
    let s := touchBeat true (modVault s v (fun x => { x with scrubAt := (x.scrubAt + 1) % 2 ^ 24 })) b
    .next (if !was && sparseGet false s.poison b then
        (match structOwner s (b / 1024) with | some d => faultDomain s d .poison | none => s)
      else s)
  else notNow "PATROL_SCRUB"

end Sys2Proof.Machine
end

