-- ==== Sys2Proof/Machine/Events.lean ====
section
/-!
DEFINITION. The event controller and the SMBus side of the trouble log (R455-R470, R475, R538).
-/
namespace Sys2Proof.Machine

/-! ### Words and the hold (R461, R462) -/

/-- A pending word is replaced. -/
def setPend (n : Nat) (v : Word) (s : State) : State :=
  evRefresh { s with evc := { s.evc with pend := sparseSet 0 s.evc.pend n v } }

/-- A mask word is replaced; sources of it that were deliverable may still be claimed once (R464). -/
def setMask (n : Nat) (v : Word) (s : State) : State :=
  let late := ((bitsSet 32 v.toNat).map (fun b => 32 * n + b)).filter (deliverable s.evc)
  evRefresh { s with evc := { s.evc with
    mask := sparseSet (BitVec.allOnes 32) s.evc.mask n v,
    maskedAt := late.foldl (fun m k => sparseSet 0 m k (s.now + 1)) s.evc.maskedAt } }

/-- A write to a word of the controller: it waits while another agent holds the word (R462). -/
def evWrite (agent : Nat) (mask : Bool) (n : Nat) (v : Word) (s : State) : State :=
  if wordHeld s n ∧ s.evc.owner ≠ agent then { s with evc := { s.evc with waits := s.evc.waits ++ [⟨mask, n, v⟩] } }
  else if mask then setMask n v s else setPend n v s

/-- A mask word of an EVENT segment (R462, R466). -/
def maskWord (n : Nat) (v : Word) (s : State) : State := evWrite 16 true n v s

/-- A hold ends: latched sets are merged, then the waiting writes are made (R462). -/
def releaseHold (s : State) : State :=
  match s.evc.held with
  | none => s
  | some n =>
    let l := s.evc.latched
    let ws := s.evc.waits
    let s := { s with evc := { s.evc with held := none, owner := 15, latched := 0, waits := [] } }
    let s := setPend n (evPend s.evc n ||| l) s
    ws.foldl (fun s w => if w.mask then setMask w.word w.value s else setPend w.word w.value s) s

/-- A hold that has lasted 1 µs ends, with EXPIRED set (R462). -/
def lapseHold (s : State) : State :=
  if s.evc.held.isSome ∧ s.evc.holdAt + 1000 ≤ s.now then
    let s := releaseHold s
    { s with evc := { s.evc with expired := true } }
  else s

/-- An access by an agent: control cores 0 to 7 inside the module, the host (8) over its link. -/
def byAgent (agent : Nat) (s : State) (k : State → State) : State := if agent = 8 then viaHost s k else k s

/-- EVC_PEND_WRITE replaces a word of pending bits (R461). -/
def execEvcPendWrite (agent : Fin 9) (n : Fin 32) (v : Word) (s : State) : Outcome :=
  .next (byAgent agent s (fun s => evWrite agent false n v (lapseHold s)))

/-- EVC_MASK_WRITE replaces a word of mask bits. -/
def execEvcMaskWrite (agent : Fin 9) (n : Fin 32) (v : Word) (s : State) : Outcome :=
  .next (byAgent agent s (fun s => evWrite agent true n v (lapseHold s)))

/-- EVC_HOLD: HOLD 1 takes the word unless another agent holds one; HOLD 0 by the owner ends the hold; EXPIRED is W1C
(R462, R469). -/
def execEvcHold (agent : Fin 9) (v : Word) (s : State) : Outcome :=
  .next (byAgent agent s (fun s =>
    let s := lapseHold s
    let s := if v.getLsbD 13 then { s with evc := { s.evc with expired := false } } else s
    let word := v.toNat % 32
    if s.evc.held.isSome && decide (s.evc.owner ≠ agent) then s
    else
      let s := releaseHold s
      if v.getLsbD 8 then
        { s with evc := { s.evc with word := word, held := some word, owner := agent, holdAt := s.now } }
      else { s with evc := { s.evc with word := word } }))

/-- EVC_HOLD_EXPIRY: a hold of 1 µs ends (R462). -/
def execEvcHoldExpiry (s : State) : Outcome :=
  if s.evc.held.isSome ∧ s.evc.holdAt + 1000 ≤ s.now then .next (lapseHold s) else notNow "EVC_HOLD_EXPIRY"

/-! ### Claim and done (R456-R459, R464) -/

/-- A source that is masked, came to be masked at most 40 ns ago and would be deliverable otherwise (R464). -/
def lateSource (s : State) (src : Nat) : Bool :=
  let at_ := sparseGet 0 s.evc.maskedAt src
  let t := evTarget s.evc (evRoute s.evc src)
  decide (at_ ≠ 0) && decide (s.now + 1 ≤ at_ + 40) && (evPend s.evc (src / 32)).getLsbD (src % 32) &&
    decide (t.thresh < evPrio s.evc src) && decide (runningLevel t < evPrio s.evc src)

/-- The source a target claims: highest priority, ties to the lower number (R458). -/
def bestSource (e : Evc) (l : List Nat) : Option Nat :=
  l.foldl (fun acc k => match acc with
    | none => some k
    | some b => if evPrio e b < evPrio e k then some k else some b) none

/-- EVC_CLAIM: the read's answer stands in `reply`. Inside the window of R464 a free choice says whether a source just
masked is still claimed. -/
def execEvcClaim (agent : Fin 9) (t : Fin 72) (s : State) : Outcome :=
  .next (byAgent agent s (fun s =>
    let mine := (pendingSources s.evc).filter (fun k => evRoute s.evc k == t.val)
    let late := mine.filter (lateSource s)
    let take := !late.isEmpty && Config.choice s.free % 2 == 1
    let s := if late.isEmpty then s else takeFree s
    match bestSource s.evc (mine.filter (fun k => deliverable s.evc k || (take && late.contains k))) with
    | none => { s with reply := leBytes 4 (2 ^ 31) }
    | some k =>
      let p := evPrio s.evc k
      let w := evPend s.evc (k / 32) &&& ~~~(BitVec.ofNat 32 (2 ^ (k % 32)))
      let x := evTarget s.evc t
      evRefresh { s with
        reply := leBytes 4 (k + p * 2 ^ 12)
        evc := { s.evc with
          pend := sparseSet 0 s.evc.pend (k / 32) w
          maskedAt := sparseSet 0 s.evc.maskedAt k 0
          targets := sparseSet {} s.evc.targets t { x with claims := (k, p) :: x.claims } } }))

/-- EVC_DONE pops the innermost claim when its source is named; any other value sets DONE_ERR (R458). -/
def execEvcDone (agent : Fin 9) (t : Fin 72) (src : BitVec 10) (s : State) : Outcome :=
  .next (byAgent agent s (fun s =>
    let x := evTarget s.evc t
    let put := fun (y : EvTarget) => evRefresh { s with evc := { s.evc with targets := sparseSet {} s.evc.targets t y } }
    match x.claims with
    | [] => put { x with doneErr := true }
    | (k, _) :: rest => if k = src.toNat then put { x with claims := rest } else put { x with doneErr := true }))

/-- The claim stack of a target empties, and what was claimed is pending again (R459). -/
def reclaim (t : Nat) (s : State) : State :=
  let x := evTarget s.evc t
  let s := { s with evc := { s.evc with targets := sparseSet {} s.evc.targets t { x with claims := [] } } }
  x.claims.foldl (fun s c => raise c.1 s) s

/-- EVC_SYNC: the read ends once every earlier write has taken effect and 40 ns more have passed, so that no masked source
is still on its way (R464). While a write waits for a hold, the read does not end. -/
def execEvcSync (agent : Fin 9) (s : State) : Outcome :=
  if s.evc.waits.isEmpty then
    .next (byAgent agent s (fun s => { s with reply := leBytes 4 0, evc := { s.evc with maskedAt := [] } }))
  else notNow "EVC_SYNC"

/-! ### Priorities, routes, thresholds (R460, R468, R470) -/

/-- EVC_PRIO_WRITE: the priorities of eight sources. -/
def execEvcPrioWrite (agent : Fin 9) (n : Fin 128) (v : Word) (s : State) : Outcome :=
  .next (byAgent agent s (fun s => evRefresh { s with evc := { s.evc with
    prio := (List.range 8).foldl (fun m b => sparseSet 0 m (8 * n.val + b) (bits v.toNat (4 * b + 3) (4 * b))) s.evc.prio } }))

/-- EVC_ROUTE_WRITE: the targets of four sources. -/
def execEvcRouteWrite (agent : Fin 9) (n : Fin 256) (v : Word) (s : State) : Outcome :=
  .next (byAgent agent s (fun s => evRefresh { s with evc := { s.evc with
    route := (List.range 4).foldl (fun m b => sparseSet 0 m (4 * n.val + b) (bits v.toNat (8 * b + 6) (8 * b))) s.evc.route } }))

/-- EVC_THRESH_WRITE: a target's threshold. -/
def execEvcThreshWrite (agent : Fin 9) (t : Fin 72) (v : Word) (s : State) : Outcome :=
  .next (byAgent agent s (fun s => evRefresh { s with evc := { s.evc with
    targets := sparseMod {} s.evc.targets t (fun x => { x with thresh := bits v.toNat 3 0 }) } }))

/-! ### SMBus framing and the log (R475, R538) -/

/-- One step of the SMBus PEC: CRC-8 with the polynomial x⁸ + x² + x + 1. -/
def pecStep : Nat → Nat → Nat
  | 0, c => c
  | n + 1, c => pecStep n (if bit c 7 then Nat.xor (c * 2 % 256) 0x07 else c * 2 % 256)

/-- The PEC of the bytes of a transfer. -/
def pec (l : List Byte) : Byte := BitVec.ofNat 8 (l.foldl (fun c b => pecStep 8 (Nat.xor c b.toNat)) 0)

/-- The first byte of an SMBus transfer: the module's address with the read bit (R538). -/
def smbAddr (read : Bool) : Byte := BitVec.ofNat 8 (2 * (0x58 + Config.smbStraps.toNat) + b2n read)

/-- The answer of a block read: count, data and the PEC over the whole transfer; `sent` is what the command wrote. -/
def smbBlock (cmd : Nat) (sent data : List Byte) : List Byte :=
  let body := BitVec.ofNat 8 data.length :: data
  body ++ [pec (smbAddr false :: BitVec.ofNat 8 cmd :: sent ++ smbAddr true :: body)]

/-- A written command is taken without PEC or with a right one; `must` asks for one (R538). -/
def pecOk (must : Bool) (p : Option Byte) (cmd : Nat) (sent : List Byte) : Bool :=
  match p with
  | none => !must
  | some x => x == pec (smbAddr false :: BitVec.ofNat 8 cmd :: sent)

/-- The keeper region answers on SMBus whenever auxiliary is present (R475, R539); an empty reply is a NAK. -/
def smbReply (s : State) (b : List Byte) : State := { s with reply := if s.pow.auxOk then b else [] }

/-- LOG_STATUS: LOG_WRITTEN and LOG_DROPPED. -/
def execLogStatus (s : State) : Outcome :=
  .next (smbReply s (smbBlock 0x40 [] (leBytes 4 s.log.written ++ leBytes 4 s.log.dropped)))

/-- LOG_ENTRY: one slot as a snapshot; a slot above 2,047 is answered with NAK. -/
def execLogEntry (slot : BitVec 16) (s : State) : Outcome :=
  .next (smbReply s (if 2047 < slot.toNat then []
    else smbBlock 0x41 (2 :: leBytes 2 slot.toNat) (logBytes (sparseGet none s.log.slots slot.toNat))))

end Sys2Proof.Machine
end

