-- ==== Sys2Proof/Machine/Measure.lean ====
section
/-!
DEFINITION. Measurement: extending a register, the measurement log, opening and closing debug, device identity at a cold
power-up (R507-R512, R521).
-/
namespace Sys2Proof.Machine

/-- A measurement-log entry (R510). -/
def measureEntry (m kind core version : Nat) (d : List Byte) : List Byte :=
  leBytes 1 m ++ leBytes 1 kind ++ leBytes 2 core ++ leBytes 8 version ++ leBytes 4 0 ++ slice d 0 32 ++ leBytes 16 0

/-- Extend a measurement register by a digest, with its log entry; a full log keeps the extension, sets LOG_OVERFLOW and
raises MEASURE_LOG_FULL (R507, R510). -/
def extendMr (m kind core version : Nat) (d : List Byte) (s : State) : State :=
  let q := s.sec
  let mrs := modAt q.mrs m (fun r => sha3 (r ++ slice d 0 32))
  if q.log.length < 512 then
    { s with sec := { q with mrs := mrs, log := q.log ++ [measureEntry m kind core version d] } }
  else raise 0x244 { s with sec := { q with mrs := mrs, overflow := true } }

/-- Debug opens: MR4 takes the body digest; a lifetime of 0 lasts until the segment is removed (R508, R521). -/
def openDebug (g : DebugRec) (s : State) : State :=
  let s := extendMr 4 4 0 0 g.digest s
  raise 0x241 { s with sec := { s.sec with dbg := some ⟨g, if g.duration = 0 then none else some (s.now + 1000000 * g.duration)⟩ } }

/-- Debug closes: MR4 takes 32 zero bytes, and the window reverts (R508, R521). -/
def closeDebug (s : State) : State :=
  let s := extendMr 4 4 0 0 (List.replicate 32 0) s
  raise 0x242 { s with sec := { s.sec with dbg := none } }

/-- The lifetime of an open debug segment has ended (R521). -/
def debugOver (s : State) : Bool :=
  match s.sec.dbg with
  | some g => (match g.until_ with | some t => decide (t ≤ s.now) | none => false)
  | none => false

/-- The debug segment whose window is open: none once its lifetime has ended (R521). -/
def debugOpen (s : State) : Option Debug := if debugOver s then none else s.sec.dbg

/-- The module's key pair, derived from the seed of its PUF (R511). -/
def deviceKey : DsaKey := mldsaKey ((List.range 32).map Config.deviceSeed)

/-- The identity hash: SHA3-256 of the module's public key (R511). -/
def identityHash : List Byte := sha3 deviceKey.pub

/-- Security state as a cold power-up leaves it: MR0 extended with the boot ROM digest (R507, R508, R511, R512). -/
def coldSec (s : State) (idOk : Bool) : State :=
  extendMr 0 0 0 Config.bootRomVersion.toNat ((List.range 32).map Config.bootRomDigest) { s with sec := { idOk := idOk } }

end Sys2Proof.Machine
end

