-- ==== Sys2Proof/Machine/Segments.lean ====
section
/-!
DEFINITION. Segment bodies of the structure image: the checks that each kind's chapter makes at verification step 9, and
the configuration that a set of segments gives (R34, R36-R38, R103, R104, R167, R168, R242, R315, R316, R353, R354, R389,
R390, R466, R482, R493, R520, R521).
-/
namespace Sys2Proof.Machine

/-- SEG_FLAGS.REMOVE. -/
def isRemove (g : Seg) : Bool := bit g.flags 0

/-- Scope types that a kind takes (R36). -/
def kindScopes : Nat → List Nat
  | 0 => [0, 1, 2]
  | 1 => [0, 2]
  | 2 => [0, 1]
  | 3 => [0, 2]
  | 4 => [0, 2]
  | 5 => [0, 3]
  | 6 => [0, 4]
  | 7 => [0, 1, 2]
  | 8 => [0]
  | 9 => [0]
  | 10 => [0]
  | _ => []

/-- SCOPE_VALUE carries only the bits of its scope type, and an island range has first ≤ last (R34). -/
def scopeOk (g : Seg) : Bool :=
  let v := g.scopeValue
  (kindScopes g.kind).contains g.scopeType &&
  (match g.scopeType with
   | 0 => v == 0
   | 1 => decide (v < 4)
   | 2 => decide (v < 65536) && decide (v % 256 ≤ v / 256)
   | 3 => decide (v < 2 ^ 12)
   | _ => decide (v < 2 ^ 18))

/-- Islands in a segment's scope, ascending (R34). -/
def scopeIslands (g : Seg) : List Nat :=
  match g.scopeType with
  | 0 => List.range 256
  | 1 => (List.range 64).map (fun i => 64 * (g.scopeValue % 4) + i)
  | 2 => (List.range (g.scopeValue / 256 % 256 + 1 - g.scopeValue % 256)).map (fun i => g.scopeValue % 256 + i)
  | _ => []

/-- Records of `n` bytes after `off` bytes of a body. -/
def recordsAt (b : List Byte) (off n count : Nat) : List (List Byte) := (List.range count).map (fun i => slice b (off + n * i) n)

/-- No entry occurs twice. -/
def distinct (l : List Nat) : Bool := l.eraseDups.length == l.length

/-! ### DOMAIN (R353, R354) -/

/-- An island byte. -/
def readIsl (b : Nat) : IslRec := if bit b 4 then ⟨some (b % 16), bit b 5, bit b 6⟩ else {}

/-- A domain record. -/
def readDom (r : List Byte) : Nat × DomRec :=
  let rng := fun off => (List.range 4).map (fun a => (leAt r (off + 4 * a) 2, leAt r (off + 4 * a + 2) 2))
  (leAt r 0 1, { lc := leAt r 1 1 == 1, preserve := bit (leAt r 2 1) 0, vf := leAt r 3 1,
                 quota := (List.range 4).map (fun a => leAt r (4 + 2 * a) 2), sem := rng 0x10, bar := rng 0x20 })

/-- Two ranges of one atoll overlap. -/
def rangesMeet (x y : ReefRange) : Bool :=
  decide (0 < x.2) && decide (0 < y.2) && decide (x.1 < y.1 + y.2) && decide (y.1 < x.1 + x.2)

/-- Ranges of different records do not overlap in any atoll. -/
def rangesApart (f : DomRec → List ReefRange) : List DomRec → Bool
  | [] => true
  | x :: t => (List.range 4).all (fun a => t.all (fun y => !(rangesMeet ((f x).getD a (0, 0)) ((f y).getD a (0, 0))))) &&
      rangesApart f t

/-- A DOMAIN record's own fields (R353); a QUOTA above 16,384 is out of range. -/
def domRecOk (r : List Byte) : Bool :=
  let x := (readDom r).2
  decide (leAt r 0 1 < 16) && decide (leAt r 1 1 < 2) && decide (leAt r 2 1 < 2) && decide (1 ≤ x.vf) && decide (x.vf ≤ 16) &&
  zeroAt r 0xC 4 && zeroAt r 0x30 16 && x.quota.all (fun q => decide (q ≤ 16384)) &&
  x.sem.all (fun p => decide (p.1 < 4096) && decide (p.1 + p.2 ≤ 4096)) &&
  x.bar.all (fun p => decide (p.1 < 1024) && decide (p.1 + p.2 ≤ 1024))

/-- The DOMAIN body by itself (R353, R354). -/
def checkDomain (g : Seg) : Option Status :=
  let b := g.body
  let n := (scopeIslands g).length
  let c := leAt b 0 1
  let recs := recordsAt b (16 + n) 64 c
  let vals := recs.map (fun r => (readDom r).2)
  let bytes := (slice b 16 n).map (·.toNat)
  if b.length ≠ 16 + n + 64 * c ∨ !(zeroAt b 1 15) ∨ (g.scopeType ≠ 0 ∧ c ≠ 0) ∨ !(recs.all domRecOk) ∨
      !(distinct (recs.map (fun r => (readDom r).1))) ∨ !(distinct (vals.map (·.vf))) ∨
      !(rangesApart (·.sem) vals) ∨ !(rangesApart (·.bar) vals) ∨
      bytes.any (fun x => bit x 7 || (bit x 5 && bit x 6) || (!(bit x 4) && x != 0)) then some .domainSegmentBad
  else none

def foldDomain (c : Conf) (g : Seg) : Conf :=
  let is := scopeIslands g
  let isl := (is.zip (slice g.body 16 is.length)).foldl (fun m (e : Nat × Byte) =>
    sparseSet {} m e.1 (readIsl e.2.toNat)) c.isl
  if g.scopeType = 0 then
    { c with isl := isl,
             doms := (recordsAt g.body (16 + is.length) 64 (leAt g.body 0 1)).foldl (fun m r =>
               sparseSet none m (readDom r).1 (some (readDom r).2)) [] }
  else { c with isl := isl }

/-! ### MEMORY (R103, R104) -/

def readMem (r : List Byte) : MemRec :=
  { split := leAt r 1 1 == 1, promoteT := leAt r 2 1, demoteT := leAt r 3 1, highWater := leAt r 4 1,
    promoCap := if leAt r 5 1 = 0 then 10 else leAt r 5 1, stageWays := leAt r 6 1, channels := leAt r 8 2,
    reserve := leAt r 0xA 2, ways := (List.range 4).map (fun a => leAt r (0x10 + 2 * a) 2) }

/-- A MEMORY record at module scope, or at atoll scope, where only DOMAIN and one way mask may be set (R103, R104). -/
def memRecOk (g : Seg) (r : List Byte) : Bool :=
  let hw := leAt r 4 1
  let rs := leAt r 0xA 2
  decide (leAt r 0 1 < 16) && zeroAt r 7 1 && zeroAt r 0xC 4 && zeroAt r 0x18 40 &&
  (if g.scopeType = 0 then
    decide (leAt r 1 1 < 2) && (hw == 0 || (decide (50 ≤ hw) && decide (hw ≤ 100))) && decide (leAt r 5 1 ≤ 50) &&
    decide (leAt r 6 1 ≤ 16) &&
    (rs == 0 || (leAt r 1 1 == 1 && decide (64 ≤ rs) && decide (rs ≤ 1024) && rs % 64 == 0))
   else zeroAt r 1 15 && (List.range 4).all (fun a => a == g.scopeValue % 4 || zeroAt r (0x10 + 2 * a) 2))

def checkMemory (g : Seg) : Option Status :=
  let b := g.body
  let c := leAt b 0 1
  let recs := recordsAt b 16 64 c
  if c = 0 ∨ 16 < c ∨ b.length ≠ 16 + 64 * c ∨ !(zeroAt b 1 15) ∨ !(recs.all (memRecOk g)) ∨
      !(distinct (recs.map (fun r => leAt r 0 1))) then some .memorySegmentBad else none

def foldMemory (c : Conf) (g : Seg) : Conf :=
  { c with mems := (recordsAt g.body 16 64 (leAt g.body 0 1)).foldl (fun m r =>
      let d := leAt r 0 1
      if g.scopeType = 0 then sparseSet {} m d (readMem r)
      else
        let a := g.scopeValue % 4
        let old := sparseGet {} m d
        sparseSet {} m d { old with ways := setAt old.ways a (leAt r (0x10 + 2 * a) 2) }) c.mems }

/-! ### NUMERIC (R167, R168) -/

/-- Formats that a FORMATS field enables: FP32 and BF16 always (R167). -/
def readFormats (r : List Byte) : Nat := leAt r 4 2 ||| 3

def numRecOk (r : List Byte) (range : Bool) : Bool :=
  decide (leAt r 1 1 < 3) && decide (leAt r 2 1 < 2) && zeroAt r 3 1 && decide (leAt r 4 2 < 256) && zeroAt r 6 10 &&
  (if range then leAt r 0 1 == 0xFF && zeroAt r 1 2
   else decide (leAt r 0 1 < 16) && !(leAt r 1 1 == 2 && leAt r 2 1 == 1))

def checkNumeric (g : Seg) : Option Status :=
  let b := g.body
  let c := leAt b 0 1
  let recs := recordsAt b 16 16 c
  let range := g.scopeType == 2
  if c = 0 ∨ 16 < c ∨ (range ∧ c ≠ 1) ∨ b.length ≠ 16 + 16 * c ∨ !(zeroAt b 1 15) ∨
      !(recs.all (fun r => numRecOk r range)) ∨ !(distinct (recs.map (fun r => leAt r 0 1))) then some .numericSegmentBad
  else none

def foldNumeric (c : Conf) (g : Seg) : Conf :=
  if g.scopeType = 0 then
    { c with nums := (recordsAt g.body 16 16 (leAt g.body 0 1)).foldl (fun m r =>
        sparseSet {} m (leAt r 0 1) ⟨leAt r 1 1, leAt r 2 1 == 1, readFormats r⟩) c.nums }
  else
    let f := readFormats (slice g.body 16 16)
    { c with islFormats := (scopeIslands g).foldl (fun m i => sparseSet 0xFFFF m i f) c.islFormats }

/-! ### TABLES (R242) -/

def checkTables (g : Seg) : Option Status :=
  match checkTable g.body with
  | .ok _ => none
  | .error e => some e

def foldTables (c : Conf) (g : Seg) : Conf :=
  match checkTable g.body with
  | .ok t => { c with tables := (scopeIslands g).foldl (fun m i => sparseSet none m i (some t)) c.tables }
  | .error _ => c

/-! ### FABRIC (R38) -/

/-- Straits that a FABRIC body names. -/
def bodyStraits (b : List Byte) : List Strait :=
  (Config.fabricStraits b).map (fun e => ⟨e.2.2.headD 256, e.1, e.2.2.getLastD 256, e.2.1, e.2.2⟩)

/-- Module mesh coordinates of an island (R16). -/
def meshX (i : Nat) : Nat := 8 * (i / 64 % 2) + i % 8
def meshY (i : Nat) : Nat := 8 * (i / 128) + i / 8 % 8

/-- A strait link joins two islands: their mesh coordinates differ by one in exactly one coordinate (R16). -/
def meshLink (i j : Nat) : Bool :=
  let off := fun (a b : Nat) => (a - b) + (b - a)
  off (meshX i) (meshX j) + off (meshY i) (meshY j) == 1

/-- A route runs over strait links of the mesh. -/
def routeOk : List Nat → Bool
  | a :: b :: t => decide (a < 256) && decide (b < 256) && meshLink a b && routeOk (b :: t)
  | _ => true

def checkFabric (g : Seg) : Option Status :=
  let is := scopeIslands g
  if (bodyStraits g.body).any (fun x => x.src == x.dst || decide (x.hops = 0) || decide (30 < x.hops) || !(routeOk x.route) ||
      decide (8 ≤ x.sch) || decide (8 ≤ x.rch) || !(is.contains x.src)) ∨
      (Config.fabricRetired g.body).any (fun i => !(is.contains i)) then some .imageMalformed
  else none

/-- Within its scope a FABRIC segment sets the retired islands and the straits that start there. -/
def foldFabric (c : Conf) (g : Seg) : Conf :=
  let is := scopeIslands g
  { c with straits := c.straits.filter (fun x => !(is.contains x.src)) ++ bodyStraits g.body,
           retired := c.retired.filter (fun i => !(is.contains i)) ++ (Config.fabricRetired g.body).eraseDups }

/-! ### VIDEO (R315, R316) -/

/-- Nibbles of a field. -/
def nibbles (n w : Nat) : List Nat := (List.range n).map (fun i => w / 16 ^ i % 16)

/-- Bits set of a bitmap of `n`. -/
def popCount (n w : Nat) : Nat := (bitsSet n w).length

def gangEntry (b : List Byte) (k : Nat) : Option (Nat × Nat) :=
  if bit (leAt b (16 + 16 * k) 1) 0 then some (leAt b (17 + 16 * k) 1, leAt b (18 + 16 * k) 1) else none

/-- Pipelines that a body may set: encode 0-7 and decode 8-11. -/
def scopePipes (g : Seg) : Nat := if g.scopeType = 3 then g.scopeValue else 0xFFF

def checkVideo (g : Seg) : Option Status :=
  let b := g.body
  let c := leAt b 0 1
  let recs := recordsAt b 48 16 c
  let pipes := scopePipes g
  let gangBad := fun k =>
    !(decide (leAt b (16 + 16 * k) 1 < 2)) || !(zeroAt b (19 + 16 * k) 13) ||
    (match gangEntry b k with
     | none => false
     | some (d, m) => decide (16 ≤ d) || decide (popCount 8 m < 2) || decide (4 < popCount 8 m) ||
         !((bitsSet 8 m).all (fun p => bit pipes p)))
  let recBad := fun (r : List Byte) =>
    decide (16 ≤ leAt r 0 1) || !(zeroAt r 1 1) || !(zeroAt r 8 8) ||
    ((nibbles 8 (leAt r 2 4) ++ nibbles 4 (leAt r 6 2)).zipIdx).any (fun (e : Nat × Nat) =>
      decide (4 < e.1) || (e.1 != 0 && !(bit pipes e.2)))
  if 16 < c ∨ b.length ≠ 48 + 16 * c ∨ !(zeroAt b 1 15) ∨ gangBad 0 ∨ gangBad 1 ∨ recs.any recBad ∨
      !(distinct (recs.map (fun r => leAt r 0 1))) then some .videoSegmentBad else none

/-- Slots of one domain on a class of pipelines after a body: those in scope are set, the others stay. -/
def mergeSlots (pipes lo : Nat) (old new : List Nat) : List Nat :=
  let l := (List.range new.length).map (fun p => if bit pipes (lo + p) then new.getD p 0 else old.getD p 0)
  if l.all (· == 0) then [] else l

/-- The allocation after a body. What pipelines outside the set have stays, a gang with what it has left there. DESIGN CHOICE:
a gang entry of the body whose index such a gang still holds counts beside it, so that videoOk refuses it. -/
def foldVideo (c : Conf) (g : Seg) : Conf :=
  let b := g.body
  let pipes := scopePipes g
  let recs := recordsAt b 48 16 (leAt b 0 1)
  let recOf := fun d => recs.find? (fun r => leAt r 0 1 == d)
  let slots := fun (m : Sparse (List Nat)) (lo n off len : Nat) =>
    (List.range 16).foldl (fun m d =>
      let new := match recOf d with | some r => nibbles n (leAt r off len) | none => List.replicate n 0
      sparseSet [] m d (mergeSlots pipes lo (sparseGet [] m d) new)) m
  let v := c.video
  let stays := fun (k : Nat) => (v.gangs.getD k none).bind (fun (e : Nat × Nat) =>
    let m := ((bitsSet 8 e.2).filter (fun p => !(bit pipes p))).map (2 ^ ·) |>.sum
    if m = 0 then none else some (e.1, m))
  let gangs := (List.range 2).map (fun k => match stays k with | some e => some e | none => gangEntry b k)
  let extra := (List.range 2).filterMap (fun k => if (stays k).isSome then gangEntry b k else none)
  { c with video := ⟨gangs ++ extra.map some, slots v.enc 0 8 2 4, slots v.dec 8 4 6 2⟩ }

/-- The whole allocation: at most four slots on a pipeline, none on a ganged one, two gangs of two to four pipelines, apart
(R316). -/
def videoOk (v : Video) : Bool :=
  let sum := fun (m : Sparse (List Nat)) p => (m.map (fun (e : Nat × List Nat) => e.2.getD p 0)).sum
  let ganged := v.gangs.filterMap (fun g => g.map (fun e => e.2))
  v.gangs.length == 2 && ganged.all (fun m => decide (2 ≤ popCount 8 m)) &&
  (List.range 8).all (fun p => decide (sum v.enc p ≤ 4) && (sum v.enc p == 0 || !(ganged.any (fun m => bit m p)))) &&
  (List.range 4).all (fun p => decide (sum v.dec p ≤ 4)) &&
  (match ganged with
   | [a, b] => (bitsSet 8 a).all (fun p => !(bit b p))
   | _ => true)

/-! ### LINK (R388-R390) -/

def readLink (b : List Byte) : LinkRec :=
  let f := leAt b 3 1
  { role := leAt b 0 1, shoal := leAt b 1 1, worker := leAt b 2 1, arch := bit f 0, pulse := bit f 1, promoted := bit f 2,
    shoals := leAt b 4 1, archCtx := leAt b 5 1, timeout := leAt b 6 2,
    ports := (List.range 18).map (fun p =>
      let w := leAt b (0x10 + 2 * p) 2
      (w % 16, w / 16 % 16, w / 256)),
    quota := (List.range 16).map (fun d => leAt b (0x40 + d) 1) }

/-- Peers of the ports in a role, sorted by nothing: each must be listed once. -/
def peersOf (r : LinkRec) (role : Nat) : List Nat := (r.ports.filter (fun p => p.1 == role)).map (fun p => p.2.2)

/-- A list names exactly the members of another, each once. -/
def sameSet (a b : List Nat) : Bool := distinct a && a.length == b.length && a.all (fun x => b.contains x)

/-- The port roles are exactly those of R388. -/
def portsFit (r : LinkRec) : Bool :=
  let n := fun k => (peersOf r k).length
  let others := (List.range 16).filter (fun w => w != r.worker)
  let rails := if r.arch then peersOf r 3 == [(r.shoal + r.shoals - 1) % r.shoals] && peersOf r 4 == [(r.shoal + 1) % r.shoals]
    else n 3 == 0 && n 4 == 0
  let none' := fun (ks : List Nat) => ks.all (fun k => n k == 0)
  match r.role with
  | 0 => none' [1, 2, 3, 4, 5, 6, 7, 8]
  | 1 => n 2 == 1 && rails && none' [5, 6, 7, 8] &&
      (sameSet (peersOf r 1) others || sameSet (peersOf r 1) (others.filter (fun w => !((peersOf r 2).contains w))))
  | 2 => if r.promoted then sameSet (peersOf r 5) others && rails && none' [1, 2, 6, 7, 8]
      else sameSet (peersOf r 5) (List.range 16) && none' [1, 2, 3, 4, 8] &&
        (if r.arch then n 6 == 1 && n 7 == 1 else n 6 == 0 && n 7 == 0)
  | _ => sameSet (peersOf r 8) (List.range 16) && none' [1, 2, 3, 4, 5, 6, 7]

def linkBodyOk (b : List Byte) : Bool :=
  let r := readLink b
  b.length == 80 && decide (r.role < 4) && decide (r.shoal < 16) && decide (r.worker < 16) && decide (leAt b 3 1 < 8) &&
  decide (1 ≤ r.shoals) && decide (r.shoals ≤ 16) && (r.arch || (r.shoals == 1 && r.archCtx == 0)) && decide (r.archCtx ≤ 32) &&
  decide (r.timeout ≤ 60000) && (!r.promoted || r.role == 2) && (decide (r.role < 2) || r.promoted || r.worker == 0) &&
  zeroAt b 8 8 && zeroAt b 0x34 12 && r.ports.all (fun p => decide (p.1 < 9)) && r.quota.all (fun q => decide (q ≤ 64))

/-- Ports that a LINK segment sets. -/
def scopePorts (g : Seg) : Nat := if g.scopeType = 4 then g.scopeValue else 2 ^ 18 - 1

/-- The LINK record after a body: at port-set scope only the ports in the set change. -/
def mergeLink (old : LinkRec) (g : Seg) : LinkRec :=
  let r := readLink g.body
  if g.scopeType = 4 then
    { old with ports := (List.range 18).map (fun p => (if bit (scopePorts g) p then r.ports else old.ports).getD p (0, 0, 0)) }
  else r

/-- A LINK body against the record in force before it (R390). -/
def checkLink (old : LinkRec) (g : Seg) : Option Status :=
  if !(linkBodyOk g.body) ∨ !(portsFit (mergeLink old g)) ∨ (g.scopeType = 4 ∧ mergeLink old g ≠ readLink g.body) then
    some .linkSegmentBad else none

def foldLink (c : Conf) (g : Seg) : Conf := { c with link := mergeLink c.link g }

/-! ### POWER (R482) -/

def checkPower (g : Seg) : Option Status :=
  let b := g.body
  let n := (scopeIslands g).length
  let cap := leAt b 0 2
  let dz := leAt b 2 2
  let th := leAt b 4 1
  if b.length ≠ 16 + n ∨ !(zeroAt b 5 11) ∨ (slice b 16 n).any (fun x => decide (64 ≤ x.toNat) || decide (18 < x.toNat % 32)) ∨
      (if g.scopeType = 0 then cap < 250 ∨ 850 < cap ∨ cap % 10 ≠ 0 ∨ 10000 < dz ∨ (th ≠ 0 ∧ (th < 70 ∨ 100 < th))
       else cap ≠ 0 ∨ dz ≠ 0 ∨ th ≠ 0) then some .powerSegmentBad
  else none

def foldPower (c : Conf) (g : Seg) : Conf :=
  let b := g.body
  let is := scopeIslands g
  let clk := (is.zip (slice b 16 is.length)).foldl (fun m (e : Nat × Byte) =>
    sparseSet (18, false) m e.1 (e.2.toNat % 32, bit e.2.toNat 5)) c.power.clk
  if g.scopeType = 0 then
    { c with power := ⟨leAt b 0 2, if leAt b 2 2 = 0 then 100 else leAt b 2 2, if leAt b 4 1 = 0 then 95 else leAt b 4 1, clk⟩ }
  else { c with power := { c.power with clk := clk } }

/-! ### EVENT (R455, R466) -/

/-- Reserved event sources (R455, R496, R522). -/
def reservedSource (n : Nat) : Bool :=
  [(0x152, 0x15F), (0x176, 0x17F), (0x1B0, 0x1BF), (0x1C8, 0x1FF), (0x208, 0x21F), (0x229, 0x23F), (0x245, 0x25F),
   (0x262, 0x2FF), (0x340, 0x3FF)].any (fun (r : Nat × Nat) => decide (r.1 ≤ n) && decide (n ≤ r.2))

/-- Priority of source `n` in an EVENT body. -/
def bodyPrio (b : List Byte) (n : Nat) : Nat := leAt b (0x10 + n / 2) 1 / 16 ^ (n % 2) % 16

def checkEvent (g : Seg) : Option Status :=
  let b := g.body
  if b.length ≠ 1752 ∨ !(zeroAt b 0 16) ∨
      (List.range 1024).any (fun n => decide (72 ≤ leAt b (0x210 + n) 1) || (reservedSource n && bodyPrio b n != 0)) ∨
      (List.range 72).any (fun t => decide (16 ≤ leAt b (0x690 + t) 1)) then some .imageMalformed
  else none

/-! ### FIRMWARE (R37) -/

/-- The images of a FIRMWARE body: core, version, bytes; none where the body breaks its layout. -/
def readFirmware : Nat → List Byte → Option (List (Nat × Nat × List Byte))
  | 0, b => if b.isEmpty then some [] else none
  | fuel + 1, b =>
    if b.isEmpty then some []
    else
      let n := leAt b 4 4
      if b.length < 16 ∨ 8 ≤ leAt b 0 1 ∨ !(zeroAt b 1 3) ∨ b.length < 16 + n then none
      else (readFirmware fuel (b.drop (16 + n))).map (fun l => (leAt b 0 1, leAt b 8 8, (b.drop 16).take n) :: l)

def checkFirmware (g : Seg) : Option Status :=
  match readFirmware 9 g.body with
  | none => some .imageMalformed
  | some l => if l.isEmpty ∨ !(distinct (l.map (·.1))) then some .imageMalformed else none

/-- Firmware in force after the segments of a change group: cores that no FIRMWARE body names keep theirs (R37). -/
def takeFirmware (fw : Sparse (Nat × List Byte)) (grp : List Seg) : Sparse (Nat × List Byte) :=
  (grp.filter (fun g => g.kind == 9 && !(isRemove g))).foldl (fun m g =>
    ((readFirmware 9 g.body).getD []).foldl (fun m (e : Nat × Nat × List Byte) => sparseInsert m e.1 e.2) m) fw

/-! ### DEBUG (R520, R521) -/

def checkDebug (sec : Sec) (g : Seg) : Option Status :=
  let b := g.body
  if !sec.idOk ∨ slice b 0 32 ≠ identityHash then some .debugTargetBad
  else if b.length ≠ 64 ∨ 4 ≤ leAt b 0x20 4 ∨ !(zeroAt b 0x26 2) ∨ !(zeroAt b 0x2C 20) then some .imageMalformed
  else none

def foldDebug (c : Conf) (g : Seg) : Conf :=
  { c with dbg := some ⟨sha3 g.body, leAt g.body 0x20 4, leAt g.body 0x24 2, leAt g.body 0x28 4⟩ }

/-! ### The configuration of a set of segments -/

/-- One segment's part of the configuration. -/
def foldSeg (c : Conf) (g : Seg) : Conf :=
  match g.kind with
  | 0 => foldFabric c g
  | 1 => foldDomain c g
  | 2 => foldMemory c g
  | 3 => foldNumeric c g
  | 4 => foldTables c g
  | 5 => foldVideo c g
  | 6 => foldLink c g
  | 7 => foldPower c g
  | 8 => { c with event := some g.body }
  | 10 => foldDebug c g
  | _ => c

/-- The configuration that segments in force give, with the firmware in force: folded in the order in which they came into
force, change group by change group and in table order within one (R35, R46); a later one wins where two overlap. -/
def confOf (fw : Sparse (Nat × List Byte)) (l : List Seg) : Conf := { l.foldl foldSeg {} with firmware := fw }

/-- A body's own checks (R39 step 9), with the LINK record in force. -/
def checkBody (sec : Sec) (link : LinkRec) (g : Seg) : Option Status :=
  if isRemove g then none
  else match g.kind with
    | 0 => checkFabric g
    | 1 => checkDomain g
    | 2 => checkMemory g
    | 3 => checkNumeric g
    | 4 => checkTables g
    | 5 => checkVideo g
    | 6 => checkLink link g
    | 7 => checkPower g
    | 8 => checkEvent g
    | 9 => checkFirmware g
    | _ => checkDebug sec g

/-- The domain that owns an island. -/
def ownerIn (c : Conf) (i : Nat) : Option Nat := (sparseGet {} c.isl i).owner

/-- The domains that have a record. -/
def domsIn (c : Conf) : List Nat := (List.range 16).filter (fun d => (sparseGet none c.doms d).isSome)

/-- Way masks of different domains do not meet, nor channel masks (R92, R104). -/
def masksApart : List MemRec → Bool
  | [] => true
  | x :: t => t.all (fun y => x.channels &&& y.channels == 0 &&
      (List.range 4).all (fun a => x.ways.getD a 0 &&& y.ways.getD a 0 == 0)) && masksApart t

/-- What must hold among the segments in force after a change: the first status that does not (R23, R38, R104, R316, R354,
R390, R493). `link` says that the change carries a LINK segment. -/
def checkConf (s : State) (link : Bool) (c : Conf) : Option Status :=
  let owned := (List.range 256).filter (fun i => (ownerIn c i).isSome)
  let mems := c.mems.map (fun (e : Nat × MemRec) => e.2)
  let ways8 := mems.any (fun m => m.ways.any (fun w => decide (256 ≤ w)))
  let isl := fun i => sparseGet {} c.isl i
  if owned.any (fun i => c.retired.contains i || !((domsIn c).contains ((ownerIn c i).getD 0))) ∨
      (domsIn c).any (fun d => !(owned.any (fun i => decide (ownerIn c i = some d)))) then some .domainSegmentBad
  else if owned.any (fun i => (vaultAt s i).failed) then some .vaultFailed
  else if !(masksApart mems) then some .memorySegmentBad
  else if 2 ≤ c.link.role ∧ ways8 then some (if link then .linkSegmentBad else .memorySegmentBad)
  else if c.mems.any (fun (e : Nat × MemRec) => (List.range 4).any (fun a =>
      (owned.any (fun i => i / 64 == a && decide (ownerIn c i = some e.1)) || e.2.ways.getD a 0 != 0) &&
        decide (popCount 16 (e.2.ways.getD a 0) < e.2.stageWays))) then some .memorySegmentBad
  else if mems.any (fun m => (bitsSet 16 m.channels).any (fun k => (chanAt s k).failed)) then some .vaultFailed
  else if !(videoOk c.video) then some .videoSegmentBad
  else if !(distinct (c.straits.map (fun x => 8 * x.src + x.sch))) ∨ !(distinct (c.straits.map (fun x => 8 * x.dst + x.rch))) ∨
      c.straits.any (fun x => match ownerIn c x.src, ownerIn c x.dst with
        | some a, some b => c.retired.contains x.src || c.retired.contains x.dst ||
            (a != b && !((isl x.src).lendable) && !((isl x.dst).lendable))
        | _, _ => true) then some .imageMalformed
  else none

end Sys2Proof.Machine
end

