-- ==== Sys2Proof/Machine/Image.lean ====
section
/-!
DEFINITION. The structure image: staging and its checks, change groups, the epoch protocol, commit and rollback, firmware
updates, the POWER, EVENT and LINK segments as they take effect (R33-R55, R59, R243, R244, R392, R459, R466, R482, R508,
R509, R521).
-/
namespace Sys2Proof.Machine

/-! ### Verification (R33-R35, R39, R40) -/

/-- Bytes of an image before its bodies, for `n` segments. -/
def headLength (n : Nat) : Nat := 0x560 + 64 * n + 2420

/-- The table entries of an image. -/
def tableEntries (b : List Byte) : List (List Byte) :=
  (List.range (leAt b 0xC 4)).map (fun i => slice b (0x560 + 64 * i) 64)

/-- The segment of a table entry. -/
def segOf (b e : List Byte) : Seg :=
  { id := leAt e 0 2, kind := leAt e 2 1, scopeType := leAt e 3 1, scopeValue := leAt e 4 4, epoch := leAt e 8 4,
    flags := leAt e 0x14 4, digest := slice e 0x20 32, body := (b.drop (leAt e 0xC 4)).take (leAt e 0x10 4) }

/-- The 64-byte entry of a segment in force, OFFSET zero (R40). -/
def entryBytes (g : Seg) : List Byte :=
  leBytes 2 g.id ++ leBytes 1 g.kind ++ leBytes 1 g.scopeType ++ leBytes 4 g.scopeValue ++ leBytes 4 g.epoch ++ leBytes 4 0 ++
    leBytes 4 g.body.length ++ leBytes 4 g.flags ++ leBytes 8 0 ++ slice g.digest 0 32

/-- Segments in ascending SEG_ID. -/
def insertById (g : Seg) : List Seg → List Seg
  | [] => [g]
  | h :: t => if g.id < h.id then g :: h :: t else h :: insertById g t

/-- The in-force digest (R40). -/
def forceDigest (l : List Seg) : List Byte := sha3 ((l.foldr insertById []).flatMap entryBytes)

/-- Numbers in ascending order, equal ones allowed. -/
def sortedNat : List Nat → Bool
  | a :: b :: t => decide (a ≤ b) && sortedNat (b :: t)
  | _ => true

/-- Ranges of bodies do not overlap. -/
def bodiesApart : List (Nat × Nat) → Bool
  | [] => true
  | x :: t => t.all (fun y => !(overlaps x y)) && bodiesApart t

/-- Step 1: magic, format, part, length, count, reserved fields. -/
def headerOk (b : List Byte) (len : Nat) : Bool :=
  let n := leAt b 0xC 4
  leAt b 0 4 == 0x415A4E4C && leAt b 4 2 == 1 && leAt b 0x14 4 == 0x9640 && decide (leAt b 8 4 ≤ 0x800000) && leAt b 8 4 == len &&
  decide (1 ≤ n) && decide (n ≤ 64) && decide (leAt b 6 2 < 2) && zeroAt b 0x18 8 && decide (headLength n ≤ len) &&
  (tableEntries b).all (fun e => zeroAt e 0x18 8 && decide (leAt e 0x14 4 < 2))

/-- Step 4: order, identities, kinds and scopes, bodies. -/
def tableOk (b : List Byte) (delta : Bool) (segs : List Seg) : Bool :=
  let es := tableEntries b
  let ranges := es.map (fun e => (leAt e 0xC 4, leAt e 0x10 4))
  let lo := headLength (leAt b 0xC 4)
  sortedNat (segs.map (·.epoch)) && distinct (segs.map (·.id)) && segs.all scopeOk &&
  segs.all (fun g => !(isRemove g) || delta) && segs.all (fun g => isRemove g || !g.body.isEmpty) &&
  ranges.all (fun r => r.2 == 0 || (r.1 % 64 == 0 && decide (lo ≤ r.1) && decide (r.1 + r.2 ≤ b.length))) &&
  bodiesApart (ranges.filter (fun r => r.2 != 0))

/-- The change groups of an image: segments of one EPOCH, in ascending order (R35). -/
def groupsOf (l : List Seg) : List (List Seg) :=
  ((l.map (·.epoch)).eraseDups).map (fun e => l.filter (fun g => g.epoch == e))

/-- The segments in force after a change group (R40). -/
def afterGroup (before grp : List Seg) : List Seg :=
  before.filter (fun g => !(grp.any (fun h => h.id == g.id))) ++ grp.filter (fun g => !(isRemove g))

/-- Bytes of the firmware in force. -/
def firmwareBytes (c : Conf) : Nat := (c.firmware.map (fun (e : Nat × Nat × List Byte) => e.2.2.length)).sum

/-- The state fits the mirror store (R39 step 8); a table set counts once, however many segments carry it (R242). -/
def mirrorFits (c : Conf) (l : List Seg) : Bool :=
  decide (Config.registerStateSize (l.map (·.body)) ≤ 2 * 2 ^ 20) &&
  decide (((((l.filter (fun g => g.kind == 4)).map (·.body)).eraseDups).map (·.length)).sum ≤ 2 ^ 20) &&
  decide (firmwareBytes c ≤ 4 * 2 ^ 20)

/-- One step of an application: the configuration before it, the segments that come, those in force after it and the
configuration they give. -/
structure Stage where
  before : Conf
  grp : List Seg
  after : List Seg
  conf : Conf

/-- The stages of an application, change group by change group, from firmware and segments in force. -/
def stagesOf : Sparse (Nat × List Byte) → List Seg → List (List Seg) → List Stage
  | _, _, [] => []
  | fw, before, g :: t =>
    let after := afterGroup before g
    let fw' := takeFirmware fw g
    ⟨confOf fw before, g, after, confOf fw' after⟩ :: stagesOf fw' after t

/-- The stages of an image: one when nothing is in force, where all segments apply at once (R41), else one for each change
group. DESIGN CHOICE: where R39 speaks of the resulting state in force, steps 8 and 9 are made for the state after each change
group, since each comes in force by itself. -/
def stagesFor (s : State) (delta : Bool) (segs : List Seg) : List Stage :=
  if s.img.epoch = 0 then
    let after := segs.filter (fun g => !(isRemove g))
    [⟨confOf [] [], segs, after, confOf (takeFirmware [] segs) after⟩]
  else stagesOf s.conf.firmware (if delta then s.img.segs else []) (groupsOf segs)

/-- The LINK record in force after a segment. -/
def linkAfter (l : LinkRec) (g : Seg) : LinkRec := if g.kind = 6 ∧ !(isRemove g) then mergeLink l g else l

/-- Bodies in table order, each LINK body against the record that those before it give (R39, R46, R390). -/
def checkBodies (sec : Sec) : LinkRec → List Seg → Option Status
  | _, [] => none
  | l, g :: t => match checkBody sec l g with
    | some st => some st
    | none => checkBodies sec (linkAfter l g) t

/-- Step 9 for one stage: bodies, then the state it gives. -/
def checkGroup (s : State) (e : Stage) : Option Status :=
  match checkBodies s.sec e.before.link e.grp with
  | some st => some st
  | none => checkConf s (e.grp.any (fun g => g.kind == 6)) e.conf

/-- The ordered checks of STAGE (R39). -/
def verifyImage (s : State) (b : List Byte) (len : Nat) : Except Status Staged :=
  if !(headerOk b len) then .error .imageMalformed
  else
    let n := leAt b 0xC 4
    let key := slice b 0x40 1312
    let delta := bit (leAt b 6 2) 0
    let segs := (tableEntries b).map (segOf b)
    if !(rootKeyOk key) || !(mldsaVerify key (b.take (0x560 + 64 * n)) (slice b (0x560 + 64 * n) 2420)) then
      .error .signatureBad
    else if !(tableOk b delta segs) then .error .imageMalformed
    else if segs.any (fun g => g.digest != sha3 g.body) then .error .segmentDigestBad
    else if (if delta then slice b 0x20 32 != s.img.digest else !(zeroAt b 0x20 32)) then .error .baseMismatch
    else if segs.any (fun g => decide (g.epoch ≤ s.img.epoch)) then .error .epochStale
    else
      let stages := stagesFor s delta segs
      if stages.any (fun e => !(mirrorFits e.conf e.after)) then .error .mirrorFull
      else match stages.findSome? (checkGroup s) with
        | some st => .error st
        | none => .ok ⟨delta, leAt b 0x10 4, segs⟩

/-! ### STAGE (R39, R57-R59) -/

/-- BUSY of HUB_IMG_STAT (R59). -/
def imgBusy (s : State) : Bool := !([0, 2, 7, 8].contains s.img.phase)

/-- A phase is reached; 2, 7 and 8 raise IMG_DONE (R455). -/
def imgPhase (n : Nat) (s : State) : State :=
  let s := { s with img := { s.img with phase := n } }
  if n = 2 ∨ n = 7 ∨ n = 8 then raise 0x200 s else s

/-- STAGE refuses the image: status, no group committed, one info entry (R39, R59, R472). -/
def refuseImage (st : Status) (s : State) : State :=
  let src := if st = .signatureBad then some 0x240 else if st = .hostReadFault then some 0x207 else none
  let s := logE 0 st src 0xFF [] { s with img := { s.img with status := st, staged := none, groupsDone := 0 } }
  imgPhase 8 (if st = .signatureBad then raise 0x240 s else s)

/-- STAGE: fetch and verify; while BUSY only STATUS changes (R39, R57). -/
def stageImage (s : State) : State :=
  if imgBusy s then { s with img := { s.img with status := .imageBusy } }
  else if 0x800000 < s.img.len then refuseImage .imageMalformed s
  else match verifyImage s (hostBytes s s.img.addr s.img.len) s.img.len with
    | .error e => refuseImage e s
    | .ok x => imgPhase 2 { s with img := { s.img with status := .success, staged := some x, groupsDone := 0 } }

/-- DRAIN_BE is written with every access to HUB_IMG_CTRL. -/
def setDrain (n : Nat) (s : State) : State := { s with img := { s.img with drainBe := n } }

def execImgStage (drainBe : BitVec 10) (s : State) : Outcome :=
  .next (viaHost s (fun s => stageImage (setDrain drainBe.toNat s)))

/-! ### Segments that take effect at once (R45, R46) -/

/-- An EVENT segment applies: priorities, routes, masks under the hold rule, thresholds (R466). -/
def applyEvent (b : List Byte) (s : State) : State :=
  let prio := (List.range 1024).foldl (fun m n => sparseSet 0 m n (bodyPrio b n)) s.evc.prio
  let route := (List.range 1024).foldl (fun m n => sparseSet 0 m n (leAt b (0x210 + n) 1)) s.evc.route
  let targets := (List.range 72).foldl (fun m t =>
    sparseMod {} m t (fun x => { x with thresh := leAt b (0x690 + t) 1 })) s.evc.targets
  let s := { s with evc := { s.evc with prio := prio, route := route, targets := targets } }
  evRefresh ((List.range 32).foldl (fun s n => maskWord n (BitVec.ofNat 32 (leAt b (0x610 + 4 * n) 4)) s) s)

/-- Clock target and DOZE of every island follow the POWER segments (R482). -/
def applyPower (s : State) : State :=
  (List.range 256).foldl (fun s i =>
    let e := sparseGet (18, false) s.conf.power.clk i
    let x := islandAt s i
    if x.clkTarget = e.1 ∧ x.doze = e.2 then s else setIsland s i { x with clkTarget := e.1, doze := e.2 }) s

/-- A LINK record comes into force: the ports whose entries change retrain; a change of ROLE, SHOAL or WORKER takes the
module out of every group (R392). -/
def applyLink (new : LinkRec) (s : State) : State :=
  let old := s.conf.link
  let ps := (List.range 18).filter (fun p => old.ports.getD p (0, 0, 0) != new.ports.getD p (0, 0, 0))
  let s := if old.role = new.role ∧ old.shoal = new.shoal ∧ old.worker = new.worker then s else leaveAllGroups s
  let s := { s with conf := { s.conf with link := new } }
  settleRole (retrainPorts s ps)

/-- Debug follows the DEBUG segment in force (R521). -/
def applyDebug (old new : Option DebugRec) (s : State) : State :=
  if old = new then s
  else
    let s := if s.sec.dbg.isSome then closeDebug s else s
    match new with | some g => openDebug g s | none => s

/-! ### Firmware (R48, R459) -/

/-- The peer that carries a core's duties (R48). -/
def peerOfCore (c : Nat) : Nat := if c = 0 then 1 else if c = 1 then 0 else if c = 7 then 2 else c + 1

/-- The next core of a FIRMWARE segment hands over and loads its image. -/
def nextCore (s : State) (g : GroupState) : State :=
  match g.cores.filter (fun c => !(g.coresDone.contains c)) with
  | [] => { s with img := { s.img with cur := some { g with core := none } } }
  | c :: _ =>
    { s with cores := modAt s.cores c (fun x => { x with carriedBy := some (peerOfCore c) }),
             img := { s.img with cur := some { g with core := some c, coreAt := s.now } } }

/-- A core runs an image: its claim stack empties and its duties return. -/
def loadCore (c : Nat) (fw : Nat × List Byte) (s : State) : State :=
  reclaim c { s with cores := setAt s.cores c ⟨fw.1, fw.2, none⟩ }

/-! ### Change groups (R45-R49) -/

/-- Islands whose owner or BE mark changes. -/
def islChanged (a b : Conf) : List Nat :=
  (List.range 256).filter (fun i =>
    let x := sparseGet {} a.isl i
    let y := sparseGet {} b.isl i
    x.owner != y.owner || x.be != y.be || a.retired.contains i != b.retired.contains i)

/-- Islands whose owner changes. -/
def ownerChanged (a b : Conf) : List Nat := (List.range 256).filter (fun i => ownerIn a i != ownerIn b i)

/-- Islands whose LENDABLE alone changes. -/
def lendChanged (a b : Conf) : List Nat :=
  (List.range 256).filter (fun i => !((islChanged a b).contains i) &&
    (sparseGet {} a.isl i).lendable != (sparseGet {} b.isl i).lendable)

/-- Straits that one of two configurations has alone. -/
def straitsChanged (a b : Conf) : List Strait :=
  a.straits.filter (fun x => !(b.straits.contains x)) ++ b.straits.filter (fun x => !(a.straits.contains x))

/-- Islands whose table set changes. -/
def banksChanged (a b : Conf) : List Nat :=
  (List.range 256).filter (fun i => decide (sparseGet none a.tables i ≠ sparseGet none b.tables i))

/-- Islands whose idle bank a change group writes: those that a TABLES segment of it covers, though it carries the set in force
again, and those that lose a segment's set (R244). -/
def banksWritten (a b : Conf) (grp : List Seg) : List Nat :=
  let named := (grp.filter (fun g => g.kind == 4 && !(isRemove g))).flatMap scopeIslands
  (List.range 256).filter (fun i => named.contains i || decide (sparseGet none a.tables i ≠ sparseGet none b.tables i))

/-- Domains that MEMORY and NUMERIC records of a group name. -/
def recordDoms (grp : List Seg) : List Nat :=
  grp.flatMap (fun g =>
    if isRemove g then []
    else if g.kind = 2 then (recordsAt g.body 16 64 (leAt g.body 0 1)).map (fun r => leAt r 0 1)
    else if g.kind = 3 ∧ g.scopeType = 0 then (recordsAt g.body 16 16 (leAt g.body 0 1)).map (fun r => leAt r 0 1)
    else [])

/-- Domains that a group names: records that change or are given, owners of islands that change, ends of straits that
change (R49). -/
def namedDoms (a b : Conf) (grp : List Seg) : List Nat :=
  let isls := islChanged a b ++ banksWritten a b grp ++
    (List.range 256).filter (fun i => sparseGet 0xFFFF a.islFormats i != sparseGet 0xFFFF b.islFormats i) ++
    (straitsChanged a b).flatMap (fun x => [x.src, x.dst])
  let owners := isls.flatMap (fun i => (ownerIn a i).toList ++ (ownerIn b i).toList)
  (List.range 16).filter (fun d => decide (sparseGet none a.doms d ≠ sparseGet none b.doms d) ||
    decide (sparseGet {} a.mems d ≠ sparseGet {} b.mems d) || decide (sparseGet {} a.nums d ≠ sparseGet {} b.nums d) ||
    owners.contains d || (recordDoms grp).contains d)

/-- The group uses the epoch protocol: it carries a kind that needs it (R45, R46). -/
def needsEpoch (a b : Conf) (grp : List Seg) : Bool :=
  grp.any (fun g => g.kind == 0 || g.kind == 2 || g.kind == 3 || g.kind == 4 ||
    (g.kind == 1 && (!(islChanged a b).isEmpty || decide (a.doms ≠ b.doms))))

/-- Some segment other than TABLES needs the epoch protocol, so that it may kill (R45). -/
def needsKill (a b : Conf) (grp : List Seg) : Bool := needsEpoch a b (grp.filter (fun g => g.kind != 4))

/-- Domains whose numeric settings a group's NUMERIC segments name: records by domain, islands by owner. -/
def numericDoms (a b : Conf) (grp : List Seg) : List Nat :=
  let isls := (grp.filter (fun g => g.kind == 3 && g.scopeType == 2)).flatMap scopeIslands
  recordDoms (grp.filter (fun g => g.kind == 3)) ++ isls.flatMap (fun i => (ownerIn a i).toList ++ (ownerIn b i).toList)

/-- The scope: islands owned by a named domain before or after, retired islands, islands running a task of one (R49). -/
def scopeOf (s : State) (t : Conf) (doms : List Nat) : List Nat :=
  (List.range 256).filter (fun i =>
    (match ownerIn s.conf i with | some d => doms.contains d | none => false) ||
    (match ownerIn t i with | some d => doms.contains d | none => false) ||
    (t.retired.contains i && !(s.conf.retired.contains i)) ||
    (match taskAt s i with | some x => doms.contains x.desc.domain | none => false))

/-- The idle table bank of an island is written (R45, R243). -/
def writeBank (t : Option TableSet) (f : FunUnit) : FunUnit := if f.active then { f with bank0 := t } else { f with bank1 := t }

/-- The ways that a change takes from a domain are emptied: dirty lines are written back, clean lines dropped (R45, R75). -/
def trimLagoon (s : State) (t : Conf) : State :=
  { s with mig := { s.mig with lag := s.mig.lag.filter (fun l => bit ((sparseGet {} t.mems l.dom).ways.getD l.atoll 0) l.way) } }

/-- Prepare of the next change group begins (R45, R47, R59, R244). `full` when the group starts a full image. -/
def beginGroup (full : Bool) (s : State) : State :=
  match s.img.left with
  | [] => s
  | grp :: rest =>
    let after := afterGroup (if full then [] else s.img.segs) grp
    let t := confOf (takeFirmware s.conf.firmware grp) after
    let banks := banksWritten s.conf t grp
    let g : GroupState :=
      { epoch := (grp.headD ⟨0, 0, 0, 0, 0, 0, [], []⟩).epoch, segs := grp, after := after, target := t, phase := .prepare,
        protocol := needsEpoch s.conf t grp, t0 := s.now, doms := namedDoms s.conf t grp,
        closed := (ownerChanged s.conf t).filter (fun i => (ownerIn s.conf i).isSome),
        lend := lendChanged s.conf t, banks := banks, killing := needsKill s.conf t grp, numeric := numericDoms s.conf t grp,
        cores := (List.range 8).filter (fun c => grp.any (fun x => x.kind == 9 && !(isRemove x) &&
          ((readFirmware 9 x.body).getD []).any (fun e => e.1 == c))) }
    let s := banks.foldl (fun s i => modIsland s i (fun x =>
      { x with fun_ := { writeBank (sparseGet none t.tables i) (flipBank x.fun_) with loading := true } })) s
    prepareTick (trimLagoon (imgPhase 3 { s with img := { s.img with left := rest, cur := some g } }) t)

/-! ### Commit (R40, R45, R49, R508, R509) -/

/-- A structure other than the page map. -/
def notPageMap : StructKind → Bool
  | .directory => false
  | .leaf _ => false
  | .program _ => true
  | .lists => true
  | .prefixes => true
  | .shadows => true

/-- A domain's structures other than the page map take their places anew; the directory stays while the mode is unified (R77,
R80, R81). -/
def replaceStructs (s : State) (d : Nat) : State :=
  let kinds := ((domAt s d).frames.map (·.2)).filter notPageMap
  let kept := (domAt s d).frames.filter (fun e => !((memRec s d).split) && decide (e.2 = .directory))
  let s := modDom s d (fun x => { x with frames := kept })
  kinds.foldl (fun s k => match allocStruct s d k 1 with | some s => s | none => s) s

/-- A domain changes its mode: the page map goes, or the directory that Prepare took begins one; structures move (R77, R80,
R81). -/
def changeMode (s : State) (d : Nat) : State :=
  replaceStructs (modDom (forgetDomain s d) d (fun x => { x with pages := [], hostPages := [] })) d

/-- The structures of a domain that changes its mode to split fit its reserve (R81). -/
def reserveFits (s : State) (t : Conf) (d : Nat) : Bool :=
  let m := sparseGet {} t.mems d
  (memRec s d).split || !m.split ||
    decide (((domAt s d).frames.filter (fun e => notPageMap e.2)).length ≤ reserveBytes m / pageSize)

/-- The memory side of a commit: modes, and the reserve of split-mode domains whose highest vault changes. -/
def commitMemory (old : Conf) (s : State) : State :=
  (List.range 16).foldl (fun s d =>
    let a := (sparseGet {} old.mems d).split
    let b := (memRec s d).split
    let last := fun (c : Conf) => ((List.range 256).filter (fun i => ownerIn c i == some d)).getLast?
    if a ≠ b then changeMode s d
    else if b ∧ last old ≠ last s.conf then replaceStructs s d
    else s) s

/-- Bundles on straits that are no longer open are discarded and counted (R50). -/
def dropFenced (s : State) : State × Nat :=
  s.flights.foldl (fun (acc : State × Nat) (e : Nat × List Flight) =>
    let gone := e.2.filter (fun f => !(s.conf.straits.contains f.strait))
    let n := (gone.map (fun f => f.bundles.length)).sum
    let st := { acc.1 with flights := sparseSet [] acc.1.flights e.1 (e.2.filter (fun f => s.conf.straits.contains f.strait)) }
    ((List.range n).foldl (fun t _ => bundleLanded t (e.1 / 8) (e.1 % 8)) st, acc.2 + n)) (s, 0)

/-- The table sets that come newly into force, in ascending SET_ID. -/
def newSets (old : Conf) (grp : List Seg) : List TableSet :=
  let l := grp.filterMap (fun g => if g.kind = 4 ∧ !(isRemove g) then (checkTable g.body).toOption else none)
  let new := (l.filter (fun t => !(old.tables.any (fun (e : Nat × Option TableSet) => match e.2 with
    | some x => x.digest == t.digest
    | none => false)))).eraseDups
  new.foldr (fun t acc => acc.filter (fun x => decide (x.setId ≤ t.setId)) ++ [t] ++
    acc.filter (fun x => !(decide (x.setId ≤ t.setId)))) []

/-- The measurements of a commit: MR1, MR3, then MR2 (R508). -/
def measureCommit (old : Conf) (grp : List Seg) (cores : List Nat) (version : Nat) (s : State) : State :=
  let s := cores.foldl (fun s c =>
    let x := s.cores.getD c {}
    extendMr 1 1 c x.version (sha3 x.image) s) s
  let s := (newSets old grp).foldl (fun s t => extendMr 3 3 0 (t.setId + 2 ^ 16 * t.version) t.digest s) s
  extendMr 2 2 0 version s.img.digest s

/-- The banks in force by island, where bank 1 is. -/
def banksNow (s : State) : Sparse Bool :=
  (s.islands.filter (fun (e : Nat × Island) => e.2.fun_.active)).map (fun (e : Nat × Island) => (e.1, true))

/-- The in-force state is recorded, and the mirror store rewritten (R44, R45). -/
def recordCommit (epoch : Nat) (after : List Seg) (s : State) : State :=
  let dg := forceDigest after
  { s with img := { s.img with epoch := epoch, segs := after, digest := dg },
           mir := { s.mir with bad := false, segs := after, epoch := epoch, digest := dg, version := s.img.version,
                               firmware := s.conf.firmware, banks := banksNow s } }

/-- Every island shows an epoch. -/
def setEpochs (e : Nat) (s : State) : State := (List.range 256).foldl (fun s i => modIsland s i (fun x => { x with epoch := e })) s

/-- The bank in force of an island is its table set. -/
def settleBank (s : State) (i : Nat) : State :=
  modIsland s i (fun x =>
    let t := sparseGet none s.conf.tables i
    if bankInForce x.fun_ = t then { x with fun_ := { x.fun_ with flip := false } }
    else if idleBank x.fun_ = t then { x with fun_ := { x.fun_ with active := !x.fun_.active, flip := false } }
    else { x with fun_ := { (writeBank t x.fun_) with active := !x.fun_.active, flip := false } })

/-- The bank in force of an island is the mirror store's, with its set; the other bank keeps what it holds (R52, R244). -/
def restoreBank (s : State) (i : Nat) : State :=
  modIsland s i (fun x =>
    let b := sparseGet false s.mir.banks i
    let t := sparseGet none s.conf.tables i
    let f := if b then { x.fun_ with bank1 := t } else { x.fun_ with bank0 := t }
    { x with fun_ := { f with active := b, loading := false, flip := false } })

/-- The image is through, or its next group begins. -/
def afterCommit (s : State) : State :=
  let s := { s with img := { s.img with cur := none, groupsDone := s.img.groupsDone + 1 } }
  if s.img.left.isEmpty then imgPhase 7 { s with img := { s.img with status := .success, staged := none } }
  else beginGroup false s

/-- IMAGE_VERSION is that of the last full image (R516). -/
def takeVersion (s : State) : State :=
  match s.img.staged with
  | some x => if x.delta then s else { s with img := { s.img with version := x.version } }
  | none => s

/-- The version that the commit's log entry carries. -/
def stagedVersion (s : State) : Nat := match s.img.staged with | some x => x.version | none => s.img.version

/-- While DRAM is initialised after its loss, a domain that comes in force shows ZEROISING until its own vaults and channels
are zero (R106, R449). -/
def markInit (old : Conf) (s : State) : State :=
  if s.pow.initing then
    (List.range 16).foldl (fun s d =>
      if (domRec s d).isSome && (sparseGet none old.doms d).isNone then modDom s d (fun x => { x with zeroising := true }) else s) s
  else s

/-- A change group commits (R45, R49, R50). -/
def commitGroup (g : GroupState) (s : State) : State :=
  let old := s.conf
  let v := stagedVersion s
  let s := markInit old (takeVersion { s with conf := g.target })
  let s := g.banks.foldl settleBank s
  let s := commitMemory old s
  let (s, n) := dropFenced s
  let n := n + g.discarded
  let s := if 0 < n then logE 2 .success none 0xFF (leBytes 4 g.epoch ++ leBytes 4 n) s else s
  let s := applyDebug old.dbg g.target.dbg (setEpochs g.epoch s)
  let s := measureCommit old g.segs g.cores v (recordCommit g.epoch g.after s)
  afterCommit (lateMoves s)

/-- The whole image applies at once when nothing is in force (R41). -/
def coldApply (s : State) : State :=
  match s.img.staged with
  | none => s
  | some x =>
    let after := x.segs.filter (fun g => !(isRemove g))
    let t := confOf (takeFirmware [] x.segs) after
    let e := (x.segs.map (·.epoch)).foldl max 0
    let s := markInit {} { s with conf := { t with link := s.conf.link }, img := { s.img with waiting := false, left := [] } }
    let s := (banksChanged {} t).foldl settleBank (applyLink t.link s)
    let cores := t.firmware.map (fun (f : Nat × Nat × List Byte) => f.1)
    let s := t.firmware.foldl (fun s (f : Nat × Nat × List Byte) => loadCore f.1 f.2 s) s
    let s := applyPower (match t.event with | some b => applyEvent b s | none => s)
    let s := applyDebug none t.dbg (setEpochs e (takeVersion s))
    let s := measureCommit {} x.segs cores x.version (recordCommit e after s)
    imgPhase 7 { s with img := { s.img with status := .success, staged := none, groupsDone := (groupsOf x.segs).length } }

/-! ### APPLY (R41, R42, R45, R57) -/

/-- APPLY is refused: STATE_REFUSED with an info entry, and the image stays staged. -/
def refuseApply (s : State) : State :=
  imgPhase 8 (logE 0 .stateRefused none 0xFF [] { s with img := { s.img with status := .stateRefused, groupsDone := 0 } })

/-- APPLY is legal now: an image is staged; a full one finds no domain ACTIVE or DRAINING once something is in force; no
record of a domain that is not EMPTY goes (R42). -/
def applyLegal (s : State) : Bool :=
  match s.img.staged with
  | none => false
  | some x =>
    let ends := (stagesFor s x.delta x.segs).map (·.conf)
    (x.delta || s.img.epoch == 0 || (List.range 16).all (fun d =>
      decide ((domAt s d).st ≠ .active) && decide ((domAt s d).st ≠ .draining))) &&
    (List.range 16).all (fun d => decide ((domAt s d).st = .empty) || (domRec s d).isNone ||
      ends.all (fun c => (sparseGet none c.doms d).isSome))

/-- APPLY; a cold one waits for training to end (R491). DESIGN CHOICE: a delta whose BASE_DIGEST is zero passes step 6 while
nothing is in force, and it is applied as a cold load then; R41 asks for a full image and does not say what such a delta does. -/
def applyImage (s : State) : State :=
  if imgBusy s then s
  else if !(applyLegal s) then refuseApply s
  else match s.img.staged with
    | none => refuseApply s
    | some x =>
      let s := { s with img := { s.img with groupsDone := 0, status := .success } }
      if s.img.epoch = 0 then
        (if s.pow.trained then coldApply s else imgPhase 3 { s with img := { s.img with waiting := true } })
      else beginGroup (!x.delta) { s with img := { s.img with left := groupsOf x.segs } }

def execImgApply (drainBe : BitVec 10) (s : State) : Outcome :=
  .next (viaHost s (fun s => applyImage (setDrain drainBe.toNat s)))

/-! ### Rollback (R52-R54) -/

/-- What a rollback undoes on the cores: those done and the one being loaded run the mirror store's firmware again (R48). -/
def restoreCores (g : GroupState) (old : Conf) (s : State) : State :=
  let l := g.coresDone ++ g.core.toList
  l.foldl (fun s c => loadCore c (sparseGet (0, []) old.firmware c) s) s

/-- What Prepare had under way ends: zero-fills of vaults that have not ended, directories taken for a change of mode, the
mark LOADING of the banks (R47, R53, R77). -/
def endPrepare (g : GroupState) (s : State) : State :=
  let s := g.closed.foldl (fun s v => modVault s v (fun x => { x with ops := x.ops.filter (fun o => decide (o.owner ≠ .hub)) })) s
  (List.range 16).foldl (fun s d =>
    if comesUnified s d then modDom s d (fun x => { x with frames := x.frames.filter (fun e => decide (e.2 ≠ .directory)) }) else s) s

/-- The program images resident on an island of a domain (R183). -/
def residentsOf (s : State) (d : Option Nat) : List (Nat × Nat) :=
  match d with
  | some d => (domAt s d).programs.filterMap (fun (e : Nat × Option (Nat × Program)) => match e.2 with
      | some (k, p) => if isResident p then some (k, p.bytes) else none
      | none => none)
  | none => []

/-- Islands that had changed owner have their old owner's programs again (R52, R183). -/
def restoreStores (g : GroupState) (t : Conf) (s : State) : State :=
  (g.arrived.filter (fun i => ownerIn g.target i != ownerIn t i)).foldl (fun s i =>
    modIsland s i (fun x => { x with store := residentsOf s (ownerIn t i) })) s

/-- The event controller as the EVENT segment in force sets it; without one, with the values of a cold power-up (R52, R466,
R468). -/
def restoreEvc (t : Conf) (s : State) : State :=
  match t.event with
  | some b => applyEvent b s
  | none =>
    let m := { s.evc with prio := [], route := [], targets := sparseMap {} s.evc.targets (fun x => { x with thresh := 0 }) }
    evRefresh ((List.range 32).foldl (fun s n => maskWord n 0xFFFFFFFF s) { s with evc := m })

/-- An uncommitted change group rolls back, and the groups behind it are not applied (R52-R54); the log entry names the
event source of the cause. -/
def rollbackFrom (src : Option Nat) (st : Status) (s : State) : State :=
  match s.img.cur with
  | none => s
  | some g =>
    let old := confOf s.mir.firmware s.mir.segs
    let begun := decide (g.phase ≠ .prepare)
    let s := restoreStores g old { endPrepare g s with conf := { old with link := s.conf.link } }
    let s := if begun then applyLink old.link s else s
    let s := (g.banks ++ g.arrived).eraseDups.foldl restoreBank s
    let s := if begun then applyPower (restoreCores g old s) else s
    let s := if begun && g.segs.any (fun x => x.kind == 8) then restoreEvc old s else s
    let s := setEpochs s.img.epoch s
    let s := { s with img := { s.img with cur := none, left := [], staged := none, status := st } }
    let s := logE 2 st src 0xFF [] s
    let s := if s.mir.bad then
        g.doms.foldl (fun s d => faultDomain s d .mirrorBad) (raise 0x202 (logE 3 .mirrorBad (some 0x202) 0xFF [] s))
      else s
    imgPhase 8 s

/-- A rollback on EPOCH_HELD or APPLY_ABORTED. -/
def rollback (st : Status) : State → State := rollbackFrom (if st = .epochHeld then some 0x201 else none) st

/-- ABORT: ends Prepare, rolls back the uncommitted group, and stops the groups that follow (R47, R52, R55). -/
def abortImage (s : State) : State :=
  if s.img.cur.isSome then rollback .applyAborted s
  else if s.img.waiting then imgPhase 8 { s with img := { s.img with waiting := false, status := .applyAborted, staged := none } }
  else s

def execImgAbort (drainBe : BitVec 10) (s : State) : Outcome :=
  .next (viaHost s (fun s => abortImage (setDrain drainBe.toNat s)))

/-! ### The epoch protocol (R48-R51) -/

/-- DRAIN_BE in force, in ns (R57). -/
def drainNs (s : State) : Nat := 1000 * (if s.img.drainBe < 10 ∨ 1000 < s.img.drainBe then 1000 else s.img.drainBe)

/-- Tasks that the start of the hold kills: BE, not pinned, on islands that change owner or lose a strait (R49, R51). -/
def holdVictims (s : State) (t : Conf) : List Task :=
  let isls := ownerChanged s.conf t ++ (s.conf.straits.filter (fun x => !(t.straits.contains x))).flatMap (fun x => [x.src, x.dst])
  s.tasks.filter (fun u => !u.desc.lc && !u.desc.pinned && decide (u.phase = .running) &&
    (match u.island with | some i => isls.contains i | none => false))

/-- The members of a task's gang that run are all BE and not pinned. -/
def gangBe (s : State) (t : Task) : Bool :=
  ((gangOf s t).filter (fun u => decide (u.phase = .running))).all (fun u => !u.desc.lc && !u.desc.pinned)

/-- Kill tasks with their gangs, each once, where the gang as a whole may be killed (R51, R362). -/
def killAll (may : State → Task → Bool) (l : List Task) (s : State) : State :=
  l.foldl (fun s u => match taskOf s u.tag with
    | some v => if decide (v.phase = .running) && may s v then killGang s v else s
    | none => s) s

/-- A segment that needs no epoch protocol takes effect, as its REMOVE does by the target (R46). -/
def applySeg (t : Conf) (s : State) (g : Seg) : State :=
  if isRemove g then s
  else if g.kind = 6 then applyLink (mergeLink s.conf.link g) s
  else if g.kind = 7 then applyPower { s with conf := { s.conf with power := (foldPower s.conf g).power } }
  else if g.kind = 8 then applyEvent g.body { s with conf := { s.conf with event := t.event } }
  else s

/-- The segments that need no epoch protocol take effect in table order, or begin to. What segments that go out of force had
set gives way, too (R40, R42, R46). -/
def startImmediate (g : GroupState) (s : State) : State :=
  let s := g.segs.foldl (applySeg g.target) s
  let s := if g.target.link ≠ s.conf.link then applyLink g.target.link s else s
  let s := if g.target.power ≠ s.conf.power then applyPower { s with conf := { s.conf with power := g.target.power } } else s
  nextCore { s with conf := { s.conf with event := g.target.event } } g

/-- A SEND of a strait's source island that stands at the strait's full receive FIFO stands until its task ends (R26). -/
def fenceSends (s : State) (x : Strait) (y : Island) : Island :=
  let mine := fun (c : Ctx) => decide (c.w.op = .send) && c.w.x == x.sch
  let stands := decide (y.stall = some .sendFull) && (insnAt s x.src).any mine
  let on := fun (w : Waiter) => decide (w.why = .sendFull) && (taskAt s x.src).any (fun t => (waiterCtx x.src t y w).any mine)
  { y with stall := if stands then some .fenced else y.stall,
           waiting := y.waiting.map (fun w => if on w then { w with why := .fenced } else w) }

/-- A fence clears straits: their routes and receive FIFOs are empty, and signals wait for their bundles no more (R26, R27). -/
def fenceStraits (l : List Strait) (s : State) : State :=
  l.foldl (fun s x =>
    let gone := (flightsOf s x.src x.sch).filter (fun f => decide (f.strait = x))
    let n := (gone.map (fun f => f.bundles.length)).sum
    let s := { s with
      flights := sparseSet [] s.flights (x.src * 8 + x.sch) ((flightsOf s x.src x.sch).filter (fun f => decide (f.strait ≠ x)))
      fifos := sparseErase s.fifos (x.dst * 8 + x.rch) }
    (List.range n).foldl (fun s _ => bundleLanded s x.src x.sch) (modIsland s x.src (fenceSends s x))) s

/-- PREPARE_END: moves and zero-fills are through, and a domain that becomes unified has its directory. The barrier is raised
and tasks that stand in the way are killed, or the segments apply (R45-R49, R59, R77, R362). DESIGN CHOICE: a gang that an LC or a
pinned task runs in is not killed; the spec makes no exception for it, and forbids the kill of its member. -/
def execPrepareEnd (s : State) : Outcome :=
  match s.img.cur with
  | none => notNow "PREPARE_END"
  | some g =>
    if decide (g.phase ≠ .prepare) || !(g.closed.all (fun v => g.zeroed.contains v)) ||
        !((List.range 16).all (fun d => (leavingChan s d).isEmpty && (!(comesUnified s d) || hasDirectory s d) &&
          reserveFits s g.target d)) then notNow "PREPARE_END"
    else
      let g := { g with phase := if g.protocol then .hold else .apply, t0 := s.now,
                        islands := if g.protocol then scopeOf s g.target g.doms else [] }
      let s := imgPhase (if g.protocol then 4 else 9) { s with img := { s.img with cur := some g } }
      let s := g.banks.foldl (fun s i => modIsland s i (fun x => { x with fun_ := { x.fun_ with loading := false } })) s
      let s := if g.protocol then killAll gangBe (holdVictims s g.target) s else s
      .next (startImmediate g s)

/-- The straits that an island's share fences: those that touch it and go, and every one that touches it when its owner
changes. -/
def straitsFenced (s : State) (t : Conf) (i : Nat) : List Strait :=
  (s.conf.straits.filter (fun x => (x.src == i || x.dst == i) &&
    (ownerIn s.conf i != ownerIn t i || !(t.straits.contains x)))).eraseDups

/-- Bundles in a strait's route and receive FIFO. -/
def straitLoad (s : State) (x : Strait) : Nat :=
  (((flightsOf s x.src x.sch).filter (fun f => decide (f.strait = x))).map (fun f => f.bundles.length)).sum +
    (fifoOf s x.dst x.rch).length

/-- The island's share of a group: owner and marks, retirement, formats, straits, the bank to come; what an island that changes
owner held is wiped (R26, R45, R47, R49). -/
def takeShare (g : GroupState) (i : Nat) (s : State) : State :=
  let t := g.target
  let moved := ownerIn s.conf i != ownerIn t i
  let cleared := straitsFenced s t i
  let n := (cleared.map (straitLoad s)).sum
  let s := fenceStraits cleared s
  let c := s.conf
  let c := { c with
    isl := sparseSet {} c.isl i (sparseGet {} t.isl i)
    retired := c.retired.filter (fun x => x != i) ++ (if t.retired.contains i then [i] else [])
    islFormats := sparseSet 0xFFFF c.islFormats i (sparseGet 0xFFFF t.islFormats i)
    straits := c.straits.filter (fun x => x.src != i) ++ t.straits.filter (fun x => x.src == i) }
  let s := { s with conf := c }
  let res := residentsOf s (ownerIn t i)
  let s := modIsland s i (fun x =>
    let x := if moved then { (wipeIsland s.now x) with store := res, xlat := [] } else x
    { x with epoch := g.epoch, fun_ := { x.fun_ with flip := x.fun_.flip || g.banks.contains i } })
  { s with img := { s.img with cur := some { g with arrived := g.arrived ++ [i], discarded := g.discarded + n,
                                                    fenced := (g.fenced ++ cleared).eraseDups } } }

/-- An island changes its owner from or to a split-mode domain that still runs a task: the domain must drain before its NEAR
range is laid out again (R80, R107). -/
def splitBusy (s : State) (t : Conf) (i : Nat) : Bool :=
  ownerIn s.conf i != ownerIn t i && ((ownerIn s.conf i).toList ++ (ownerIn t i).toList).any (fun d =>
    ((memRec s d).split || (sparseGet {} t.mems d).split) &&
    s.tasks.any (fun u => u.desc.domain == d && decide (u.phase = .running)))

/-- 10 ms after the end of Prepare have not passed (R49). -/
def barrierInTime (s : State) (g : GroupState) : Bool := decide (s.now < g.t0 + 10000000)

/-- ISLAND_EPOCH_ARRIVE: a scope island whose last old-epoch task has ended takes its share and arrives (R49). -/
def execIslandEpochArrive (i : Fin 256) (s : State) : Outcome :=
  match s.img.cur with
  | none => notNow "ISLAND_EPOCH_ARRIVE"
  | some g =>
    if decide (g.phase = .hold) && g.islands.contains i.val && !(g.arrived.contains i.val) && (islandAt s i).task.isNone &&
        !(splitBusy s g.target i) && barrierInTime s g then
      .next (takeShare g i s)
    else notNow "ISLAND_EPOCH_ARRIVE"

/-- DRAIN_BE_DEADLINE: killable BE tasks that still run in the scope are killed, but none for a group in which only TABLES needs
the protocol (R45, R49, R51). -/
def execDrainBeDeadline (s : State) : Outcome :=
  match s.img.cur with
  | none => notNow "DRAIN_BE_DEADLINE"
  | some g =>
    if g.phase = .hold ∧ ¬ g.kills ∧ g.t0 + drainNs s ≤ s.now then
      let l := s.tasks.filter (fun u => g.killing && killable s u &&
        (match u.island with | some i => g.islands.contains i | none => false))
      .next (killAll gangKillable l { s with img := { s.img with cur := some { g with kills := true } } })
    else notNow "DRAIN_BE_DEADLINE"

/-- No collective of a domain that a NUMERIC segment names, by record or by islands, holds a context (R45). -/
def contextsIdle (s : State) (g : GroupState) : Bool :=
  !(s.net.colls.any (fun c => c.ctx.isSome && (g.numeric.contains c.dom ||
    decide (sparseGet {} s.conf.nums c.dom ≠ sparseGet {} g.target.nums c.dom))))

/-- EPOCH_BARRIER_COMPLETE: the last scope island has arrived; commit begins (R49, R59). -/
def execEpochBarrierComplete (s : State) : Outcome :=
  match s.img.cur with
  | none => notNow "EPOCH_BARRIER_COMPLETE"
  | some g =>
    if decide (g.phase = .hold) && g.islands.all (fun i => g.arrived.contains i) && contextsIdle s g && barrierInTime s g then
      .next (imgPhase 5 { s with img := { s.img with cur := some { g with phase := .commit, doneAt := some s.now } } })
    else notNow "EPOCH_BARRIER_COMPLETE"

/-- Every segment of a group has applied (R45, R46). -/
def allApplied (s : State) (g : GroupState) : Bool :=
  g.lend.isEmpty && g.cores.all (fun c => g.coresDone.contains c) &&
  g.banks.all (fun i => !((islandAt s i).fun_.flip)) &&
  !((List.range 48).any (fun c => revoked s g.target.video c)) &&
  s.evc.waits.isEmpty

/-- GROUP_COMMIT (R45, R49). -/
def execGroupCommit (s : State) : Outcome :=
  match s.img.cur with
  | none => notNow "GROUP_COMMIT"
  | some g =>
    if decide (g.phase = .commit ∨ g.phase = .apply) && allApplied s g then .next (commitGroup g s) else notNow "GROUP_COMMIT"

/-- EPOCH_HELD: 10 ms after the end of Prepare the barrier has not completed (R49, R52). -/
def execEpochHeld (s : State) : Outcome :=
  match s.img.cur with
  | none => notNow "EPOCH_HELD"
  | some g =>
    if g.phase = .hold ∧ g.t0 + 10000000 ≤ s.now then .next (rollback .epochHeld (raise 0x201 s)) else notNow "EPOCH_HELD"

/-- LENDING_FLAG_APPLY: LENDABLE changes at an island's task boundary, once no foreign task runs there (R45). -/
def execLendingFlagApply (i : Fin 256) (s : State) : Outcome :=
  match s.img.cur with
  | none => notNow "LENDING_FLAG_APPLY"
  | some g =>
    if g.phase ≠ .prepare ∧ g.lend.contains i.val ∧ (islandAt s i).task.isNone then
      .next { s with conf := { s.conf with isl := sparseSet {} s.conf.isl i (sparseGet {} g.target.isl i) },
                     img := { s.img with cur := some { g with lend := g.lend.filter (fun x => x != i.val) } } }
    else notNow "LENDING_FLAG_APPLY"

/-- TABLE_BANK_FLIP: at an island's task boundary the idle bank comes into force (R244). -/
def execTableBankFlip (i : Fin 256) (s : State) : Outcome :=
  let x := islandAt s i
  if x.fun_.flip ∧ x.task.isNone then .next (setIsland s i { x with fun_ := flipBank x.fun_ }) else notNow "TABLE_BANK_FLIP"

/-- FIRMWARE_CORE_READY: the new image of a core signals ready; its duties return and the next core is updated (R48). -/
def execFirmwareCoreReady (c : Fin 8) (s : State) : Outcome :=
  match s.img.cur with
  | none => notNow "FIRMWARE_CORE_READY"
  | some g =>
    if g.core = some c.val ∧ s.now < g.coreAt + 100000000 then
      let s := loadCore c (sparseGet (0, []) g.target.firmware c) s
      .next (nextCore s { g with coresDone := g.coresDone ++ [c.val], core := none })
    else notNow "FIRMWARE_CORE_READY"

/-- FIRMWARE_READY_TIMEOUT: a core has not signalled ready within 100 ms: the segment fails (R48, R52). -/
def execFirmwareReadyTimeout (s : State) : Outcome :=
  match s.img.cur with
  | none => notNow "FIRMWARE_READY_TIMEOUT"
  | some g =>
    if g.core.isSome ∧ g.coreAt + 100000000 ≤ s.now then .next (rollbackFrom (some 0x203) .applyAborted (raise 0x203 s))
    else notNow "FIRMWARE_READY_TIMEOUT"

end Sys2Proof.Machine
end

