-- ==== Sys2Proof/Machine/Rings.lean ====
section
/-!
DEFINITION. Rings and windows of the virtual functions: records and their acceptance, ring registers, the BAR2 windows, and
host reads that fail (R430-R440, R448-R452, R521).
-/
namespace Sys2Proof.Machine

/-! ### Records (R433, R438, R439) -/

/-- The operand bytes that a command uses, as offset and size (R438); none for a reserved OPCODE. -/
def usedBytes : Nat → Option (List (Nat × Nat))
  | 0x01 => some [(0x08, 10)]
  | 0x10 => some [] | 0x11 => some [] | 0x12 => some [] | 0x13 => some [] | 0x14 => some [] | 0x15 => some []
  | 0x18 => some [(0x08, 2), (0x10, 8)]
  | 0x19 => some [(0x08, 2)]
  | 0x1A => some [(0x08, 1), (0x0A, 8)]
  | 0x20 => some [(0x08, 13), (0x16, 10)]
  | 0x21 => some [(0x08, 12)] | 0x22 => some [(0x08, 12)] | 0x24 => some [(0x08, 12)]
  | 0x23 => some [(0x08, 12), (0x16, 2)]
  | 0x25 => some [(0x08, 24)]
  | 0x26 => some [(0x08, 2), (0x20, 32)]
  | 0x27 => some [(0x08, 2)]
  | 0x30 => some [(0x08, 24)]
  | 0x31 => some [(0x08, 28)]
  | 0x32 => some [(0x08, 4)]
  | 0x33 => some [(0x08, 12), (0x18, 16)]
  | 0x34 => some [(0x08, 12), (0x18, 16)]
  | 0x35 => some [(0x08, 13)]
  | 0x40 => some [(0x08, 1), (0x10, 8)]
  | 0x41 => some [(0x08, 46)]
  | 0x42 => some [(0x08, 1)] | 0x45 => some [(0x08, 1)] | 0x4A => some [(0x08, 1)]
  | 0x43 => some [(0x08, 2), (0x10, 8)]
  | 0x44 => some [(0x08, 1), (0x10, 8)]
  | 0x48 => some [(0x08, 10)]
  | 0x49 => some [(0x08, 1), (0x0A, 18), (0x20, 16)]
  | 0x50 => some [(0x08, 18)]
  | 0x51 => some [(0x08, 2)]
  | 0x52 => some [(0x08, 56)]
  | 0x58 => some [(0x08, 24)]
  | 0x59 => some [(0x08, 1)]
  | 0x5A => some [(0x08, 1), (0x0A, 38)]
  | 0x5B => some [(0x08, 1), (0x0A, 38)]
  | _ => none

/-- A record is well formed: OPCODE listed, reserved bits and unused bytes zero (R433, R439). -/
def recordFine (b : List Byte) : Bool :=
  match usedBytes (leAt b 0 1) with
  | none => false
  | some l =>
    let used := fun i => decide (i < 2) || (decide (4 ≤ i) && decide (i < 8)) ||
      l.any (fun e => decide (e.1 ≤ i) && decide (i < e.1 + e.2))
    bits (leAt b 1 1) 7 1 == 0 && (List.range 64).all (fun i => used i || b.getD i 0 == 0)

/-- Carry out an accepted record (R438, R439). -/
def runRecord (src : Src) (b : List Byte) (s : State) : State :=
  let u := fun o n => leAt b o n
  if !(recordFine b) then refuse src .commandBad s
  else match u 0 1 with
  | 0x01 => doTask src (u 8 8) (u 0x10 2) s
  | 0x10 => doBind src s
  | 0x11 => doArm src s
  | 0x12 => doStart src s
  | 0x13 => doDrain src s
  | 0x14 => doResume src s
  | 0x15 => doUnbind src s
  | 0x18 => doLoadProgram src (u 8 2) (u 0x10 8) s
  | 0x19 => doUnloadProgram src (u 8 2) s
  | 0x1A => doResetSync src (u 8 1) (u 0xA 2) (u 0xC 2) (u 0xE 2) (u 0x10 2) s
  | 0x20 => doMap src (u 8 8) (u 0x10 4) (u 0x14 1) (u 0x16 2) (u 0x18 8) s
  | 0x21 => doUnmap src (u 8 8) (u 0x10 4) s
  | 0x22 => doSeal src (u 8 8) (u 0x10 4) s
  | 0x23 => doPromote src (u 8 8) (u 0x10 4) (u 0x16 2) s
  | 0x24 => doDemote src (u 8 8) (u 0x10 4) s
  | 0x25 => doCopy src (u 8 8) (u 0x10 8) (u 0x18 8) s
  | 0x26 => doSetShadow src (u 8 2) (slice b 0x20 32) s
  | 0x27 => doClearShadow src (u 8 2) s
  | 0x30 => doCreateList src (u 8 4) (u 0xC 4) (u 0x10 8) (u 0x18 8) s
  | 0x31 => doEditList src (u 8 4) (u 0xC 4) (u 0x10 8) (u 0x18 8) (u 0x20 4) s
  | 0x32 => doDestroyList src (u 8 4) s
  | 0x33 => doPrefixInsert src (u 8 8) (u 0x10 4) (u 0x18 8) (u 0x20 8) s
  | 0x34 => doPrefixLookup src (u 8 8) (u 0x10 4) (u 0x18 8) (u 0x20 8) s
  | 0x35 => doPrefixRelease src (u 8 8) (u 0x10 4) (u 0x14 1) s
  | 0x40 => doEncOpen src (u 8 1) (u 0x10 8) s
  | 0x41 => doEncFrame src (u 8 1) (u 9 1) (u 0xA 2) (u 0xC 2) (u 0xE 2) (u 0x10 8) (u 0x18 8) (u 0x20 8) (u 0x28 8)
      (u 0x30 4) (u 0x34 2) s
  | 0x42 => doForceKey src (u 8 1) s
  | 0x43 => doMark src (u 8 1) (u 9 1) (u 0x10 8) s
  | 0x44 => doAck src (u 8 1) (u 0x10 8) s
  | 0x45 => doEncClose src (u 8 1) s
  | 0x48 => doDecOpen src (u 8 1) (u 9 1) (u 0xA 2) (u 0xC 2) (u 0xE 2) (u 0x10 2) s
  | 0x49 => doDecFrame src (u 8 1) (u 0xA 2) (u 0xC 2) (u 0xE 2) (u 0x10 8) (u 0x18 4) (u 0x20 8) (u 0x28 8) s
  | 0x4A => doDecClose src (u 8 1) s
  | 0x50 => doGroupJoin src (u 8 8) (u 0x10 8) (u 0x18 2) s
  | 0x51 => doGroupLeave src (u 8 2) s
  | 0x52 => doColl src (u 0x17 1) (u 0x38 2) (u 0x3A 2)
      (collOpOf (u 8 2) (u 0xA 2) (u 0xC 4) (u 0x10 4) (u 0x14 1) (u 0x15 1) (u 0x16 1) (u 0x17 1) (u 0x18 8) (u 0x20 8)
        (u 0x28 8) (u 0x30 4) (u 0x34 4) (u 0x38 2) (u 0x3A 2) (u 0x3C 2) (u 0x3E 2)) s
  | 0x58 => doRmemExpose src (u 8 1) (u 9 1) (u 0xA 2) (u 0xC 2) (u 0xE 2) (u 0x10 8) (u 0x18 8) s
  | 0x59 => doRmemUnexpose src (u 8 1) s
  | 0x5A => doRmemGet src (u 8 1) (u 0xA 2) (u 0xC 2) (u 0xE 2) (u 0x10 8) (u 0x18 8) (u 0x20 8) (u 0x28 4) (u 0x2C 2)
      (u 0x2E 2) s
  | 0x5B => doRmemPut src (u 8 1) (u 0xA 2) (u 0xC 2) (u 0xE 2) (u 0x10 8) (u 0x18 8) (u 0x20 8) (u 0x28 4) (u 0x2C 2)
      (u 0x2E 2) s
  | _ => refuse src .commandBad s

/-! ### Acceptance (R432-R434, R437) -/

def sqAt (s : State) (v q : Nat) : SubRing := (vfAt s v).sqs.getD q {}
def cqAt (s : State) (v c : Nat) : CplRing := (vfAt s v).cqs.getD c {}
def setSq (s : State) (v q : Nat) (x : SubRing) : State := modVf s v (fun f => { f with sqs := setAt f.sqs q x })
def setCq (s : State) (v c : Nat) (x : CplRing) : State := modVf s v (fun f => { f with cqs := setAt f.cqs c x })

/-- The event that a ring of the VF's domain is disabled (R455). -/
def ringEvent (s : State) (v : Nat) : State :=
  match domOfVf s v with | some d => raise (0x110 + d) s | none => s

/-- A submission ring is disabled by an error: records not yet read are discarded (R450, R452). -/
def sqError (s : State) (v q : Nat) (st : Status) : State :=
  let x := sqAt s v q
  ringEvent (setSq s v q { x with ctrl := x.ctrl / 2 * 2, error := true, status := st }) v

/-- A completion ring is disabled by an error. -/
def cqError (s : State) (v c : Nat) (st : Status) : State :=
  let x := cqAt s v c
  ringEvent (setCq s v c { x with ctrl := x.ctrl / 2 * 2, error := true, status := st }) v

/-- A command or task of the ring has not completed, committed or ended (R433 FENCE). -/
def ringBusy (s : State) (v q : Nat) : Bool :=
  let mine := fun (x : Src) => x.vf == v && x.sq == q
  let opt := fun (x : Option Src) => match x with | some y => mine y | none => false
  s.tasks.any (fun t => mine t.src) || s.mig.seals.any (fun x => mine x.src) ||
  s.doms.any (fun (e : Nat × Dom) => e.2.tasking.any (fun t => mine t.1) || e.2.waitBind.any mine || e.2.waitArm.any mine ||
    opt e.2.waitDrain || e.2.windows.any (fun (w : Nat × Option Window) => opt (w.2.bind (·.closing)))) ||
  s.net.joins.any (fun j => mine j.src) || s.net.colls.any (fun c => mine c.src) ||
  s.net.xfers.any (fun x => opt x.src) ||
  s.codec.chans.any (fun (e : Nat × CodChan) => e.2.queue.any (fun r => mine r.src) ||
    opt (e.2.frame.map (·.req.src)) || e.2.marks.any (fun m => mine m.src) || opt e.2.closeSrc)

/-- A ring is read: it and the completion ring it names are enabled, and records wait in it (R432). -/
def ringReads (s : State) (v q : Nat) : Bool :=
  let x := sqAt s v q
  bit x.ctrl 0 && bit (cqAt s v (bits x.ctrl 17 16)).ctrl 0 && decide (x.head ≠ x.tail)

/-- The record at a ring's head. -/
def headRecord (s : State) (v q : Nat) : List Byte :=
  let x := sqAt s v q
  hostBytes s (x.base + 64 * x.head) 64

/-- The ring whose head record is accepted next, in rotation; none while completions fill their queue or descriptors wait
for slots (R356, R433, R434, R437). -/
def nextRing (s : State) (v : Nat) : Option Nat :=
  let f := vfAt s v
  let slots := match domOfVf s v with | some d => (domAt s d).tasking.isEmpty | none => true
  if 4096 ≤ f.waitCpl.length ∨ slots = false then none
  else ((List.range 8).map (fun k => (f.nextSq + k) % 8)).find? (fun q =>
    ringReads s v q && !(bit (leAt (headRecord s v q) 1 1) 0 && ringBusy s v q))

/-- Accept records of a VF's rings, at most `fuel`. -/
def pumpRings (v : Nat) : Nat → State → State
  | 0, s => s
  | fuel + 1, s =>
    match nextRing s v with
    | none => s
    | some q =>
      let x := sqAt s v q
      let b := headRecord s v q
      let s := setSq s v q { x with head := (x.head + 1) % ringSize x.ctrl }
      let s := modVf s v (fun f => { f with nextSq := (q + 1) % 8 })
      pumpRings v fuel (runRecord ⟨v, q, leAt b 4 4⟩ b s)

/-- Records that wait in a VF's rings. -/
def recordsWaiting (s : State) (v : Nat) : Nat :=
  ((List.range 8).map (fun q => let x := sqAt s v q; (x.tail + ringSize x.ctrl - x.head) % ringSize x.ctrl)).sum

/-- Waiting completions that find room are written, then records are accepted. -/
def serveVf (s : State) (v : Nat) : State :=
  let waits := fun (s : State) (c : Nat) => ((vfAt s v).waitCpl.filter (fun w => w.1 == c)).length
  let t := cplDrain (vfAt s v).waitCpl.length s v
  let s := (List.range 4).foldl (fun u c => codPlaced u v c (waits s c - waits t c)) t
  pumpRings v (recordsWaiting s v) s

/-! ### Ring registers (R432, R435, R436, R450-R452) -/

/-- SQ_DOORBELL: a tail beyond the ring's size disables the ring with RING_BAD. A disabled ring takes the value alone. -/
def execSqDoorbell (v : Fin 16) (q : Fin 8) (tail : Word) (s : State) : Outcome :=
  .next (viaHost s (fun s =>
    let x := sqAt s v q
    if bit x.ctrl 0 && decide (ringSize x.ctrl ≤ tail.toNat) then sqError s v q .ringBad
    else serveVf (setSq s v q { x with tail := tail.toNat }) v))

/-- CQ_HEAD_WRITE: records up to the new head are consumed; a head beyond the ring's size or ahead of the tail disables the
ring with RING_BAD. -/
def execCqHeadWrite (v : Fin 16) (c : Fin 4) (head : Word) (s : State) : Outcome :=
  .next (viaHost s (fun s =>
    let x := cqAt s v c
    let n := ringSize x.ctrl
    if !(bit x.ctrl 0) then setCq s v c { x with head := head.toNat }
    else if n ≤ head.toNat ∨ cqHeld x < (head.toNat + n - x.head) % n then cqError s v c .ringBad
    else serveVf (setCq s v c { x with head := head.toNat }) v))

/-- The size field of a ring lies in 6 to 16 (R450, R451). -/
def sizeOk (ctrl : Nat) : Bool := decide (6 ≤ bits ctrl 12 8) && decide (bits ctrl 12 8 ≤ 16)

/-- Keep the bits of `old` that `fixed` marks, and take the others from `new`. -/
def keepBits (old new fixed : Nat) : Nat := Nat.lor (Nat.land old fixed) (Nat.land new (Nat.xor 0xFFFFFFFF fixed))

/-- SQ_ENABLE: a write of HUB_SQ_CTRL. Enabling is checked, and sets head and tail to 0; size and CQ are fixed while the ring
is enabled. -/
def execSqEnable (v : Fin 16) (q : Fin 8) (word : Word) (s : State) : Outcome :=
  .next (viaHost s (fun s =>
    let x := sqAt s v q
    let w := Nat.land word.toNat 0x00031F01
    if bit x.ctrl 0 then setSq s v q { x with ctrl := keepBits x.ctrl w 0x00031F00 }
    else if !(bit w 0) then setSq s v q { x with ctrl := w }
    else if sizeOk w && bit (cqAt s v (bits w 17 16)).ctrl 0 then
      setSq s v q { x with ctrl := w, head := 0, tail := 0 }
    else sqError (setSq s v q { x with ctrl := w }) v q .ringBad))

/-- CQ_ENABLE: a write of HUB_CQ_CTRL. Enabling is checked, sets head and tail to 0 and begins the first pass. -/
def execCqEnable (v : Fin 16) (c : Fin 4) (word : Word) (s : State) : Outcome :=
  .next (viaHost s (fun s =>
    let x := cqAt s v c
    let w := Nat.land word.toNat 0xFFFFDF03
    if bit x.ctrl 0 then setCq s v c { x with ctrl := keepBits x.ctrl w 0x00001F00 }
    else if !(bit w 0) then setCq s v c { x with ctrl := w }
    else if sizeOk w then serveVf (setCq s v c { x with ctrl := w, head := 0, tail := 0, phase := true }) v
    else cqError (setCq s v c { x with ctrl := w }) v c .ringBad))

/-- CQ_HOLDOFF_EXPIRY: HOLDOFF has passed since the ring's last message and records have been written since (R436). -/
def execCqHoldoffExpiry (v : Fin 16) (c : Fin 4) (s : State) : Outcome :=
  let x := cqAt s v c
  let passed := match x.lastMsg with | some t => decide (t + 1000 * bits x.ctrl 31 20 ≤ s.now) | none => true
  if x.due && passed then
    .next (sendVfVector (setCq s v c { x with lastMsg := some s.now, due := false }) v (bits x.ctrl 19 14))
  else notNow "CQ_HOLDOFF_EXPIRY"

/-! ### The BAR2 windows (R427, R431, R521) -/

/-- Finish the operations of a vault's engine, oldest first: an access that overlaps a destination waits for them (R95). -/
def drainVault (v : Nat) : Nat → State → State
  | 0, s => s
  | fuel + 1, s =>
    match (vaultAt s v).ops with
    | [] => s
    | o :: _ =>
      match (if o.done then execVaultEngineDone (Fin.ofNat 256 v) s else runVop "" o.op v s) with
      | .next t => drainVault v fuel t
      | .fault _ => s
      | .refused _ => s

/-- Wait for the vault-engine operations whose destinations a run of DRAM overlaps. -/
def waitEngine (s : State) (pa n : Nat) : State :=
  if engineBusy s pa n then drainVault (pa / 2 ^ 30) (2 * (vaultAt s (pa / 2 ^ 30)).ops.length) s else s

/-- A range cut at 64-byte beats. -/
def beatPieces (a n : Nat) : List (Nat × Nat) :=
  (unitsOf 64 a n).map (fun b => (max a (64 * b), min (a + n) (64 * b + 64) - max a (64 * b)))

/-- Where a window puts an address: nowhere, or a DRAM address. -/
abbrev WinMap := State → Nat → Option Nat

/-- The domain and address that offset `off` of a VF's BAR2 reaches; none while the window is closed (R431). -/
def vfWindow (s : State) (v off : Nat) : Option (Nat × Nat) :=
  let f := vfAt s v
  match domOfVf s v with
  | none => none
  | some d => if bit f.winCtrl 0 && setupStates.contains (domAt s d).st then some (d, (f.winBase + off) % 2 ^ 64) else none

/-- The DRAM address of a domain address for the window: T1 and T2 pages (R431). -/
def winPlace (d : Nat) : WinMap := fun s a =>
  match xlat s d none a with
  | .ok p => if p.tier = .t3 then none else some p.addr
  | .error _ => none

/-- A module-physical address lies in a frame that holds a structure of some domain, or in a split domain's structure reserve
(R77, R81). -/
def structAt (s : State) (a : Nat) : Bool :=
  (List.range 16).any (fun d =>
    (domAt s d).frames.any (fun e => e.1 == a / pageSize) ||
      ((memRec s d).split && (match reserveFrames (memRec s d) (ownedIslands s d) with
        | some r => decide (r.1 ≤ a / pageSize) && decide (a / pageSize < r.1 + r.2)
        | none => false)))

/-- The debug window with a right of the DEBUG segment in force: T1 and T2 frames of the domains it names (R521). -/
def debugPlace (right : Nat) : WinMap := fun s a =>
  match debugOpen s with
  | none => none
  | some g =>
    let owner := if a < 2 ^ 38 then (islRec s (a / 2 ^ 30)).owner
      else if 2 ^ 40 ≤ a ∧ a < 2 ^ 41 then
        (List.range 16).find? (fun d => (domRec s d).isSome && bit (memRec s d).channels ((a - 2 ^ 40) / 2 ^ 36))
      else none
    match owner with
    | some d =>
      -- no window of the PF reaches the frames of a domain's structures (R77, R81)
      if bit g.grant.rights right && bit g.grant.domains d && !(structAt s a) then some a else none
    | none => none

/-- A window read, beat by beat: all ones where the address reaches nothing or the beat is poisoned (R70, R431); what lies in a
pending range is undefined (R194). -/
def windowRead (m : WinMap) (miss : State → State) (a n : Nat) (s : State) : State :=
  let r := (beatPieces a n).foldl (fun (acc : State × List Byte × Bool × Bool) (e : Nat × Nat) =>
    let ones := List.replicate e.2 (0xFF : Byte)
    match m acc.1 e.1 with
    | none => (acc.1, acc.2.1 ++ ones, true, acc.2.2.2)
    | some pa =>
      let s := touch (waitEngine acc.1 pa e.2) pa e.2
      let b := dramRead s pa e.2
      if anyMark b then (s, acc.2.1 ++ ones, acc.2.2.1, true)
      else (s, acc.2.1 ++ plain (undefOver s (pendingRuns s) pa b), acc.2.2)) (s, [], false, false)
  let s := { r.1 with reply := r.2.1 }
  let s := if r.2.2.1 then miss s else s
  if r.2.2.2 then raise 0x205 s else s

/-- A window write, beat by beat: dropped where the address reaches nothing (R69, R431). -/
def windowWrite (m : WinMap) (miss : State → State) (a : Nat) (data : List Byte) (s : State) : State :=
  let r := (beatPieces a data.length).foldl (fun (acc : State × Bool) (e : Nat × Nat) =>
    match m acc.1 e.1 with
    | none => (acc.1, true)
    | some pa => (dramWrite (waitEngine acc.1 pa e.2) pa (clean ((data.drop (e.1 - a)).take e.2)), acc.2)) (s, false)
  if r.2 then miss r.1 else r.1

/-- WINDOW_READ of VF `fn` − 1, or of the PF's debug window for 0; the answer stands in `reply`. -/
def execWindowRead (fn : Fin 17) (off : BitVec 36) (len : Fin 4097) (s : State) : Outcome :=
  .next (viaHost s (fun s =>
    if fn.val = 0 then
      match debugOpen s with
      | none => { s with reply := List.replicate len 0 }
      | some _ => windowRead (debugPlace 0) id (s.sec.dbgBase + off.toNat % 2 ^ 26) len s
    else match vfWindow s (fn.val - 1) off.toNat with
      | none => { s with reply := List.replicate len 0xFF }
      | some (d, a) => windowRead (winPlace d) (raise 0x204) a len s))

/-- WINDOW_WRITE through a VF's BAR2, or through the PF's debug window. -/
def execWindowWrite (fn : Fin 17) (off : BitVec 36) (data : List Byte) (s : State) : Outcome :=
  .next (viaHost s (fun s =>
    if fn.val = 0 then windowWrite (debugPlace 1) id (s.sec.dbgBase + off.toNat % 2 ^ 26) data s
    else match vfWindow s (fn.val - 1) off.toNat with
      | none => s
      | some (d, a) => windowWrite (winPlace d) (raise 0x204) a data (keepStaged s d a data.length)))

/-! ### Host reads that fail (R439, R444, R448) -/

/-- A host read of a domain's fails: its event (R455). -/
def readFailed (s : State) : State := raise 0x207 s

/-- The island's task waits for a line of a T3 page. -/
def waitsT3 (s : State) (i : Nat) : Option Task :=
  match taskAt s i with
  | none => none
  | some t =>
    if s.mig.reads.any (fun r => r.island == i && r.tag == t.tag && r.live && !r.served && decide (2 ^ 57 ≤ r.line))
    then some t else none

/-- A frame in progress reads a plane from a lower tier. -/
def frameLow (s : State) (c : Nat) : Bool :=
  let x := codAt s c
  match x.frame with
  | none => false
  | some f => lowerTier s x.dom ((List.range (unitCount x.cfg (gangWidth s.conf.video x.dom x.cfg))).flatMap (fun u =>
      let h := unitRows x.cfg (gangWidth s.conf.video x.dom x.cfg)
      unitSource x.cfg f.req (u * h) ((u + 1) * h)))

/-- The record at a ring's head cannot be read: the ring stops and the domain faults (R439, R444, R448). -/
def ringReadFails (s : State) (v q : Nat) : State :=
  let s := sqError (readFailed s) v q .hostReadFault
  match domOfVf s v with | some d => faultDomain s d .hostReadFault | none => s

/-- The bytes of the argument block that a descriptor names: its header, and the operand records where the header says how many
(R176). -/
def argRange (s : State) (d va : Nat) : Nat × Nat :=
  match vaFetch s d va 64 with
  | (_, .ok h) => (va, 64 + 32 * (leAt h 0 1 % 17))
  | (_, .error _) => (va, 64)

/-- The read of a descriptor's argument block comes late from T2 or T3, or fails in T3: the task is refused with the status of
that read (R178 step 1). -/
def argLost (s : State) (src : Src) (d : Nat) (raw : List Byte) (late : Bool) : Option State :=
  match readDesc raw d with
  | none => none
  | some x =>
    let r := argRange s d x.argVa
    let slow := (piecesOf r.1 r.2).any (fun (a, _) => match xlat s d none a with
      | .ok p => p.tier == .t3 || (late && p.tier == .t2)
      | .error _ => false)
    if slow then
      some (refuseTask (if late then s else readFailed s) src d (leAt raw 0x60 4) (if late then .lowerTierTimeout else .hostReadFault))
    else none

/-- HOST_READ_TIMEOUT: a read of host memory does not answer within 10 ms, or fails. A ring read faults its domain; a
descriptor gives a KIND 1 record with TAG 0; a list refuses its MAP and an image its STAGE; a task's T3 read ends the task;
a promotion is abandoned and its page stays where it was (R85); what a codec unit reads counts as late (R322, R439, R444, R448). -/
def execHostReadTimeout (r : HostRead) (s : State) : Outcome :=
  match r with
  | .ring v q => if ringReads s v q then .next (ringReadFails s v q) else notNow "HOST_READ_TIMEOUT"
  | .doorbell v q tail =>
    let s := wakeS2 s
    let x := sqAt s v q
    let u := setSq s v q { x with tail := tail.toNat }
    if hostUp s && decide (tail.toNat < ringSize x.ctrl) && ringReads u v q then .next (ringReadFails u v q)
    else notNow "HOST_READ_TIMEOUT"
  | .descriptor h =>
    .next (ringCmd (srcOf h) 0x01 [.active] (fun d s => refuseTask (readFailed s) (srcOf h) d 0 .hostReadFault) s)
  | .queued v =>
    (match domOfVf s v with
     | none => notNow "HOST_READ_TIMEOUT"
     | some d =>
       match (domAt s d).tasking with
       | (src, a, n + 1) :: rest =>
         let s := modDom s d (fun x => { x with tasking := if n = 0 then rest else (src, a + 128, n) :: rest })
         .next (dispatchDom (refuseTask (readFailed s) src d 0 .hostReadFault) d)
       | _ => notNow "HOST_READ_TIMEOUT")
  | .argument h addr late =>
    (match (domOfVf s h.vf).bind (fun d => argLost s (srcOf h) d (hostBytes s addr.toNat 128) late) with
     | none => notNow "HOST_READ_TIMEOUT"
     | some u => .next (ringCmd (srcOf h) 0x01 [.active] (fun _ _ => u) s))
  | .queuedArgument v late =>
    (match domOfVf s v with
     | none => notNow "HOST_READ_TIMEOUT"
     | some d =>
       match (domAt s d).tasking with
       | (src, a, n + 1) :: rest =>
         let s1 := modDom s d (fun x => { x with tasking := if n = 0 then rest else (src, a + 128, n) :: rest })
         (match argLost s1 src d (hostBytes s a 128) late with
          | some u => .next (dispatchDom u d)
          | none => notNow "HOST_READ_TIMEOUT")
       | _ => notNow "HOST_READ_TIMEOUT")
  | .list h => .next (ringCmd (srcOf h) 0x20 setupStates (fun _ s => refuse (srcOf h) .hostReadFault (readFailed s)) s)
  | .image => if imgBusy s then notNow "HOST_READ_TIMEOUT" else .next (refuseImage .hostReadFault (readFailed s))
  | .task i =>
    (match waitsT3 s i with
     | some t => .next (endTask (readFailed s) t .hostReadFault (some (islandAt s i).pc))
     | none => notNow "HOST_READ_TIMEOUT")
  | .promotion =>
    (match s.mig.promos with
     | [] => notNow "HOST_READ_TIMEOUT"
     | q :: rest =>
       let u := { s with mig := { s.mig with promos := rest } }
       match pageAt s q.dom q.page with
       | none => notNow "HOST_READ_TIMEOUT"
       | some p => if p.tier = .t1 then notNow "HOST_READ_TIMEOUT"
         else .next (if p.tier = .t3 then readFailed u else u))
  | .source c => if frameLow s c then .next (readFailed s) else notNow "HOST_READ_TIMEOUT"

end Sys2Proof.Machine
end

