-- ==== Sys2Proof/Machine/Power.lean ====
section
/-!
DEFINITION. Supplies, resets and their restore, bring-up, the power ladder, throttling, temperature and retraining
(R426, R445-R447, R477-R504, R535, R537).
-/
namespace Sys2Proof.Machine

/-! ### What a reset takes away (R418, R445, R489) -/

/-- A domain without what runs in it: its memory and tables are left (R447). -/
def calmDom (x : Dom) : Dom :=
  { x with windows := [], tasking := [], waitBind := [], waitArm := [], waitDrain := none, turn := 0,
           lists := x.lists.map (fun l => { l with tags := [] }) }

/-- An island as a reset or a power-down leaves it: its tables, clock target and epoch are restored later. -/
def calmIsland (x : Island) : Island :=
  { epoch := x.epoch, fun_ := x.fun_, clkTarget := x.clkTarget, doze := x.doze }

/-- The hub, the islands, the ports and the rings lose what they hold; what the keeper region and DRAM hold stays. Every
codec channel closes with its event (R346, R418, R489). -/
def dropHub (s : State) : State :=
  let chans := (s.codec.chans.filter (fun (e : Nat × CodChan) => decide (e.2.st ≠ .closed))).map (·.1)
  let p := s.pow
  let s := { s with
    img := { version := s.img.version, epoch := s.img.epoch, digest := s.img.digest, segs := s.img.segs }
    evc := {}
    log := { s.log with level := 0 }
    vfs := []
    pfMsix := []
    doms := sparseMap {} s.doms calmDom
    tasks := []
    order := 0
    rot := State.reset.rot
    sems := []
    bars := []
    islands := sparseMap {} s.islands calmIsland
    flights := []
    fifos := []
    vaults := sparseMap {} s.vaults (fun x => { failed := x.failed, untrained := x.untrained })
    chans := sparseMap {} s.chans (fun x => { failed := x.failed, untrained := x.untrained })
    mig := { heatMs := s.now / 1000000 }
    dspKills := State.reset.dspKills
    dspPins := State.reset.dspPins
    codec := {}
    net := { role := s.net.role, ports := (List.range 18).map (fun p => (p, { st := 1 })) }
    pow := { auxOk := p.auxOk, mainOk := p.mainOk, perst := p.perst, firstPerst := p.firstPerst, seenMain := p.seenMain,
             trained := p.trained, initing := p.initing, tripped := p.tripped, therm := p.tripped, lastReset := p.lastReset, restore := p.restore,
             dieC := p.dieC, dramC := p.dramC, inletC := p.inletC, hotLayers := p.hotLayers, layerC := p.layerC }
    sec := { s.sec with extData := List.replicate 8 0, extMr := 6, extErr := false, dbgBase := 0 } }
  chans.foldl (fun s c => raise (0x180 + c) s) s

/-- Near and far DRAM lose their contents (R106). -/
def loseDram (s : State) : State := { s with mem := [], poison := [], latent := [] }

/-- A reset of kinds 1 to 4 begins; what it leaves is restored by WARM_RESTORE. Its log entry carries the kind (R489). -/
def beginReset (kind : Nat) (s : State) : State :=
  let kinds := (match s.pow.restore with | some r => r.kinds | none => []) ++ [kind]
  let s := dropHub s
  let s := if kind = 1 ∨ kind = 4 then loseDram s else s
  let s := { s with pow := { s.pow with lastReset := kind, restore := some ⟨kinds, s.now⟩ } }
  logE 1 .success none 0xFF (leBytes 1 kind) s

/-! ### Restoring (R43, R447, R490, R505-R509, R521) -/

/-- The control cores run the firmware in force (R43). -/
def coresOf (c : Conf) : List Core :=
  (List.range 8).map (fun k => match sparseGet none (c.firmware.map (fun f => (f.1, some f.2))) k with
    | some (v, b) => { version := v, image := b }
    | none => {})

/-- The host link starts to train, where PERST# allows it. -/
def trainLink (s : State) : State :=
  { s with pow := { s.pow with link := if s.pow.perst then .down else .training } }

/-- The settings of the mirror store are in force again, and the ports retrain (R43, R418, R506). -/
def restoreSettings (s : State) : State :=
  let c := confOf s.mir.firmware s.mir.segs
  let s := { s with
    conf := c
    img := { epoch := s.mir.epoch, digest := s.mir.digest, segs := s.mir.segs, version := s.mir.version }
    cores := coresOf c
    net := { s.net with role := c.link }
    islands := sparseMap {} s.islands (fun x => { x with fun_ := {} }) }
  let s := (List.range 256).foldl restoreBank s
  let s := setEpochs s.mir.epoch s
  let s := applyPower (match c.event with | some b => applyEvent b s | none => s)
  let s := retrainPorts s (List.range 18)
  trainLink { s with pow := { s.pow with alive := true, restore := none, training := !s.pow.trained } }

/-- The domains as a restore leaves them: those marked PRESERVE are BOUND with their memory where DRAM was kept, every other
one is EMPTY with ZEROISING set (R447). -/
def restoreDoms (lost : Bool) (s : State) : State :=
  (List.range 16).foldl (fun s d =>
    let x := domAt s d
    match domRec s d with
    | some r =>
      if r.preserve && !lost && decide (x.st ≠ .empty) then setDom s d { x with st := .bound, fault := 0, zeroising := false }
      else emptyDomain s d
    | none => if x = {} then s else emptyDomain s d) s

/-- MR5 records a reset, and a restart after main loss or a thermal trip has its event (R496, R504, R508). -/
def recordReset (s : State) (kind : Nat) : State :=
  let s := extendMr 5 5 0 kind (sha3 (leBytes 1 kind ++ leBytes 7 0)) s
  let s := if kind = 4 then raise 0x223 (logE 2 .thermalTrip (some 0x223) 0xFF [] s) else s
  if kind = 1 ∨ kind = 4 then raise 0x224 s else s

/-- A bad mirror section: nothing is restored, the module comes up as after a cold power-up, and DRAM is trained afresh; the
trouble log is kept (R43, R490, R509). -/
def coldFallback (s : State) : State :=
  let s := { s with conf := {}, img := {}, mir := {}, cores := State.reset.cores, doms := [], islands := [], vaults := [],
                    chans := [], net := {}, evc := {}, mig := { heatMs := s.now / 1000000 } }
  let s := coldSec (loseDram s) s.sec.idOk
  let s := raise 0x202 (logE 3 .mirrorBad (some 0x202) 0xFF [] s)
  trainLink { s with pow := { s.pow with alive := true, restore := none, trained := false, training := true } }

/-- WARM_RESTORE: with main in range, the hub checks the mirror store and restores (R43, R447, R490). -/
def execWarmRestore (s : State) : Outcome :=
  match s.pow.restore with
  | none => notNow "WARM_RESTORE"
  | some r =>
    if !s.pow.mainOk || s.pow.tripped || !s.pow.auxOk then notNow "WARM_RESTORE"
    else if s.mir.bad then .next (coldFallback s)
    else
      let lost := r.kinds.contains 1 || r.kinds.contains 4
      let s := restoreDoms lost (restoreSettings s)
      let s := { s with pow := { s.pow with initing := s.pow.initing || lost }, mig := { s.mig with heatMs := s.now / 1000000 } }
      let s := r.kinds.foldl recordReset s
      .next (if debugOver s then closeDebug s else s)

/-! ### Supplies and cold bring-up (R478, R479, R489, R491, R493) -/

/-- Rails are up for the first time: ALIVE_N goes low, DRAM trains, the host link trains (R491). -/
def bringUp (s : State) : State :=
  trainLink { s with pow := { s.pow with alive := true, training := true, seenMain := true,
                                         firstPerst := s.pow.firstPerst && s.pow.perst } }

/-- The module as the loss of auxiliary or a cold power-up finds it: nothing persists but what lies outside it (R6, R478). -/
def blank (s : State) : State :=
  { State.reset with
    pending := s.pending, ticks := s.ticks, free := s.free, host := s.host, sent := s.sent,
    pow := { mainOk := s.pow.mainOk, perst := s.pow.perst, inletC := s.pow.inletC } }

/-- AUX_LOSS: the rails turn off and all retained state is lost (R478). -/
def execAuxLoss (s : State) : Outcome :=
  if s.pow.auxOk then
    let s := blank s
    .next { s with log := {}, pow := { s.pow with auxOk := false } }
  else notNow "AUX_LOSS"

/-- AUX_POWER_UP: reset kind 0. Time and log begin anew; the identity is derived, or the module runs without one (R491,
R507, R511, R512). -/
def execAuxPowerUp (s : State) : Outcome :=
  if s.pow.auxOk then notNow "AUX_POWER_UP"
  else
    let ok := Config.pufOk s.free
    let s := takeFree s
    let s := { blank s with log := {} }
    let s := logE 1 .success none 0xFF (leBytes 1 0) (coldSec s ok)
    let s := if ok then s else raise 0x243 (logE 3 .identityFailed (some 0x243) 0xFF [] s)
    .next (if s.pow.mainOk then bringUp s else s)

/-- Main is gone, or its regulators are off: reset kind 1, but nothing in S4 or without auxiliary (R478). -/
def mainGone (s : State) : State :=
  let s := { s with pow := { s.pow with mainOk := false } }
  if !s.pow.auxOk || decide (s.pow.st = 4) then s else beginReset 1 s

def execMainLoss (s : State) : Outcome := if s.pow.mainOk then .next (mainGone s) else notNow "MAIN_LOSS"

/-- MAIN_OVERVOLTAGE: the main regulators turn off (R479). -/
def execMainOvervoltage (s : State) : Outcome := if s.pow.mainOk then .next (mainGone s) else notNow "MAIN_OVERVOLTAGE"

/-- Every sensor reads 85 °C or less (R488). -/
def allCool (s : State) : Bool := decide (s.pow.dieC ≤ 85) && decide (s.pow.dramC ≤ 85) && decide (s.pow.inletC ≤ 85)

/-- A thermal trip lets the rails come back. -/
def clearTrip (s : State) : State := { s with pow := { s.pow with tripped := false, therm := false } }

/-- S3 or S4 is left: DRAM restarts and is zero, the hub is restored as the mirror store allows, WAKE# is asserted until the
link is in L0 (R43, R487). -/
def leaveShelf (s : State) : State :=
  let s := loseDram { s with pow := { s.pow with st := 0, waking := false } }
  if s.mir.bad then
    let s := coldFallback s
    { s with pow := { s.pow with wake := true } }
  else
    let s := restoreSettings s
    let s := (List.range 16).foldl (fun s d =>
      if (domRec s d).isSome then modDom s d (fun x => { x with zeroising := true }) else s) s
    { s with pow := { s.pow with wake := true, initing := true } }

/-- MAIN_IN_RANGE: rails ramp for the cold bring-up; after kind 1 or 4 the restore goes on; in S4 nothing happens unless a
wake waits for main (R478, R483, R487, R488). -/
def execMainInRange (s : State) : Outcome :=
  if s.pow.mainOk then notNow "MAIN_IN_RANGE"
  else
    let s := { s with pow := { s.pow with mainOk := true } }
    .next (if !s.pow.auxOk then s
      else if s.pow.st = 4 then (if s.pow.waking then leaveShelf s else s)
      else if s.pow.tripped then (if allCool s then clearTrip s else s)
      else if s.pow.restore.isSome then { s with pow := { s.pow with seenMain := true } }
      else bringUp s)

/-- A vault or channel fails training: its event and log entry (R493). -/
def trainFailed (index kind : Nat) (s : State) : State :=
  raise 0x228 (logE 2 .retrainFailed (some 0x228) 0xFF (leBytes 1 index ++ leBytes 1 kind) s)

/-- DRAM_TRAINING_DONE: every vault and channel is trained, or fails and stays out of service; memory is zero and its
initialisation shows until ZEROISATION_DONE, and an APPLY that waited goes on (R106, R491, R493). -/
def execDramTrainingDone (vaults : BitVec 256) (chans : BitVec 16) (s : State) : Outcome :=
  if s.pow.training ∧ s.pow.mainOk ∧ s.pow.restore.isNone then
    let s := loseDram { s with pow := { s.pow with trained := true, training := false, initing := true }, mir := { s.mir with trained := true } }
    let s := (bitsSet 256 vaults.toNat).foldl (fun s v =>
      trainFailed v 0 (modVault s v (fun x => { x with failed := true, untrained := true }))) s
    let s := (bitsSet 16 chans.toNat).foldl (fun s c =>
      trainFailed c 1 (setChan s c { chanAt s c with failed := true, untrained := true })) s
    .next (if s.img.waiting then coldApply s else s)
  else notNow "DRAM_TRAINING_DONE"

/-! ### Resets by command (R426, R489, R497, R502, R537) -/

/-- LINK_RESET: an assertion of PERST# that belongs to the bring-up, or one in S3 or S4, is no reset yet; every other
assertion, a hot reset and a Data Link Down are reset kind 2. -/
def execLinkReset (c : LinkCause) (s : State) : Outcome :=
  match c with
  | .perst =>
    if s.pow.perst then notNow "LINK_RESET"
    else
      let s := { s with pow := { s.pow with perst := true, link := .down } }
      .next (if !s.pow.auxOk || decide (3 ≤ s.pow.st) then s
        else if !s.pow.seenMain then { s with pow := { s.pow with firstPerst := true } }
        else beginReset 2 s)
  | .hotReset => if s.pow.link = .up then .next (beginReset 2 s) else notNow "LINK_RESET"
  | .dataLinkDown => if s.pow.link = .up ∧ !s.pow.perst then .next (beginReset 2 s) else notNow "LINK_RESET"

/-- PERST_DEASSERT: the link is released. In S3 and S4 it wakes the module and performs reset kind 2 (R487, R537). -/
def execPerstDeassert (s : State) : Outcome :=
  if s.pow.perst then
    let s := { s with pow := { s.pow with perst := false } }
    .next (if s.pow.firstPerst then
        let s := { s with pow := { s.pow with firstPerst := false } }
        if s.pow.alive then trainLink s else s
      else if 3 ≤ s.pow.st then
        (if s.pow.mainOk then beginReset 2 (leaveShelf s)
         else beginReset 2 { s with pow := { s.pow with st := 0 } })
      else if s.pow.alive then trainLink s else s)
  else notNow "PERST_DEASSERT"

/-- HOST_LINK_REACHES_L0: the functions answer, and WAKE# is released (R487, R490). -/
def execHostLinkReachesL0 (s : State) : Outcome :=
  if s.pow.link = .training ∧ s.pow.alive then .next { s with pow := { s.pow with link := .up, wake := false } }
  else notNow "HOST_LINK_REACHES_L0"

/-- HUB_RESET over SMBus: 0xC0DE with a valid PEC performs reset kind 3; anything else is answered with NAK (R497, R538). -/
def execHubReset (word : BitVec 16) (p : Option Byte) (s : State) : Outcome :=
  .next (if s.pow.auxOk && word == 0xC0DE && pecOk true p 0x51 (leBytes 2 word.toNat) then beginReset 3 s else s)

/-- PWR_RESET: a write of 0x0000_C0DE performs reset kind 3; any other value is ignored (R502). -/
def execPwrReset (word : Word) (s : State) : Outcome :=
  .next (viaHost s (fun s => if word = 0xC0DE then beginReset 3 s else s))

/-- VF_FLR: an uncommitted group that has the domain in its scope rolls back, the domain's work ends, its memory is zeroised,
and the function's registers return to their cold values (R51, R445). -/
def flr (v : Nat) (s : State) : State :=
  match domOfVf s v with
  | none => setVf s v {}
  | some d =>
    let s := match s.img.cur with
      | some g => if g.doms.contains d then rollback .applyAborted s else s
      | none => s
    let s := setVf s v {}
    let s := modDom s d (fun x => { x with waitBind := [], waitArm := [], waitDrain := none })
    setVf (emptyDomain (stopDomain s d) d) v {}

def execVfFlr (v : Fin 16) (s : State) : Outcome := .next (viaHost s (flr v))

/-- PF_FLR: every VF, then staging or the uncommitted group as ABORT does; the claims of the host's targets are pending again
(R446, R459). -/
def execPfFlr (s : State) : Outcome :=
  .next (viaHost s (fun s =>
    let s := abortImage ((List.range 16).foldl (fun s v => flr v s) s)
    let s := { s with img := { s.img with addr := 0, len := 0, staged := none } }
    let s := (List.range 64).foldl (fun s t => reclaim (8 + t) s) s
    { s with pfMsix := [] }))

/-! ### The power ladder (R483-R487, R497) -/

/-- The state request is refused while domains or channels forbid it (R486). -/
def mayEnter (s : State) (target : Nat) : Bool :=
  let ds := (List.range 16).map (domAt s)
  if target = 2 then
    ds.all (fun x => decide (x.st ≠ .active) && decide (x.st ≠ .draining)) &&
      s.codec.chans.all (fun (e : Nat × CodChan) => decide (e.2.st = .closed))
  else ds.all (fun x => decide (x.st = .empty) && !x.zeroising)

/-- PWR_CTRL.GO with TARGET 2, 3 or 4 (R486, R487, R499). -/
def requestState (target : Nat) (s : State) : State :=
  let s := { s with pow := { s.pow with target := target } }
  if !(mayEnter s target) then
    logE 0 .powerStateRefused none 0xFF [] { s with pow := { s.pow with status := .powerStateRefused } }
  else if target = 2 then raise 0x225 { s with pow := { s.pow with st := 2, status := .success } }
  else
    let s := loseDram (dropHub s)
    { s with pow := { s.pow with st := target } }

def execPowerRequestS2 (s : State) : Outcome := .next (viaHost s (requestState 2))
def execPowerRequestS3 (s : State) : Outcome := .next (viaHost s (requestState 3))
def execPowerRequestS4 (s : State) : Outcome := .next (viaHost s (requestState 4))

/-- The module is woken: from S2 at once, from S3 and S4 with main in range; a wake from S4 without main waits for it
(R483, R487). -/
def wakeUp (s : State) : State :=
  if s.pow.st = 2 then wakeS2 s
  else if s.pow.st < 3 then s
  else if s.pow.mainOk then leaveShelf s
  else { s with pow := { s.pow with waking := true } }

/-- MODULE_WAKE: a wake event in S2, S3 or S4. -/
def execModuleWake (s : State) : Outcome := if 2 ≤ s.pow.st then .next (wakeUp s) else notNow "MODULE_WAKE"

/-- POWER_WAKE over SMBus: wakes, or restarts the rails after a thermal trip once every sensor is cool (R488, R497). -/
def execPowerWake (p : Option Byte) (s : State) : Outcome :=
  .next (if s.pow.auxOk && pecOk false p 0x50 [] then
      (if s.pow.tripped then (if allCool s then clearTrip s else s) else wakeUp s)
    else s)

/-- ISLAND_DOZE: an island with DOZE set has been idle for DOZE_DELAY (R485). -/
def execIslandDoze (i : Fin 256) (s : State) : Outcome :=
  let x := islandAt s i
  if x.doze ∧ x.task.isNone ∧ !x.dozing ∧ x.idleSince + 1000 * s.conf.power.doze ≤ s.now then
    .next (modIsland s i (fun x => { x with dozing := true }))
  else notNow "ISLAND_DOZE"

/-! ### Clocks and throttling (R20, R480, R481, R488) -/

/-- The clock code an island may use: its target, under the throttle and the temperature limit. -/
def clkAllowed (s : State) (x : Island) : Nat := if s.pow.hot then 0 else min x.clkTarget x.clkLimit

/-- An island stands between two instructions: none has begun at its pc and stands half done. -/
def atBoundary (x : Island) : Bool :=
  x.stall.isNone && decide (x.progress = 0) && !x.committing && x.arrivedAt.isNone && !(sendStands x)

/-- ISLAND_CLOCK_CHANGE: at its next instruction boundary an island takes the clock code that it may use (R21). -/
def execIslandClockChange (i : Fin 256) (s : State) : Outcome :=
  let x := islandAt s i
  if x.clkCurrent = clkAllowed s x ∨ ¬ atBoundary x then notNow "ISLAND_CLOCK_CHANGE"
  else .next (setIsland s i { x with clkCurrent := clkAllowed s x })

/-- Islands that run tasks of a class. -/
def runningClass (s : State) (lc : Bool) : List Nat :=
  (s.tasks.filter (fun t => t.desc.lc == lc)).filterMap (fun t => if t.phase = .running then t.island else none)

/-- The code of an island as the throttle sees it. -/
def limitOf (s : State) (i : Nat) : Nat := min (islandAt s i).clkTarget (islandAt s i).clkLimit

/-- All islands of a set at its highest code drop one code; none when all are at 0.8 GHz (R480). -/
def dropClocks (s : State) (l : List Nat) : Option State :=
  let top := (l.map (limitOf s)).foldl max 0
  if top = 0 then none
  else some ((l.filter (fun i => limitOf s i == top)).foldl (fun s i => modIsland s i (fun x => { x with clkLimit := top - 1 })) s)

/-- All islands of a set at its lowest code below their targets rise one code; none when all are at their targets. -/
def raiseClocks (s : State) (l : List Nat) : Option State :=
  let low := l.filter (fun i => decide ((islandAt s i).clkLimit < (islandAt s i).clkTarget))
  match (low.map (limitOf s)) with
  | [] => none
  | c :: cs =>
    let m := cs.foldl min c
    some ((low.filter (fun i => limitOf s i == m)).foldl (fun s i => modIsland s i (fun x => { x with clkLimit := m + 1 })) s)

/-- One step down the stages; none when all three are exhausted. -/
def stageDown (s : State) : Option State :=
  match dropClocks s (runningClass s false) with
  | some s => some s
  | none =>
    if s.pow.pace < 9 then some { s with pow := { s.pow with pace := s.pow.pace + 1 } }
    else dropClocks s (runningClass s true)

/-- One step back up, in reverse order: LC and idle clocks, then pacing, then BE clocks; none when nothing is throttled. -/
def stageUp (s : State) : Option State :=
  let be := runningClass s false
  match raiseClocks s ((List.range 256).filter (fun i => !(be.contains i))) with
  | some s => some s
  | none =>
    if 0 < s.pow.pace then some { s with pow := { s.pow with pace := s.pow.pace - 1 } }
    else raiseClocks s be

/-- THROTTLE_STEP: the average of the last 100 µs against the cap, one stage per step; the 1 ms average is kept for
PWR_INPUT. While a temperature limit holds the stages run as if the cap were exceeded (R480, R481, R488). -/
def execThrottleStep (avg ms : BitVec 16) (s : State) : Outcome :=
  let cap := s.conf.power.cap
  let excess := decide (cap < avg.toNat)
  let s := { s with pow := { s.pow with avgW := ms.toNat } }
  if excess || s.pow.thermThrottle then
    let s := { s with pow := { s.pow with belowSince := none } }
    let s := if excess && !s.pow.capThrottle then raise 0x220 { s with pow := { s.pow with capThrottle := true } } else s
    match stageDown s with
    | some s => .next s
    | none => .next (if excess then raise 0x221 { s with pow := { s.pow with capMiss := true } } else s)
  else if avg.toNat * 100 < 97 * cap then
    let t := s.pow.belowSince.getD s.now
    let s := { s with pow := { s.pow with belowSince := some t } }
    if t + 1000000 ≤ s.now then
      match stageUp s with
      | some s => .next s
      | none => .next { s with pow := { s.pow with capThrottle := false } }
    else .next s
  else .next { s with pow := { s.pow with belowSince := none } }

/-! ### Temperature (R488) -/

/-- A thermal trip: reset kind 4, with the rails off and THERM_N low. -/
def trip (s : State) : State :=
  let s := beginReset 4 s
  { s with pow := { s.pow with tripped := true, therm := true } }

/-- The main rails are on. -/
def railsOn (s : State) : Bool := s.pow.auxOk && s.pow.mainOk && !s.pow.tripped && decide (s.pow.st < 3)

/-- DIE_TEMP_THROTTLE: the hottest die sensor's reading. At THROTTLE_C the throttle begins, ten degrees above every island
runs at 0.8 GHz, and it ends once every sensor is 3 °C below; 110 °C trips. While a trip holds the rails off the reading is
only kept. -/
def execDieTempThrottle (c : BitVec 8) (s : State) : Outcome :=
  let limit := s.conf.power.throttle
  let s := { s with pow := { s.pow with dieC := c.toNat, dieReg := c.toNat } }
  if s.pow.tripped then .next s
  else if !(railsOn s) then notNow "DIE_TEMP_THROTTLE"
  else if 110 ≤ c.toNat then .next (trip s)
  else
    let s := { s with pow := { s.pow with hot := decide (limit + 10 ≤ c.toNat) } }
    if limit ≤ c.toNat then
      .next (if s.pow.thermThrottle then s
        else raise 0x222 { s with pow := { s.pow with thermThrottle := true, therm := true } })
    else if c.toNat + 3 ≤ limit then .next { s with pow := { s.pow with thermThrottle := false, therm := false } }
    else .next s

/-- THERMAL_TRIP: a die sensor reads 110 °C. -/
def execThermalTrip (s : State) : Outcome :=
  if railsOn s then .next (trip { s with pow := { s.pow with dieC := 110 } }) else notNow "THERMAL_TRIP"

/-- DRAM_OVERTEMP: the hottest sensor of a DRAM layer reads `c`; above 85 °C the layer's refresh rate is doubled. DRAM_C is
the hottest layer's. -/
def execDramOvertemp (layer : Fin 8) (c : BitVec 8) (s : State) : Outcome :=
  let rest := s.pow.hotLayers.filter (· != layer.val)
  let temps := sparseSet 0 s.pow.layerC layer.val c.toNat
  let top := (temps.map (·.2)).foldl max 0
  let hots := if 85 < c.toNat then rest ++ [layer.val] else rest
  .next { s with pow := { s.pow with layerC := temps, dramC := top, dramReg := top, hotLayers := hots } }

/-- COOLANT_WARM: the inlet's reading; above 45 °C its event is raised. -/
def execCoolantWarm (c : BitVec 8) (s : State) : Outcome :=
  let s := { s with pow := { s.pow with inletC := c.toNat, inletReg := c.toNat } }
  .next (if 45 < c.toNat then raise 0x227 s else s)

/-! ### Calibration and retraining (R494, R495, R501) -/

/-- VAULT_DRIFT_TRACK: a vault interface follows voltage and temperature; no data and no timing rule changes (R494). -/
def execVaultDriftTrack (v : Fin 256) (s : State) : Outcome :=
  let x := vaultAt s v
  if s.pow.trained && railsOn s && !x.retraining && !x.untrained then .next (setVault s v { x with driftAt := s.now })
  else notNow "VAULT_DRIFT_TRACK"

/-- PWR_RETRAIN_CTRL is written with GO: refused while the vault's island, or the channel, belongs to a domain. GO is ignored
while a retraining runs; KIND and INDEX are written whatever it does (R495, R501). -/
def retrain (kind index : Nat) (s : State) : State :=
  let s := { s with pow := { s.pow with retKind := kind, retIndex := index } }
  if s.pow.retBusy then s
  else
    let taken := if kind = 0 then (islRec s index).owner.isSome
      else kind ≠ 1 || 15 < index || (List.range 16).any (fun d => (domRec s d).isSome && bit (memRec s d).channels index)
    if taken then logE 0 .retrainRefused none 0xFF [] { s with pow := { s.pow with retStatus := .retrainRefused } }
    else
      let s := { s with pow := { s.pow with retBusy := true, retOp := (kind, index) } }
      if kind = 0 then modVault s index (fun x => { x with retraining := true })
      else setChan s index { chanAt s index with retraining := true }

def execVaultRetrain (v : Fin 256) (s : State) : Outcome := .next (viaHost s (retrain 0 v))
def execChannelRetrain (c : Fin 16) (s : State) : Outcome := .next (viaHost s (retrain 1 c))

/-- RETRAIN_DONE: the memory is zero and the new training values are stored; a failure takes the vault or channel out of
service (R493, R495). -/
def execRetrainDone (ok : Bool) (s : State) : Outcome :=
  if s.pow.retBusy then
    let k := s.pow.retOp.2
    let s := { s with pow := { s.pow with retBusy := false, retStatus := if ok then .success else .retrainFailed } }
    let s := if s.pow.retOp.1 = 0 then
        modVault (dramZero s (k * 2 ^ 30) (2 ^ 30)) k (fun x => { x with retraining := false, failed := !ok, untrained := !ok })
      else
        let s := dramZero s (2 ^ 40 + k * 2 ^ 36) (2 ^ 36)
        setChan s k { chanAt s k with retraining := false, failed := !ok, untrained := !ok }
    .next (raise 0x226 (if ok then s else trainFailed k s.pow.retOp.1 s))
  else notNow "RETRAIN_DONE"

end Sys2Proof.Machine
end

