-- ==== Sys2Proof/Machine/Reef.lean ====
section
/-!
DEFINITION. WAIT, SIGNAL, ARRIVE, FENCE, the group block, COMMIT and the program's end (R186, R191-R193, R198-R200).
-/
namespace Sys2Proof.Machine

/-- WAIT: the count is at least the target; a semaphore outside the domain's range ends the task (R192). -/
def waitRes (c : Ctx) (s : State) : Res :=
  if semInRange s c.t.desc.domain c.w.imm1 then
    if c.w.imm2 ≤ semAt s c.w.imm1 then .next s else .wait s .semaphore
  else .fault s .syncScope

def execWait (i : Fin 256) (s : State) : Outcome := runInsn "WAIT" (isOp .wait) i s waitRes

/-- SIGNAL: takes effect once every bundle that the island sent before it has been accepted and every write that it issued
before it is through; the island goes on meanwhile (R27, R193). -/
def signalRes (c : Ctx) (s : State) : Res :=
  if c.w.x < c.t.desc.gangSemCount then
    let n := gangSem c.t.desc c.w.x
    if sendsLanded s c.isl && issuedBefore s c.isl c.id then .next (semAdd s n c.w.imm2)
    else .next (modIsland s c.isl (fun x => { x with sigs := x.sigs ++ [⟨n, c.w.imm2, outstanding s c.isl, c.id⟩] }))
  else .fault s .syncScope

def execSignal (i : Fin 256) (s : State) : Outcome := runInsn "SIGNAL" (isOp .signal) i s signalRes

/-- ARRIVE: arrives once, then waits for the barrier's phase to turn (R193, R372). -/
def arriveRes (c : Ctx) (s : State) : Res :=
  match c.t.desc.gangBarrier with
  | none => .fault s .syncScope
  | some n =>
    let fin := fun (s : State) => Res.next (modIsland s c.isl (fun x => { x with arrivedAt := none }))
    match c.x.arrivedAt with
    | some ph => if (barAt s n).phase = ph then .wait s .barrier else fin s
    | none =>
      if !(sendsLanded s c.isl && issuedBefore s c.isl c.id) then .wait s .writes
      else
        let ph := (barAt s n).phase
        let s := arriveAt s n c.t.desc.gangSize
        if (barAt s n).phase = ph then .wait (modIsland s c.isl (fun x => { x with arrivedAt := some ph })) .barrier
        else fin s

def execArrive (i : Fin 256) (s : State) : Outcome := runInsn "ARRIVE" (isOp .arrive) i s arriveRes

/-- FENCE: waits as COMMIT's first step, then goes on (R186, R198). -/
def fenceRes (c : Ctx) (s : State) : Res := if quiet s c then .next s else .wait s .writes

def execFence (i : Fin 256) (s : State) : Outcome := runInsn "FENCE" (isOp .fence) i s fenceRes

/-! ### The group block (R191) -/

/-- The instruction after the GEND that closes the block of a GBEGIN. -/
def afterGend (p : Program) (pc : Nat) : Nat :=
  match firstIdx (fun (w : Insn) => decide (w.op = .gend)) (p.insns.drop pc) with
  | some k => pc + k + 1
  | none => p.insns.length

/-- A record lies within the selected buckets, and its number below GROUP_MAX (R191). -/
def recordOk (t : Task) (i : Nat) (r : GroupRec) : Bool :=
  let lim := fun d => (t.prog.sizes.getD d []).getD (t.idx.getD d 0) 0
  decide (i < t.prog.groupMax) && decide (r.m ≤ lim 0) && decide (r.n ≤ lim 1) && decide (r.k ≤ lim 2)

/-- Record `i` of a group block comes to run, or the task ends at it. -/
def reachRecord (c : Ctx) (s : State) (g : GroupRun) : Res :=
  match g.recs[g.at_]? with
  | none => .jump (modIsland s c.isl (fun x => { x with group := none })) (afterGend c.t.prog g.start)
  | some r =>
    if recordOk c.t g.at_ r then .jump (modIsland s c.isl (fun x => { x with group := some g })) (g.start + 1)
    else .fault s .overflowFault

/-- GBEGIN: the problem list is read, all G records of it, and the block runs for the first (R191). -/
def gbeginRes (c : Ctx) (s : State) : Res :=
  let o := operandOf c c.w.opa
  let n := c.t.desc.g
  withRead c false [(o.base, 16 * n)] s (fun s =>
    let d := taskBytes s c o.base (16 * n)
    if anyMark d then .fault s .poison
    else
      let b := plain d
      let recs := (List.range n).map (fun i =>
        GroupRec.mk (leAt b (16 * i) 4) (leAt b (16 * i + 4) 4) (leAt b (16 * i + 8) 4) (leAt b (16 * i + 12) 4))
      reachRecord c s ⟨c.x.pc, recs, 0⟩)

def execGbegin (i : Fin 256) (s : State) : Outcome := runInsn "GBEGIN" (isOp .gbegin) i s gbeginRes

/-- GEND: the block runs for the next record, or the program goes on after it (R191). -/
def gendRes (c : Ctx) (s : State) : Res :=
  match c.x.group with
  | none => .next s
  | some g => reachRecord c s { g with at_ := g.at_ + 1 }

def execGend (i : Fin 256) (s : State) : Outcome := runInsn "GEND" (isOp .gend) i s gendRes

/-! ### The end of a program (R198-R200) -/

/-- A pinned task has passed 20 µs since its first instruction issued (R367). -/
def pinnedLate (s : State) (c : Ctx) : Bool :=
  c.t.desc.pinned && (match c.x.firstAt with | some t0 => decide (t0 + 20000 < s.now) | none => false)

/-- COMMIT: issued once; the commit point follows when writes, SENDs and VENG operations, and every other instruction that has
issued, are through (R187, R198). A pinned task past its 20 µs ends with PIN_OVERRUN (R367). -/
def commitRes (c : Ctx) (s : State) : Res :=
  if pinnedLate s c then .done (overrun s c.t)
  else if quiet s c && c.x.waiting.isEmpty then .done (commitTask s c.t)
  else .wait (modIsland s c.isl (fun x => { x with committing := true })) .writes

def execCommit (i : Fin 256) (s : State) : Outcome := runInsn "COMMIT" (isOp .commit) i s commitRes

/-- NO_COMMIT: the program runs past its last instruction (R200), which the record names. -/
def execNoCommit (i : Fin 256) (s : State) : Outcome :=
  match taskAt s i with
  | none => notNow "NO_COMMIT"
  | some t =>
    let x := islandAt s i
    if t.prog.insns.length ≤ x.pc then .next (endTask s t .noCommit (some (t.prog.insns.length - 1))) else notNow "NO_COMMIT"

end Sys2Proof.Machine
end

