-- ==== Sys2Proof/Machine/Flags.lean ====
section
/-!
DEFINITION. The status words: what the read-only registers show of the state, field by field (R30, R31, R58, R60, R97-R102,
R169, R201, R202, R229, R256, R287, R347-R349, R375-R378, R419-R422, R449-R451, R469, R470, R498, R500-R503, R523, R549).
-/
namespace Sys2Proof.Machine

/-- A field of `n` bits at bit `lo`. -/
def fld (lo n v : Nat) : Nat := v % 2 ^ n * 2 ^ lo

/-- A one-bit field. -/
def flag (lo : Nat) (b : Bool) : Nat := fld lo 1 (b2n b)

/-! ### Islands and straits -/

/-- ISL_IDENT (R30). -/
def islIdent (i : Nat) : Nat :=
  let a := i / 64
  fld 0 3 (i % 8) + fld 3 3 (i / 8) + fld 6 2 a + fld 8 8 i + fld 16 4 (a % 2) + fld 20 4 (a / 2)

/-- The foremost bundle of a route is held by an epoch difference (R50). -/
def straitHeld (s : State) (x : Strait) : Bool :=
  let here := (islandAt s x.src).epoch
  let there := (islandAt s x.dst).epoch
  (flightsOf s x.src x.sch).any (fun f => decide (f.strait = x) &&
    f.bundles.any (fun b => decide (x.hops ≤ b.pos + 1) && decide (b.epoch ≠ there) && decide (here ≠ there)))

/-- ISL_STRAIT_STAT[c]: channels 0 to 7 send, 8 to 15 receive (R31). -/
def islStraitStat (s : State) (i c : Nat) : Nat :=
  if c < 8 then
    match straitOf s i c with
    | none => 0
    | some x => 1 + flag 1 (straitHeld s x) +
        flag 2 ((sendsStanding s i).contains c && decide (16 ≤ (fifoOf s x.dst x.rch).length)) + fld 16 8 x.dst + fld 24 5 x.hops
  else
    let r := c - 8
    match s.conf.straits.find? (fun x => x.dst == i && x.rch == r) with
    | none => fld 8 5 (fifoOf s i r).length
    | some x => 1 + flag 1 (straitHeld s x) + fld 8 5 (fifoOf s i r).length + fld 16 8 x.src + fld 24 5 x.hops

/-- ISL_ACC_STAT (R169). -/
def islAccStat (s : State) (i : Nat) : Nat :=
  let l := (islandAt s i).tiles
  fld 0 5 l.length + fld 5 7 ((l.map (fun t => shapeUnits t.shape t.fp)).sum) + flag 12 (l.any (fun t => !t.fp))

/-- ISL_TASK (R201). -/
def islTask (s : State) (i : Nat) : Nat :=
  match taskAt s i with
  | none => 0
  | some t => fld 0 16 t.tag + fld 16 4 t.desc.domain + flag 20 true + flag 21 t.desc.pinned +
      flag 22 (islandAt s i).committing

/-- ISL_PC (R202). -/
def islPc (s : State) (i : Nat) : Nat :=
  match taskAt s i with
  | none => 0
  | some t => fld 0 14 (islandAt s i).pc + fld 16 10 t.desc.program

/-- Module state 0 to 4: S1 stands for S0 while nothing works (R484, R498). -/
def moduleState (s : State) : Nat :=
  let works := s.tasks.any (fun t => decide (t.phase = .running)) ||
    s.codec.chans.any (fun (e : Nat × CodChan) => e.2.frame.isSome || (!(isEnc e.1) && !e.2.queue.isEmpty)) ||
    s.net.ports.any (fun (e : Nat × Port) => !e.2.buf.isEmpty || decide (0 < waiting e.2)) ||
    !s.mig.promos.isEmpty || !s.mig.reads.isEmpty || s.vaults.any (fun (e : Nat × Vault) => !e.2.ops.isEmpty) ||
    s.doms.any (fun (e : Nat × Dom) => e.2.zeroising) || imgBusy s
  if s.pow.st = 0 ∧ s.pow.alive ∧ works = false then 1 else s.pow.st

/-- The island runs a BE task. -/
def runsBe (s : State) (i : Nat) : Bool := (runningClass s false).contains i

/-- ISL_CLK (R503). -/
def islClk (s : State) (i : Nat) : Nat :=
  let x := islandAt s i
  let state := if s.img.segs.isEmpty || s.conf.retired.contains i || decide (2 ≤ s.pow.st) then 3
    else if x.dozing then 2 else if x.task.isSome then 0 else 1
  fld 0 5 x.clkTarget + flag 5 x.doze + fld 8 5 x.clkCurrent + flag 13 (decide (x.clkCurrent < x.clkTarget)) +
    fld 14 2 state + fld 16 4 (if runsBe s i then (if s.pow.hot then 9 else s.pow.pace) else 0)

/-- LNS_STAT (R287). Lens instructions are single steps: only a backward walk has a key block in progress between two of them.
DESIGN CHOICE: an open walk shows the pass of its next instruction, and pass 2 while it is Done; the spec does not say. -/
def lnsStat (s : State) (i : Nat) : Nat :=
  let l := (islandAt s i).lens
  let phase := match l.phase with
    | .closed => 0 | .opened => if l.asStream || bit l.lcb.mode 1 then 2 else 1 | .scored => 2 | .done => 2 | .back => 3
  flag 0 (decide (l.phase ≠ .closed)) + fld 1 2 phase + flag 3 (l.asStream && decide (l.phase ≠ .closed)) +
    fld 16 16 (if l.phase = .back then min 65535 l.block else 0)

/-- FUN_BANK_STAT (R256). -/
def funBankStat (s : State) (i : Nat) : Nat :=
  let f := (islandAt s i).fun_
  flag 0 f.active + flag 1 f.bank0.isSome + flag 2 f.bank1.isSome +
    flag 3 (match bankInForce f with | some t => t.published | none => false) + flag 4 f.loading

/-- FUN_SET[b] (R257). -/
def funSet (s : State) (i b : Nat) : Nat :=
  match (if b = 0 then (islandAt s i).fun_.bank0 else (islandAt s i).fun_.bank1) with
  | none => 0
  | some t => fld 0 16 t.setId + fld 16 16 t.version

/-! ### Memory and migration -/

/-- VLT_ECC_STAT and FAR_ECC_STAT (R97, R549). -/
def eccStat (r : EccRegs) : Nat := fld 0 16 r.corrected + fld 16 8 r.uncorrected

/-- VLT_ECC_ADDR and FAR_ECC_ADDR (R98, R549). -/
def eccAddr (r : EccRegs) : Nat := fld 0 30 r.addr + flag 30 r.kind + flag 31 r.valid

/-- VLT_SCRUB_CTRL (R99). -/
def scrubCtrl (x : Vault) : Nat := flag 0 x.scrubOn + fld 8 8 x.scrubPeriod

/-- VLT_OCCUPANCY (R100). -/
def vltOccupancy (s : State) (v : Nat) : Nat :=
  fld 0 15 (vaultPages s v) + fld 16 7 (vaultPages s v * 100 / 16384)

/-- VLT_ENG_STAT (R101). -/
def vltEngStat (x : Vault) : Nat := flag 0 x.busy + flag 1 x.result + fld 16 16 (statusCode x.status)

/-- Pages that wait to pass an atoll's causeway: queued promotions to its vaults, and pages that leave its closed vaults. -/
def causewayDue (s : State) (a : Nat) : Bool :=
  s.mig.promos.any (fun q => q.vault / 64 == a) ||
    (List.range 16).any (fun d => (leavingVault s d).any (fun e => e.2.frame / 16384 / 64 == a))

/-- MIG_STAT (R102): promotions queued towards the atoll's vaults. A page moves in one step of this model, so whether a move stands
half done (BUSY) while pages wait, and whether traffic was held at PROMO_CAP (CAPPED) where pages wait or have moved, are free
values. -/
def migStat (s : State) (a : Nat) : Nat :=
  let free := Config.freeWord s.free
  let moved := s.mig.promoted.getD a 0 != 0 || s.mig.demoted.getD a 0 != 0
  fld 0 1 (if causewayDue s a && free.getLsbD 0 then 1 else 0) +
    fld 1 1 (if (causewayDue s a || moved) && free.getLsbD 1 then 1 else 0) +
    fld 8 16 (min 65535 (s.mig.promos.filter (fun q => q.vault / 64 == a)).length)

/-- LAG_STAGE_STAT (R229). -/
def lagStageStat (s : State) (a : Nat) : Nat :=
  let l := s.mig.stagings.filter (fun g => g.id.atoll == a)
  fld 0 8 (min 255 l.length) + fld 8 7 (ceilDiv ((l.map (fun g => 128 * g.lines.length)).sum) (2 ^ 20)) +
    fld 16 15 (s.mig.fallCount.getD a 0)

/-! ### Dispatchers and reef -/

/-- DSP_STAT (R375). -/
def dspStat (s : State) (a : Nat) : Nat :=
  let ready := fun (lc : Bool) => min 255 (s.tasks.filter (fun t => t.tag / 2 ^ 14 == a && t.desc.lc == lc &&
    decide (t.phase ≠ .running) && isReady s t)).length
  let n := heldBy s a none
  fld 0 15 n + flag 15 (decide (n = 16384)) + fld 16 8 (ready true) + fld 24 8 (ready false)

/-- DSP_DOM[d] (R377). -/
def dspDom (s : State) (a d : Nat) : Nat :=
  let full := match (domAt s d).tasking with
    | (_, addr, n + 1) :: _ =>
      n < 256 && homeAtoll s d (leAt (hostBytes s addr 128) 8 2) == a && decide (quotaOf s d a ≤ heldBy s a (some d))
    | _ => false
  let res := match reservedFor s d with | some (_, l) => l.any (fun i => i / 64 == a) | none => false
  fld 0 15 (heldBy s a (some d)) + flag 15 full + fld 16 15 (quotaOf s d a) + flag 31 res

/-- REF_BAR[n] of atoll `a` (R378): SIZE while a task in flight uses the barrier. -/
def refBar (s : State) (a n : Nat) : Nat :=
  let k := a * 1024 + n
  let b := barAt s k
  let size := match s.tasks.find? (fun t => t.desc.gangBarrier == some k) with
    | some t => t.desc.gangSize
    | none => 0
  fld 0 9 b.arrived + fld 16 9 size + fld 25 7 b.phase

/-! ### Codec -/

/-- VCC_PIPE_STAT[p]: encode pipelines 0 to 7, decode pipelines 8 to 11 (R347). -/
def vccPipeStat (s : State) (p : Nat) : Nat :=
  let v := s.conf.video
  let enc := decide (p < 8)
  let k := if enc then p else p - 8
  let gang := firstIdx (fun (g : Option (Nat × Nat)) => match g with | some e => bit e.2 k | none => false) v.gangs
  let given := ((List.range 16).map (fun d => slotsGiven v d k enc)).sum
  let used := slotsInUse s k enc
  fld 0 3 given + fld 3 3 used + (match gang with | some g => (if enc then flag 6 true + fld 7 1 g else 0) | none => 0)

/-- VCC_CH_STATE (R348). -/
def vccChState (x : CodChan) : Nat :=
  fld 0 2 (match x.st with | .closed => 0 | .open_ => 1 | .closing => 2) + flag 2 x.cfg.premium + flag 3 x.rptrErr +
    fld 8 4 x.dom + fld 12 4 x.pipe + fld 16 5 x.slots + fld 24 4 x.queue.length

/-- VCC_CH_MARKS (R349). -/
def vccChMarks (x : CodChan) : Nat := (x.bufs.zipIdx.map (fun (b, i) => fld (2 * i) 2 b.mark)).sum

/-- VCC_CH_ACKED (R350). -/
def vccChAcked (x : CodChan) : Nat := (x.bufs.zipIdx.map (fun (b, i) => flag i b.acked)).sum

/-- VCC_CH_FULLNESS in bits (R350). -/
def vccChFullness (x : CodChan) : Nat := min (2 ^ 32 - 1) (x.full / x.cfg.fpsNum)

/-! ### Sound ports -/

/-- SND_ROLE (R419). -/
def sndRole (s : State) : Nat :=
  let r := s.net.role
  let live := if r.role = 2 then ((List.range 18).filter (fun p => portRole s p == 5 && portUp s p)).foldl (fun m p =>
    Nat.lor m (2 ^ ((portEntry s p).2.2 % 16))) 0 else 0
  fld 0 2 r.role + flag 2 r.arch + flag 3 s.net.headless + fld 4 4 r.shoal + fld 8 4 r.worker + fld 16 16 live

/-- SND_TIME_STAT (R402, R420). A time source is reachable over the manager port, over an uplink, or, for a promoted manager of an
archipelago, over a rail (R388). -/
def sndTimeStat (s : State) : Nat :=
  let n := s.net
  let off := max (-32768) (min 32767 n.lastCorr)
  let roles := if n.role.role = 1 then [2] else if n.role.promoted then [3, 4] else [6, 7]
  let source := timeSource n || (List.range 18).any (fun p => portUp s p && roles.contains (portRole s p))
  flag 0 (n.locked && decide (s.now ≤ n.corrAt + 1000000)) + flag 1 n.drift +
    flag 2 (decide (n.role.role ≠ 0) && !source) + fld 16 16 (unsigned 16 off)

/-- SND_CTX_STAT (R421). -/
def sndCtxStat (s : State) : Nat :=
  fld 0 7 (ctxHeld s).length + fld 8 9 s.net.colls.length + fld 17 4 (min 15 (switchHeld s))

/-- SND_PORT_STAT (R422). -/
def sndPortStat (s : State) (p : Nat) : Nat :=
  let x := portAt s p
  fld 0 3 x.st + flag 3 x.half + fld 4 4 (portRole s p) + fld 8 10 x.peer

/-! ### Host attachment -/

/-- PHASE: a group without the epoch protocol shows 5 from the last of its segments' applies on (R58, R59). -/
def shownPhase (s : State) : Nat :=
  match s.img.cur with
  | none => s.img.phase
  | some g => if decide (g.phase = .apply) && allApplied s g then 5 else s.img.phase

/-- HUB_IMG_STAT (R58). -/
def hubImgStat (s : State) : Nat :=
  fld 0 4 (shownPhase s) + flag 4 (imgBusy s) + fld 8 8 s.img.groupsDone + fld 16 16 (statusCode s.img.status)

/-- HUB_DOM_STATE[d] (R449). -/
def hubDomState (s : State) (d : Nat) : Nat :=
  let x := domAt s d
  let named := (domRec s d).isSome
  fld 0 3 (stateCode x.st) + flag 3 x.zeroising + (if named then fld 4 4 d else 0) + flag 8 named + fld 16 16 x.fault

/-- HUB_VF_STAT: the domain that the VF serves; zero where no record names it (R449). -/
def hubVfStat (s : State) (v : Nat) : Nat := match domOfVf s v with | some d => hubDomState s d | none => 0

/-- HUB_SQ_STAT (R450): read only while the completion ring it names is enabled too. -/
def hubSqStat (s : State) (v q : Nat) : Nat :=
  let x := sqAt s v q
  flag 0 (bit x.ctrl 0 && bit (cqAt s v (bits x.ctrl 17 16)).ctrl 0) + flag 1 x.error + fld 16 16 (statusCode x.status)

/-- HUB_CQ_STAT, laid out as HUB_SQ_STAT (R452). -/
def hubCqStat (s : State) (v c : Nat) : Nat :=
  let x := cqAt s v c
  flag 0 (bit x.ctrl 0) + flag 1 x.error + fld 16 16 (statusCode x.status)

/-! ### Events, power, security -/

/-- EVC_HOLD (R469). -/
def evcHold (s : State) : Nat :=
  fld 0 5 s.evc.word + flag 8 s.evc.held.isSome + fld 9 4 s.evc.owner + flag 13 s.evc.expired

/-- EVC_TGT_STAT[t] (R470). -/
def evcTgtStat (s : State) (t : Nat) : Nat :=
  let x := evTarget s.evc t
  fld 0 4 (runningLevel x) + fld 4 4 x.claims.length + flag 8 x.doneErr +
    flag 9 ((pendingSources s.evc).any (fun k => evRoute s.evc k == t && deliverable s.evc k))

/-- PWR_STAT (R498). -/
def pwrStat (s : State) : Nat :=
  let p := s.pow
  fld 0 3 (moduleState s) + flag 3 p.capThrottle + flag 4 p.thermThrottle + flag 5 p.capMiss + flag 6 p.mainOk +
    fld 8 3 p.lastReset + fld 16 16 (statusCode p.status)

/-- PWR_TEMP (R500). -/
def pwrTemp (s : State) : Nat := fld 0 8 s.pow.dieReg + fld 8 8 s.pow.dramReg + fld 16 8 s.pow.inletReg

/-- PWR_VAULT_FAIL[n] (R502). -/
def pwrVaultFail (s : State) (n : Nat) : Nat :=
  ((List.range 32).map (fun b => flag b (vaultAt s (32 * n + b)).failed)).sum

/-- PWR_CHAN_FAIL (R502). -/
def pwrChanFail (s : State) : Nat := ((List.range 16).map (fun c => flag c (chanAt s c).failed)).sum

/-- SEC_STAT (R523). -/
def secStat (s : State) : Nat :=
  flag 0 s.sec.idOk + flag 1 s.sec.dbg.isSome + flag 2 s.sec.overflow + fld 16 10 s.sec.log.length

end Sys2Proof.Machine
end

