-- ==== Sys2Proof/Machine/Security.lean ====
section
/-!
DEFINITION. Identity and attestation over DOE, software measurements, the end of debug, and MODULE_STATUS (R507-R526, R539).
-/
namespace Sys2Proof.Machine

/-- A digest as a register file holds it, least significant word first. -/
def wordBytes (l : List Word) : List Byte := l.flatMap (fun w => leBytes 4 w.toNat)

/-- SEC_EXT_CTRL with GO: MR6 or MR7 takes SEC_EXT_DATA; any other register sets ERROR (R508, R525). -/
def extendSoft (m : Nat) (s : State) : State :=
  let s := { s with sec := { s.sec with extMr := m } }
  if 6 ≤ m then extendMr m 6 0 0 (wordBytes s.sec.extData) s else { s with sec := { s.sec with extErr := true } }

def execMrExtend (m : BitVec 3) (s : State) : Outcome := .next (viaHost s (extendSoft m.toNat))

/-- A response of the DOE mailbox: STATUS, two reserved bytes, then what the request asks for (R515). -/
def doe (st : Status) (b : List Byte) (s : State) : State := { s with reply := leBytes 2 (statusCode st) ++ leBytes 2 0 ++ b }

/-- The root-key hash of boot ROM (R546). -/
def rootHash : List Byte := (List.range 32).map Config.rootKeyHash

/-- GET_IDENTITY (R512, R515): `resv` are the request's reserved bytes. -/
def execGetIdentity (resv : BitVec 24) (s : State) : Outcome :=
  .next (viaHost s (fun s =>
    if resv ≠ 0 then doe .doeRequestBad [] s
    else if !s.sec.idOk then doe .identityFailed [] s
    else doe .success (deviceKey.pub ++ leBytes 8 Config.bootRomVersion.toNat ++ rootHash) s))

/-- The signed bytes of a report, sampled in one step (R516, R517). -/
def reportBytes (s : State) (nonce : List Byte) : List Byte :=
  let q := s.sec
  let running := (decide (3 ≤ s.img.phase) && decide (s.img.phase ≤ 6)) || s.img.phase == 9
  leBytes 4 0x54505241 ++ leBytes 2 1 ++ leBytes 2 (flag 0 q.dbg.isSome + flag 1 q.overflow + flag 2 running) ++
    leBytes 8 s.now ++ leBytes 4 s.img.version ++ leBytes 4 s.img.epoch ++ leBytes 4 q.log.length ++
    leBytes 1 s.pow.lastReset ++ leBytes 3 0 ++ slice nonce 0 32 ++ identityHash ++ slice s.img.digest 0 32 ++
    slice q.mrs.flatten 0 256 ++ slice (s.cores.flatMap (fun c => leBytes 8 c.version)) 0 64 ++ leBytes 64 0

/-- GET_REPORT: the report with its signature, whose randomness is free; so is the signature where signing reaches the rounds at which
FIPS 204 lets it give up (R516). -/
def execGetReport (resv : BitVec 24) (nonce : BitVec 256) (s : State) : Outcome :=
  .next (viaHost s (fun s =>
    if resv ≠ 0 then doe .doeRequestBad [] s
    else if !s.sec.idOk then doe .identityFailed [] s
    else
      let b := reportBytes s (leBytes 32 nonce.toNat)
      let k := s.free
      let sig := mldsaSign deviceKey b ((List.range 32).map (Config.signRandom k))
      doe .success (b ++ sig.getD ((List.range 2420).map (fun i => Config.signRandom k (32 + i)))) (takeFree s)))

/-- GET_LOG: up to COUNT entries of the measurement log, fewer where it ends (R515). -/
def execGetLog (resv : BitVec 24) (first : BitVec 32) (count : BitVec 16) (s : State) : Outcome :=
  .next (viaHost s (fun s =>
    if resv ≠ 0 ∨ count.toNat = 0 ∨ 64 < count.toNat then doe .doeRequestBad [] s
    else doe .success ((s.sec.log.drop first.toNat).take count.toNat).flatten s))

/-- DEBUG_EXPIRY: DURATION_MS has ended (R521). -/
def execDebugExpiry (s : State) : Outcome := if debugOver s then .next (closeDebug s) else notNow "DEBUG_EXPIRY"

/-- The eight bytes of MODULE_STATUS (R539). -/
def moduleStatus (s : State) : List Byte :=
  let p := s.pow
  leBytes 1 (fld 0 3 (moduleState s) + flag 3 p.mainOk + flag 4 p.alive + flag 5 s.sec.idOk + flag 6 p.therm) ++
    leBytes 1 p.lastReset ++ leBytes 1 (if railsOn s then p.dieC else 0) ++ leBytes 1 p.inletC ++ leBytes 2 p.avgW ++
    leBytes 2 0

def execModuleStatus (s : State) : Outcome := .next (smbReply s (smbBlock 0x10 [] (moduleStatus s)))

end Sys2Proof.Machine
end

