-- ==== Sys2Proof/Machine/Registers.lean ====
section
/-!
DEFINITION. The register map: what a read of an address in a BAR0 returns, and what a write does under its access codes
(R7, R8, R428-R430, R450-R452, R467-R470, R524).
-/
namespace Sys2Proof.Machine

/-- The entry of a table of 4-byte registers from `base`, `n` long, that an offset names. -/
def regIdx (base n o : Nat) : Option Nat := if base ≤ o ∧ o < base + 4 * n ∧ (o - base) % 4 = 0 then some ((o - base) / 4) else none

/-- Word `n` of a byte string. -/
def wordOf (b : List Byte) (n : Nat) : Nat := leAt b (4 * n) 4

/-! ### MSI-X tables -/

/-- A word of an MSI-X table entry. -/
def msixRead (m : Sparse MsixEntry) (k : Nat) : Nat :=
  let e := sparseGet {} m (k / 4)
  match k % 4 with
  | 0 => e.addr % 2 ^ 32 | 1 => e.addr / 2 ^ 32 | 2 => e.data | _ => b2n e.masked

/-- A word of the pending-bit array. -/
def msixPba (m : Sparse MsixEntry) (n : Nat) : Nat := ((List.range 32).map (fun b => flag b (sparseGet {} m (32 * n + b)).pend)).sum

/-- A write to a word of an MSI-X entry: the entry, and the message that unmasking lets go. -/
def msixWrite (e : MsixEntry) (k v : Nat) : MsixEntry × Bool :=
  match k with
  | 0 => ({ e with addr := e.addr / 2 ^ 32 * 2 ^ 32 + v }, false)
  | 1 => ({ e with addr := e.addr % 2 ^ 32 + v * 2 ^ 32 }, false)
  | 2 => ({ e with data := v }, false)
  | _ => if bit v 0 then ({ e with masked := true }, false) else ({ e with masked := false, pend := false }, e.pend)

def pfMsixWrite (n v : Nat) (s : State) : State :=
  let r := msixWrite (sparseGet {} s.pfMsix (n / 4)) (n % 4) v
  let s := { s with pfMsix := sparseSet {} s.pfMsix (n / 4) r.1 }
  if r.2 then { s with sent := s.sent ++ [.msix 0 (n / 4) r.1.addr r.1.data] } else s

def vfMsixWrite (f n v : Nat) (s : State) : State :=
  let r := msixWrite (sparseGet {} (vfAt s f).msix (n / 4)) (n % 4) v
  let s := modVf s f (fun x => { x with msix := sparseSet {} x.msix (n / 4) r.1 })
  if r.2 then { s with sent := s.sent ++ [.msix (f + 1) (n / 4) r.1.addr r.1.data] } else s

/-! ### Reads (R7, R428-R430) -/

def readHub (s : State) (o : Nat) : Nat :=
  if o = 0x200 then s.img.addr % 2 ^ 32
  else if o = 0x204 then s.img.addr / 2 ^ 32
  else if o = 0x208 then s.img.len
  else if o = 0x20C then fld 16 10 s.img.drainBe
  else if o = 0x210 then hubImgStat s
  else if o = 0x214 then s.img.epoch
  else match regIdx 0x220 8 o, regIdx 0x300 16 o, regIdx 0x400 32 o with
    | some n, _, _ => wordOf s.img.digest n
    | _, some d, _ => hubDomState s d
    | _, _, some k => if k % 2 = 0 then eccStat (chanAt s (k / 2)).ecc else eccAddr (chanAt s (k / 2)).ecc
    | _, _, _ =>
      match regIdx 0x10000 256 o, regIdx 0x11000 2 o with
      | some k, _ => msixRead s.pfMsix k
      | _, some n => msixPba s.pfMsix n
      | _, _ => 0

/-- The event controller but for EVC_CLAIM, whose read is a command of its own. -/
def readEvc (s : State) (o : Nat) : Nat :=
  let e := s.evc
  match regIdx 0 32 o, regIdx 0x100 32 o, regIdx 0x200 128 o, regIdx 0x400 256 o with
  | some n, _, _, _ => (evPend e n).toNat
  | _, some n, _, _ => (evMask e n).toNat
  | _, _, some n, _ => ((List.range 8).map (fun b => fld (4 * b) 4 (evPrio e (8 * n + b)))).sum
  | _, _, _, some n => ((List.range 4).map (fun b => fld (8 * b) 7 (evRoute e (4 * n + b)))).sum
  | _, _, _, _ =>
    if o = 0x800 then evcHold s
    else match regIdx 0x1000 288 o with
      | some k => if k % 4 = 0 then (evTarget e (k / 4)).thresh else if k % 4 = 3 then evcTgtStat s (k / 4) else 0
      | none => 0

def readLog (s : State) (o : Nat) : Nat :=
  if o = 0 then s.log.written else if o = 4 then s.log.level else if o = 8 then s.log.dropped
  else match regIdx 0x10000 16384 o with
    | some k => wordOf (logBytes (sparseGet none s.log.slots (k / 8))) (k % 8)
    | none => 0

def readPwr (s : State) (o : Nat) : Nat :=
  let p := s.pow
  if o = 0 then pwrStat s
  else if o = 4 then p.target
  else if o = 8 then s.conf.power.cap
  else if o = 0xC then p.avgW
  else if o = 0x10 then pwrTemp s
  else if o = 0x20 then fld 0 2 p.retKind + fld 2 8 p.retIndex
  else if o = 0x24 then flag 0 p.retBusy + fld 16 16 (statusCode p.retStatus)
  else if o = 0x60 then pwrChanFail s
  else match regIdx 0x40 8 o with | some n => pwrVaultFail s n | none => 0

def readSnd (s : State) (o : Nat) : Nat :=
  if o = 0 then sndRole s
  else if o = 4 then sndTimeStat s
  else if o = 8 then shoalTime s % 2 ^ 32
  else if o = 0xC then s.net.timeHi
  else if o = 0x10 then sndCtxStat s
  else match regIdx 0x1000 288 o with
    | some k =>
      let x := portAt s (k / 16)
      (match k % 16 with
       | 0 => sndPortStat s (k / 16)
       | 1 => flag 1 x.disable
       | 2 => x.corr
       | 3 => x.uncorr
       | 4 => x.replays
       | _ => 0)
    | none => 0

def readVcc (s : State) (o : Nat) : Nat :=
  match regIdx 0 12 o, regIdx 0x10000 3072 o with
  | some p, _ => vccPipeStat s p
  | _, some k =>
    let x := codAt s (k / 64)
    (match k % 64 with
     | 0 => vccChState x
     | 1 => x.frames
     | 2 => vccChFullness x
     | 3 => x.wptr
     | 4 => x.rptr
     | 5 => vccChMarks x
     | 6 => vccChAcked x
     | 7 => x.minimal
     | _ => 0)
  | _, _ => 0

def readSec (s : State) (o : Nat) : Nat :=
  let q := s.sec
  if o = 0 then secStat s
  else if o = 0x220 then q.extMr + flag 4 q.extErr
  else if o = 0x240 then q.dbgBase % 2 ^ 32
  else if o = 0x244 then q.dbgBase / 2 ^ 32
  else match regIdx 0x20 8 o, regIdx 0x60 8 o, regIdx 0x100 64 o, regIdx 0x200 8 o with
    | some n, _, _, _ => if q.idOk then wordOf identityHash n else 0
    | _, some n, _, _ => wordOf rootHash n
    | _, _, some k, _ => wordOf (q.mrs.getD (k / 8) []) (k % 8)
    | _, _, _, some n => (q.extData.getD n 0).toNat
    | _, _, _, _ =>
      match regIdx 0x10000 8192 o with
      | some k => wordOf (q.log.getD (k / 16) []) (k % 16)
      | none => 0

/-- The pages of atoll window `a` (R429). -/
def readAtoll (s : State) (a o : Nat) : Nat :=
  let i := 64 * a + o % 0x40000 / 0x1000
  let r := o % 0x1000
  match o / 0x40000 with
  | 0 =>
    if o = 0 then dspStat s a
    else if o = 4 then s.dspKills.getD a 0
    else if o = 8 then s.dspPins.getD a 0
    else if o = 0x1100 then lagStageStat s a
    else if o = 0x2000 then migStat s a
    else if o = 0x2008 then s.mig.promoted.getD a 0
    else if o = 0x200C then s.mig.demoted.getD a 0
    else (match regIdx 0x40 16 o, regIdx 0x10000 4096 o, regIdx 0x14000 1024 o with
      | some d, _, _ => dspDom s a d
      | _, some n, _ => semAt s (a * 4096 + n)
      | _, _, some n => refBar s a n
      | _, _, _ => 0)
  | 4 =>
    let x := islandAt s i
    if r = 0 then islIdent i
    else if r = 0x80 then x.epoch
    else if r = 0xC0 then islAccStat s i
    else if r = 0xC4 then x.prismStall
    else if r = 0xC8 then x.accWait
    else if r = 0x100 then islTask s i
    else if r = 0x104 then islPc s i
    else if r = 0x140 then islClk s i
    else (match regIdx 0x40 16 r with | some c => islStraitStat s i c | none => 0)
  | 5 =>
    let x := vaultAt s i
    if r = 0 then eccStat x.ecc
    else if r = 4 then eccAddr x.ecc
    else if r = 8 then scrubCtrl x
    else if r = 0xC then vltOccupancy s i
    else if r = 0x44 then vltEngStat x
    else (match regIdx 0x20 8 r with | some n => (x.engCmd.getD n 0).toNat | none => 0)
  | 6 =>
    let l := (islandAt s i).lens
    if r = 0 then lnsStat s i
    else if r = 4 then (if l.phase = .closed then 0 else l.lcb.listId)
    else if r = 8 then (if l.phase = .closed then 0 else l.gen)
    else if r = 0xC then l.torn
    else 0
  | 7 =>
    if r = 0 then funBankStat s i
    else if r = 4 then funSet s i 0
    else if r = 8 then funSet s i 1
    else (match regIdx 0x20 8 r with
      | some n => (match bankInForce (islandAt s i).fun_ with | some t => wordOf t.digest n | none => 0)
      | none => 0)
  | _ => 0

/-- What a read of PF BAR0 returns (R428); reserved space reads zero. -/
def readPf (s : State) (off : Nat) : Nat :=
  let o := off % 0x400000
  match off / 0x400000 with
  | 0 => readHub s o | 1 => readEvc s o | 2 => readLog s o | 3 => readPwr s o
  | 4 => readSnd s o | 5 => readVcc s o | 6 => readSec s o
  | 8 => readAtoll s 0 o | 9 => readAtoll s 1 o | 10 => readAtoll s 2 o | 11 => readAtoll s 3 o
  | _ => 0

/-- Reading SND_TIME_LO latches SND_TIME_HI (R420). -/
def latchTime (s : State) : State := { s with net := { s.net with timeHi := shoalTime s / 2 ^ 32 % 2 ^ 32 } }

/-- What a read of a VF's BAR0 returns (R430, R449-R452). -/
def readVf (s : State) (v off : Nat) : Nat :=
  let f := vfAt s v
  if off = 0 then hubVfStat s v
  else if off = 0x4000 then f.winBase % 2 ^ 32
  else if off = 0x4004 then f.winBase / 2 ^ 32
  else if off = 0x4008 then f.winCtrl
  else match regIdx 0x1000 128 off, regIdx 0x2000 64 off, regIdx 0x8000 256 off, regIdx 0x9000 2 off with
    | some k, _, _, _ =>
      let x := sqAt s v (k / 16)
      (match k % 16 with
       | 0 => x.base % 2 ^ 32 | 1 => x.base / 2 ^ 32 | 2 => x.ctrl | 3 => x.tail | 4 => x.head
       | 5 => hubSqStat s v (k / 16) | _ => 0)
    | _, some k, _, _ =>
      let x := cqAt s v (k / 16)
      (match k % 16 with
       | 0 => x.base % 2 ^ 32 | 1 => x.base / 2 ^ 32 | 2 => x.ctrl | 3 => x.head | 4 => x.tail
       | 5 => hubCqStat s v (k / 16) | _ => 0)
    | _, _, some k, _ => msixRead f.msix k
    | _, _, _, some n => msixPba f.msix n
    | _, _, _, _ => 0

/-! ### Writes (R7) -/

/-- A 64-bit value with its low or high word replaced. -/
def putLo (x v : Nat) : Nat := x / 2 ^ 32 * 2 ^ 32 + v
def putHi (x v : Nat) : Nat := x % 2 ^ 32 + v * 2 ^ 32

/-- A write of the HUB block. DESIGN CHOICE: of several bits that one write of HUB_IMG_CTRL sets, ABORT acts first, then STAGE, then
APPLY; the spec gives no order (R57). -/
def writeHub (o v : Nat) (s : State) : State :=
  let img := s.img
  if o = 0x200 then { s with img := { img with addr := putLo img.addr v } }
  else if o = 0x204 then { s with img := { img with addr := putHi img.addr v } }
  else if o = 0x208 then { s with img := { img with len := v } }
  else if o = 0x20C then
    let s := setDrain (bits v 25 16) s
    let s := if bit v 2 then abortImage s else s
    let s := if bit v 0 then stageImage s else s
    if bit v 1 then applyImage s else s
  else match regIdx 0x400 32 o, regIdx 0x10000 256 o with
    | some k, _ => if k % 2 = 0 ∧ bit v 24 then
        setChan s (k / 2) { chanAt s (k / 2) with ecc := eccClear (chanAt s (k / 2)).ecc } else s
    | _, some k => pfMsixWrite k v s
    | _, _ => s

def writeEvc (o : Nat) (v : Word) (s : State) : Outcome :=
  match regIdx 0 32 o, regIdx 0x100 32 o, regIdx 0x200 128 o, regIdx 0x400 256 o with
  | some n, _, _, _ => execEvcPendWrite 8 (Fin.ofNat 32 n) v s
  | _, some n, _, _ => execEvcMaskWrite 8 (Fin.ofNat 32 n) v s
  | _, _, some n, _ => execEvcPrioWrite 8 (Fin.ofNat 128 n) v s
  | _, _, _, some n => execEvcRouteWrite 8 (Fin.ofNat 256 n) v s
  | _, _, _, _ =>
    if o = 0x800 then execEvcHold 8 v s
    else match regIdx 0x1000 288 o with
      | none => .next s
      | some k =>
        let t := Fin.ofNat 72 (k / 4)
        match k % 4 with
        | 0 => execEvcThreshWrite 8 t v s
        | 2 => execEvcDone 8 t (v.setWidth 10) s
        | 3 => .next (if v.getLsbD 8 then { s with evc := { s.evc with
            targets := sparseMod {} s.evc.targets t (fun x => { x with doneErr := false }) } } else s)
        | _ => .next s

/-- PWR_CTRL: a TARGET other than 2 to 4 asks for nothing (R486, R499). -/
def writePwrCtrl (v : Nat) (s : State) : State :=
  let t := bits v 2 0
  if bit v 3 && decide (2 ≤ t) && decide (t ≤ 4) then requestState t s
  else { s with pow := { s.pow with target := t } }

def writePwr (o v : Nat) (s : State) : State :=
  if o = 0 then (if bit v 5 then { s with pow := { s.pow with capMiss := false } } else s)
  else if o = 4 then writePwrCtrl v s
  else if o = 0x20 then
    (if bit v 10 then retrain (bits v 1 0) (bits v 9 2) s
     else { s with pow := { s.pow with retKind := bits v 1 0, retIndex := bits v 9 2 } })
  else if o = 0x30 then (if v = 0xC0DE then beginReset 3 s else s)
  else s

/-- SND_PORT_CTRL: DISABLE holds the port down, and lets it train when it clears; RETRAIN retrains it (R418, R422). -/
def writePortCtrl (p v : Nat) (s : State) : State :=
  let x := portAt s p
  let d := bit v 1
  let s := if d == x.disable then s
    else
      let s := if d && portUp s p then linkDown s p else s
      setPort s p { portAt s p with disable := d, half := false, st := if d || portRole s p == 0 then 0 else 2 }
  if bit v 0 && !d && portRole s p != 0 then setPort s p { freshLink (portAt s p) with st := 4, half := false, downAt := s.now }
  else s

def writeSnd (o v : Nat) (s : State) : State :=
  if o = 4 then (if bit v 1 then { s with net := { s.net with drift := false } } else s)
  else match regIdx 0x1000 288 o with
    | some k => if k % 16 = 1 then writePortCtrl (k / 16) v s else s
    | none => s

def writeVcc (o : Nat) (v : Word) (s : State) : Outcome :=
  match regIdx 0x10000 3072 o with
  | none => .next s
  | some k =>
    if k % 64 = 0 ∧ v.getLsbD 3 then .next (modCod s (k / 64) (fun x => { x with rptrErr := false }))
    else if k % 64 = 4 then execVccChRptrWrite (Fin.ofNat 48 (k / 64)) v s
    else .next s

def writeSec (o : Nat) (v : Word) (s : State) : State :=
  let q := s.sec
  if o = 0x220 then
    let s := if v.getLsbD 4 then { s with sec := { q with extErr := false } } else s
    if v.getLsbD 3 then extendSoft (v.toNat % 8) s else { s with sec := { s.sec with extMr := v.toNat % 8 } }
  else if o = 0x240 then { s with sec := { q with dbgBase := putLo q.dbgBase (v.toNat / 2 ^ 26 * 2 ^ 26) } }
  else if o = 0x244 then { s with sec := { q with dbgBase := putHi q.dbgBase v.toNat } }
  else match regIdx 0x200 8 o with
    | some n => { s with sec := { q with extData := setAt q.extData n v } }
    | none => s

def writeAtoll (a o : Nat) (v : Word) (s : State) : State :=
  let i := 64 * a + o % 0x40000 / 0x1000
  let r := o % 0x1000
  if o = 0x1100 then (if v.getLsbD 31 then { s with mig := { s.mig with fallCount := setAt s.mig.fallCount a 0 } } else s)
  else if o / 0x40000 = 5 then
    (if r = 0 then (if v.getLsbD 24 then modVault s i (fun x => { x with ecc := eccClear x.ecc }) else s)
     else if r = 8 then modVault s i (fun x => { x with scrubOn := v.getLsbD 0, scrubPeriod := bits v.toNat 15 8 })
     else if r = 0x40 then (if v.getLsbD 0 then vaultGo i s else s)
     else match regIdx 0x20 8 r with
       | some n => modVault s i (fun x => { x with engCmd := setAt x.engCmd n v })
       | none => s)
  else s

/-- A write to PF BAR0 (R428): read-only and reserved registers ignore it. -/
def writePf (off : Nat) (v : Word) (s : State) : Outcome :=
  let o := off % 0x400000
  match off / 0x400000 with
  | 0 => .next (writeHub o v.toNat s)
  | 1 => writeEvc o v s
  | 2 => .next (if o = 4 then { s with log := { s.log with level := v.toNat % 4 } } else s)
  | 3 => .next (writePwr o v.toNat s)
  | 4 => .next (writeSnd o v.toNat s)
  | 5 => writeVcc o v s
  | 6 => .next (writeSec o v s)
  | 8 => .next (writeAtoll 0 o v s)
  | 9 => .next (writeAtoll 1 o v s)
  | 10 => .next (writeAtoll 2 o v s)
  | 11 => .next (writeAtoll 3 o v s)
  | _ => .next s

/-- A write to a submission ring's registers; the base is fixed while the ring is enabled (R450, R452). -/
def writeSq (f : Fin 16) (q : Fin 8) (r : Nat) (v : Word) (s : State) : Outcome :=
  let x := sqAt s f q
  match r with
  | 0 => .next (if bit x.ctrl 0 then s else setSq s f q { x with base := putLo x.base (v.toNat / 4096 * 4096) })
  | 1 => .next (if bit x.ctrl 0 then s else setSq s f q { x with base := putHi x.base v.toNat })
  | 2 => execSqEnable f q v s
  | 3 => execSqDoorbell f q v s
  | 5 => .next (if v.getLsbD 1 then setSq s f q { x with error := false } else s)
  | _ => .next s

/-- A write to a completion ring's registers (R451, R452). -/
def writeCq (f : Fin 16) (c : Fin 4) (r : Nat) (v : Word) (s : State) : Outcome :=
  let x := cqAt s f c
  match r with
  | 0 => .next (if bit x.ctrl 0 then s else setCq s f c { x with base := putLo x.base (v.toNat / 4096 * 4096) })
  | 1 => .next (if bit x.ctrl 0 then s else setCq s f c { x with base := putHi x.base v.toNat })
  | 2 => execCqEnable f c v s
  | 3 => execCqHeadWrite f c v s
  | 5 => .next (if v.getLsbD 1 then setCq s f c { x with error := false } else s)
  | _ => .next s

/-- A write to a VF's BAR0 (R430, R450-R452). -/
def writeVf (f : Fin 16) (off : Nat) (v : Word) (s : State) : Outcome :=
  if off = 0x4000 then .next (modVf s f (fun x => { x with winBase := putLo x.winBase (v.toNat / 65536 * 65536) }))
  else if off = 0x4004 then .next (modVf s f (fun x => { x with winBase := putHi x.winBase v.toNat }))
  else if off = 0x4008 then .next (modVf s f (fun x => { x with winCtrl := v.toNat % 2 }))
  else match regIdx 0x1000 128 off, regIdx 0x2000 64 off, regIdx 0x8000 256 off with
    | some k, _, _ => writeSq f (Fin.ofNat 8 (k / 16)) (k % 16) v s
    | _, some k, _ => writeCq f (Fin.ofNat 4 (k / 16)) (k % 16) v s
    | _, _, some k => .next (vfMsixWrite f k v.toNat s)
    | _, _, _ => .next s

/-- REGISTER_WRITE: a 4-byte write by the host to BAR0 of function `fn` (0 the PF, n VF n); while the link is down it never
arrives (R7, R487). -/
def execRegisterWrite (fn : Fin 17) (off : BitVec 26) (v : Word) (s : State) : Outcome :=
  if !(hostUp s) then .next s
  else
    let s := wakeS2 s
    if fn.val = 0 then writePf off.toNat v s
    else writeVf (Fin.ofNat 16 (fn.val - 1)) off.toNat v s

end Sys2Proof.Machine
end

