-- ==== Sys2Proof/Machine/RingCommands.lean ====
section
/-!
DEFINITION. The ring commands as commands of the block: a record of R438 accepted on its ring, FENCE clear and reserved bytes
zero (R432-R438). Records that the module reads itself from a ring go through SQ_DOORBELL.
-/
namespace Sys2Proof.Machine

/-- TASK (R178, R438). -/
def execTask (h : Hdr) (addr : BitVec 64) (count : BitVec 16) (s : State) : Outcome :=
.next (doTask (srcOf h) addr.toNat count.toNat s)

/-- LOAD_PROGRAM (R182, R438). -/
def execLoadProgram (h : Hdr) (index : BitVec 16) (va : BitVec 64) (s : State) : Outcome :=
.next (doLoadProgram (srcOf h) index.toNat va.toNat s)

/-- UNLOAD_PROGRAM (R183, R438). -/
def execUnloadProgram (h : Hdr) (index : BitVec 16) (s : State) : Outcome :=
.next (doUnloadProgram (srcOf h) index.toNat s)

/-- RESET_SYNC (R373, R438). -/
def execResetSync (h : Hdr) (atoll : BitVec 8) (semFirst semCount barFirst barCount : BitVec 16) (s : State) : Outcome
    :=
.next (doResetSync (srcOf h) atoll.toNat semFirst.toNat semCount.toNat barFirst.toNat barCount.toNat s)

/-- BIND (R443, R438). -/
def execBind (h : Hdr) (s : State) : Outcome :=
.next (doBind (srcOf h) s)

/-- ARM (R443, R438). -/
def execArm (h : Hdr) (s : State) : Outcome :=
.next (doArm (srcOf h) s)

/-- START (R443, R438). -/
def execStart (h : Hdr) (s : State) : Outcome :=
.next (doStart (srcOf h) s)

/-- DRAIN (R443, R438). -/
def execDrain (h : Hdr) (s : State) : Outcome :=
.next (doDrain (srcOf h) s)

/-- RESUME (R443, R438). -/
def execResume (h : Hdr) (s : State) : Outcome :=
.next (doResume (srcOf h) s)

/-- UNBIND (R443, R438). -/
def execUnbind (h : Hdr) (s : State) : Outcome :=
.next (doUnbind (srcOf h) s)

/-- MAP (R87, R438). -/
def execMap (h : Hdr) (va : BitVec 64) (pages : BitVec 32) (tier : BitVec 8) (vault : BitVec 16) (list : BitVec 64) (s
    : State) : Outcome :=
.next (doMap (srcOf h) va.toNat pages.toNat tier.toNat vault.toNat list.toNat s)

/-- UNMAP (R87, R438). -/
def execUnmap (h : Hdr) (va : BitVec 64) (pages : BitVec 32) (s : State) : Outcome :=
.next (doUnmap (srcOf h) va.toNat pages.toNat s)

/-- SEAL (R87, R438). -/
def execSeal (h : Hdr) (va : BitVec 64) (pages : BitVec 32) (s : State) : Outcome :=
.next (doSeal (srcOf h) va.toNat pages.toNat s)

/-- PROMOTE (R88, R438). -/
def execPromote (h : Hdr) (va : BitVec 64) (pages : BitVec 32) (vault : BitVec 16) (s : State) : Outcome :=
.next (doPromote (srcOf h) va.toNat pages.toNat vault.toNat s)

/-- DEMOTE (R87, R438). -/
def execDemote (h : Hdr) (va : BitVec 64) (pages : BitVec 32) (s : State) : Outcome :=
.next (doDemote (srcOf h) va.toNat pages.toNat s)

/-- MEMORY_COPY (R87, R438). -/
def execMemoryCopy (h : Hdr) (src dst len : BitVec 64) (s : State) : Outcome :=
.next (doCopy (srcOf h) src.toNat dst.toNat len.toNat s)

/-- SET_SHADOW (R135, R438). -/
def execSetShadow (h : Hdr) (index : BitVec 16) (entry : BitVec 256) (s : State) : Outcome :=
.next (doSetShadow (srcOf h) index.toNat (leBytes 32 entry.toNat) s)

/-- CLEAR_SHADOW (R134, R438). -/
def execClearShadow (h : Hdr) (index : BitVec 16) (s : State) : Outcome :=
.next (doClearShadow (srcOf h) index.toNat s)

/-- CREATE_LIST (R263, R438). -/
def execCreateList (h : Hdr) (id entries : BitVec 32) (source body : BitVec 64) (s : State) : Outcome :=
.next (doCreateList (srcOf h) id.toNat entries.toNat source.toNat body.toNat s)

/-- EDIT_LIST (R264, R438). -/
def execEditList (h : Hdr) (id base : BitVec 32) (body edit : BitVec 64) (edits : BitVec 32) (s : State) : Outcome :=
.next (doEditList (srcOf h) id.toNat base.toNat body.toNat edit.toNat edits.toNat s)

/-- DESTROY_LIST (R263, R438). -/
def execDestroyList (h : Hdr) (id : BitVec 32) (s : State) : Outcome :=
.next (doDestroyList (srcOf h) id.toNat s)

/-- PREFIX_INSERT (R283, R438). -/
def execPrefixInsert (h : Hdr) (root : BitVec 64) (parent : BitVec 32) (ids table : BitVec 64) (s : State) : Outcome
    :=
.next (doPrefixInsert (srcOf h) root.toNat parent.toNat ids.toNat table.toNat s)

/-- PREFIX_LOOKUP (R284, R438). -/
def execPrefixLookup (h : Hdr) (root : BitVec 64) (blocks : BitVec 32) (ids out : BitVec 64) (s : State) : Outcome :=
.next (doPrefixLookup (srcOf h) root.toNat blocks.toNat ids.toNat out.toNat s)

/-- PREFIX_RELEASE (R283, R438). -/
def execPrefixRelease (h : Hdr) (list : BitVec 64) (count : BitVec 32) (flags : BitVec 8) (s : State) : Outcome :=
.next (doPrefixRelease (srcOf h) list.toNat count.toNat flags.toNat s)

/-- ENC_OPEN (R319, R438). -/
def execEncOpen (h : Hdr) (chan : BitVec 8) (va : BitVec 64) (s : State) : Outcome :=
.next (doEncOpen (srcOf h) chan.toNat va.toNat s)

/-- ENC_FRAME (R321, R438). -/
def execEncFrame (h : Hdr) (chan flags : BitVec 8) (pitch waitSem signalSem : BitVec 16) (luma chroma roi hint :
    BitVec 64) (target : BitVec 32) (inc : BitVec 16) (s : State) : Outcome :=
.next (doEncFrame (srcOf h) chan.toNat flags.toNat pitch.toNat waitSem.toNat signalSem.toNat luma.toNat chroma.toNat
    roi.toNat hint.toNat target.toNat inc.toNat s)

/-- FORCE_KEY (R341, R438). -/
def execForceKey (h : Hdr) (chan : BitVec 8) (s : State) : Outcome :=
.next (doForceKey (srcOf h) chan.toNat s)

/-- MARK (R338, R438). -/
def execMark (h : Hdr) (chan mark : BitVec 8) (frame : BitVec 64) (s : State) : Outcome :=
.next (doMark (srcOf h) chan.toNat mark.toNat frame.toNat s)

/-- ACK (R338, R438). -/
def execAck (h : Hdr) (chan : BitVec 8) (frame : BitVec 64) (s : State) : Outcome :=
.next (doAck (srcOf h) chan.toNat frame.toNat s)

/-- ENC_CLOSE (R317, R438). -/
def execEncClose (h : Hdr) (chan : BitVec 8) (s : State) : Outcome :=
.next (doEncClose (srcOf h) chan.toNat s)

/-- DEC_OPEN (R344, R438). -/
def execDecOpen (h : Hdr) (chan standard : BitVec 8) (width height fpsNum fpsDen : BitVec 16) (s : State) : Outcome :=
.next (doDecOpen (srcOf h) chan.toNat standard.toNat width.toNat height.toNat fpsNum.toNat fpsDen.toNat s)

/-- DEC_FRAME (R344, R438). -/
def execDecFrame (h : Hdr) (chan : BitVec 8) (pitch signalSem inc : BitVec 16) (unit : BitVec 64) (bytes : BitVec 32)
    (luma chroma : BitVec 64) (s : State) : Outcome :=
.next (doDecFrame (srcOf h) chan.toNat pitch.toNat signalSem.toNat inc.toNat unit.toNat bytes.toNat luma.toNat
    chroma.toNat s)

/-- DEC_CLOSE (R345, R438). -/
def execDecClose (h : Hdr) (chan : BitVec 8) (s : State) : Outcome :=
.next (doDecClose (srcOf h) chan.toNat s)

/-- GROUP_JOIN (R393, R438). -/
def execGroupJoin (h : Hdr) (key list : BitVec 64) (count : BitVec 16) (s : State) : Outcome :=
.next (doGroupJoin (srcOf h) key.toNat list.toNat count.toNat s)

/-- GROUP_LEAVE (R411, R438). -/
def execGroupLeave (h : Hdr) (group : BitVec 16) (s : State) : Outcome :=
.next (doGroupLeave (srcOf h) group.toNat s)

/-- COLL (R395, R438). -/
def execColl (h : Hdr) (group root : BitVec 16) (gen seq : BitVec 32) (kind op fmt flags : BitVec 8) (src dst counts :
    BitVec 64) (count target : BitVec 32) (waitSem signalSem inc run : BitVec 16) (s : State) : Outcome :=
.next (doColl (srcOf h) flags.toNat waitSem.toNat signalSem.toNat (collOpOf group.toNat root.toNat gen.toNat seq.toNat
    kind.toNat op.toNat fmt.toNat flags.toNat src.toNat dst.toNat counts.toNat count.toNat target.toNat waitSem.toNat
    signalSem.toNat inc.toNat run.toNat) s)

/-- RMEM_EXPOSE (R415, R438). -/
def execRmemExpose (h : Hdr) (window perm : BitVec 8) (group sem inc : BitVec 16) (va len : BitVec 64) (s : State) :
    Outcome :=
.next (doRmemExpose (srcOf h) window.toNat perm.toNat group.toNat sem.toNat inc.toNat va.toNat len.toNat s)

/-- RMEM_UNEXPOSE (R416, R438). -/
def execRmemUnexpose (h : Hdr) (window : BitVec 8) (s : State) : Outcome :=
.next (doRmemUnexpose (srcOf h) window.toNat s)

/-- RMEM_GET (R415, R438). -/
def execRmemGet (h : Hdr) (window : BitVec 8) (group rank waitSem : BitVec 16) (va off len : BitVec 64) (target :
    BitVec 32) (signalSem inc : BitVec 16) (s : State) : Outcome :=
.next (doRmemGet (srcOf h) window.toNat group.toNat rank.toNat waitSem.toNat va.toNat off.toNat len.toNat target.toNat
    signalSem.toNat inc.toNat s)

/-- RMEM_PUT (R415, R438). -/
def execRmemPut (h : Hdr) (window : BitVec 8) (group rank waitSem : BitVec 16) (va off len : BitVec 64) (target :
    BitVec 32) (signalSem inc : BitVec 16) (s : State) : Outcome :=
.next (doRmemPut (srcOf h) window.toNat group.toNat rank.toNat waitSem.toNat va.toNat off.toNat len.toNat target.toNat
    signalSem.toNat inc.toNat s)

end Sys2Proof.Machine
end

