-- ==== Sys2Proof/Machine/Idle.lean ====
section
/-!
DEFINITION. What the block does when no command waits: time passes, and what waited for something goes on.
-/
namespace Sys2Proof.Machine

/-- Time passes by a free number of nanoseconds. -/
def passTime (s : State) : State := { s with now := s.now + Config.elapsed s.ticks, ticks := s.ticks + 1 }

/-- An idle step: descriptors that waited for slots are dispatched, rings are read on, what a change group in Prepare waits for
goes on, and so do transfers and collectives that waited for ranges or semaphores (R47, R356, R402, R415, R433-R437). -/
def idle (s : State) : State :=
  let s := (List.range 16).foldl dispatchDom (passTime s)
  netTick (prepareTick ((List.range 16).foldl serveVf s))

end Sys2Proof.Machine
end

