-- ==== Sys2Proof/Machine/Dispatch.lean ====
section
/-! DEFINITION. Dispatch: one arm for each command, one call of its meaning. -/
namespace Sys2Proof.Machine

def exec (i : Instr) (s : State) : Host.Outcome State Fault Refusal :=
  match i with
  | .imgStage drainBe => Sys2Proof.Machine.execImgStage drainBe s
  | .imgApply drainBe => Sys2Proof.Machine.execImgApply drainBe s
  | .imgAbort drainBe => Sys2Proof.Machine.execImgAbort drainBe s
  | .prepareEnd => Sys2Proof.Machine.execPrepareEnd s
  | .islandEpochArrive isl => Sys2Proof.Machine.execIslandEpochArrive isl s
  | .drainBeDeadline => Sys2Proof.Machine.execDrainBeDeadline s
  | .epochBarrierComplete => Sys2Proof.Machine.execEpochBarrierComplete s
  | .groupCommit => Sys2Proof.Machine.execGroupCommit s
  | .epochHeld => Sys2Proof.Machine.execEpochHeld s
  | .lendingFlagApply isl => Sys2Proof.Machine.execLendingFlagApply isl s
  | .tableBankFlip isl => Sys2Proof.Machine.execTableBankFlip isl s
  | .videoAllocApply c => Sys2Proof.Machine.execVideoAllocApply c s
  | .firmwareCoreReady c => Sys2Proof.Machine.execFirmwareCoreReady c s
  | .firmwareReadyTimeout => Sys2Proof.Machine.execFirmwareReadyTimeout s
  | .farFullLog dom => Sys2Proof.Machine.execFarFullLog dom s
  | .straitBundle isl ch => Sys2Proof.Machine.execStraitBundle isl ch s
  | .sendResume isl => Sys2Proof.Machine.execSendResume isl s
  | .islandClockChange isl => Sys2Proof.Machine.execIslandClockChange isl s
  | .patrolScrub v => Sys2Proof.Machine.execPatrolScrub v s
  | .heatHalving => Sys2Proof.Machine.execHeatHalving s
  | .pageMove dom page => Sys2Proof.Machine.execPageMove dom page s
  | .pageFrameFree frame => Sys2Proof.Machine.execPageFrameFree frame s
  | .occupancyDemotion v => Sys2Proof.Machine.execOccupancyDemotion v s
  | .map h va pages tier vault list => Sys2Proof.Machine.execMap h va pages tier vault list s
  | .unmap h va pages => Sys2Proof.Machine.execUnmap h va pages s
  | .unmapFrameFree dom page => Sys2Proof.Machine.execUnmapFrameFree dom page s
  | .seal h va pages => Sys2Proof.Machine.execSeal h va pages s
  | .sealComplete dom page => Sys2Proof.Machine.execSealComplete dom page s
  | .promote h va pages vault => Sys2Proof.Machine.execPromote h va pages vault s
  | .demote h va pages => Sys2Proof.Machine.execDemote h va pages s
  | .memoryCopy h src dst len => Sys2Proof.Machine.execMemoryCopy h src dst len s
  | .lowerTierTimeout isl => Sys2Proof.Machine.execLowerTierTimeout isl s
  | .lowerTierDataArrive atoll line => Sys2Proof.Machine.execLowerTierDataArrive atoll line s
  | .vengCopy v => Sys2Proof.Machine.execVengCopy v s
  | .vengZeroFill v => Sys2Proof.Machine.execVengZeroFill v s
  | .vengGather v => Sys2Proof.Machine.execVengGather v s
  | .vengRowMax v => Sys2Proof.Machine.execVengRowMax v s
  | .vengRowSum v => Sys2Proof.Machine.execVengRowSum v s
  | .vengPack v => Sys2Proof.Machine.execVengPack v s
  | .vengUnpack v => Sys2Proof.Machine.execVengUnpack v s
  | .vengTokenCompare v => Sys2Proof.Machine.execVengTokenCompare v s
  | .vengDigest v => Sys2Proof.Machine.execVengDigest v s
  | .vaultEngineDone v => Sys2Proof.Machine.execVaultEngineDone v s
  | .vltEccClear v => Sys2Proof.Machine.execVltEccClear v s
  | .farEccClear ch => Sys2Proof.Machine.execFarEccClear ch s
  | .setShadow h index entry => Sys2Proof.Machine.execSetShadow h index entry s
  | .clearShadow h index => Sys2Proof.Machine.execClearShadow h index s
  | .task h addr count => Sys2Proof.Machine.execTask h addr count s
  | .taskStart tag isls => Sys2Proof.Machine.execTaskStart tag isls s
  | .taskKill isl => Sys2Proof.Machine.execTaskKill isl s
  | .killWritesDrained tag => Sys2Proof.Machine.execKillWritesDrained tag s
  | .pinOverrun tag => Sys2Proof.Machine.execPinOverrun tag s
  | .load isl => Sys2Proof.Machine.execLoad isl s
  | .loadTaps isl => Sys2Proof.Machine.execLoadTaps isl s
  | .store isl => Sys2Proof.Machine.execStore isl s
  | .stage isl => Sys2Proof.Machine.execStage isl s
  | .stageRelease isl => Sys2Proof.Machine.execStageRelease isl s
  | .stageLineFill tile ok => Sys2Proof.Machine.execStageLineFill tile ok s
  | .copy isl => Sys2Proof.Machine.execCopy isl s
  | .send isl => Sys2Proof.Machine.execSend isl s
  | .recv isl => Sys2Proof.Machine.execRecv isl s
  | .veng isl => Sys2Proof.Machine.execVeng isl s
  | .zero isl => Sys2Proof.Machine.execZero isl s
  | .mma isl => Sys2Proof.Machine.execMma isl s
  | .accload isl => Sys2Proof.Machine.execAccload isl s
  | .accclr isl => Sys2Proof.Machine.execAccclr isl s
  | .epi isl => Sys2Proof.Machine.execEpi isl s
  | .epiraw isl => Sys2Proof.Machine.execEpiraw isl s
  | .vadd isl => Sys2Proof.Machine.execVadd isl s
  | .vmul isl => Sys2Proof.Machine.execVmul isl s
  | .vfma isl => Sys2Proof.Machine.execVfma isl s
  | .vmax isl => Sys2Proof.Machine.execVmax isl s
  | .vmin isl => Sys2Proof.Machine.execVmin isl s
  | .vcvt isl => Sys2Proof.Machine.execVcvt isl s
  | .vrowmul isl => Sys2Proof.Machine.execVrowmul isl s
  | .vrowadd isl => Sys2Proof.Machine.execVrowadd isl s
  | .feval isl => Sys2Proof.Machine.execFeval isl s
  | .lopen isl => Sys2Proof.Machine.execLopen isl s
  | .lscore isl => Sys2Proof.Machine.execLscore isl s
  | .lpv isl => Sys2Proof.Machine.execLpv isl s
  | .lstats isl => Sys2Proof.Machine.execLstats isl s
  | .lstatsCombine isl => Sys2Proof.Machine.execLstatsCombine isl s
  | .lback isl => Sys2Proof.Machine.execLback isl s
  | .rsum isl => Sys2Proof.Machine.execRsum isl s
  | .rmax isl => Sys2Proof.Machine.execRmax isl s
  | .rsumsq isl => Sys2Proof.Machine.execRsumsq isl s
  | .wait isl => Sys2Proof.Machine.execWait isl s
  | .signal isl => Sys2Proof.Machine.execSignal isl s
  | .arrive isl => Sys2Proof.Machine.execArrive isl s
  | .fence isl => Sys2Proof.Machine.execFence isl s
  | .gbegin isl => Sys2Proof.Machine.execGbegin isl s
  | .gend isl => Sys2Proof.Machine.execGend isl s
  | .commit isl => Sys2Proof.Machine.execCommit isl s
  | .noCommit isl => Sys2Proof.Machine.execNoCommit isl s
  | .loadProgram h index va => Sys2Proof.Machine.execLoadProgram h index va s
  | .unloadProgram h index => Sys2Proof.Machine.execUnloadProgram h index s
  | .lagStageClear atoll => Sys2Proof.Machine.execLagStageClear atoll s
  | .resetSync h atoll semFirst semCount barFirst barCount => Sys2Proof.Machine.execResetSync h atoll semFirst semCount barFirst barCount s
  | .bind h => Sys2Proof.Machine.execBind h s
  | .arm h => Sys2Proof.Machine.execArm h s
  | .armComplete dom => Sys2Proof.Machine.execArmComplete dom s
  | .start h => Sys2Proof.Machine.execStart h s
  | .drain h => Sys2Proof.Machine.execDrain h s
  | .drainQuiesced dom => Sys2Proof.Machine.execDrainQuiesced dom s
  | .resume h => Sys2Proof.Machine.execResume h s
  | .unbind h => Sys2Proof.Machine.execUnbind h s
  | .zeroisationDone dom => Sys2Proof.Machine.execZeroisationDone dom s
  | .vfFlr v => Sys2Proof.Machine.execVfFlr v s
  | .pfFlr => Sys2Proof.Machine.execPfFlr s
  | .createList h id entries source body => Sys2Proof.Machine.execCreateList h id entries source body s
  | .editList h id base body edit edits => Sys2Proof.Machine.execEditList h id base body edit edits s
  | .destroyList h id => Sys2Proof.Machine.execDestroyList h id s
  | .listReclaimed dom body => Sys2Proof.Machine.execListReclaimed dom body s
  | .prefixInsert h root parent ids table => Sys2Proof.Machine.execPrefixInsert h root parent ids table s
  | .prefixLookup h root blocks ids out => Sys2Proof.Machine.execPrefixLookup h root blocks ids out s
  | .prefixRelease h list count flags => Sys2Proof.Machine.execPrefixRelease h list count flags s
  | .encOpen h chan va => Sys2Proof.Machine.execEncOpen h chan va s
  | .encFrame h chan flags pitch waitSem signalSem luma chroma roi hint target inc => Sys2Proof.Machine.execEncFrame h chan flags pitch waitSem signalSem luma chroma roi hint target inc s
  | .frameBegin c roiLate hintLate => Sys2Proof.Machine.execFrameBegin c roiLate hintLate s
  | .emissionUnit c late => Sys2Proof.Machine.execEmissionUnit c late s
  | .frameEnd c => Sys2Proof.Machine.execFrameEnd c s
  | .forceKey h chan => Sys2Proof.Machine.execForceKey h chan s
  | .mark h chan mark frame => Sys2Proof.Machine.execMark h chan mark frame s
  | .ack h chan frame => Sys2Proof.Machine.execAck h chan frame s
  | .encClose h chan => Sys2Proof.Machine.execEncClose h chan s
  | .decOpen h chan standard width height fpsNum fpsDen => Sys2Proof.Machine.execDecOpen h chan standard width height fpsNum fpsDen s
  | .decFrame h chan pitch signalSem inc unit bytes luma chroma => Sys2Proof.Machine.execDecFrame h chan pitch signalSem inc unit bytes luma chroma s
  | .decPictureOut ch late => Sys2Proof.Machine.execDecPictureOut ch late s
  | .decClose h chan => Sys2Proof.Machine.execDecClose h chan s
  | .vccChRptrWrite c v => Sys2Proof.Machine.execVccChRptrWrite c v s
  | .portTrained p half id role => Sys2Proof.Machine.execPortTrained p half id role s
  | .linkDown p => Sys2Proof.Machine.execLinkDown p s
  | .payloadFlit p flit corrected bad => Sys2Proof.Machine.execPayloadFlit p flit corrected bad s
  | .linkCtrlFlit p flit corrected bad => Sys2Proof.Machine.execLinkCtrlFlit p flit corrected bad s
  | .idleFlit p flit corrected bad => Sys2Proof.Machine.execIdleFlit p flit corrected bad s
  | .portRetrain p => Sys2Proof.Machine.execPortRetrain p s
  | .groupJoin h key list count => Sys2Proof.Machine.execGroupJoin h key list count s
  | .joinTimeout key => Sys2Proof.Machine.execJoinTimeout key s
  | .groupLeave h group => Sys2Proof.Machine.execGroupLeave h group s
  | .coll h group root gen seq kind op fmt flags src dst counts count target waitSem signalSem inc run => Sys2Proof.Machine.execColl h group root gen seq kind op fmt flags src dst counts count target waitSem signalSem inc run s
  | .collWaitMet gid seq => Sys2Proof.Machine.execCollWaitMet gid seq s
  | .collRequest gid gen seq rank gdig odig run count how => Sys2Proof.Machine.execCollRequest gid gen seq rank gdig odig run count how s
  | .collReserve gid seq => Sys2Proof.Machine.execCollReserve gid seq s
  | .collReserved gid seq rank => Sys2Proof.Machine.execCollReserved gid seq rank s
  | .collTicket gid seq counts => Sys2Proof.Machine.execCollTicket gid seq counts s
  | .collWritesDone gid seq => Sys2Proof.Machine.execCollWritesDone gid seq s
  | .collDone gid seq rank => Sys2Proof.Machine.execCollDone gid seq rank s
  | .collCommit gid seq => Sys2Proof.Machine.execCollCommit gid seq s
  | .ticketTimeout gid seq => Sys2Proof.Machine.execTicketTimeout gid seq s
  | .timeBeacon time rtt => Sys2Proof.Machine.execTimeBeacon time rtt s
  | .memberUnreachable module => Sys2Proof.Machine.execMemberUnreachable module s
  | .managerLost => Sys2Proof.Machine.execManagerLost s
  | .headlessCommitTimeout gid seq => Sys2Proof.Machine.execHeadlessCommitTimeout gid seq s
  | .rmemExpose h window perm group sem inc va len => Sys2Proof.Machine.execRmemExpose h window perm group sem inc va len s
  | .rmemUnexpose h window => Sys2Proof.Machine.execRmemUnexpose h window s
  | .rmemGet h window group rank waitSem va off len target signalSem inc => Sys2Proof.Machine.execRmemGet h window group rank waitSem va off len target signalSem inc s
  | .rmemPut h window group rank waitSem va off len target signalSem inc => Sys2Proof.Machine.execRmemPut h window group rank waitSem va off len target signalSem inc s
  | .rmemTransferDone num owner => Sys2Proof.Machine.execRmemTransferDone num owner s
  | .rmemTimeout num => Sys2Proof.Machine.execRmemTimeout num s
  | .shoalPulse => Sys2Proof.Machine.execShoalPulse s
  | .sqDoorbell v q tail => Sys2Proof.Machine.execSqDoorbell v q tail s
  | .cqHeadWrite v c head => Sys2Proof.Machine.execCqHeadWrite v c head s
  | .sqEnable v q word => Sys2Proof.Machine.execSqEnable v q word s
  | .cqEnable v c word => Sys2Proof.Machine.execCqEnable v c word s
  | .cqHoldoffExpiry v c => Sys2Proof.Machine.execCqHoldoffExpiry v c s
  | .windowRead fn off len => Sys2Proof.Machine.execWindowRead fn off len s
  | .windowWrite fn off data => Sys2Proof.Machine.execWindowWrite fn off data s
  | .hostReadTimeout r => Sys2Proof.Machine.execHostReadTimeout r s
  | .linkReset c => Sys2Proof.Machine.execLinkReset c s
  | .perstDeassert => Sys2Proof.Machine.execPerstDeassert s
  | .warmRestore => Sys2Proof.Machine.execWarmRestore s
  | .evcPendWrite agent n v => Sys2Proof.Machine.execEvcPendWrite agent n v s
  | .evcMaskWrite agent n v => Sys2Proof.Machine.execEvcMaskWrite agent n v s
  | .evcClaim agent t => Sys2Proof.Machine.execEvcClaim agent t s
  | .evcDone agent t src => Sys2Proof.Machine.execEvcDone agent t src s
  | .evcHold agent v => Sys2Proof.Machine.execEvcHold agent v s
  | .evcHoldExpiry => Sys2Proof.Machine.execEvcHoldExpiry s
  | .evcSync agent => Sys2Proof.Machine.execEvcSync agent s
  | .evcPrioWrite agent n v => Sys2Proof.Machine.execEvcPrioWrite agent n v s
  | .evcRouteWrite agent n v => Sys2Proof.Machine.execEvcRouteWrite agent n v s
  | .evcThreshWrite agent t v => Sys2Proof.Machine.execEvcThreshWrite agent t v s
  | .logStatus => Sys2Proof.Machine.execLogStatus s
  | .logEntry slot => Sys2Proof.Machine.execLogEntry slot s
  | .moduleStatus => Sys2Proof.Machine.execModuleStatus s
  | .powerWake p => Sys2Proof.Machine.execPowerWake p s
  | .hubReset word p => Sys2Proof.Machine.execHubReset word p s
  | .pwrReset word => Sys2Proof.Machine.execPwrReset word s
  | .auxPowerUp => Sys2Proof.Machine.execAuxPowerUp s
  | .auxLoss => Sys2Proof.Machine.execAuxLoss s
  | .mainLoss => Sys2Proof.Machine.execMainLoss s
  | .mainInRange => Sys2Proof.Machine.execMainInRange s
  | .mainOvervoltage => Sys2Proof.Machine.execMainOvervoltage s
  | .dramTrainingDone vaults chans => Sys2Proof.Machine.execDramTrainingDone vaults chans s
  | .throttleStep avg ms => Sys2Proof.Machine.execThrottleStep avg ms s
  | .powerRequestS2 => Sys2Proof.Machine.execPowerRequestS2 s
  | .powerRequestS3 => Sys2Proof.Machine.execPowerRequestS3 s
  | .powerRequestS4 => Sys2Proof.Machine.execPowerRequestS4 s
  | .moduleWake => Sys2Proof.Machine.execModuleWake s
  | .islandDoze isl => Sys2Proof.Machine.execIslandDoze isl s
  | .dieTempThrottle c => Sys2Proof.Machine.execDieTempThrottle c s
  | .thermalTrip => Sys2Proof.Machine.execThermalTrip s
  | .dramOvertemp layer c => Sys2Proof.Machine.execDramOvertemp layer c s
  | .coolantWarm c => Sys2Proof.Machine.execCoolantWarm c s
  | .vaultDriftTrack v => Sys2Proof.Machine.execVaultDriftTrack v s
  | .vaultRetrain v => Sys2Proof.Machine.execVaultRetrain v s
  | .channelRetrain c => Sys2Proof.Machine.execChannelRetrain c s
  | .retrainDone ok => Sys2Proof.Machine.execRetrainDone ok s
  | .mrExtend m => Sys2Proof.Machine.execMrExtend m s
  | .getIdentity resv => Sys2Proof.Machine.execGetIdentity resv s
  | .getReport resv nonce => Sys2Proof.Machine.execGetReport resv nonce s
  | .getLog resv first count => Sys2Proof.Machine.execGetLog resv first count s
  | .debugExpiry => Sys2Proof.Machine.execDebugExpiry s
  | .registerWrite fn off v => Sys2Proof.Machine.execRegisterWrite fn off v s
  | .hostLinkReachesL0 => Sys2Proof.Machine.execHostLinkReachesL0 s
  | .cbl3v3Short p => Sys2Proof.Machine.execCbl3v3Short p s
  | .timeBeaconSend => Sys2Proof.Machine.execTimeBeaconSend s

end Sys2Proof.Machine
end

