-- ==== Sys2Proof/Safety.lean ====
section
/-!
DEFINITION. What counts as a good state, in the terms the statements use: the sparse tables keep the one form that
makes equal contents equal data; and what it is for an instruction's reads and writes to go through.
-/
namespace Sys2Proof.Safety

open Sys2Proof.Machine

/-- The canonical form of a domain's tables: pages, programs, shadows and windows. -/
def DomCanon (x : Dom) : Prop :=
  sparseWf none x.pages = true ∧ sparseWf none x.programs = true ∧ sparseWf none x.shadows = true ∧ sparseWf none x.windows = true

/-- DRAM, host memory and the poison marks are canonical: keys strictly rising, no default listed. -/
structure MemCanon (s : State) : Prop where
  mem : Memory.wf s.mem = true
  host : Memory.wf s.host = true
  poison : sparseWf false s.poison = true

/-- The other tables that statements name are canonical: reefs, domains, functions, vaults, channels, islands with their
scratchpads, receive FIFOs, codec channels, event controller and log. -/
structure TablesCanon (s : State) : Prop where
  sems : sparseWf 0 s.sems = true
  bars : sparseWf {} s.bars = true
  doms : sparseWf {} s.doms = true
  dom : ∀ e ∈ s.doms, DomCanon e.2
  vfs : sparseWf {} s.vfs = true
  vaults : sparseWf {} s.vaults = true
  chans : sparseWf {} s.chans = true
  islands : sparseWf {} s.islands = true
  scratch : ∀ e ∈ s.islands, sparseWf 0 e.2.scratch = true
  fifos : sparseWf [] s.fifos = true
  codec : sparseWf {} s.codec.chans = true
  pend : sparseWf 0 s.evc.pend = true
  mask : sparseWf (BitVec.allOnes 32) s.evc.mask = true
  prio : sparseWf 0 s.evc.prio = true
  route : sparseWf 0 s.evc.route = true
  targets : sparseWf {} s.evc.targets = true
  slots : sparseWf none s.log.slots = true

/-- The bytes of a domain's range as a reader that is no task sees them: a byte whose output is pending is undefined (R194). -/
def rangeBytes (s : State) (d va n : Nat) : List MByte := undefOver s (pendingRanges s d) va (vaBytes s d none va n)

/-- A domain's range reads clean: no beat has a latent error, every address translates, no byte is poisoned (R69, R70, R79). -/
abbrev ReadsClean (s : State) (d va n : Nat) : Prop :=
  s.latent = [] ∧ vaFault s d none va n = none ∧ anyMark (rangeBytes s d va n) = false

/-- A page of a domain stands here, with the tables of domains and pages in their form. -/
abbrev PageIs (s : State) (d k : Nat) (p : Page) : Prop :=
  sparseWf {} s.doms = true ∧ sparseWf none (domAt s d).pages = true ∧ pageAt s d k = some p

/-- The island moves on to its next instruction; the time at which the task's first one issued is kept (R185, R186, R367). -/
def advanced (c : Ctx) (s : State) : State :=
  modIsland s c.isl (fun x => advancePc c.t { x with firstAt := x.firstAt <|> some s.now })

/-- An operand read of an instruction goes through: from the scratchpad inside the task's region with no marked line, or from
operand memory once its gate is open and no byte is poisoned. `u` is the state after it, `b` the bytes (R70, R185, R196,
R225). -/
def Fetches (c : Ctx) (ag imm n : Nat) (s u : State) (b : List Byte) : Prop :=
  match agOperand c ag with
  | none => u = s ∧ scratchUse c (agAt c ag imm) n = .ok b
  | some o => readGate s c.t c.isl false true (segRanges (segs c o (agAt c ag imm) n)) = .go u ∧
      anyMark (operandBytes u c o (agAt c ag imm) n) = false ∧ b = plain (operandBytes u c o (agAt c ag imm) n)

/-- A result of an instruction goes through: into the scratchpad inside the task's region, or into an output operand, within
its extents, once the gate is open. `u` is the state after it (R177, R223, R227). -/
def Stores (c : Ctx) (ag imm : Nat) (data : List Byte) (s u : State) : Prop :=
  match agOperand c ag with
  | none => inScratch c (agAt c ag imm) data.length = true ∧
      u = modIsland s c.isl (fun x => putScratch x (agAt c ag imm).toNat (clean data))
  | some o =>
      let ws := (segs c o (agAt c ag imm) data.length).map (fun g => (g.2.1, clean ((data.drop g.1).take g.2.2)))
      o.output = true ∧ ∃ w, writeGate s c.t (ws.map (fun x => (x.1, x.2.length))) = .go w ∧ u = taskWrite s c.t c.isl ws

/-- A read of an instruction goes through: whatever comes next sees the state `u` and the value `v`. -/
def Gives {α : Type} (read : (State → α → Res) → Res) (u : State) (v : α) : Prop := ∀ next, read next = next u v

/-- The FP32 values that bytes spell. -/
def floats (b : List Byte) (n : Nat) : List Val := (List.range n).map (fun i => ofF32 (leAt b (4 * i) 4))

/-! ### Conditions on the state alone under which an instruction's accesses go through -/

/-- A task's reads of operand memory meet nothing that holds or ends them: outside its own outputs unless it is pinned, nothing
pending elsewhere, T1 pages throughout, no vault-engine operation writing there (R95, R196, R197, R79). -/
def readsFreely (s : State) (t : Task) (rs : List (Nat × Nat)) : Bool :=
  rs.all (fun r => r.2 == 0 || ((t.desc.pinned || !((outRanges t).any (fun o => overlaps o r))) && !(pendingElsewhere s t r) &&
    (piecesOf r.1 r.2).all (fun x => match xlat s t.desc.domain (some t.tag) x.1 with
      | .ok p => p.tier == .t1 && !(engineBusy s p.addr x.2)
      | .error _ => false)))

/-- A task's writes of operand memory meet nothing that holds or ends them: inside its output ranges, unsealed T1 pages, no
vault-engine operation writing there (R86, R95, R177). -/
def writesFreely (s : State) (t : Task) (rs : List (Nat × Nat)) : Bool :=
  rs.all (fun r => r.2 == 0 || ((outRanges t).any (fun o => decide (o.1 ≤ r.1) && decide (r.1 + r.2 ≤ o.1 + o.2)) &&
    (piecesOf r.1 r.2).all (fun x => match xlat s t.desc.domain (some t.tag) x.1 with
      | .ok p => p.tier == .t1 && (!p.sealed || sealExempt s t p.page) && !(engineBusy s p.addr x.2)
      | .error _ => false)))

/-- An address generator gives `n` bytes `b` of the scratchpad, in the task's region, no line marked (R70, R185, R199). -/
abbrev PadGives (c : Ctx) (ag imm n : Nat) (b : List Byte) : Prop :=
  agOperand c ag = none ∧ scratchUse c (agAt c ag imm) n = .ok b

/-- An address generator addresses the scratchpad, and the bytes fit into the task's region there (R185, R199). -/
abbrev PadTakes (c : Ctx) (ag imm : Nat) (b : List Byte) : Prop :=
  agOperand c ag = none ∧ inScratch c (agAt c ag imm) b.length = true

/-- The bytes stand in the scratchpad where an address generator points. -/
def padWith (c : Ctx) (ag imm : Nat) (b : List Byte) (s : State) : State :=
  modIsland s c.isl (fun x => putScratch x (agAt c ag imm).toNat (clean b))

/-- The island goes on at another instruction. -/
def jumped (c : Ctx) (s : State) (pc : Nat) : State :=
  modIsland s c.isl (fun x => jumpTo c.t { x with firstAt := x.firstAt <|> some s.now } pc)

/-- Entries of the open walk, `n` of them from number `k` on, as they stand in the list's body (R261). -/
def walkWords (s : State) (c : Ctx) (k n : Nat) : List Nat :=
  (List.range n).map (fun i => leAt (plain (taskBytes s c (c.x.lens.body + 0x40 + 8 * (c.x.lens.first + k)) (8 * n))) (8 * i) 8)

/-- Those entries read clean and agree with the walk's generation (R70, R267). -/
abbrev WalkReads (s : State) (c : Ctx) (k n : Nat) : Prop :=
  let a := c.x.lens.body + 0x40 + 8 * (c.x.lens.first + k)
  readsFreely s c.t [(a, 8 * n)] = true ∧ anyMark (taskBytes s c a (8 * n)) = false ∧
    (walkWords s c k n).any (fun e => entryBad e || bits e 23 16 != c.x.lens.gen % 256) = false

/-- The elements of tokens of a walk, keys or values (R259, R260). -/
def tokensOf (s : State) (c : Ctx) (val : Bool) (ks : List Key) : List (List Val) :=
  (ks.map (tokenRange c.x.lens.lcb val)).map (fun r =>
    (List.range 128).map (elemAt ((kvFmt (c.x.lens.lcb.kv % 16)).getD .bf16) (plain (taskBytes s c r.1 r.2))))

/-- Tokens of a walk read clean. -/
abbrev TokensRead (s : State) (c : Ctx) (val : Bool) (ks : List Key) : Prop :=
  readsFreely s c.t (ks.map (tokenRange c.x.lens.lcb val)) = true ∧
    ((ks.map (tokenRange c.x.lens.lcb val)).map (fun r => taskBytes s c r.1 r.2)).any anyMark = false

/-- The scores of query rows over a walk's keys, as the spill format holds them (R248, R270). -/
def scoresOf (s : State) (c : Ctx) (qs : List (List Val)) (ks : List Key) : List (List Val) :=
  qs.map (fun q => (tokensOf s c false ks).map (fun key => spillRound c.x.lens.spillFp (scoreOf c.x.lens.lcb q key)))

end Sys2Proof.Safety
end

