-- ==== Sys2Proof/Certificates/Slice0/Obligations.lean ====
section
/-!
DEFINITION. The statements for the provers: what the commands do, family by family, and what every step keeps.
-/
open Sys2Proof Sys2Proof.Machine

/-- A step runs the command at the front of the queue. For every command c and state s whose queue is c followed by rest, a step
answers exactly what exec answers for c on s with the queue rest; on an empty queue the step answers idle s (the model's
choice, assumption 2). (R432) -/
def Obligations.FrontCommandRuns : Prop :=
  (∀ (c : Instr) (rest : List Instr) (s : State), s.pending = c :: rest → step s = exec c { s with pending := rest }) ∧
  (∀ s : State, s.pending = [] → step s = .next (idle s))

/-- With the host link down no host access changes anything. While the host link is not in L0, every command that is an access of
the host answers the state unchanged: image commands, doorbells, ring registers, windows, event words written by the host,
error clears, register writes. The model's own choices in this: assumption 9. (R487, R426) -/
def Obligations.LinkDownTurnsHostAway : Prop :=
  ∀ s : State, hostUp s = false →
    (∀ n, exec (.imgStage n) s = .next s ∧ exec (.imgApply n) s = .next s ∧ exec (.imgAbort n) s = .next s) ∧
    (∀ v q w, exec (.sqDoorbell v q w) s = .next s ∧ exec (.sqEnable v q w) s = .next s) ∧
    (∀ v c w, exec (.cqHeadWrite v c w) s = .next s ∧ exec (.cqEnable v c w) s = .next s) ∧
    (∀ fn off len, exec (.windowRead fn off len) s = .next s) ∧
    (∀ fn off data, exec (.windowWrite fn off data) s = .next s) ∧
    (∀ fn off v, exec (.registerWrite fn off v) s = .next s) ∧
    (∀ n v, exec (.evcPendWrite 8 n v) s = .next s ∧ exec (.evcMaskWrite 8 n v) s = .next s) ∧
    (∀ t src, exec (.evcClaim 8 t) s = .next s ∧ exec (.evcDone 8 t src) s = .next s) ∧
    (∀ v, exec (.evcHold 8 v) s = .next s) ∧
    (∀ v c, exec (.vltEccClear v) s = .next s ∧ exec (.farEccClear c) s = .next s)

/-- IMG_STAGE answers its ordered checks; IMG_APPLY with nothing in force applies the whole staged image. With the host link up,
the engine not BUSY and LEN at most 8 MiB, IMG_STAGE answers a next state: DRAIN_BE is the value written; if the image at the
host address verifies, PHASE is 2, STATUS SUCCESS and the image is staged; otherwise PHASE is 8, STATUS the check's status
and nothing is staged. The configuration in force, DRAM and the domains stay. With an image staged, nothing in force (epoch
0) and APPLY legal, IMG_APPLY answers a next state: with training done, PHASE 7, STATUS SUCCESS, nothing staged, the segments
in force all those of the image, the epoch the highest of its segments, and the mirror store holding the same; before
training ends, PHASE 3 with the image waiting. The model's own choices in this: assumptions 10, 28, 30, 31, 34, 38, 126, 127,
128, 139, 142, 145. (R39, R41, R44, R59, R491) -/
def Obligations.StageAndColdApply : Prop :=
  (∀ (n : BitVec 10) (s : State), hostUp s = true → imgBusy s = false → s.img.len ≤ 0x800000 →
    let u := setDrain n.toNat (wakeS2 s)
    ∃ t, exec (.imgStage n) s = .next t ∧ t.img.drainBe = n.toNat ∧ t.conf = s.conf ∧ t.mem = s.mem ∧ t.doms = s.doms ∧
      match verifyImage u (hostBytes u s.img.addr s.img.len) s.img.len with
      | .ok x => t.img.phase = 2 ∧ t.img.status = .success ∧ t.img.staged = some x
      | .error e => t.img.phase = 8 ∧ t.img.status = e ∧ t.img.staged = none) ∧
  (∀ (n : BitVec 10) (s : State) (x : Staged), hostUp s = true → imgBusy s = false → s.img.staged = some x →
    s.img.epoch = 0 → applyLegal s = true →
    ∃ t, exec (.imgApply n) s = .next t ∧
      (s.pow.trained = true →
        t.img.phase = 7 ∧ t.img.status = .success ∧ t.img.staged = none ∧
        t.img.segs = x.segs.filter (fun g => !(isRemove g)) ∧ t.img.epoch = (x.segs.map (·.epoch)).foldl max 0 ∧
        t.mir.segs = t.img.segs ∧ t.mir.epoch = t.img.epoch) ∧
      (s.pow.trained = false → t.img.phase = 3 ∧ t.img.waiting = true ∧ t.img.staged = some x))

/-- IMG_ABORT rolls back what has not committed and has no effect on a committed group. With the link up, IMG_ABORT answers a
next state. During an uncommitted group (mirror store good) nothing is left of the group or of those behind it, nothing is
staged, STATUS is APPLY_ABORTED and PHASE 8. With no group in progress and no image waiting, only DRAIN_BE changes: the group
that committed stays as it is. An image that waits for training is dropped. The model's own choices in this: assumptions 10,
32, 126, 146. (R47, R52, R55) -/
def Obligations.AbortStopsTheGroup : Prop :=
  ∀ (n : BitVec 10) (s : State), hostUp s = true → ∃ t, exec (.imgAbort n) s = .next t ∧
    (∀ g, s.img.cur = some g → s.mir.bad = false →
      t.img.cur = none ∧ t.img.left = [] ∧ t.img.staged = none ∧ t.img.status = .applyAborted ∧ t.img.phase = 8 ∧
      t.img.segs = s.img.segs ∧ t.img.epoch = s.img.epoch) ∧
    (s.img.cur = none → s.img.waiting = false → t = setDrain n.toNat (wakeS2 s)) ∧
    (s.img.cur = none → s.img.waiting = true →
      t.img.waiting = false ∧ t.img.staged = none ∧ t.img.status = .applyAborted ∧ t.img.phase = 8)

/-- PREPARE_END, ISLAND_EPOCH_ARRIVE, DRAIN_BE_DEADLINE, EPOCH_BARRIER_COMPLETE and GROUP_COMMIT complete when due. For a group g
in progress: once every leaving vault is zeroed, every channel cleared and every directory and reserve in place, PREPARE_END
raises the hold over the group's scope (or begins the apply phase) and starts what needs no protocol; a scope island that
runs no task takes its share of g within 10 ms, no task of a split domain that changes still running; at the DRAIN_BE
deadline the killable tasks of the scope are killed, once, unless TABLES alone needs the protocol; when every scope island
has arrived and no collective of a changed domain holds a context, the phase is commit and PHASE 5; when all segments have
applied, the group commits. The model's own choices in this: assumptions 7, 8, 36, 68, 145, 147, 150. (R45, R47, R49, R59) -/
def Obligations.EpochProtocolAdvances : Prop :=
  ∀ (s : State) (g : GroupState), s.img.cur = some g →
    (g.phase = .prepare → g.closed.all (fun v => g.zeroed.contains v) = true →
      (∀ d, d < 16 → (leavingChan s d).isEmpty = true ∧ (comesUnified s d = true → hasDirectory s d = true) ∧
        reserveFits s g.target d = true) →
      let h : GroupState := { g with
        phase := if g.protocol then .hold else .apply
        t0 := s.now
        islands := if g.protocol then scopeOf s g.target g.doms else [] }
      let u := g.banks.foldl (fun s i => modIsland s i (fun x => { x with fun_ := { x.fun_ with loading := false } }))
        (imgPhase (if g.protocol then 4 else 9) { s with img := { s.img with cur := some h } })
      exec .prepareEnd s = .next (startImmediate h (if g.protocol then killAll gangBe (holdVictims u g.target) u else u))) ∧
    (∀ i : Fin 256, g.phase = .hold → g.islands.contains i.val = true → g.arrived.contains i.val = false →
      (islandAt s i).task = none → splitBusy s g.target i = false → s.now < g.t0 + 10000000 → sparseWf {} s.islands = true → ∃ t, exec (.islandEpochArrive i) s = .next t ∧ t = takeShare g i s ∧
        (∃ h, t.img.cur = some h ∧ h.arrived = g.arrived ++ [i.val]) ∧ (islandAt t i).epoch = g.epoch) ∧
    (g.phase = .hold → g.kills = false → g.t0 + drainNs s ≤ s.now →
      exec .drainBeDeadline s = .next (killAll gangKillable (s.tasks.filter (fun u => g.killing && killable s u &&
        (match u.island with | some i => g.islands.contains i | none => false)))
        { s with img := { s.img with cur := some { g with kills := true } } })) ∧
    (g.phase = .hold → g.islands.all (fun i => g.arrived.contains i) = true → contextsIdle s g = true → s.now < g.t0 + 10000000 →
      ∃ t, exec .epochBarrierComplete s = .next t ∧ t.img.phase = 5 ∧
        t.img.cur = some { g with phase := .commit, doneAt := some s.now }) ∧
    ((g.phase = .commit ∨ g.phase = .apply) → allApplied s g = true →
      exec .groupCommit s = .next (commitGroup g s))

/-- EPOCH_HELD, the firmware events, LENDING_FLAG_APPLY and TABLE_BANK_FLIP complete when due. 10 ms after the hold began,
EPOCH_HELD raises source 0x201 and rolls the group back; a core's ready signal within 100 ms loads its image and goes on with
the next core; without it FIRMWARE_READY_TIMEOUT raises 0x203 and rolls back. On an island that runs no task, LENDABLE takes
its new value and the island leaves the list of those to change, and a pending bank flip swaps the banks. Rows:
FIRMWARE_CORE_READY. The model's own choices in this: assumptions 7, 8, 146. (R48, R49, R52, R244, R347) -/
def Obligations.GroupEndsOnTimeoutOrParts : Prop :=
  (∀ (s : State) (g : GroupState), s.img.cur = some g →
    (g.phase = .hold → g.t0 + 10000000 ≤ s.now →
      exec .epochHeld s = .next (rollback .epochHeld (raise 0x201 s))) ∧
    (∀ c : Fin 8, g.core = some c.val → s.now < g.coreAt + 100000000 →
      exec (.firmwareCoreReady c) s = .next (nextCore (loadCore c (sparseGet (0, []) g.target.firmware c) s)
        { g with coresDone := g.coresDone ++ [c.val], core := none })) ∧
    (g.core.isSome = true → g.coreAt + 100000000 ≤ s.now →
      exec .firmwareReadyTimeout s = .next (rollbackFrom (some 0x203) .applyAborted (raise 0x203 s))) ∧
    (∀ i : Fin 256, g.phase ≠ .prepare → g.lend.contains i.val = true → (islandAt s i).task = none →
      exec (.lendingFlagApply i) s = .next { s with
        conf := { s.conf with isl := sparseSet {} s.conf.isl i (sparseGet {} g.target.isl i) }
        img := { s.img with cur := some { g with lend := g.lend.filter (fun x => x != i.val) } } })) ∧
  (∀ (s : State) (i : Fin 256), (islandAt s i).fun_.flip = true → (islandAt s i).task = none →
    exec (.tableBankFlip i) s = .next (setIsland s i { islandAt s i with fun_ := flipBank (islandAt s i).fun_ }))

/-- A ring command that its domain's state does not accept is refused with STATE_REFUSED and changes nothing else. For each ring
command, when its VF's domain is in a state outside those that accept it, the command answers the state with one
STATE_REFUSED completion and one info entry with the opcode and the state's code; domains, tasks, islands, configuration,
DRAM, poison marks, semaphores, migration, codec and sound state are unchanged. The model's own choices in this: assumptions
16, 17, 18, 24. (R441, R442, R440) -/
def Obligations.RefusedInStateChangesNothing : Prop :=
  (∀ (h : Hdr) (s : State) (d : Nat) (a b c e : BitVec 64) (i j : BitVec 32) (k l m n : BitVec 16) (p q : BitVec 8)
      (w : BitVec 256), domOfVf s h.vf = some d →
    ∀ x ∈ ([(.task h a k, 0x01, [.active]), (.bind h, 0x10, [.empty]), (.arm h, 0x11, [.bound]), (.start h, 0x12, [.loaded]),
        (.drain h, 0x13, [.active]), (.resume h, 0x14, [.draining]), (.unbind h, 0x15, [.bound, .loaded, .quiesced]),
        (.loadProgram h k a, 0x18, setupStates), (.unloadProgram h k, 0x19, setupStates),
        (.resetSync h p k l m n, 0x1A, setupStates), (.map h a i p k b, 0x20, setupStates),
        (.unmap h a i, 0x21, setupStates), (.seal h a i, 0x22, setupStates), (.promote h a i k, 0x23, setupStates),
        (.demote h a i, 0x24, setupStates), (.memoryCopy h a b c, 0x25, setupStates), (.setShadow h k w, 0x26, setupStates),
        (.clearShadow h k, 0x27, setupStates), (.createList h i j a b, 0x30, setupStates),
        (.editList h i j a b i, 0x31, setupStates), (.destroyList h i, 0x32, setupStates),
        (.prefixInsert h a i b c, 0x33, setupStates), (.prefixLookup h a i b c, 0x34, setupStates),
        (.prefixRelease h a i p, 0x35, setupStates), (.encOpen h p a, 0x40, [.active]),
        (.encFrame h p q k l m a b c e i n, 0x41, [.active]), (.forceKey h p, 0x42, chanStates), (.mark h p q a, 0x43, chanStates),
        (.ack h p a, 0x44, chanStates), (.encClose h p, 0x45, chanStates), (.decOpen h p q k l m n, 0x48, [.active]),
        (.decFrame h p k l m a i b c, 0x49, [.active]), (.decClose h p, 0x4A, chanStates), (.groupJoin h a b k, 0x50, [.active]),
        (.groupLeave h k, 0x51, [.active]), (.coll h k l i j p q p q a b c i j k l m n, 0x52, [.active]),
        (.rmemExpose h p q k l m a b, 0x58, [.active]), (.rmemUnexpose h p, 0x59, [.active]),
        (.rmemGet h p k l m a b c i n k, 0x5A, [.active]), (.rmemPut h p k l m a b c i n k, 0x5B, [.active])] :
        List (Instr × Nat × List DomState)),
      (domAt s d).st ∉ x.2.2 → exec x.1 s = .next (refuseState (srcOf h) x.2.1 (some d) s)) ∧
  (∀ (src : Src) (op d : Nat) (s : State), let t := refuseState src op (some d) s
    t.doms = s.doms ∧ t.tasks = s.tasks ∧ t.islands = s.islands ∧ t.conf = s.conf ∧ t.mem = s.mem ∧ t.poison = s.poison ∧
    t.sems = s.sems ∧ t.bars = s.bars ∧ t.mig = s.mig ∧ t.codec = s.codec ∧ t.net = s.net ∧
    (s.log.level = 0 → sparseGet none t.log.slots (s.log.written % 2048) =
      some ⟨s.now, shoalTime s, statusCode .stateRefused, none, 0, d,
        slice (leBytes 1 op ++ leBytes 1 (stateCode (domAt s d).st) ++ leBytes 4 src.cmd) 0 10⟩))

/-- A completion is sixteen bytes at its ring's tail, or waits when the ring has no room. When the completion ring that a
command's submission ring names has room and nothing waits for it, completing the command writes the 16 bytes of its record,
PHASE included, at BASE + 16 × tail and no other byte of host memory, advances the tail, and turns PHASE when the tail wraps.
When the ring has no room the record waits in its VF's queue and host memory is unchanged. DRAM and the domains are never
touched. The model's own choices in this: assumption 19. (R435, R436, R437) -/
def Obligations.CompletionRecordPlaced : Prop :=
  ∀ (src : Src) (st : Status) (result : Nat) (s : State), let c := cqOf s src
    let r := (vfAt s src.vf).cqs.getD c {}
    let rc := cplRecord src.cmd st src.sq 0 0 result
    let t := complete src st result s
    sparseWf 0 s.host = true →
    t.mem = s.mem ∧ t.doms = s.doms ∧ t.islands = s.islands ∧ t.tasks = s.tasks ∧
    ((vfAt s src.vf).waitCpl.all (fun w => w.1 != c) = true → cqRoom r = true → c < (vfAt s src.vf).cqs.length →
      (∀ i, i < 16 → sparseGet 0 t.host (r.base + 16 * r.tail + i) =
        (if i = 6 then rc.getD 6 0 ||| (if r.phase then 0x80 else 0) else rc.getD i 0)) ∧
      (∀ a, (a < r.base + 16 * r.tail ∨ r.base + 16 * r.tail + 16 ≤ a) → sparseGet 0 t.host a = sparseGet 0 s.host a) ∧
      ((vfAt t src.vf).cqs.getD c {}).tail = (r.tail + 1) % ringSize r.ctrl ∧
      ((vfAt t src.vf).cqs.getD c {}).phase = (if (r.tail + 1) % ringSize r.ctrl = 0 then !r.phase else r.phase)) ∧
    (cqRoom r = false → t.host = s.host ∧ (vfAt t src.vf).waitCpl = (vfAt s src.vf).waitCpl ++ [(c, rc)])

/-- BIND, ARM, ARM_COMPLETE, START, RESUME and UNBIND take a domain through its states. For a VF whose domain is d: BIND of an
EMPTY domain that is not ZEROISING, when no initialisation of lost DRAM runs, makes it BOUND (a unified one takes its
directory first); while ZEROISING or during that initialisation it waits; ARM of a BOUND domain without a resident program
makes it LOADED; with one it waits until ARM_COMPLETE, which makes it LOADED; START makes a LOADED domain ACTIVE; RESUME
makes a DRAINING one ACTIVE; UNBIND makes a BOUND, LOADED or QUIESCED domain EMPTY with ZEROISING set and nothing else held.
DRAM is unchanged by each, and START and RESUME leave every other domain as it was. The model's own choices in this:
assumptions 17, 18, 42, 90, 116. (R440, R441, R443) -/
def Obligations.DomainStatesFollowCommands : Prop :=
  ∀ (h : Hdr) (s : State) (d : Nat), domOfVf s h.vf = some d →
    ((domAt s d).st = .empty → (domAt s d).zeroising = false → initWait s = false → (memRec s d).split = true →
      ∃ t, exec (.bind h) s = .next t ∧ (domAt t d).st = .bound ∧ t.mem = s.mem) ∧
    (∀ u, (domAt s d).st = .empty → (domAt s d).zeroising = false → initWait s = false → (memRec s d).split = false →
      ensureStruct s d .directory 8 = some u →
      ∃ t, exec (.bind h) s = .next t ∧ (domAt t d).st = .bound ∧ (domAt t d).frames = (domAt u d).frames ∧ t.mem = s.mem) ∧
    ((domAt s d).st = .empty → (domAt s d).zeroising = true ∨ initWait s = true →
      exec (.bind h) s = .next (modDom s d (fun x => { x with waitBind := x.waitBind ++ [srcOf h] }))) ∧
    ((domAt s d).st = .bound → residents (domAt s d) = [] →
      ∃ t, exec (.arm h) s = .next t ∧ (domAt t d).st = .loaded ∧ t.mem = s.mem ∧ ∀ e, e ≠ d → domAt t e = domAt s e) ∧
    ((domAt s d).st = .bound → residents (domAt s d) ≠ [] →
      exec (.arm h) s = .next (modDom s d (fun x => { x with waitArm := x.waitArm ++ [srcOf h] }))) ∧
    (∀ e : Fin 16, e.val = d → (domAt s d).st = .bound → (domAt s d).waitArm ≠ [] →
      ∃ t, exec (.armComplete e) s = .next t ∧ (domAt t d).st = .loaded ∧ (domAt t d).waitArm = [] ∧ t.mem = s.mem) ∧
    ((domAt s d).st = .loaded → ∃ t, exec (.start h) s = .next t ∧ (domAt t d).st = .active ∧ t.mem = s.mem ∧
      ∀ e, e ≠ d → domAt t e = domAt s e) ∧
    ((domAt s d).st = .draining → ∃ t, exec (.resume h) s = .next t ∧ (domAt t d).st = .active ∧
      (domAt t d).waitDrain = none ∧ t.mem = s.mem ∧ ∀ e, e ≠ d → domAt t e = domAt s e) ∧
    ((domAt s d).st = .bound ∨ (domAt s d).st = .loaded ∨ (domAt s d).st = .quiesced →
      ∃ t, exec (.unbind h) s = .next t ∧ domAt t d = { zeroising := true } ∧ t.mem = s.mem)

/-- DRAIN, DRAIN_QUIESCED and ZEROISATION_DONE complete; zeroised memory reads zero. DRAIN of an ACTIVE domain answers the state
in which it is DRAINING and its groups, windows and channels wind down; once nothing of it is left DRAIN_QUIESCED makes it
QUIESCED and completes the DRAIN with 1; ZEROISATION_DONE of an EMPTY domain with ZEROISING set (no reset pending, no BIND
waiting in any domain) clears ZEROISING, and every byte of the vaults of the islands it owns and of its channels reads zero,
every other DRAM byte as before. The model's own choices in this: assumptions 7, 17, 46, 116. (R443, R105, R411) -/
def Obligations.DrainAndZeroiseComplete : Prop :=
  (∀ (h : Hdr) (s : State) (d : Nat), domOfVf s h.vf = some d → (domAt s d).st = .active →
    exec (.drain h) s = .next (settleChansOf (shutWindows (leaveGroups
      (modDom s d (fun x => { x with st := .draining, waitDrain := some (srcOf h) })) d) d) d)) ∧
  (∀ (d : Fin 16) (s : State) (src : Src), (domAt s d).st = .draining → nothingLeft s d = true →
    (domAt s d).waitDrain = some src →
    ∃ t, exec (.drainQuiesced d) s = .next t ∧ (domAt t d).st = .quiesced ∧ (domAt t d).waitDrain = none ∧ t.mem = s.mem ∧
      t = complete src .success 1 (modDom s d (fun x => { x with st := .quiesced, waitDrain := none }))) ∧
  (∀ (d : Fin 16) (s : State), (domAt s d).zeroising = true → (domAt s d).st = .empty → s.pow.restore = none →
    (∀ e, e < 16 → (domAt s e).waitBind = []) → sparseWf {} s.doms = true →
    ∃ t, exec (.zeroisationDone d) s = .next t ∧ (domAt t d).zeroising = false ∧ (domAt t d).st = .empty ∧
      (∀ v ∈ ownedIslands s d, ∀ o, o < 2 ^ 30 → sparseGet 0 t.mem (v * 2 ^ 30 + o) = 0) ∧
      (∀ c ∈ chanList (memRec s d), ∀ o, o < 2 ^ 36 → sparseGet 0 t.mem (2 ^ 40 + c * 2 ^ 36 + o) = 0) ∧
      (∀ a, (∀ v ∈ ownedIslands s d, a / 2 ^ 30 ≠ v) → (∀ c ∈ chanList (memRec s d), a / 2 ^ 36 ≠ 16 + c) →
        sparseGet 0 t.mem a = sparseGet 0 s.mem a))

/-- MAP and UNMAP change exactly the entries of their range. In a unified domain whose state accepts setup: a T3 MAP of unmapped,
aligned pages with room for its leaf tables leaves entry i of the range a sealed T3 page with heat 0 at the i-th frame of its
list; a T1 or T2 MAP that finds its frames completes in the state the placement gives, and one of one page with its leaf
table and a frame at hand leaves it a zero-filled page there, sealed in T2; UNMAP of mapped pages leaves every page of the
range unmapped and every other entry as it was; a VAULT of MAP or PROMOTE that is neither 0 to 255 nor 0xFFFF is refused with
COMMAND_BAD. No byte of DRAM changes by an UNMAP or a T3 MAP. The model's own choices in this: assumptions 17, 42, 43, 129,
141. (R87, R78, R79, R438, R439) -/
def Obligations.HostPagesMapAndUnmap : Prop :=
  ∀ (h : Hdr) (va list : BitVec 64) (n : BitVec 32) (v : BitVec 16) (s : State) (d : Nat),
    domOfVf s h.vf = some d → (domAt s d).st ∈ setupStates → (memRec s d).split = false →
    let ks := pagesOf va.toNat n.toNat
    (∀ tier, vaultField v.toNat = false → exec (.map h va n tier v list) s = .next (refuse (srcOf h) .commandBad s)) ∧
    (vaultField v.toNat = false → exec (.promote h va n v) s = .next (refuse (srcOf h) .commandBad s)) ∧
    (pageRangeOk va.toNat n.toNat = true → vaultField v.toNat = true →
    ((∀ k ∈ ks, pageAt s d k = none) → (∀ b ∈ hostList s list.toNat n.toNat, b % pageSize = 0) → vaultArg s d v.toNat ≠ .bad →
      vaultArg s d v.toNat ≠ .shut → (ensureLeaves s d ks).isSome = true →
      ∃ t, exec (.map h va n 2 v list) s = .next t ∧ t.mem = s.mem ∧
        ∀ i, i < n.toNat → pageAt t d (va.toNat / pageSize + i) =
          some ⟨.t3, true, false, 0, hostFrame ((hostList s list.toNat n.toNat).getD i 0)⟩) ∧
    (∀ u, mapUnified s d va.toNat n.toNat 0 v.toNat list.toNat = .ok u →
      exec (.map h va n 0 v list) s = .next (complete (srcOf h) .success 0 u)) ∧
    (∀ u, mapUnified s d va.toNat n.toNat 1 v.toNat list.toNat = .ok u →
      exec (.map h va n 1 v list) s = .next (complete (srcOf h) .success 0 u)) ∧
    (∀ f, ks = [va.toNat / pageSize] → pageAt s d (va.toNat / pageSize) = none → v.toNat = 0xFFFF → sparseWf {} s.doms = true →
      sparseWf none (domAt s d).pages = true →
      (domAt s d).frames.any (fun e => decide (e.2 = .leaf (va.toNat / pageSize / 65536))) = true →
      (defaultFrame s d = some f → 1 ≤ freeCount s (openVaults s d) → ∃ t, exec (.map h va n 0 v list) s = .next t ∧
        pageAt t d (va.toNat / pageSize) = some ⟨.t1, false, false, 0, f⟩ ∧ t.mem = (dramZero s (f * pageSize) pageSize).mem) ∧
      (chanFrame s d (va.toNat / pageSize) true = some f → ∃ t, exec (.map h va n 1 v list) s = .next t ∧
        pageAt t d (va.toNat / pageSize) = some ⟨.t2, true, false, 0, f⟩ ∧ t.mem = (dramZero s (f * pageSize) pageSize).mem)) ∧
    (s.img.cur = none → (∀ k ∈ ks, (pageAt s d k).isSome = true) → sparseWf none (domAt s d).pages = true →
      ∃ t, exec (.unmap h va n) s = .next t ∧ t.mem = s.mem ∧ (∀ k ∈ ks, pageAt t d k = none) ∧
        ∀ k, k ∉ ks → pageAt t d k = pageAt s d k))

/-- SEAL, SEAL_COMPLETE, PROMOTE, DEMOTE and MEMORY_COPY complete with success. In a unified domain that accepts setup, over a
valid range of mapped pages: SEAL with no task writing into the range seals each page and completes; with writers it waits
with their tags, and once they have ended SEAL_COMPLETE completes it; PROMOTE that finds its frames and DEMOTE of sealed
pages that finds T2 frames complete in the state the moves give; of one page with a frame at hand, PROMOTE leaves it in T1
unsealed and DEMOTE in T2. In a split domain MEMORY_COPY of a clean mapped range to a mapped range completes after all bytes
read are written at the destination. The model's own choices in this: assumptions 17, 41, 43, 44, 129. (R83, R86, R87, R88,
R80) -/
def Obligations.SealPromoteDemoteCopyComplete : Prop :=
  (∀ (h : Hdr) (va : BitVec 64) (n : BitVec 32) (s : State) (d : Nat),
    domOfVf s h.vf = some d → (domAt s d).st ∈ setupStates → (memRec s d).split = false →
    let ks := pagesOf va.toNat n.toNat
    let sealed := ks.foldl (fun s k => match pageAt s d k with
      | none => s
      | some p => setPage s d k (some { p with sealed := true })) s
    pageRangeOk va.toNat n.toNat = true → (∀ k ∈ ks, (pageAt s d k).isSome = true) →
    (writersOf s d va.toNat n.toNat = [] → exec (.seal h va n) s = .next (complete (srcOf h) .success 0 sealed)) ∧
    (writersOf s d va.toNat n.toNat ≠ [] → exec (.seal h va n) s = .next { sealed with mig := { sealed.mig with
      seals := sealed.mig.seals ++ [⟨d, va.toNat / pageSize, n.toNat, writersOf s d va.toNat n.toNat, srcOf h⟩] } }) ∧
    (∀ (v : BitVec 16) (u w : State), vaultField v.toNat = true → vaultArg s d v.toNat ≠ .bad → vaultArg s d v.toNat ≠ .shut →
      roomFor s d (vaultsFor s d (vaultArg s d v.toNat)) ks ((ks.filter (fun k => match pageAt s d k with
        | some p => needsFrame (vaultArg s d v.toNat) p
        | none => false)).length) = .ok u →
      promoteAll d (vaultArg s d v.toNat) ks u = .ok w →
      exec (.promote h va n v) s = .next (complete (srcOf h) .success 0 w)) ∧
    (∀ w : State, (∀ k ∈ ks, ∀ p, pageAt s d k = some p → p.tier = .t1 → p.sealed = true) → demoteAll d ks s = .ok w →
      exec (.demote h va n) s = .next (prepareTick (complete (srcOf h) .success 0 w))) ∧
    (∀ p f, ks = [va.toNat / pageSize] → Safety.PageIs s d (va.toNat / pageSize) p →
      (p.tier ≠ .t1 → defaultFrame s d = some f → 1 ≤ freeCount s (openVaults s d) → ∃ t, exec (.promote h va n 0xFFFF) s = .next t ∧
        pageAt t d (va.toNat / pageSize) = some { p with tier := .t1, sealed := false, moving := false, frame := f }) ∧
      (p.tier = .t1 → p.sealed = true → chanFrame s d (va.toNat / pageSize) false = some f → ∃ t, exec (.demote h va n) s = .next t ∧
        pageAt t d (va.toNat / pageSize) = some { p with tier := .t2, moving := false, frame := f }))) ∧
  (∀ (d : Fin 16) (page : BitVec 32) (s : State) (q : Sealing),
    s.mig.seals.find? (fun q => q.dom == d.val && q.first == page.toNat && q.tags.isEmpty) = some q →
    exec (.sealComplete d page) s = .next (complete q.src .success 0 { s with mig := { s.mig with
      seals := s.mig.seals.eraseP (fun q => q.dom == d.val && q.first == page.toNat && q.tags.isEmpty) } })) ∧
  (∀ (h : Hdr) (a b n : BitVec 64) (s : State) (d : Nat),
    domOfVf s h.vf = some d → (domAt s d).st ∈ setupStates → (memRec s d).split = true →
    vaFault s d none a.toNat n.toNat = none → vaFault s d none b.toNat n.toNat = none →
    let read := (piecesOf a.toNat n.toNat).foldl (fun s (x : Nat × Nat) => match xlat s d none x.1 with
      | .ok p => if p.tier = .t3 then s else touch s p.addr x.2
      | .error _ => s) s
    anyMark (Safety.rangeBytes read d a.toNat n.toNat) = false →
    exec (.memoryCopy h a b n) s = .next (complete (srcOf h) .success 0
      (splitWrite (keepStaged read d b.toNat n.toNat) d b.toNat (Safety.rangeBytes read d a.toNat n.toNat))))

/-- PAGE_MOVE, PAGE_FRAME_FREE, UNMAP_FRAME_FREE, OCCUPANCY_DEMOTION, FAR_FULL_LOG and HEAT_HALVING complete when due. PAGE_MOVE
moves the first page that must leave a closed vault when a frame is found (to the default frame in T1, when there is one),
the first page on a channel being taken, or runs the promotion at the head of the queue; PAGE_FRAME_FREE and UNMAP_FRAME_FREE
give up an old frame no read needs and an unmapped page no task needs; OCCUPANCY_DEMOTION demotes the coldest page of a vault
above its mark to the frame on its channel; FAR_FULL_LOG reports a full T2 at most once a millisecond; HEAT_HALVING halves
every heat once per millisecond while no restore waits. The model's own choices in this: assumptions 7, 8, 40, 129. (R82,
R83, R84, R85, R47) -/
def Obligations.MigrationEngineMoves : Prop :=
  (∀ (d : Fin 16) (page : BitVec 32) (s : State),
    (∀ p u, (leavingVault s d).head? = some (page.toNat, p) → evacuate s d page.toNat p = some u →
      exec (.pageMove d page) s = .next (prepareTick u)) ∧
    (∀ p f, (leavingVault s d).head? = some (page.toNat, p) → Safety.PageIs s d page.toNat p → defaultFrame s d = some f →
      ∃ t, exec (.pageMove d page) s = .next t ∧
        pageAt t d page.toNat = some { p with tier := .t1, moving := false, frame := f }) ∧
    (∀ p f, leavingVault s d = [] → (leavingChan s d).head? = some (page.toNat, p) → chanFrame s d page.toNat true = some f →
      exec (.pageMove d page) s = .next (movePage s d page.toNat p .t2 f)) ∧
    (∀ q l, leavingVault s d = [] → leavingChan s d = [] → s.mig.promos = q :: l → q.dom = d.val → q.page = page.toNat →
      exec (.pageMove d page) s = .next (runPromotion s q)) ∧
    (s.mig.unmaps.any (fun u => u.dom == d.val && u.page == page.toNat && u.tags.isEmpty) = true →
      exec (.unmapFrameFree d page) s = .next (prepareTick { s with mig := { s.mig with
        unmaps := s.mig.unmaps.filter (fun u => !(u.dom == d.val && u.page == page.toNat && u.tags.isEmpty)) } }))) ∧
  (∀ (f : BitVec 36) (s : State), s.mig.olds.any (fun o => o.frame == f.toNat) = true → frameRead s f.toNat = false →
    exec (.pageFrameFree f) s = .next (prepareTick { s with mig := { s.mig with
      olds := s.mig.olds.filter (fun o => o.frame != f.toNat) } })) ∧
  (∀ (v : Fin 256) (s u : State) (d k : Nat) (p : Page), (islRec s v).owner = some d → demoteDue s v d = true →
    nextDemote s d [v.val] = some (k, p) → demotePage s d k p = some u →
    exec (.occupancyDemotion v) s = .next (prepareTick (modVault u v (fun x =>
      { x with demoting := above u v ((memRec s d).highWater - 5) })))) ∧
  (∀ (v : Fin 256) (s : State) (d k f : Nat) (p : Page), (islRec s v).owner = some d → demoteDue s v d = true →
    nextDemote s d [v.val] = some (k, p) → chanFrame s d k false = some f → Safety.PageIs s d k p →
    ∃ t, exec (.occupancyDemotion v) s = .next t ∧ pageAt t d k = some { p with tier := .t2, moving := false, frame := f }) ∧
  (∀ (d : Fin 16) (s : State), farStalled s d = true → (∀ x, s.mig.farLogAt = some x → x + 1000000 ≤ s.now) →
    ∃ t, exec (.farFullLog d) s = .next t ∧ t.mig.farLogAt = some s.now ∧ t.mem = s.mem) ∧
  (∀ s : State, s.mig.heatMs < s.now / 1000000 → s.pow.restore = none → ∃ t, exec .heatHalving s = .next t ∧ t.mig.heatMs = s.mig.heatMs + 1 ∧
    t.mem = s.mem ∧ ∀ d k p, sparseWf {} s.doms = true → sparseWf none (domAt s d).pages = true → pageAt s d k = some p →
      pageAt t d k = some { p with heat := p.heat / 2 })

/-- LOWER_TIER_DATA_ARRIVE serves all who wait for a line; LOWER_TIER_TIMEOUT ends the task of a read that stood 50 µs. When
requesters of an atoll wait for a line, LOWER_TIER_DATA_ARRIVE answers a state in which every request of that atoll for the
line whose 50 µs have not run out is served, one whose time has run out is left for its timeout, and DRAM is unchanged; when
a live read of an island's task has stood for 50 µs, LOWER_TIER_TIMEOUT ends the task with LOWER_TIER_TIMEOUT at the
instruction that read. The model's own choices in this: assumptions 8, 39, 47, 140. (R73, R90, R91) -/
def Obligations.LowerTiersAnswerOrTimeOut : Prop :=
  (∀ (a : Fin 4) (line : BitVec 64) (s : State),
    s.mig.reads.any (fun r => r.island / 64 == a.val && r.line == line.toNat && !r.served) = true →
    ∃ t, exec (.lowerTierDataArrive a line) s = .next t ∧ t.mem = s.mem ∧ t.islands = s.islands ∧ t.tasks = s.tasks ∧
      (∀ r ∈ t.mig.reads, r.island / 64 = a.val → r.line = line.toNat →
        readExpired s r = false → r.served = true) ∧
      (∀ r ∈ s.mig.reads, r.live = true → readExpired s r = true → r.served = false → r ∈ t.mig.reads)) ∧
  (∀ (i : Fin 256) (s : State) (t : Task), taskAt s i = some t →
    (∀ r, s.mig.reads.find? (fun r => r.island == i.val && r.tag == t.tag && r.live && !r.served &&
        decide (r.t0 + 50000 ≤ s.now)) = some r →
      exec (.lowerTierTimeout i) s = .next (endTask s t .lowerTierTimeout (some r.pc))))

/-- SET_SHADOW, CLEAR_SHADOW and RESET_SYNC change exactly what they name. In a domain that accepts setup: SET_SHADOW of a well-
formed entry whose shadow range is mapped and sealed, whose narrow range clashes with no entry of its rung, pitch a multiple
of 64, index below 1,024, with its frame at hand, leaves the entry at the index and every other index as it was; CLEAR_SHADOW
leaves none there; RESET_SYNC of ranges inside the domain's reef that no task names leaves their counts and barriers zero and
every other as it was. The model's own choices in this: assumptions 17, 42, 53, 71, 134. (R134, R135, R373) -/
def Obligations.ShadowsAndSyncSetUp : Prop :=
  ∀ (h : Hdr) (s : State) (d : Nat), domOfVf s h.vf = some d → (domAt s d).st ∈ setupStates →
    (∀ (x : BitVec 16) (w : BitVec 256) (e : Shadow), readShadow (leBytes 32 w.toNat) = some e → x.toNat < 1024 →
      rangeSealed s d e.shadowVa (shadowBytes e) = true → shadowClash s d x.toNat e = false → e.pitch % 64 = 0 →
      (ensureStruct s d .shadows 1).isSome = true → sparseWf none (domAt s d).shadows = true →
      ∃ t, exec (.setShadow h x w) s = .next t ∧ t.mem = s.mem ∧ t.islands = s.islands ∧ t.tasks = s.tasks ∧
        sparseGet none (domAt t d).shadows x.toNat = some e ∧
        ∀ k, k ≠ x.toNat → sparseGet none (domAt t d).shadows k = sparseGet none (domAt s d).shadows k) ∧
    (∀ x : BitVec 16, x.toNat < 1024 → sparseWf none (domAt s d).shadows = true →
      ∃ t, exec (.clearShadow h x) s = .next t ∧ t.mem = s.mem ∧ t.islands = s.islands ∧ t.tasks = s.tasks ∧
        sparseGet none (domAt t d).shadows x.toNat = none ∧
        ∀ k, k ≠ x.toNat → sparseGet none (domAt t d).shadows k = sparseGet none (domAt s d).shadows k) ∧
    (∀ (a : BitVec 8) (sf sc bf bc : BitVec 16), a.toNat < 4 → rangeInReef s d true a.toNat sf.toNat sc.toNat = true →
      rangeInReef s d false a.toNat bf.toNat bc.toNat = true →
      syncInUse s (reefList 12 a.toNat sf.toNat sc.toNat) (reefList 10 a.toNat bf.toNat bc.toNat) = false →
      sparseWf 0 s.sems = true → sparseWf {} s.bars = true →
      ∃ t, exec (.resetSync h a sf sc bf bc) s = .next t ∧ t.mem = s.mem ∧ t.doms = s.doms ∧ t.tasks = s.tasks ∧
        (∀ n, semAt t n = if a.toNat * 2 ^ 12 + sf.toNat ≤ n ∧ n < a.toNat * 2 ^ 12 + sf.toNat + sc.toNat then 0 else semAt s n) ∧
        (∀ n, barAt t n = if a.toNat * 2 ^ 10 + bf.toNat ≤ n ∧ n < a.toNat * 2 ^ 10 + bf.toNat + bc.toNat then {} else barAt s n))

/-- LOAD_PROGRAM puts a checked image into the table, UNLOAD_PROGRAM takes it out. In a domain that accepts setup, with the index
below 1,024: when header and image can be read, the image is well formed, its footprint fits and frames are found,
LOAD_PROGRAM leaves the program at the index under a new serial number; a header whose format or counts R179 does not allow
is refused with PROGRAM_BAD; UNLOAD_PROGRAM of an index in use leaves none there. DRAM contents are unchanged by an unload.
The model's own choices in this: assumptions 17, 42, 65, 132. (R182, R183, R179) -/
def Obligations.ProgramsLoadAndUnload : Prop :=
  ∀ (h : Hdr) (x : BitVec 16) (s : State) (d : Nat), domOfVf s h.vf = some d → (domAt s d).st ∈ setupStates →
    x.toNat < 1024 → sparseWf none (domAt s d).programs = true →
    (∀ (va : BitVec 64) (s1 : State) (hd : List Byte), vaFetch s d va.toNat 64 = (s1, .ok hd) → progHeaderOk hd = false →
      exec (.loadProgram h x va) s = .next (refuse (srcOf h) .programBad s1)) ∧
    (∀ (va : BitVec 64) (s1 s2 s3 : State) (hd img : List Byte) (p : Program),
      vaFetch s d va.toNat 64 = (s1, .ok hd) → progHeaderOk hd = true → vaFetch s1 d va.toNat (imageLength hd) = (s2, .ok img) →
      readProgram img = some p →
      footprintOk p ((List.range 256).map (fun i => openMask s2 i true)) ((List.range 256).map (fun i => openMask s2 i false))
        = true → storeOk s2 d x.toNat p = true →
      allocStruct s2 d (.program s2.order) (ceilDiv p.bytes pageSize) = some s3 →
      ∃ t, exec (.loadProgram h x va) s = .next t ∧ t.order = s2.order + 1 ∧
        (sparseWf none (domAt s3 d).programs = true →
          sparseGet none (domAt t d).programs x.toNat = some (s2.order, p))) ∧
    (∀ (va : BitVec 64) (p : Program), let hd := plain (Safety.rangeBytes s d va.toNat 64)
      let img := plain (Safety.rangeBytes s d va.toNat (imageLength hd))
      Safety.ReadsClean s d va.toNat 64 → Safety.ReadsClean s d va.toNat (imageLength hd) → progHeaderOk hd = true →
      readProgram img = some p → footprintOk p ((List.range 256).map (fun i => openMask s i true))
        ((List.range 256).map (fun i => openMask s i false)) = true → storeOk s d x.toNat p = true →
      (allocStruct s d (.program s.order) (ceilDiv p.bytes pageSize)).isSome = true →
      ∃ t, exec (.loadProgram h x va) s = .next t ∧ t.order = s.order + 1 ∧ t.mem = s.mem) ∧
    ((sparseGet none (domAt s d).programs x.toNat).isSome = true →
      ∃ t, exec (.unloadProgram h x) s = .next t ∧ t.mem = s.mem ∧ sparseGet none (domAt t d).programs x.toNat = none)

/-- CREATE_LIST, EDIT_LIST, DESTROY_LIST and LIST_RECLAIMED complete. In a domain that accepts setup: CREATE_LIST of a new id
from readable, well-formed source entries into a fit body publishes generation 1; EDIT_LIST of the current generation
publishes the edited entries as the next generation, which its completion reports; DESTROY_LIST ends the current generation;
a generation no longer in force that no task may use is reclaimed, and its body is reported. The model's own choices in this:
assumptions 17, 42, 73. (R263, R264, R266) -/
def Obligations.ListsArePublished : Prop :=
  (∀ (h : Hdr) (id n : BitVec 32) (src body : BitVec 64) (s u w : State) (d : Nat) (b : List Byte),
    domOfVf s h.vf = some d → (domAt s d).st ∈ setupStates → listCount s d < 65536 → n.toNat ≤ 16384 →
    currentList s d id.toNat = none → vaFetch s d src.toNat (8 * n.toNat) = (u, .ok b) →
    (words8 b n.toNat).all entryFine = true → bodyOk u d body.toNat n.toNat = true → ensureStruct u d .lists 1 = some w →
    exec (.createList h id n src body) s = .next (complete (srcOf h) .success 0
      (publish w d id.toNat 1 body.toNat (words8 b n.toNat)))) ∧
  (∀ (h : Hdr) (id n : BitVec 32) (src body : BitVec 64) (s : State) (d : Nat),
    domOfVf s h.vf = some d → (domAt s d).st ∈ setupStates → listCount s d < 65536 → n.toNat ≤ 16384 →
    currentList s d id.toNat = none → Safety.ReadsClean s d src.toNat (8 * n.toNat) →
    (words8 (plain (Safety.rangeBytes s d src.toNat (8 * n.toNat))) n.toNat).all entryFine = true →
    bodyOk s d body.toNat n.toNat = true → (domAt s d).frames.any (fun e => decide (e.2 = .lists)) = true →
    exec (.createList h id n src body) s = .next (complete (srcOf h) .success 0
      (publish s d id.toNat 1 body.toNat (words8 (plain (Safety.rangeBytes s d src.toNat (8 * n.toNat))) n.toNat)))) ∧
  (∀ (h : Hdr) (id base n : BitVec 32) (body edit : BitVec 64) (s : State) (d : Nat) (g : ListGen) (es : List Nat),
    domOfVf s h.vf = some d → (domAt s d).st ∈ setupStates → currentList s d id.toNat = some g → g.gen = base.toNat →
    Safety.ReadsClean s d (g.body + 64) (8 * g.entries) → Safety.ReadsClean s d edit.toNat (16 * n.toNat) →
    editAll ((List.range n.toNat).map (fun i => slice (plain (Safety.rangeBytes s d edit.toNat (16 * n.toNat))) (16 * i) 16))
      (words8 (plain (Safety.rangeBytes s d (g.body + 64) (8 * g.entries))) g.entries) = some es →
    bodyOk s d body.toNat es.length = true →
    ∃ t, exec (.editList h id base body edit n) s = .next t ∧ (domAt t d).listSeq = (domAt s d).listSeq + 1) ∧
  (∀ (h : Hdr) (id base n : BitVec 32) (body edit : BitVec 64) (s u w : State) (d : Nat) (g : ListGen) (old recs : List Byte)
      (es : List Nat),
    domOfVf s h.vf = some d → (domAt s d).st ∈ setupStates → currentList s d id.toNat = some g → g.gen = base.toNat →
    vaFetch s d (g.body + 64) (8 * g.entries) = (u, .ok old) → vaFetch u d edit.toNat (16 * n.toNat) = (w, .ok recs) →
    editAll ((List.range n.toNat).map (fun i => slice recs (16 * i) 16)) (words8 old g.entries) = some es →
    bodyOk w d body.toNat es.length = true →
    exec (.editList h id base body edit n) s = .next (complete (srcOf h) .success (wrap32 (base.toNat + 1))
      (publish (supersede w d id.toNat) d id.toNat (wrap32 (base.toNat + 1)) body.toNat es))) ∧
  (∀ (h : Hdr) (id : BitVec 32) (s : State) (d : Nat) (g : ListGen),
    domOfVf s h.vf = some d → (domAt s d).st ∈ setupStates → currentList s d id.toNat = some g →
    ∃ t, exec (.destroyList h id) s = .next t ∧ currentList t d id.toNat = none ∧
      (domAt t d).listSeq = (domAt s d).listSeq + 1 ∧ t.mem = s.mem) ∧
  (∀ (d : Fin 16) (body : BitVec 64) (s : State),
    (domAt s d).lists.any (fun g => g.body == body.toNat && g.until_.isSome && g.tags.isEmpty) = true →
    exec (.listReclaimed d body) s = .next (inform d .listReclaimed body.toNat (modDom s d (fun x =>
      { x with lists := x.lists.filter (fun g => !(g.body == body.toNat && g.until_.isSome && g.tags.isEmpty)) }))))

/-- PREFIX_INSERT, PREFIX_LOOKUP and PREFIX_RELEASE complete. In a domain that accepts setup: inserting a root block whose ids
lie in mapped sealed memory returns the node that it hits with one more reference, or a new node with the lowest free number;
a lookup takes a reference on every node of the chain it hits, writes 16 bytes for each at OUT and returns how many; a
release takes one reference from each node named, and with FLAGS 1 removes those named that none refers to. The model's own
choices in this: assumptions 17, 42, 65, 74. (R282, R283, R284) -/
def Obligations.PrefixIndexCommands : Prop :=
  ∀ (h : Hdr) (s : State) (d : Nat), domOfVf s h.vf = some d → (domAt s d).st ∈ setupStates →
    (∀ (root ids table : BitVec 64) (u : State) (b : List Byte), sealedFault s d ids.toNat 512 = none →
      sealedFault s d table.toNat 1 = none → vaFetch s d ids.toNat 512 = (u, .ok b) →
      let hash := blockHash root.toNat b
      (∀ n, findNode u d none hash b = some n →
        exec (.prefixInsert h root 0xFFFFFFFF ids table) s = .next (complete (srcOf h) .success n.id (takeRef u d n.id))) ∧
      (∀ (id : Nat) (w : State), findNode u d none hash b = none →
        lowestFree ((domAt u d).nodes.map PrefixNode.id) 0 262144 ((domAt u d).nodes.length + 1) 0 = some id →
        ensureStruct u d .prefixes 1 = some w →
        exec (.prefixInsert h root 0xFFFFFFFF ids table) s = .next (complete (srcOf h) .success id
          (modDom w d (fun x => { x with nodes := x.nodes ++ [⟨id, hash, none, ids.toNat, table.toNat, 1⟩] }))))) ∧
    (∀ (root ids table : BitVec 64), sealedFault s d ids.toNat 512 = none → sealedFault s d table.toNat 1 = none →
      Safety.ReadsClean s d ids.toNat 512 → (domAt s d).nodes.length < 262144 →
      (domAt s d).frames.any (fun e => decide (e.2 = .prefixes)) = true →
      ∃ t, exec (.prefixInsert h root 0xFFFFFFFF ids table) s = .next t ∧ t.mem = s.mem ∧
        (findNode s d none (blockHash root.toNat (plain (Safety.rangeBytes s d ids.toNat 512)))
          (plain (Safety.rangeBytes s d ids.toNat 512)) = none → (domAt t d).nodes.length = (domAt s d).nodes.length + 1)) ∧
    (∀ (root ids out : BitVec 64), Safety.ReadsClean s d ids.toNat 512 →
      findNode s d none (blockHash root.toNat (plain (Safety.rangeBytes s d ids.toNat 512)))
        (plain (Safety.rangeBytes s d ids.toNat 512)) = none →
      exec (.prefixLookup h root 1 ids out) s = .next (complete (srcOf h) .success 0 s)) ∧
    (∀ (list : BitVec 64) (n : BitVec 32) (f : BitVec 8), f.toNat < 2 → Safety.ReadsClean s d list.toNat (4 * n.toNat) →
      ∃ t, exec (.prefixRelease h list n f) s = .next t ∧ t.mem = s.mem) ∧
    (∀ (root ids out : BitVec 64) (n : BitVec 32) (u : State) (hits : List PrefixNode),
      lookupGo d ids.toNat n.toNat 0 root.toNat none s = (u, .ok hits) →
      let b := hits.flatMap (fun n => leBytes 4 n.id ++ leBytes 4 0 ++ leBytes 8 n.tableVa)
      vaFault u d none out.toNat b.length = none →
      (∀ x ∈ piecesOf out.toNat b.length, ∀ p, xlat u d none x.1 = .ok p → p.tier = .t1 ∧ p.sealed = false) →
      exec (.prefixLookup h root n ids out) s = .next (complete (srcOf h) .success hits.length
        (vaWrite (hits.foldl (fun s n => takeRef s d n.id) u) d none out.toNat (clean b)))) ∧
    (∀ (list : BitVec 64) (n : BitVec 32) (f : BitVec 8) (u : State) (b : List Byte), f.toNat < 2 →
      vaFetch s d list.toNat (4 * n.toNat) = (u, .ok b) →
      ∃ t, exec (.prefixRelease h list n f) s = .next t ∧ t.mem = u.mem ∧
        let ids := (List.range n.toNat).map (fun i => leAt b (4 * i) 4)
        let left := ids.foldl (fun (ns : List PrefixNode) id =>
          ns.map (fun n => if n.id = id then { n with refs := n.refs - 1 } else n)) (domAt u d).nodes
        (domAt t d).nodes = if f.toNat = 1 then pruneNodes ids left.length left else left)

/-- TASK, TASK_START, TASK_KILL, KILL_WRITES_DRAINED and PIN_OVERRUN complete when due. TASK with 1 to 256 descriptors at a
128-byte-aligned address in an ACTIVE domain is taken and its descriptors dispatched as slots allow; a start that the
dispatcher's order allows starts the whole gang; the victim that an LC task needs is killed with its gang; a killed attempt
whose writes and vault-engine operations have completed is marked drained; a pinned task 20 µs after its first instruction
issued ends with PIN_OVERRUN, counted in DSP_PIN_OVERRUNS of its atoll and raised as its event. The model's own choices in
this: assumptions 8, 12, 17, 66, 67, 69, 70, 148, 149. (R356, R360, R363, R365, R367, R376) -/
def Obligations.TasksDispatchStartAndEnd : Prop :=
  (∀ (h : Hdr) (a : BitVec 64) (n : BitVec 16) (s : State) (d : Nat), domOfVf s h.vf = some d → (domAt s d).st = .active →
    1 ≤ n.toNat → n.toNat ≤ 256 → a.toNat % 128 = 0 →
    exec (.task h a n) s = .next (dispatchDom (modDom s d (fun x =>
      { x with tasking := x.tasking ++ [(srcOf h, a.toNat, n.toNat)] })) d)) ∧
  (∀ (tag : BitVec 16) (isls : List (Fin 256)) (s : State) (t : Task), taskOf s tag.toNat = some t →
    startLegal s t (isls.map (·.val)) = true → exec (.taskStart tag isls) s = .next (startGang s t (isls.map (·.val)))) ∧
  (∀ (i : Fin 256) (s : State) (v : Task), taskAt s i = some v →
    (∃ t ∈ s.tasks, t.desc.lc = true ∧ t.phase ≠ .running ∧ isReady s t = true ∧
      ∃ w, nextVictim s t = some w ∧ ∃ u ∈ gangOf s w, u.tag = v.tag) →
    exec (.taskKill i) s = .next (killGang s v)) ∧
  (∀ (tag : BitVec 16) (s : State) (t : Task), taskOf s tag.toNat = some t → t.phase = .killed → t.drained = false →
    oldVengs s t = false → exec (.killWritesDrained tag) s = .next (setTask s { t with drained := true })) ∧
  (∀ (tag : BitVec 16) (s : State) (t : Task) (i t0 : Nat), taskOf s tag.toNat = some t → t.island = some i →
    (islandAt s i).firstAt = some t0 → t.desc.pinned = true → t.phase = .running → t0 + 20000 ≤ s.now →
    let u := endTask s t .pinOverrun none
    exec (.pinOverrun tag) s = .next (raise (0x1C0 + t.tag / 2 ^ 14)
      { u with dspPins := modAt s.dspPins (t.tag / 2 ^ 14) (fun n => wrap32 (n + 1)) }))

/-- Each vault-engine operation runs when it is first in line, and VAULT_ENGINE_DONE reports it. When the first operation of a
vault's queue that has not run has the command's code and the vault is trained and not retraining, the command answers a next
state in which that operation is marked done: with the failing status where its data are bad, else with its result, its
output written at its destination (zeros for ZERO_FILL). VAULT_ENGINE_DONE takes a done operation off the head of the queue;
a host's leaves BUSY clear with the status and result shown. Rows: VENG_COPY, VENG_ZERO_FILL, VENG_GATHER, VENG_ROW_MAX,
VENG_ROW_SUM, VENG_PACK, VENG_UNPACK, VENG_TOKEN_COMPARE, VENG_DIGEST. The model's own choices in this: assumptions 7, 64,
130, 131, 132. (R93, R94, R95, R101) -/
def Obligations.VaultEngineOperations : Prop :=
  (∀ (v : Fin 256) (s : State) (i : Nat) (o : VOp), firstIdx (fun (o : VOp) => !o.done) (vaultAt s v).ops = some i →
    (vaultAt s v).ops[i]? = some o → (vaultAt s v).retraining = false → (vaultAt s v).untrained = false →
    ∀ e ∈ ([(1, .vengCopy v), (2, .vengZeroFill v), (3, .vengGather v), (4, .vengRowMax v), (5, .vengRowSum v),
        (6, .vengPack v), (7, .vengUnpack v), (8, .vengTokenCompare v), (9, .vengDigest v)] : List (Nat × Instr)),
      o.op = e.1 →
      let u := gatherTouch (runsRead s o.src).1 v o (plain (runsRead s o.src).2)
      match vopOut u v o (runsRead s o.src).2 with
      | .error st => exec e.2 s = .next (modVault u v (fun x => { x with ops := setAt x.ops i { o with done := true, status := st } }))
      | .ok (out, res) => exec e.2 s = .next (modVault (if e.1 = 2 then runsZero u o.dst else runsWrite u o.dst out) v
          (fun x => { x with ops := setAt x.ops i { o with done := true, result := res } }))) ∧
  (∀ (v : Fin 256) (s : State) (o : VOp) (l : List VOp), (vaultAt s v).ops = o :: l → o.done = true → sparseWf {} s.vaults = true →
    (o.owner = .host → ∃ t, exec (.vaultEngineDone v) s = .next t ∧ (vaultAt t v).ops = l ∧ (vaultAt t v).busy = false ∧
      (vaultAt t v).status = o.status ∧ (vaultAt t v).result = o.result ∧ t.mem = s.mem) ∧
    (o.owner = .hub → ∃ t, exec (.vaultEngineDone v) s = .next t ∧ (vaultAt t v).ops = l ∧ t.mem = s.mem ∧
      ∀ g, s.img.cur = some g → t.img.cur = some { g with zeroed := g.zeroed ++ [v.val] }) ∧
    (∀ tag att, o.owner = .task tag att → exec (.vaultEngineDone v) s =
      .next (vopResult (modVault s v (fun x => { x with ops := l })) o)))

/-- COPY and ZERO move exactly their bytes within the task's scratchpad; behind an overlap they issue and wait. At a COPY whose
source and destination lie in the task's region, the island's scratchpad holds at the destination the source bytes as they
stood, every other byte as before, and the island moves on; at a ZERO whose range lies in the region the range reads zero and
every other byte as before. DRAM and every other island are unchanged. A COPY at the pc that overlaps an instruction
outstanding issues and waits, with nothing moved yet; a waiting ZERO that overlaps nothing any more takes its effect and
waits no longer, and the island's pc stays where it is. The model's own choices in this: assumptions 11, 124. (R186, R187,
R199, R70, R12) -/
def Obligations.ScratchpadMovesComplete : Prop :=
  (∀ (i : Fin 256) (s : State) (c : Ctx), ctxOf s i = some c → sparseWf 0 (islandAt s i).scratch = true →
    let a := agAt c c.w.ag1 c.w.imm1
    let d := agAt c c.w.ag3 0
    (c.w.op = .copy → inScratch c a c.w.imm2 = true → inScratch c d c.w.imm2 = true →
      ∃ t, exec (.copy i) s = .next t ∧ t.mem = s.mem ∧ t.sems = s.sems ∧ t.tasks = s.tasks ∧
        (∀ k, k ≠ i.val → islandAt t k = islandAt s k) ∧ (islandAt t i).tiles = (islandAt s i).tiles ∧
        ∀ b, sparseGet 0 (islandAt t i).scratch b =
          if 0 < c.w.imm2 ∧ d.toNat ≤ b ∧ b < d.toNat + c.w.imm2 then sparseGet 0 (islandAt s i).scratch (a.toNat + (b - d.toNat))
          else sparseGet 0 (islandAt s i).scratch b) ∧
    (c.w.op = .zero → inScratch c d c.w.imm2 = true →
      ∃ t, exec (.zero i) s = .next t ∧ t.mem = s.mem ∧ t.sems = s.sems ∧ t.tasks = s.tasks ∧
        (∀ k, k ≠ i.val → islandAt t k = islandAt s k) ∧ (islandAt t i).tiles = (islandAt s i).tiles ∧
        ∀ b, sparseGet 0 (islandAt t i).scratch b =
          if 0 < c.w.imm2 ∧ d.toNat ≤ b ∧ b < d.toNat + c.w.imm2 then 0 else sparseGet 0 (islandAt s i).scratch b)) ∧
  (∀ (i : Fin 256) (s : State) (c : Ctx), insnAt s i = some c → unblocked s c = false → c.w.op = .copy →
    ∃ t w, exec (.copy i) s = .next t ∧ t.mem = s.mem ∧ t.tasks = s.tasks ∧ (islandAt t i).scratch = (islandAt s i).scratch ∧
      (islandAt t i).waiting = (islandAt s i).waiting ++ [w] ∧ w.pc = (islandAt s i).pc ∧ w.why = .overlap) ∧
  (∀ (i : Fin 256) (s v : State) (c : Ctx) (w : Waiter), (insnAt s i).all (fun c => decide (c.w.op ≠ .zero)) = true →
    (islandAt s i).waiting = [w] → waiterAt s i w = some (v, c) → c.w.op = .zero → sparseWf 0 (islandAt s i).scratch = true →
    let d := agAt c c.w.ag3 0
    inScratch c d c.w.imm2 = true →
      ∃ t, exec (.zero i) s = .next t ∧ t.mem = s.mem ∧ t.tasks = s.tasks ∧ (islandAt t i).pc = (islandAt s i).pc ∧
        (islandAt t i).waiting = [] ∧ ∀ b, sparseGet 0 (islandAt t i).scratch b =
          if 0 < c.w.imm2 ∧ d.toNat ≤ b ∧ b < d.toNat + c.w.imm2 then 0 else sparseGet 0 (islandAt s i).scratch b)

/-- LOAD and STORE complete when their formats agree, their gates open and their rows convert. A LOAD without TAPS in the
operand's own format, of a task that staging tiles do not serve, completes when its reads meet T1 pages, nothing pending
elsewhere, no output of its own and no vault-engine destination, and its rows fit the task's scratchpad; a STORE in the
operand's own format completes when its source lies in the scratchpad and its writes meet unsealed T1 pages of its outputs.
In every form: at a LOAD without TAPS from an operand whose format rule holds, with no staging tile of the task, once the
read gate opens and every row converts, the rows stand one after another in the scratchpad and the island moves on; at a
STORE into an output operand whose format rule holds, once the scale read and the write gate open and every row converts, the
bytes of each row that lie within the operand's extents are written at the row's address, and the island moves on. The
model's own choices in this: assumptions 11, 51, 57, 124. (R186, R553, R224, R225, R227) -/
def Obligations.LoadAndStoreComplete : Prop :=
  ∀ (i : Fin 256) (s : State) (c : Ctx) (o : Operand) (f : Fmt), ctxOf s i = some c → fmtOf (c.w.flags % 16) = some f →
    moveFormatOk o f (bit c.w.flags 4) = true →
    (c.w.op = .load → bit c.w.flags 5 = false → bit c.w.flags 4 = false → f = o.fmt → agOperand c c.w.ag1 = some o →
      s.mig.stagings.all (fun g => !(g.members.contains c.t.tag)) = true → s.latent = [] →
      Safety.readsFreely s c.t ((rowAddrs o (agAt c c.w.ag1 c.w.imm1) c.w.count).flatMap (fun a => segRanges (segs c o a c.w.imm2))) = true →
      (∀ k : Nat, k < c.w.count → inScratch c (agAt c c.w.ag3 0 + (k * c.w.imm2 : Nat)) c.w.imm2 = true) →
      ∃ u, exec (.load i) s = .next (Safety.advanced c u) ∧ u.mem = s.mem ∧ u.tasks = s.tasks) ∧
    (c.w.op = .store → bit c.w.flags 4 = false → f = o.fmt → agOperand c c.w.ag3 = some o → o.output = true →
      Safety.writesFreely s c.t ((rowAddrs o (agAt c c.w.ag3 0) c.w.count).flatMap (fun a => segRanges (segs c o a c.w.imm2))) = true →
      (∀ k : Nat, k < c.w.count → inScratch c (agAt c c.w.ag1 c.w.imm1 + (k * c.w.imm2 : Nat)) c.w.imm2 = true) →
      ∃ u, exec (.store i) s = .next (Safety.advanced c u) ∧ u.tasks = s.tasks ∧ u.host = s.host) ∧
    (∀ (u : State) (data : List (List MByte)), c.w.op = .load → bit c.w.flags 5 = false → agOperand c c.w.ag1 = some o →
      s.mig.stagings.all (fun g => !(g.members.contains c.t.tag)) = true →
      let rows := rowAddrs o (agAt c c.w.ag1 c.w.imm1) c.w.count
      let conv := decide (o.fmt = .int8) && decide (f ≠ .int8)
      readGate s c.t c.isl false true (rows.flatMap (fun a => segRanges (segs c o a c.w.imm2)) ++
        (if conv then rows.flatMap (fun a => if (segs c o a c.w.imm2).isEmpty then [] else scaleRange c o (rowCol o a).1) else []))
        = .go u →
      allOk (rows.map (fun a => loadRow u c o a c.w.imm2 f (bit c.w.flags 4))) = .ok data →
      let puts := (List.range data.length).map (fun (k : Nat) =>
        (agAt c c.w.ag3 0 + (k * (data.headD []).length : Nat), data.getD k []))
      puts.all (fun w => inScratch c w.1 w.2.length) = true →
      exec (.load i) s = .next (Safety.advanced c (modIsland u c.isl (fun x =>
        puts.foldl (fun x w => putScratch x w.1.toNat w.2) x)))) ∧
    (∀ (u v : State) (data : List (List MByte)), c.w.op = .store → agOperand c c.w.ag3 = some o → o.output = true →
      let rows := rowAddrs o (agAt c c.w.ag3 0) c.w.count
      let conv := decide (o.fmt = .int8) && decide (f ≠ .int8)
      readGate s c.t c.isl false true (if conv then rows.flatMap (fun a => scaleRange c o (rowCol o a).1) else []) = .go u →
      allOk ((List.range rows.length).map (fun (k : Nat) => storeRow u c o (rows.getD k 0)
        (agAt c c.w.ag1 c.w.imm1 + (k * c.w.imm2 : Nat)) c.w.imm2 f (bit c.w.flags 4))) = .ok data →
      let ws := ((List.range data.length).zip data).flatMap (fun p =>
        (segs c o (rows.getD p.1 0) p.2.length).map (fun g => (g.2.1, (p.2.drop g.1).take g.2.2)))
      writeGate u c.t (ws.map (fun w => (w.1, w.2.length))) = .go v →
      exec (.store i) s = .next (Safety.advanced c (taskWrite u c.t c.isl ws)))

/-- A task's write changes the DRAM bytes its addresses translate to, and no other. For a clean write of n bytes inside one
mapped T1 page of the task's domain, with no latent error in DRAM, byte k of the data stands afterwards at the place the
address translates to plus k, and every other DRAM byte reads as before; host memory, semaphores and the tasks are unchanged.
The model's own choices in this: assumption 46. (R177, R186, R227) -/
def Obligations.StoredBytesAreTheOnlyOnes : Prop :=
  ∀ (s : State) (t : Task) (isl va : Nat) (data : List Byte) (p : Place), xlat s t.desc.domain (some t.tag) va = .ok p →
    p.tier = .t1 → data ≠ [] → va % pageSize + data.length ≤ pageSize → s.latent = [] → sparseWf 0 s.mem = true →
    let u := taskWrite s t isl [(va, clean data)]
    u.host = s.host ∧ u.sems = s.sems ∧ u.tasks = s.tasks ∧
    (∀ k, k < data.length → sparseGet 0 u.mem (p.addr + k) = data.getD k 0) ∧
    (∀ a, (a < p.addr ∨ p.addr + data.length ≤ a) → sparseGet 0 u.mem a = sparseGet 0 s.mem a)

/-- SEND, SEND_RESUME, RECV and STRAIT_BUNDLE complete. At a SEND of one bundle on an open strait with room, the 128 bytes with
the island's epoch enter the strait's route and the island moves on; a SEND that stood at a full FIFO does the same when room
has come (SEND_RESUME); at a RECV of one bundle from a FIFO that holds one, its bytes stand in the scratchpad, the bundle has
left the FIFO and the island moves on; a bundle that is not on its last link goes one link on, and one on its last link
enters the receive FIFO behind those that came before when a slot is free and the epochs agree. The model's own choices in
this: assumptions 7, 11, 54, 124. (R22, R24, R26, R186) -/
def Obligations.StraitsCarryBundles : Prop :=
  (∀ (i : Fin 256) (s : State) (c : Ctx) (x : Strait) (b : List Byte), ctxOf s i = some c → c.w.op = .send → c.w.count = 1 →
    c.x.progress = 0 → straitOf s i c.w.x = some x → scratchUse c (agAt c c.w.ag1 c.w.imm1) 128 = .ok b → sendRoom s x = true →
    c.x.stall ≠ some .fenced → exec (.send i) s = .next (Safety.advanced c (pushBundle s x ⟨b, (islandAt s i).epoch, 0⟩)) ∧
    ((islandAt s i).stall = some .sendFull →
      exec (.sendResume i) s = .next (Safety.advanced c (pushBundle s x ⟨b, (islandAt s i).epoch, 0⟩)))) ∧
  (∀ (i : Fin 256) (s : State) (c : Ctx) (b : Bundle) (l : List Bundle), ctxOf s i = some c → c.w.op = .recv → c.w.count = 1 →
    c.x.progress = 0 → fifoOf s i c.w.x = b :: l → inScratch c (agAt c c.w.ag3 0) 128 = true →
    exec (.recv i) s = .next (Safety.advanced c (modIsland
      { s with fifos := sparseSet [] s.fifos (i.val * 8 + c.w.x) l } c.isl
      (fun x => putScratch x (agAt c c.w.ag3 0).toNat (clean b.data))))) ∧
  (∀ (i : Fin 256) (ch : Fin 8) (s : State) (f : Flight) (fs : List Flight) (b : Bundle) (bs : List Bundle),
    flightsOf s i ch = f :: fs → f.bundles = b :: bs →
    (b.pos + 1 < f.strait.hops → exec (.straitBundle i ch) s = .next { s with
      flights := sparseSet [] s.flights (i.val * 8 + ch.val) ({ f with bundles := { b with pos := b.pos + 1 } :: bs } :: fs) }) ∧
    (f.strait.hops ≤ b.pos + 1 → f.strait ∈ s.conf.straits → (fifoOf s f.strait.dst f.strait.rch).length < 16 →
      b.epoch = (islandAt s f.strait.dst).epoch →
      ∃ t, exec (.straitBundle i ch) s = .next t ∧ t.mem = s.mem ∧ t.tasks = s.tasks ∧
        (sparseWf [] s.fifos = true →
          fifoOf t f.strait.dst f.strait.rch = fifoOf s f.strait.dst f.strait.rch ++ [b])))

/-- STAGE attaches, places or falls back; RELEASE detaches; lines fill or are dropped. At a STAGE of an input operand: if a tile
with the same identity exists the task is a member of it; else if the lines fit the domain's staging ways a new tile with the
task as its member holds them, unfilled; else the task is marked for fallback and FALLBACKS of the atoll counts one more.
RELEASE takes the task out of the tile's members, a tile without members being freed. The next line of a tile is filled when
its page can be read and nothing pending covers it; a line whose fill failed counts as filled and is dropped. DRAM contents
are unchanged by STAGE and RELEASE. Rows: STAGE_RELEASE, STAGE_LINE_FILL, LAG_STAGE_CLEAR. The model's own choices in this:
assumptions 11, 58, 124. (R217, R218, R219, R221) -/
def Obligations.LagoonStagingCompletes : Prop :=
  (∀ (i : Fin 256) (s : State) (c : Ctx) (o : Operand), ctxOf s i = some c → c.w.op = .stage → agOperand c c.w.ag1 = some o →
    o.output = false →
    let id := stageId c o
    (bit c.w.flags 0 = false → ∃ t, exec (.stage i) s = .next t ∧ t.mem = s.mem ∧ t.tasks = s.tasks ∧
      ((∃ g ∈ s.mig.stagings, g.id = id) → ∀ g ∈ t.mig.stagings, g.id = id → c.t.tag ∈ g.members) ∧
      ((∀ g ∈ s.mig.stagings, g.id ≠ id) →
        stagedBytes s id.dom id.atoll + 128 * (stageLines c o).length ≤ (memRec s id.dom).stageWays * 4 * 2 ^ 20 →
        t.mig.stagings = s.mig.stagings ++ [⟨id, [c.t.tag], stageLines c o, 0, [], []⟩]) ∧
      ((∀ g ∈ s.mig.stagings, g.id ≠ id) →
        (memRec s id.dom).stageWays * 4 * 2 ^ 20 < stagedBytes s id.dom id.atoll + 128 * (stageLines c o).length →
        t.mig.stagings = s.mig.stagings ∧ (c.t.tag, id) ∈ t.mig.fallbacks ∧
        t.mig.fallCount = modAt s.mig.fallCount id.atoll (satAdd 32767 1))) ∧
    (bit c.w.flags 0 = true → ∃ t, exec (.stageRelease i) s = .next t ∧ t.mem = s.mem ∧ t.tasks = s.tasks ∧
      ∀ g ∈ t.mig.stagings, g.members ≠ [] ∧ (g.id = id → c.t.tag ∉ g.members))) ∧
  (∀ (n : BitVec 16) (s : State) (g : Staging) (l : Nat), s.mig.stagings[n.toNat]? = some g → g.lines[g.filled]? = some l →
    (∀ p, xlat s g.id.dom g.members.head? (l * 128) = .ok p → pendingIn s g.id.dom (l * 128, 128) = false →
      ∃ t, exec (.stageLineFill n true) s = .next t ∧ (t.mig.stagings.getD n.toNat g).filled = g.filled + 1) ∧
    (∃ t, exec (.stageLineFill n false) s = .next t ∧ t.mem = s.mem ∧
      (t.mig.stagings.getD n.toNat g).filled = g.filled + 1 ∧ l ∈ (t.mig.stagings.getD n.toNat g).dropped)) ∧
  (∀ (a : Fin 4) (s : State), hostUp s = true → ∃ t, exec (.lagStageClear a) s = .next t ∧
    t.mig.fallCount = setAt s.mig.fallCount a 0 ∧ t.mem = s.mem)

/-- The element-wise, table and reduction instructions give their values. With sources in unmarked scratchpad of the task's
region and a result that fits there, and in every form once its reads and its result go through: VADD, VMUL, VMAX and VMIN
store f(a, b) element by element, VFMA a × b + d rounded once, FEVAL the table function's values, and RSUM, RSUMSQ and RMAX
one value for each row; then the island moves on. The model's own choices in this: assumptions 11, 51, 61, 124, 133. (R186,
R190, R232, R228) -/
def Obligations.VectorInstructionsComplete : Prop :=
  ∀ (i : Fin 256) (s u v w x : State) (c : Ctx) (a b e : List Byte), ctxOf s i = some c →
    (Safety.PadGives c c.w.ag1 c.w.imm1 (4 * c.w.count) a →
      (Safety.PadGives c c.w.ag2 0 (4 * c.w.count) b →
        (∀ z ∈ ([(.vadd, .vadd i, addF), (.vmul, .vmul i, mulF), (.vmax, .vmax i, maxVal), (.vmin, .vmin i, minVal)] :
            List (Op × Instr × (Val → Val → Val))), c.w.op = z.1 →
          let out := f32Bytes (((Safety.floats a c.w.count).zip (Safety.floats b c.w.count)).map (fun p => z.2.2 p.1 p.2))
          Safety.PadTakes c c.w.ag3 0 out → exec z.2.1 s = .next (Safety.advanced c (Safety.padWith c c.w.ag3 0 out s))) ∧
        (c.w.op = .vfma → Safety.PadGives c c.w.ag3 0 (4 * c.w.count) e →
          let out := f32Bytes ((((Safety.floats a c.w.count).zip (Safety.floats b c.w.count)).zip
            (Safety.floats e c.w.count)).map (fun p => fmaF p.1.1 p.1.2 p.2))
          Safety.PadTakes c c.w.ag3 0 out → exec (.vfma i) s = .next (Safety.advanced c (Safety.padWith c c.w.ag3 0 out s)))) ∧
      (∀ f, c.w.op = .feval → tableFn s c c.w.imm2 = .ok f →
        let out := f32Bytes ((Safety.floats a c.w.count).map f)
        Safety.PadTakes c c.w.ag3 0 out → exec (.feval i) s = .next (Safety.advanced c (Safety.padWith c c.w.ag3 0 out s)))) ∧
    (∀ rows : Nat → List Byte, agOperand c c.w.ag1 = none →
      (∀ r : Nat, r < c.w.count → scratchUse c (agAt c c.w.ag1 c.w.imm1 + (4 * c.w.imm2 * r : Nat)) (4 * rowLen c) = .ok (rows r)) →
      ∀ z ∈ ([(.rsum, .rsum i, rowSum s c), (.rsumsq, .rsumsq i, rowSumSq s c), (.rmax, .rmax i, rowMax)] :
          List (Op × Instr × (List Val → Val))), c.w.op = z.1 →
        let out := f32Bytes ((List.range c.w.count).map (fun r => z.2.2 (Safety.floats (rows r) (rowLen c))))
        Safety.PadTakes c c.w.ag3 0 out → exec z.2.1 s = .next (Safety.advanced c (Safety.padWith c c.w.ag3 0 out s))) ∧
    (Safety.Fetches c c.w.ag1 c.w.imm1 (4 * c.w.count) s u a → Safety.Fetches c c.w.ag2 0 (4 * c.w.count) u v b →
      (∀ z ∈ ([(.vadd, .vadd i, addF), (.vmul, .vmul i, mulF), (.vmax, .vmax i, maxVal), (.vmin, .vmin i, minVal)] :
          List (Op × Instr × (Val → Val → Val))), c.w.op = z.1 →
        Safety.Stores c c.w.ag3 0 (f32Bytes (((Safety.floats a c.w.count).zip (Safety.floats b c.w.count)).map
          (fun p => z.2.2 p.1 p.2))) v w → exec z.2.1 s = .next (Safety.advanced c w)) ∧
      (c.w.op = .vfma → Safety.Fetches c c.w.ag3 0 (4 * c.w.count) v w e →
        Safety.Stores c c.w.ag3 0 (f32Bytes ((((Safety.floats a c.w.count).zip (Safety.floats b c.w.count)).zip
          (Safety.floats e c.w.count)).map (fun p => fmaF p.1.1 p.1.2 p.2))) w x →
        exec (.vfma i) s = .next (Safety.advanced c x))) ∧
    (∀ f, c.w.op = .feval → tableFn s c c.w.imm2 = .ok f → Safety.Fetches c c.w.ag1 c.w.imm1 (4 * c.w.count) s u a →
      Safety.Stores c c.w.ag3 0 (f32Bytes ((Safety.floats a c.w.count).map f)) u v →
      exec (.feval i) s = .next (Safety.advanced c v)) ∧
    (∀ rows : List (List Byte), agOperand c c.w.ag1 = none →
      allOk ((List.range c.w.count).map (fun (r : Nat) =>
        scratchUse c (agAt c c.w.ag1 c.w.imm1 + (4 * c.w.imm2 * r : Nat)) (4 * rowLen c))) = .ok rows →
      ∀ z ∈ ([(.rsum, .rsum i, rowSum s c), (.rsumsq, .rsumsq i, rowSumSq s c), (.rmax, .rmax i, rowMax)] :
          List (Op × Instr × (List Val → Val))), c.w.op = z.1 →
        Safety.Stores c c.w.ag3 0 (f32Bytes (rows.map (fun r => z.2.2 (Safety.floats r (rowLen c))))) s u →
        exec z.2.1 s = .next (Safety.advanced c u)) ∧
    (∀ (o : Operand) (y : State), agOperand c c.w.ag1 = some o →
      let l := (List.range c.w.count).map (fun (r : Nat) => (agAt c c.w.ag1 c.w.imm1 + (4 * c.w.imm2 * r : Nat), 4 * rowLen c))
      readGate s c.t c.isl false true (l.flatMap (fun p => segRanges (segs c o p.1 p.2))) = .go y →
      (l.map (fun p => operandBytes y c o p.1 p.2)).any anyMark = false →
      ∀ z ∈ ([(.rsum, .rsum i, rowSum y c), (.rsumsq, .rsumsq i, rowSumSq y c), (.rmax, .rmax i, rowMax)] :
          List (Op × Instr × (List Val → Val))), c.w.op = z.1 →
        Safety.Stores c c.w.ag3 0 (f32Bytes (l.map (fun p =>
          z.2.2 (Safety.floats (plain (operandBytes y c o p.1 p.2)) (rowLen c))))) y u →
        exec z.2.1 s = .next (Safety.advanced c u))

/-- VROWMUL, VROWADD and VCVT complete on the scratchpad and in operand memory. With rows and row values in unmarked scratchpad
of the task's region, VROWMUL and VROWADD leave in each destination row the elements combined with the row's value; VCVT of
elements of plain formats other than INT8 leaves each converted to the destination format; then the island moves on. Rows in
operand memory do the same once the gates open: the elements of each destination row that lie within the operand's extents
are written. The model's own choices in this: assumptions 11, 51, 124. (R186, R228, R553) -/
def Obligations.RowFormsAndConversionComplete : Prop :=
  ∀ (i : Fin 256) (s : State) (c : Ctx), ctxOf s i = some c →
    (∀ (o d : Operand) (y u w : State) (vs : List Byte), agOperand c c.w.ag1 = some o → agOperand c c.w.ag3 = some d → d.output = true →
      let l := (List.range c.w.count).map (fun (r : Nat) => (agAt c c.w.ag1 c.w.imm1 + (4 * c.w.imm2 * r : Nat), 4 * rowLen c))
      readGate s c.t c.isl false true (l.flatMap (fun p => segRanges (segs c o p.1 p.2))) = .go y →
      (l.map (fun p => operandBytes y c o p.1 p.2)).any anyMark = false → Safety.Fetches c c.w.ag2 0 (4 * c.w.count) y u vs →
      let rows := l.map (fun p => plain (operandBytes y c o p.1 p.2))
      ∀ z ∈ ([(.vrowmul, .vrowmul i, mulF), (.vrowadd, .vrowadd i, addF)] : List (Op × Instr × (Val → Val → Val))),
        c.w.op = z.1 →
        let ws := ((List.range rows.length).zip (rows.zip (Safety.floats vs c.w.count))).flatMap (fun p =>
          let b := f32Bytes ((Safety.floats p.2.1 (rowLen c)).map (fun v => z.2.2 v p.2.2))
          (segs c d (agAt c c.w.ag3 0 + (4 * c.w.imm2 * p.1 : Nat)) b.length).map (fun g => (g.2.1, clean ((b.drop g.1).take g.2.2))))
        writeGate u c.t (ws.map (fun x => (x.1, x.2.length))) = .go w →
        exec z.2.1 s = .next (Safety.advanced c (taskWrite u c.t c.isl ws))) ∧
    (∀ b : List Byte, c.w.op = .vcvt →
      let sf := (operandOf c c.w.opa).fmt
      let df := (operandOf c c.w.opc).fmt
      isNarrow sf = false → isNarrow df = false → sf ≠ .int8 → df ≠ .int8 → c.w.imm2 = 0 → 1 ≤ c.w.count →
      Safety.PadGives c c.w.ag1 c.w.imm1 (c.w.count * elemBytes sf) b →
      let out := convertRow sf df vone vone (b.take (c.w.count * elemBytes sf))
      Safety.PadTakes c c.w.ag3 0 out → exec (.vcvt i) s = .next (Safety.advanced c (Safety.padWith c c.w.ag3 0 out s))) ∧
    (∀ (rows : List (List Byte)) (vs : List Byte), agOperand c c.w.ag1 = none → agOperand c c.w.ag2 = none →
      agOperand c c.w.ag3 = none →
      allOk ((List.range c.w.count).map (fun (r : Nat) =>
        scratchUse c (agAt c c.w.ag1 c.w.imm1 + (4 * c.w.imm2 * r : Nat)) (4 * rowLen c))) = .ok rows →
      scratchUse c (agAt c c.w.ag2 0) (4 * c.w.count) = .ok vs →
      ∀ z ∈ ([(.vrowmul, .vrowmul i, mulF), (.vrowadd, .vrowadd i, addF)] : List (Op × Instr × (Val → Val → Val))),
        c.w.op = z.1 →
        let out := ((List.range rows.length).zip (rows.zip (Safety.floats vs c.w.count))).map (fun p =>
          (agAt c c.w.ag3 0 + (4 * c.w.imm2 * p.1 : Nat),
            clean (f32Bytes ((Safety.floats p.2.1 (rowLen c)).map (fun v => z.2.2 v p.2.2)))))
        out.all (fun w => inScratch c w.1 w.2.length) = true →
        exec z.2.1 s = .next (Safety.advanced c (modIsland s c.isl (fun x =>
          out.foldl (fun x w => putScratch x w.1.toNat w.2) x)))) ∧
    (∀ (u v w : State) (b : List Byte), c.w.op = .vcvt →
      let sf := (operandOf c c.w.opa).fmt
      let df := (operandOf c c.w.opc).fmt
      isNarrow sf = false → isNarrow df = false → sf ≠ .int8 → df ≠ .int8 → c.w.imm2 = 0 →
      readGate s c.t c.isl false true [] = .go u → Safety.Fetches c c.w.ag1 c.w.imm1 (c.w.count * elemBytes sf) u v b →
      1 ≤ c.w.count → Safety.Stores c c.w.ag3 0 (convertRow sf df vone vone (b.take (c.w.count * elemBytes sf))) v w →
      exec (.vcvt i) s = .next (Safety.advanced c w))

/-- MMA, ACCCLR, ACCLOAD, EPI and EPIRAW complete on the tile they name. At a tile that the task was given: ACCCLR leaves it
cleared with its anchor unset; MMA on a tile whose anchors are set or taken from the anchor word (or an FP32 tile) adds its
operand steps once both operands' rows read, and counts the prism's extra cycles; ANCHOR_ONLY sets and stores the anchors
alone; EPIRAW stores the tile's records, ROWS and COLS as the output operand, or the task, leaves them; ACCLOAD adds the
record or records that match it, an unset one adding nothing; EPI stores the epilogue's rows once its activation, vectors and
scales are at hand, to the scratchpad or an output operand. The use of the tile is noted: where another instruction but an
MMA before an MMA has used it, ISL_ACC_WAIT takes a free number of cycles. The island moves on. The model's own choices in
this: assumptions 11, 51, 59, 60, 124, 135. (R146, R154, R159, R160, R161, R188, R170) -/
def Obligations.AccumulatorInstructionsComplete : Prop :=
  ∀ (i : Fin 256) (s : State) (c : Ctx) (t : AccTile), ctxOf s i = some c → c.x.tiles[c.w.x]? = some t →
    let oa := operandOf c c.w.opa
    let ob := operandOf c c.w.opb
    let t0 := if bit c.w.flags 0 then freshTile t.shape t.fp else t
    let steps := fun (u : State) (x : AccTile) (ra rb : List (List KElem)) =>
      Safety.advanced c (useTile c (modIsland (putTile c (mmaTile x c.w.count ra rb) u) c.isl (fun y =>
        { y with prismStall := wrap32 (y.prismStall + prismStall x c.w.count (stepCycles oa.fmt ob.fmt) ra rb) })))
    (c.w.op = .accclr → exec (.accclr i) s = .next (Safety.advanced c (useTile c (putTile c (freshTile t.shape t.fp) s)))) ∧
    (∀ ra rb : List (List KElem), c.w.op = .mma → oa.fmt ≠ .fp32 → ob.fmt ≠ .fp32 → bit c.w.flags 3 = false →
      operandRows c oa (agAt c c.w.ag1 c.w.imm1) (shapeRows t0.shape) (64 * c.w.count) (c.ext.getD 2 0 - originNow c 2) = .ok ra →
      operandRows c ob (agAt c c.w.ag2 c.w.imm2) (shapeCols t0.shape) (64 * c.w.count) (c.ext.getD 2 0 - originNow c 2) = .ok rb →
      ((t0.fp = true ∨ t0.anchors.all (·.isSome) = true) → exec (.mma i) s = .next (steps s t0 ra rb)) ∧
      (∀ (u : State) (as : List Int), t0.fp = false → t0.anchors.all (·.isSome) = false →
        Safety.Gives (withAnchors c t0 oa ob s) u as →
        exec (.mma i) s = .next (steps u { t0 with anchors := (t0.anchors.zip as).map (fun p => some (p.1.getD p.2)) } ra rb))) ∧
    (∀ (o : Operand) (u v : State) (as : List Int), c.w.op = .mma → oa.fmt ≠ .fp32 → ob.fmt ≠ .fp32 → bit c.w.flags 3 = true →
      t0.fp = false → agOperand c c.w.ag3 = some o → Safety.Gives (withAnchors c t0 oa ob s) u as →
      Safety.Stores c c.w.ag3 c.w.imm2 (as.flatMap (fun a => leBytes 2 (unsigned 16 a))) u v →
      exec (.mma i) s = .next (Safety.advanced c (useTile c (putTile c { t0 with anchors := as.map some } v)))) ∧
    (c.w.op = .epiraw →
      let recs := fun (em en : Nat) => (List.range t.anchors.length).flatMap (fun h =>
        recordBytes t h (max 1 (min (min 128 (shapeRows t.shape)) (em - 128 * h))) (max 1 (min (shapeCols t.shape) en)))
      (let out := recs (c.ext.getD 0 0 - originNow c 0) (c.ext.getD 1 0 - originNow c 1)
       Safety.PadTakes c c.w.ag3 0 out → exec (.epiraw i) s = .next (Safety.advanced c (useTile c (Safety.padWith c c.w.ag3 0 out s)))) ∧
      (∀ (o : Operand) (u : State), agOperand c c.w.ag3 = some o →
        Safety.Stores c c.w.ag3 0 (recs ((extOf c o).1 - originNow c o.rdim) ((extOf c o).2 - originNow c o.cdim)) s u →
        exec (.epiraw i) s = .next (Safety.advanced c (useTile c u)))) ∧
    (∀ (hd : List Byte) (data : Nat → List Byte), c.w.op = .accload → t.anchors.length = 1 →
      Safety.PadGives c c.w.ag1 c.w.imm1 64 hd → leAt hd 2 1 = b2n t.fp → leAt hd 5 1 < 2 →
      (leAt hd 5 1 = 1 → exec (.accload i) s = .next (Safety.advanced c (useTile c (putTile c t s)))) ∧
      (let anchor := signed 16 (leAt hd 0 2)
       let rows := leAt hd 3 1
       let cols := leAt hd 4 1
       let w := if t.fp then 4 else 16
       let pieces := (if t.fp then [] else (List.range rows).map (fun (r : Nat) => (agAt c c.w.ag1 c.w.imm1 + 64 + (32 * r : Nat), ceilDiv cols 4))) ++
         (List.range rows).map (fun (r : Nat) => (agAt c c.w.ag1 c.w.imm1 + 0x1040 + (128 * w * r : Nat), w * cols))
       leAt hd 5 1 = 0 → (t.fp = true ∨ t.anchors = [none] ∨ t.anchors = [some anchor]) → rows ≤ min 128 (shapeRows t.shape) →
       cols ≤ shapeCols t.shape → pieces.map (fun p => scratchUse c p.1 p.2) = (List.range pieces.length).map (fun k => .ok (data k)) →
       let ds := (List.range pieces.length).map data
       let k := if t.fp then 0 else rows
       exec (.accload i) s = .next (Safety.advanced c (useTile c (putTile c
         (addRecord (if t.fp then t else { t with anchors := [some anchor] }) 0 rows cols (ds.take k) (ds.drop k)) s))))) ∧
    (∀ (u : State) (x : AccTile), c.w.op = .accload → t.anchors.length ≠ 2 →
      Safety.Gives (loadRecord c (agOperand c c.w.ag1) (agAt c c.w.ag1 c.w.imm1) t 0 s) u x →
      x.anchors.length ≠ 2 → exec (.accload i) s = .next (Safety.advanced c (useTile c (putTile c x u)))) ∧
    (∀ (u v : State) (x y : AccTile), c.w.op = .accload → t.anchors.length = 2 →
      Safety.Gives (loadRecord c (agOperand c c.w.ag1) (agAt c c.w.ag1 c.w.imm1) t 0 s) u x → x.anchors.length = 2 →
      Safety.Gives (loadRecord c (agOperand c c.w.ag1) (agAt c c.w.ag1 c.w.imm1 + (recordSize x.fp : Nat)) x 1 u) v y →
      exec (.accload i) s = .next (Safety.advanced c (useTile c (putTile c y v)))) ∧
    (∀ act : Val → Val, c.w.op = .epi → activation s c = .ok act → bit c.w.flags 2 = false → bit c.w.flags 3 = false → oa.scaleKind ≠ 2 →
      let oc := operandOf c c.w.opc
      let out := (List.range (shapeRows t.shape)).map (fun r => (List.range (shapeCols t.shape)).flatMap (fun col =>
        toFmt oc.fmt vone (epiValue (tensorScale oa ob) none none none act (drainCell t r col))))
      let puts := ((List.range out.length).zip out).map (fun p =>
        (agAt c c.w.ag3 0 + (p.1 * (out.headD []).length : Nat), clean p.2))
      layoutOf oc.fmt oc.mx = none → oc.fmt ≠ .int8 → agOperand c c.w.ag3 = none →
      puts.all (fun w => inScratch c w.1 w.2.length) = true →
      exec (.epi i) s = .next (Safety.advanced c (useTile c (modIsland s c.isl (fun y =>
        puts.foldl (fun y w => putScratch y w.1.toNat w.2) y))))) ∧
    (∀ (act : Val → Val) (u v w x : State) (bias cs rs : List (Option Val)), c.w.op = .epi → activation s c = .ok act →
      Safety.Gives (withVector c (bit c.w.flags 2) c.w.ag1 c.w.imm1 (shapeCols t.shape) .bf16 s) u bias →
      Safety.Gives (withVector c (bit c.w.flags 3) c.w.ag2 0 (shapeCols t.shape) .fp32 u) v cs →
      Safety.Gives (withRowScales c oa (shapeRows t.shape) v) w rs →
      let out := (List.range (shapeRows t.shape)).map (fun r => (List.range (shapeCols t.shape)).map (fun col =>
        epiValue (tensorScale oa ob) (rs.getD r none) (cs.getD col none) (bias.getD col none) act (drainCell t r col)))
      let oc := operandOf c c.w.opc
      let dst := agAt c c.w.ag3 0
      (∀ (l : Layout) (y : State), layoutOf oc.fmt oc.mx = some l →
        (agOperand c c.w.ag3 = none →
          let gs := gatherGroups c oc (16 + c.w.opc) l (fun r => some (originNow c oc.rdim + r)) out
          let b := gs.2.flatMap (fun g => g.2.2)
          inScratch c dst b.length = true → exec (.epi i) s = .next (Safety.advanced c (useTile c (modIsland
            (modIsland w c.isl (fun y => putScratch y dst.toNat (clean b))) c.isl (fun y => { y with packing := gs.1 }))))) ∧
        (∀ o, agOperand c c.w.ag3 = some o → o.output = true →
          let gs := gatherGroups c o ((agOf c c.w.ag3).operand.getD 0) l (fun r =>
            let row := (rowCol o (dst + (r * o.pitch : Nat))).1
            if row < 0 ∨ ((extOf c o).1 : Int) ≤ row then none else some row.toNat) out
          let ws := gs.2.map (fun g => (o.base + g.1 * o.pitch + g.2.1 * 128, clean g.2.2))
          writeGate w c.t (ws.map (fun x => (x.1, x.2.length))) = .go y →
          exec (.epi i) s = .next (Safety.advanced c (useTile c (modIsland (taskWrite w c.t c.isl ws) c.isl
            (fun y => { y with packing := gs.1 })))))) ∧
      ∀ sc : Nat → Val,
      let bytes := ((List.range out.length).zip out).map (fun p => p.2.flatMap (toFmt oc.fmt (sc p.1)))
      layoutOf oc.fmt oc.mx = none → readGate w c.t c.isl false true (if decide (oc.fmt = .int8) then
        (List.range out.length).flatMap (fun r => scaleRange c oc (outRow c oc dst r)) else []) = .go x →
      (∀ r, r < out.length → (if decide (oc.fmt = .int8) then scaleOf x c oc (outRow c oc dst r) else .ok vone) = .ok (sc r)) →
      (agOperand c c.w.ag3 = none →
        let puts := ((List.range bytes.length).zip bytes).map (fun p =>
          (agAt c c.w.ag3 0 + (p.1 * (bytes.headD []).length : Nat), clean p.2))
        puts.all (fun w => inScratch c w.1 w.2.length) = true →
        exec (.epi i) s = .next (Safety.advanced c (useTile c (modIsland x c.isl (fun y => puts.foldl (fun y w => putScratch y w.1.toNat w.2) y))))) ∧
      (∀ (o : Operand) (y : State), agOperand c c.w.ag3 = some o → o.output = true →
        let ws := ((List.range bytes.length).zip bytes).flatMap (fun p =>
          (segs c o (agAt c c.w.ag3 0 + (p.1 * o.pitch : Nat)) p.2.length).map (fun g => (g.2.1, clean ((p.2.drop g.1).take g.2.2))))
        writeGate x c.t (ws.map (fun w => (w.1, w.2.length))) = .go y →
        exec (.epi i) s = .next (Safety.advanced c (useTile c (taskWrite x c.t c.isl ws)))))

/-- LOPEN, LSCORE, LPV, LSTATS, LSTATS with COMBINE and LBACK complete in their sequence. In the sequence of R272, with reads
that meet T1 pages and nothing that holds them, results that fit the scratchpad, and in every form once its reads go through:
LOPEN of a well-formed control block whose list resolves to a generation with an agreeing header opens the walk (with the
record's statistics where it brings them, for a backward walk in its phase); LSCORE leaves each row's statistics, spilling
the scores unless RECOMPUTE; LPV adds P × V to the 256 × 128 tile and closes pass 2; LSTATS stores the statistics record and
closes the lens; COMBINE (LSTATS_COMBINE) stores the combination of matching records; LBACK reads the entries of the next key
block and stores the block's P, dS and page addresses, the last one closing the lens. Then the island moves on. The model's
own choices in this: assumptions 11, 62, 63, 124. (R249, R265, R271, R272, R273, R274, R278, R279, R280) -/
def Obligations.LensInstructionsComplete : Prop :=
  ∀ (i : Fin 256) (s : State) (c : Ctx), ctxOf s i = some c → let q := c.x.lens
    let fmtQ := (kvFmt q.lcb.qFormat).getD .bf16
    (∀ (b : List Byte) (l : Lcb) (g : ListGen), c.w.op = .lopen → (q.phase = .closed ∨ q.phase = .done) →
      Safety.PadGives c c.w.ag1 c.w.imm1 64 b → readLcb b c.w.opa = some l → resolveList s c.t l.listId = some g → s.latent = [] →
      Safety.readsFreely s c.t [(g.body, 64)] = true → anyMark (taskBytes s c g.body 64) = false →
      leAt (plain (taskBytes s c g.body 64)) 0 4 = g.id → leAt (plain (taskBytes s c g.body 64)) 4 4 = g.gen →
      lcbStatsIn l = false → lcbBackward l = false → ∃ t, exec (.lopen i) s = .next t ∧ t.mem = s.mem ∧
        (islandAt t i).lens.phase = .opened ∧ (islandAt t i).lens.lcb = l ∧ (islandAt t i).lens.gen = g.gen ∧
        (islandAt t i).lens.body = g.body) ∧
    (∀ (u v w : State) (b r : List Byte) (l : Lcb) (g : ListGen), c.w.op = .lopen → (q.phase = .closed ∨ q.phase = .done) →
      Safety.Fetches c c.w.ag1 c.w.imm1 64 s u b → readLcb b c.w.opa = some l → resolveList u c.t l.listId = some g →
      readGate u c.t c.isl false true [(g.body, 64)] = .go v → anyMark (taskBytes v c g.body 64) = false →
      leAt (plain (taskBytes v c g.body 64)) 0 4 = g.id → leAt (plain (taskBytes v c g.body 64)) 4 4 = g.gen →
      (lcbStatsIn l = false → lcbBackward l = false → ∃ t, exec (.lopen i) s = .next t ∧ t.mem = v.mem ∧
        (islandAt t i).lens.phase = .opened ∧ (islandAt t i).lens.lcb = l ∧ (islandAt t i).lens.gen = g.gen ∧
        (islandAt t i).lens.body = g.body) ∧
      ((lcbStatsIn l = true ∨ lcbBackward l = true) → Safety.Gives (withLinear c false (operandOf c c.w.opb) 0 statsSize v) w r →
        statsKey r = (l.listId, g.gen, l.c, b2n (!(lcbSpillFp l)), l.rows) → (lcbStatsIn l && streamRecord r) = false →
        ∃ t, exec (.lopen i) s = .next t ∧ (islandAt t i).lens.phase = (if lcbBackward l then .back else .opened) ∧
          (islandAt t i).lens.stats = (List.range 256).map (readRow r))) ∧
    (∀ (p r : TableSet × TabEntry) (qs : List (List Val)), softTables s c = .ok (p, r) → s.latent = [] →
      Safety.WalkReads s c 0 q.count → lensRows c q.lcb.qOff fmtQ = .ok qs →
      let ks := (Safety.walkWords s c 0 q.count).flatMap entryKeys
      let us := Safety.scoresOf s c qs ks
      Safety.TokensRead s c false ks →
      (c.w.op = .lscore → q.phase = .opened → lcbStream q.lcb = false → lcbStatsIn q.lcb = false →
        let q' : Lens := { q with phase := .scored, keys := ks.length, stats := us.map (pass1Row p) }
        (lcbRecompute q.lcb = true →
          ∃ u, exec (.lscore i) s = .next (Safety.advanced c (setLens c q' u)) ∧ u.mem = s.mem ∧ u.tasks = s.tasks) ∧
        (lcbRecompute q.lcb = false →
          let o := operandOf c q.opa
          let bs := spillBlocks q.spillFp us ks.length
          let w := 131072 * spillBytes q.spillFp
          o.output = true → bs.length * w ≤ (outRange c.ext o).2 →
          Safety.writesFreely s c.t (((List.range bs.length).zip bs).map (fun e => (o.base + e.1 * w, e.2.length))) = true →
          ∃ u, exec (.lscore i) s = .next (Safety.advanced c (setLens c q' u)) ∧ u.tasks = s.tasks)) ∧
      (∀ t : AccTile, c.w.op = .lpv → q.phase = .scored → q.asStream = false → lcbStream q.lcb = false → lcbRecompute q.lcb = true →
        c.x.tiles[c.w.x]? = some t → t.shape = 5 → Safety.TokensRead s c true ks →
        ∃ u, exec (.lpv i) s = .next (Safety.advanced c (useTile c (setLens c { q with phase := .done, keys := ks.length }
          (putTile c (pass2Tile p r q.lcb t q.stats us (Safety.tokensOf s c true ks)) u)))) ∧ u.mem = s.mem ∧ u.tasks = s.tasks)) ∧
    (∀ (p r : TableSet × TabEntry) (u v : State) (ks : List Key) (us : List (List Val)), c.w.op = .lscore → q.phase = .opened →
      lcbStream q.lcb = false → lcbStatsIn q.lcb = false → softTables s c = .ok (p, r) → Safety.Gives (withKeys c s) u ks →
      Safety.Gives (withScores c true ks u) v us →
      let q' : Lens := { q with phase := .scored, keys := ks.length, stats := us.map (pass1Row p) }
      (lcbRecompute q.lcb = true → exec (.lscore i) s = .next (Safety.advanced c (setLens c q' v))) ∧
      (∀ w, lcbRecompute q.lcb = false → (operandOf c q.opa).output = true →
        let bs := spillBlocks q.spillFp us ks.length
        bs.length * (131072 * spillBytes q.spillFp) ≤ (outRange c.ext (operandOf c q.opa)).2 →
        let ws := ((List.range bs.length).zip bs).map (fun e =>
          ((operandOf c q.opa).base + e.1 * (131072 * spillBytes q.spillFp), clean e.2))
        writeGate v c.t (ws.map (fun x => (x.1, x.2.length))) = .go w →
        exec (.lscore i) s = .next (Safety.advanced c (setLens c q' (taskWrite v c.t c.isl ws))))) ∧
    (∀ (t : AccTile) (p r : TableSet × TabEntry) (u v w : State) (ks : List Key) (us vals : List (List Val)), c.w.op = .lpv →
      c.x.tiles[c.w.x]? = some t → t.shape = 5 → softTables s c = .ok (p, r) → Safety.Gives (withKeys c s) u ks →
      Safety.Gives (withTokens c true ks v) w vals →
      let fin := fun (t : AccTile) (stats : List RowStat) => Safety.advanced c (useTile c (setLens c { q with
        phase := .done
        keys := ks.length
        stats := stats } (putTile c t w)))
      ((q.phase = .scored ∨ (q.phase = .opened ∧ lcbStatsIn q.lcb = true)) → q.asStream = false → lcbStream q.lcb = false →
        (lcbRecompute q.lcb = false → Safety.Gives (withSpill c (decide (q.phase = .scored)) 0 (ceilDiv ks.length 512) u) v us →
          exec (.lpv i) s = .next (fin (pass2Tile p r q.lcb t q.stats us vals) q.stats)) ∧
        (lcbRecompute q.lcb = true → Safety.Gives (withScores c true ks u) v us →
          exec (.lpv i) s = .next (fin (pass2Tile p r q.lcb t q.stats us vals) q.stats))) ∧
      (q.phase = .opened → lcbStream q.lcb = true → q.asStream = false → Safety.Gives (withScores c true ks u) v us →
        exec (.lpv i) s = .next (fin (pass2Tile p r q.lcb t (us.map (pass1Row p)) us vals) (us.map (pass1Row p)))) ∧
      (q.phase = .opened → lcbStream q.lcb = true → q.asStream = true → t.fp = true → Safety.Gives (withScores c false ks u) v us →
        exec (.lpv i) s = .next (fin (streamTile p r t us vals).1 (streamTile p r t us vals).2))) ∧
    (c.w.op = .lstats → bit c.w.flags 0 = false → (q.phase = .scored ∨ q.phase = .done) →
      let out := statsRecord q.lcb.listId q.gen q.first q.count q.keys q.lcb.c q.spillFp q.lcb.rows q.stats
      (Safety.PadTakes c c.w.ag3 0 out →
        exec (.lstats i) s = .next (Safety.advanced c (setLens c { q with phase := .closed } (Safety.padWith c c.w.ag3 0 out s)))) ∧
      (∀ u : State, Safety.Stores c c.w.ag3 0 out s u →
        exec (.lstats i) s = .next (Safety.advanced c (setLens c { q with phase := .closed } u)))) ∧
    (∀ b : List Byte, c.w.op = .lstats → bit c.w.flags 0 = true → q.phase = .closed →
      let recs := (List.range c.w.count).map (fun k => slice b (k * statsSize) statsSize)
      let h := recs.headD []
      let out := statsRecord (leAt h 0 4) (leAt h 4 4) (leAt h 8 4)
        ((recs.map (fun r => leAt r 0xC 4)).sum) ((recs.map (fun r => leAt r 0x10 4)).sum) (leAt h 0x14 4)
        (leAt h 0x18 1 == 0) (leAt h 0x1A 2) ((List.range 256).map (fun k => combineRows (recs.map (fun r => readRow r k))))
      (∀ r ∈ recs, statsKey r = statsKey h ∧ streamRecord r = false) →
      (Safety.PadGives c c.w.ag1 c.w.imm1 (c.w.count * statsSize) b → Safety.PadTakes c c.w.ag3 0 out →
        exec (.lstatsCombine i) s = .next (Safety.advanced c (Safety.padWith c c.w.ag3 0 out s))) ∧
      (∀ u v : State, Safety.Fetches c c.w.ag1 c.w.imm1 (c.w.count * statsSize) s u b → Safety.Stores c c.w.ag3 0 out u v →
        exec (.lstatsCombine i) s = .next (Safety.advanced c v))) ∧
    (∀ (p r : TableSet × TabEntry), c.w.op = .lback → q.phase = .back → softTables s c = .ok (p, r) → s.latent = [] →
      let left := Safety.walkWords s c q.next (q.count - q.next)
      let n := entriesFor (512 - q.rest.length) left
      Safety.WalkReads s c q.next n →
      let ks := q.rest ++ (Safety.walkWords s c q.next n).flatMap entryKeys
      let mine := ks.take 512
      let q' : Lens := { q with
        next := q.next + n
        rest := ks.drop 512
        keys := q.keys + min 512 ks.length
        block := q.block + 1
        phase := if decide (512 < ks.length) || (left.drop n).any (fun e => bit e 0) then .back else .closed }
      (mine = [] → ∃ u, exec (.lback i) s = .next (Safety.advanced c (setLens c q' u)) ∧ u.mem = s.mem ∧ u.tasks = s.tasks) ∧
      (∀ (qs dos : List (List Val)) (ds : List Val), mine ≠ [] → q.opa = 0 → Safety.TokensRead s c true mine →
        Safety.TokensRead s c false mine → lensRows c q.lcb.qOff fmtQ = .ok qs → lensRows c q.lcb.doOff .bf16 = .ok dos →
        scratchF32 c q.lcb.dOff q.lcb.rows = .ok ds → agOperand c c.w.ag3 = none →
        let puts := (backBlock p r q (Safety.scoresOf s c qs mine) dos (Safety.tokensOf s c true mine) ds mine).map (fun b =>
          (agAt c c.w.ag3 0 + (b.1 : Nat), clean b.2))
        puts.all (fun w => inScratch c w.1 w.2.length) = true →
        ∃ u, exec (.lback i) s = .next (Safety.advanced c (setLens c q' (modIsland u c.isl (fun x =>
          puts.foldl (fun x w => putScratch x w.1.toNat w.2) x)))) ∧ u.mem = s.mem ∧ u.tasks = s.tasks)) ∧
    (∀ (p r : TableSet × TabEntry) (u v w x : State) (mine : List Key) (q' : Lens) (vals dos us : List (List Val)) (ds : List Val),
      c.w.op = .lback → q.phase = .back → softTables s c = .ok (p, r) → (∀ next, withBlock c s next = next u mine q') →
      (mine = [] → exec (.lback i) s = .next (Safety.advanced c (setLens c q' u))) ∧
      (mine ≠ [] → Safety.Gives (withTokens c true mine u) v vals → lensRows c q.lcb.doOff .bf16 = .ok dos →
        scratchF32 c q.lcb.dOff q.lcb.rows = .ok ds →
        ((q.opa = 0 ∧ Safety.Gives (withScores c true mine v) w us) ∨ (q.opa ≠ 0 ∧ Safety.Gives (withSpill c false q.block 1 v) w us)) →
        ∀ o, agOperand c c.w.ag3 = some o → o.output = true →
        let ws := (backBlock p r q us dos vals ds mine).flatMap (fun b =>
          (segs c o (agAt c c.w.ag3 0 + (b.1 : Nat)) b.2.length).map (fun g => (g.2.1, clean ((b.2.drop g.1).take g.2.2))))
        writeGate w c.t (ws.map (fun x => (x.1, x.2.length))) = .go x →
        exec (.lback i) s = .next (Safety.advanced c (setLens c q' (taskWrite w c.t c.isl ws)))))

/-- WAIT, SIGNAL, ARRIVE and FENCE act on the reef as the spec says. A WAIT on a semaphore of the domain completes exactly when
its count is at least the target, and until then the island stands still with the state otherwise unchanged; a SIGNAL within
the gang's semaphores behind which nothing is outstanding adds its amount, saturating at 2^32 − 1, and changes no other
semaphore, and one behind which something is outstanding changes none yet while the island moves on; the last arrival of
GANG_SIZE at a barrier resets its count, advances its phase and goes on, an earlier one is counted and waits; FENCE goes on
when nothing of the island is outstanding. DRAM is unchanged by each. The model's own choices in this: assumptions 11, 54,
55, 72, 124, 125. (R27, R192, R193, R372, R186) -/
def Obligations.SemaphoresAndBarriers : Prop :=
  ∀ (i : Fin 256) (s : State) (c : Ctx), ctxOf s i = some c →
    (c.w.op = .wait → semInRange s c.t.desc.domain c.w.imm1 = true →
      (c.w.imm2 ≤ semAt s c.w.imm1 → exec (.wait i) s = .next (Safety.advanced c s)) ∧
      (semAt s c.w.imm1 < c.w.imm2 → exec (.wait i) s = .next (modIsland s i (fun x =>
        { x with stall := some .semaphore, firstAt := x.firstAt <|> some s.now })))) ∧
    (c.w.op = .signal → c.w.x < c.t.desc.gangSemCount → sendsLanded s i = true → issuedBefore s i c.id = true →
      sparseWf 0 s.sems = true →
      ∃ t, exec (.signal i) s = .next t ∧ t.mem = s.mem ∧ t.tasks = s.tasks ∧
        semAt t (gangSem c.t.desc c.w.x) = min (2 ^ 32 - 1) (semAt s (gangSem c.t.desc c.w.x) + c.w.imm2) ∧
        ∀ n, n ≠ gangSem c.t.desc c.w.x → semAt t n = semAt s n) ∧
    (c.w.op = .signal → c.w.x < c.t.desc.gangSemCount → (sendsLanded s i = false ∨ issuedBefore s i c.id = false) →
      exec (.signal i) s = .next (Safety.advanced c (modIsland s i (fun x =>
        { x with sigs := x.sigs ++ [⟨gangSem c.t.desc c.w.x, c.w.imm2, outstanding s i, c.id⟩] })))) ∧
    (∀ n, c.w.op = .arrive → c.t.desc.gangBarrier = some n → c.x.arrivedAt = none → sendsLanded s i = true →
      issuedBefore s i c.id = true → sparseWf {} s.bars = true → (barAt s n).phase < 128 →
      (c.t.desc.gangSize ≤ (barAt s n).arrived + 1 → ∃ t, exec (.arrive i) s = .next t ∧ t.mem = s.mem ∧ t.tasks = s.tasks ∧
        barAt t n = ⟨0, ((barAt s n).phase + 1) % 128⟩ ∧ (islandAt t i).arrivedAt = none ∧
        (islandAt t i).pc = (islandAt (Safety.advanced c s) i).pc) ∧
      ((barAt s n).arrived + 1 < c.t.desc.gangSize → ∃ t, exec (.arrive i) s = .next t ∧ t.mem = s.mem ∧
        barAt t n = ⟨(barAt s n).arrived + 1, (barAt s n).phase⟩ ∧ (islandAt t i).pc = (islandAt s i).pc ∧
        (islandAt t i).stall = some .barrier)) ∧
    (c.w.op = .fence → quiet s c = true → exec (.fence i) s = .next (Safety.advanced c s))

/-- GBEGIN, GEND, COMMIT, NO_COMMIT, VENG and LOAD_TAPS complete. GBEGIN whose problem list reads clean and whose first record
fits its buckets runs the block for it; with no record it goes on after the block; GEND runs the block for the next fitting
record, or goes on; COMMIT with nothing outstanding commits the task, which leaves flight, before that it stands still, and
that of a pinned task past its 20 µs ends it with PIN_OVERRUN; an island past its program's last instruction ends its task
with NO_COMMIT, and its record names the last instruction; a well-formed VENG record whose ranges lie in one vault and whose
gates open is queued at that vault; a TAPS load whose geometry is well formed and whose reads go through puts its rows into
the scratchpad. For GBEGIN, VENG and TAPS the reads go through when they meet T1 pages and nothing that holds them. The
model's own choices in this: assumptions 11, 56, 64, 117, 124, 149. (R177, R187, R191, R198, R200, R93, R293, R367) -/
def Obligations.ProgramsEndByCommit : Prop :=
  (∀ (i : Fin 256) (s : State) (c : Ctx), ctxOf s i = some c →
    (c.w.op = .gbegin → c.t.desc.g = 0 → exec (.gbegin i) s = .next (Safety.jumped c
      (modIsland s i (fun x => { x with group := none })) (afterGend c.t.prog c.x.pc))) ∧
    (c.w.op = .gbegin → 0 < c.t.desc.g → s.latent = [] →
      let o := operandOf c c.w.opa
      Safety.readsFreely s c.t [(o.base, 16 * c.t.desc.g)] = true → anyMark (taskBytes s c o.base (16 * c.t.desc.g)) = false →
      let b := plain (taskBytes s c o.base (16 * c.t.desc.g))
      let recs := (List.range c.t.desc.g).map (fun k =>
        GroupRec.mk (leAt b (16 * k) 4) (leAt b (16 * k + 4) 4) (leAt b (16 * k + 8) 4) (leAt b (16 * k + 12) 4))
      (∀ r, recs[0]? = some r → recordOk c.t 0 r = true) → ∃ u, exec (.gbegin i) s = .next (Safety.jumped c
        (modIsland u i (fun x => { x with group := some ⟨c.x.pc, recs, 0⟩ })) (c.x.pc + 1)) ∧ u.mem = s.mem ∧ u.tasks = s.tasks) ∧
    (∀ (u : State) (b : List Byte), c.w.op = .gbegin → 0 < c.t.desc.g →
      readGate s c.t c.isl false true [((operandOf c c.w.opa).base, 16 * c.t.desc.g)] = .go u →
      anyMark (taskBytes u c (operandOf c c.w.opa).base (16 * c.t.desc.g)) = false →
      b = plain (taskBytes u c (operandOf c c.w.opa).base (16 * c.t.desc.g)) →
      let recs := (List.range c.t.desc.g).map (fun k =>
        GroupRec.mk (leAt b (16 * k) 4) (leAt b (16 * k + 4) 4) (leAt b (16 * k + 8) 4) (leAt b (16 * k + 12) 4))
      (∀ r, recs[0]? = some r → recordOk c.t 0 r = true) → exec (.gbegin i) s = .next (Safety.jumped c
        (modIsland u i (fun x => { x with group := some ⟨c.x.pc, recs, 0⟩ })) (c.x.pc + 1))) ∧
    (c.w.op = .gend → c.x.group = none → exec (.gend i) s = .next (Safety.advanced c s)) ∧
    (∀ g : GroupRun, c.w.op = .gend → c.x.group = some g → g.recs[g.at_ + 1]? = none → exec (.gend i) s = .next (Safety.jumped c
      (modIsland s i (fun x => { x with group := none })) (afterGend c.t.prog g.start))) ∧
    (∀ (g : GroupRun) (r : GroupRec), c.w.op = .gend → c.x.group = some g → g.recs[g.at_ + 1]? = some r →
      recordOk c.t (g.at_ + 1) r = true → exec (.gend i) s = .next (Safety.jumped c
        (modIsland s i (fun x => { x with group := some { g with at_ := g.at_ + 1 } })) (g.start + 1))) ∧
    (c.w.op = .commit → (pinnedLate s c = true → exec (.commit i) s = .next (overrun s c.t)) ∧
      (pinnedLate s c = false → (quiet s c = false ∨ c.x.waiting ≠ []) → ∃ t, exec (.commit i) s = .next t ∧ t.tasks = s.tasks ∧
        t.mem = s.mem ∧ (islandAt t i).committing = true ∧ (islandAt t i).stall = some .writes) ∧
      (pinnedLate s c = false → quiet s c = true → c.x.waiting = [] → ∃ t, exec (.commit i) s = .next t ∧ t = commitTask s c.t ∧
        t.mem = s.mem ∧ ((∀ u ∈ s.tasks, u.kills < 3) → ∀ u ∈ t.tasks, u.tag ≠ c.t.tag))) ∧
    (∀ (u v x w : State) (b : List Byte) (p : Place) (src dst : List (Nat × Nat)), c.w.op = .veng →
      let r := readVRec b
      let va := p.addr / 2 ^ 30
      let ra := agAt c c.w.ag3 0
      let result := match agOperand c c.w.ag3 with
        | none => ra.toNat
        | some _ => 2 ^ 64 + vaOf ra
      1 ≤ r.op → r.op ≤ 9 → r.resv = 0 → auxBad r.op r.aux = false → packOk r.op r.flags = true → (r.op = 9 → r.count ≤ 65536) →
      (match agOperand c c.w.ag3 with
        | none => inScratch c ra 4
        | some o => o.output && decide (segs c o ra 4 = [(0, ra.toNat, 4)])) = true →
      let reads := (r.src, vSrcLen r) :: (if r.op = 8 then [(r.dst, 512)] else [])
      let writes := fun (n : Nat) => (if r.op = 8 then [] else [(r.dst, n)]) ++
        (if result ≥ 2 ^ 64 then [(result - 2 ^ 64, 4)] else [])
      let o := vopOf r src dst (.task c.t.tag c.t.attempt) c.isl result
      (Safety.PadGives c c.w.ag1 c.w.imm1 32 b → s.latent = [] → xlat s c.t.desc.domain (some c.t.tag) r.dst = .ok p → p.tier = .t1 →
        let n := vDstLen r (if r.op = 7 then plain (taskBytes s c r.src r.count) else [])
        vaultRuns s c va r.src (vSrcLen r) = .ok src → vaultRuns s c va r.dst n = .ok dst →
        Safety.readsFreely s c.t reads = true → Safety.writesFreely s c.t (writes n) = true → gatherGate s c va r = .go s →
        ∃ u, exec (.veng i) s = .next (Safety.advanced c (issueOp c va o u)) ∧ u.mem = s.mem ∧ u.tasks = s.tasks) ∧
      (Safety.Fetches c c.w.ag1 c.w.imm1 32 s u b → xlat u c.t.desc.domain (some c.t.tag) r.dst = .ok p → p.tier = .t1 →
        let n := vDstLen r (if r.op = 7 then plain (taskBytes u c r.src r.count) else [])
        vaultRuns u c va r.src (vSrcLen r) = .ok src → vaultRuns u c va r.dst n = .ok dst →
        readGate u c.t c.isl false false reads = .go v → gatherGate v c va r = .go x → writeGate x c.t (writes n) = .go w →
        exec (.veng i) s = .next (Safety.advanced c (issueOp c va o w)))) ∧
    (∀ (o : Operand) (df : Fmt) (b : List Byte) (g : Geom), c.w.op = .load → bit c.w.flags 5 = true →
      agOperand c c.w.ag1 = some o → fmtOf (c.w.flags % 16) = some df → isNarrow o.fmt = false → isNarrow df = false →
      readGeom b (elemBytes o.fmt) = some g → (g.mode = 0 → df = o.fmt ∧ df ≠ .fp32) → c.w.imm2 % elemBytes df = 0 →
      ∀ rows : List (List MByte),
      let puts := (List.range rows.length).map (fun (r : Nat) => (agAt c c.w.ag3 0 + (r * c.w.imm2 : Nat), rows.getD r []))
      puts.all (fun w => inScratch c w.1 w.2.length) = true →
      (Safety.PadGives c c.w.ag2 0 64 b → s.mig.stagings.all (fun g => !(g.members.contains c.t.tag)) = true → s.latent = [] →
        Safety.readsFreely s c.t (tapReads c g o df) = true → tapRows s c g o df = .ok rows →
        ∃ u, exec (.loadTaps i) s = .next (Safety.advanced c (modIsland u c.isl (fun x =>
          puts.foldl (fun x w => putScratch x w.1.toNat w.2) x))) ∧ u.mem = s.mem ∧ u.tasks = s.tasks) ∧
      (∀ u v : State, Safety.Fetches c c.w.ag2 0 64 s u b →
        (u.mig.stagings.all (fun g => !(g.members.contains c.t.tag)) = true) →
        readGate u c.t c.isl false true (tapReads c g o df) = .go v → tapRows v c g o df = .ok rows →
        exec (.loadTaps i) s = .next (Safety.advanced c (modIsland v c.isl (fun x =>
          puts.foldl (fun x w => putScratch x w.1.toNat w.2) x)))))) ∧
  (∀ (i : Fin 256) (s : State) (t : Task), taskAt s i = some t → t.prog.insns.length ≤ (islandAt s i).pc →
    ∃ u, exec (.noCommit i) s = .next u ∧ u = endTask s t .noCommit (some (t.prog.insns.length - 1)) ∧
      ((∀ v ∈ s.tasks, v.kills < 3) → ∀ v ∈ u.tasks, v.tag ≠ t.tag))

/-- ENC_OPEN, DEC_OPEN, FORCE_KEY, MARK, ACK, the closes and VIDEO_ALLOC_APPLY complete. In an ACTIVE domain, ENC_OPEN of a
readable, well-formed block with a channel and slots to take opens that channel, with its fullness and its buffers unused,
and returns its number, or completes with the status of the first ordered check that fails; DEC_OPEN likewise opens its
channel, or is refused with LEVEL_EXCEEDED where the level does not admit it; on an open channel of the domain FORCE_KEY is
remembered, MARK and ACK act at a frame boundary and wait during a frame (MARK_BAD for a frame that no buffer holds, but for
UNUSED of one that an unused buffer held last), ENC_CLOSE discards the queue and closes at the boundary, DEC_CLOSE discards
what stands behind the units whose pictures wait, or the unit in progress. At a frame boundary a channel whose slots leave
its domain closes with CHANNEL_REVOKED and its event. The model's own choices in this: assumptions 17, 24, 65, 75, 76, 99.
(R317, R319, R338, R341, R344, R345, R316) -/
def Obligations.ChannelsOpenMarkAndClose : Prop :=
  (∀ (h : Hdr) (s : State) (d : Nat), domOfVf s h.vf = some d → (domAt s d).st = .active →
    (∀ (ch : BitVec 8) (va : BitVec 64) (u : State) (b : List Byte) (g : EncCfg) (i p n : Nat), (ch.toNat < 32 ∨ ch.toNat = 0xFF) →
      va.toNat % 64 = 0 → vaFetch s d va.toNat 64 = (u, .ok b) → readEncCfg u.conf.video d b = some g →
      chanFor u ch.toNat 0 32 = some i → slotPlace u d g = some (p, n) →
      exec (.encOpen h ch va) s = .next (match encOpenFault u d g with
        | none => complete (srcOf h) .success i (setCod u i (encOpened d g p n))
        | some e => refuse (srcOf h) e u)) ∧
    (∀ (ch : BitVec 8) (va : BitVec 64) (g : EncCfg), (ch.toNat < 32 ∨ ch.toNat = 0xFF) → va.toNat % 64 = 0 →
      Safety.ReadsClean s d va.toNat 64 → readEncCfg s.conf.video d (plain (Safety.rangeBytes s d va.toNat 64)) = some g →
      (∀ i p n : Nat, chanFor s ch.toNat 0 32 = some i → slotPlace s d g = some (p, n) → encOpenFault s d g = none →
        exec (.encOpen h ch va) s = .next (complete (srcOf h) .success i (setCod s i (encOpened d g p n)))) ∧
      (∀ e, encOpenFault s d g = some e → exec (.encOpen h ch va) s = .next (refuse (srcOf h) e s))) ∧
    (∀ (ch std : BitVec 8) (w t num den : BitVec 16) (i p : Nat),
      ((32 ≤ ch.toNat ∧ ch.toNat < 48) ∨ ch.toNat = 0xFF) → std.toNat < 2 → w.toNat ≠ 0 → t.toNat ≠ 0 → num.toNat ≠ 0 →
      den.toNat ≠ 0 → slotsFor w.toNat t.toNat num.toNat den.toNat ≤ 4 → chanFor s ch.toNat 32 16 = some i →
      pipeFor s d (slotsFor w.toNat t.toNat num.toNat den.toNat) false = some p →
      ∃ u, exec (.decOpen h ch std w t num den) s = .next u ∧ u.mem = s.mem ∧
        (if Config.decLevelAdmits (std.toNat == 1) w.toNat t.toNat num.toNat den.toNat then
          (codAt u i).st = .open_ ∧ (codAt u i).dom = d ∧ (codAt u i).queue = [] ∧ ∀ k, k ≠ i → codAt u k = codAt s k
        else u = refuse (srcOf h) .levelExceeded s))) ∧
  (∀ (h : Hdr) (s : State) (d : Nat), domOfVf s h.vf = some d → (domAt s d).st ∈ chanStates →
    (∀ ch : BitVec 8, chanOpen s d ch.toNat true = true →
      exec (.forceKey h ch) s = .next (succeed (srcOf h) (modCod s ch.toNat (fun x => { x with forceKey := true }))) ∧
      (∀ (m : BitVec 8) (n : BitVec 64), (m.toNat = 0 ∨ m.toNat = 2) → ((codAt s ch.toNat).frame.isSome = true →
          exec (.mark h ch m n) s = .next (modCod s ch.toNat (fun x =>
            { x with marks := x.marks ++ [⟨srcOf h, some m.toNat, n.toNat⟩] })) ∧
          exec (.ack h ch n) s = .next (modCod s ch.toNat (fun x =>
            { x with marks := x.marks ++ [⟨srcOf h, none, n.toNat⟩] }))) ∧
        (∀ k, (codAt s ch.toNat).frame = none →
          firstIdx (fun (b : RefBuf) => b.mark != 0 && b.frame == n.toNat) (codAt s ch.toNat).bufs = some k →
          exec (.ack h ch n) s = .next (succeed (srcOf h) (modCod s ch.toNat (fun x =>
            { x with bufs := modAt x.bufs k (fun b => { b with acked := true }) }))) ∧
          ((m.toNat = 0 ∨ heldBufs (codAt s ch.toNat).bufs ≤ refLimit (codAt s ch.toNat).cfg) →
            exec (.mark h ch m n) s = .next (succeed (srcOf h) (modCod s ch.toNat (fun x =>
              { x with bufs := modAt x.bufs k (fun b => { b with mark := m.toNat }) }))))) ∧
        ((codAt s ch.toNat).frame = none →
          firstIdx (fun (b : RefBuf) => b.mark != 0 && b.frame == n.toNat) (codAt s ch.toNat).bufs = none →
          exec (.ack h ch n) s = .next (complete (srcOf h) .markBad 0 s) ∧
          exec (.mark h ch m n) s = .next (if m.toNat = 0 ∧ ∃ b ∈ (codAt s ch.toNat).bufs, b.used = true ∧ b.frame = n.toNat
            then succeed (srcOf h) s else complete (srcOf h) .markBad 0 s))) ∧
      (sparseWf {} s.codec.chans = true → ∃ u, exec (.encClose h ch) s = .next u ∧ u.mem = s.mem ∧ (codAt u ch.toNat).queue = [] ∧
        ((codAt s ch.toNat).frame = none → (codAt u ch.toNat).st = .closed) ∧
        ((codAt s ch.toNat).frame.isSome = true → (codAt u ch.toNat).st = .closing ∧
          (codAt u ch.toNat).closeSrc = some (srcOf h) ∧ (codAt u ch.toNat).frame = (codAt s ch.toNat).frame))) ∧
    (∀ ch : BitVec 8, chanOpen s d ch.toNat false = true → sparseWf {} s.codec.chans = true →
      ∃ u, exec (.decClose h ch) s = .next u ∧ u.mem = s.mem ∧
      ((codAt s ch.toNat).frame = none → (codAt s ch.toNat).queue = [] → (codAt u ch.toNat).st = .closed) ∧
      ((codAt s ch.toNat).queue ≠ [] → (codAt u ch.toNat).st = .closing ∧
        (codAt u ch.toNat).queue = (codAt s ch.toNat).queue.take (max 1 (codAt s ch.toNat).ahead.length)))) ∧
  (∀ (ch : Fin 48) (s : State) (g : GroupState), s.img.cur = some g → g.phase ≠ .prepare → (codAt s ch).frame = none →
    revoked s g.target.video ch = true →
    exec (.videoAllocApply ch) s = .next (raise (0x180 + ch.val)
      (closeChan (logE 1 .channelRevoked (some (0x180 + ch.val)) (codAt s ch).dom [] s) ch .channelRevoked)))

/-- ENC_FRAME, FRAME_BEGIN, EMISSION_UNIT, FRAME_END, DEC_FRAME, DEC_PICTURE_OUT and VCC_CH_RPTR complete. On an open channel of
an ACTIVE domain with room in its queue of 8, a well-formed ENC_FRAME or DEC_FRAME is queued under the channel's next number;
the frame at the head begins when none is in progress and its semaphore has reached its target; a unit whose rows are
readable is coded when the output ring has room for the larger of its ceiling and its bound of forced minimal coding, which
its bits do not exceed; a frame whose units are all coded ends; its SIGNAL follows its record, or waits while the CQ has no
room for that; DEC_PICTURE_OUT writes the picture that is due, whose DEC_FRAME leaves the queue, and with none due decodes
the channel's next unit; a read pointer no further back than the ring's size is taken, another sets the error flag. Rows:
VCC_CH_RPTR_WRITE. The model's own choices in this: assumptions 12, 17, 75, 76, 77. (R321, R323, R325, R333, R336, R342,
R344) -/
def Obligations.FramesAreCoded : Prop :=
  (∀ (h : Hdr) (s : State) (d : Nat), domOfVf s h.vf = some d → (domAt s d).st = .active →
    (∀ (ch fl : BitVec 8) (pitch ws ss : BitVec 16) (lu cr roi hint : BitVec 64) (tg : BitVec 32) (inc : BitVec 16),
      let x := codAt s ch.toNat
      fl.toNat < 2 → chanOpen s d ch.toNat true = true → x.queue.length < 8 → pitch.toNat % 64 = 0 →
      semFine s d ws.toNat = true → semFine s d ss.toNat = true → ((semOf ss.toNat).isSome = true → inc.toNat ≠ 0) →
      exec (.encFrame h ch fl pitch ws ss lu cr roi hint tg inc) s = .next (setCod s ch.toNat { x with
        queue := x.queue ++ [⟨srcOf h, x.next, bit fl.toNat 0, pitch.toNat, lu.toNat, cr.toNat, roi.toNat, hint.toNat,
          semOf ws.toNat, tg.toNat, semOf ss.toNat, inc.toNat, 0, 0⟩]
        next := x.next + 1 })) ∧
    (∀ (ch : BitVec 8) (pitch ss inc : BitVec 16) (va : BitVec 64) (n : BitVec 32) (lu cr : BitVec 64),
      let x := codAt s ch.toNat
      chanOpen s d ch.toNat false = true → x.queue.length < 8 → pitch.toNat % 64 = 0 → semFine s d ss.toNat = true →
      ((semOf ss.toNat).isSome = true → inc.toNat ≠ 0) → decOutOk s d x pitch.toNat lu.toNat cr.toNat = true →
      exec (.decFrame h ch pitch ss inc va n lu cr) s = .next (setCod s ch.toNat { x with
        queue := x.queue ++ [⟨srcOf h, x.next, false, pitch.toNat, lu.toNat, cr.toNat, 0, 0, none, 0, semOf ss.toNat,
          inc.toNat, va.toNat, n.toNat⟩]
        next := x.next + 1 }))) ∧
  (∀ (ch : Fin 32) (s : State), let x := codAt s ch
    (∀ (q : CodReq) (l : List CodReq) (a b : Bool), x.queue = q :: l → x.st = .open_ → x.frame = none → waitMet s q 0 = true →
      leaving s ch = false →
      ∃ u f, exec (.frameBegin ch a b) s = .next u ∧ (codAt u ch).queue = l ∧ (codAt u ch).frame = some f ∧ f.req = q ∧
        f.unit = 0 ∧ f.key = (x.forceKey || (refsFor x.cfg x.bufs).isEmpty) ∧ f.fallback = (refsFor x.cfg x.bufs).isEmpty ∧
        f.refs = (if f.key then [] else refsFor x.cfg x.bufs) ∧
        (codAt u ch).forceKey = false ∧ u.mem = s.mem ∧ u.host = s.host) ∧
    (∀ f, x.frame = some f → let g := gangWidth s.conf.video x.dom x.cfg
      (∀ late : List (BitVec 64), let r1 := min ((f.unit + 1) * unitRows x.cfg g) (sbRows x.cfg)
        let src := unitSource x.cfg f.req (f.unit * unitRows x.cfg g) r1
        let k := (codeUnit s x f (late.map (·.toNat))).2
        let room := max (ceilingOf x f (unitCount x.cfg g) (minUnit x.cfg g f.key)) (minUnit x.cfg g f.key)
        f.unit < unitCount x.cfg g → waitMet s f.req (r1 - 1) = true → src.any (rangePending s x.dom) = false →
        (late.map (·.toNat)).all (fun a => lateIn [a] src && lowerTier s x.dom [(a, 1)]) = true →
        room / 8 + (if f.unit = 0 then f.head.length else 0) ≤ ringRoom x → x.cfg.rowNotify = false →
        ∃ u, exec (.emissionUnit ch late) s = .next u ∧ (codAt u ch).frame = some (afterUnit f k.1 k.2) ∧
          8 * k.2.bytes.length ≤ room ∧
          (codAt u ch).wptr = wrap32 (x.wptr + ((if f.unit = 0 then f.head.length else 0) + k.2.bytes.length))) ∧
      (unitCount x.cfg g ≤ f.unit → fillerBits x f.bits / 8 ≤ ringRoom x → x.st = .open_ → (domAt s x.dom).st = .active →
        x.marks = [] → f.store = none → sparseWf 0 s.sems = true →
        ∃ u, exec (.frameEnd ch) s = .next u ∧ (codAt u ch).frame = none ∧ (codAt u ch).frames = wrap32 (x.frames + 1) ∧
          (codAt u ch).full = nextFull x (f.bits + fillerBits x f.bits) ∧ u.mem = s.mem ∧
          ∀ n, semAt u n = (match f.req.signal with
            | some m => if n = m ∧ (vfAt u f.req.src.vf).waitCpl.all (fun w => w.1 != cqOf u f.req.src) = true
                then min (2 ^ 32 - 1) (semAt s m + f.req.inc) else semAt s n
            | none => semAt s n)))) ∧
  (∀ (ch : Fin 16) (s : State) (q : CodReq), let x := codAt s (32 + ch.val)
    sparseWf {} s.codec.chans = true →
    (∀ (i : Nat) (l : List CodReq), nextOut x = some i → x.queue = q :: l →
      ∃ u, exec (.decPictureOut ch false) s = .next u ∧ (codAt u (32 + ch.val)).queue = l) ∧
    (nextOut x = none → x.queue[x.ahead.length]? = some q → x.st = .open_ → (domAt s x.dom).st = .active →
      ∃ u, exec (.decPictureOut ch false) s = .next u ∧ (codAt u (32 + ch.val)).coded.length = x.coded.length + 1)) ∧
  (∀ (ch : Fin 48) (v : Word) (s : State), hostUp s = true → let x := codAt s ch
    ((x.wptr + 2 ^ 32 - v.toNat) % 2 ^ 32 ≤ x.cfg.ringSize →
      exec (.vccChRptrWrite ch v) s = .next (setCod (wakeS2 s) ch { x with rptr := v.toNat })) ∧
    (x.cfg.ringSize < (x.wptr + 2 ^ 32 - v.toNat) % 2 ^ 32 →
      exec (.vccChRptrWrite ch v) s = .next (setCod (wakeS2 s) ch { x with rptrErr := true })))

/-- PORT_TRAINED, LINK_DOWN, PORT_RETRAIN, CBL_3V3_SHORT and the three flits complete. On an enabled, used, training port of a
running module PORT_TRAINED brings the port up when the peer is the expected one, else leaves it MISWIRED; LINK_DOWN of an up
port discards its buffers and starts retraining; RETRAIN by the host does so for a used, enabled port; a cable fault takes an
up port down and the cable supply off; a flit that is bad or fails its CRC is discarded with NAK and counted; a good
LINK_CTRL or IDLE flit acts by its control fields alone; a good PAYLOAD flit in order is accepted once its control fields
have acted. DRAM is unchanged by all but an accepted PAYLOAD flit. Rows: PAYLOAD_FLIT, LINK_CTRL_FLIT, IDLE_FLIT. The model's
own choices in this: assumptions 7, 81, 82. (R382, R383, R384, R391, R418, R540) -/
def Obligations.PortsTrainAndCarryFlits : Prop :=
  (∀ (p : Fin 18) (half : Bool) (id : BitVec 10) (role : BitVec 4) (s : State), running s = true → portRole s p ≠ 0 →
    (portAt s p).disable = false → (portAt s p).cableOff = false → (portAt s p).st ∈ [1, 2, 4, 5] →
    ∃ t, exec (.portTrained p half id role) s = .next t ∧ t.mem = s.mem ∧
      (portAt t p).st = (if peerFits s.conf.link (portRole s p) (portEntry s p).2.2 id.toNat role.toNat then 3 else 5) ∧
      (portAt t p).peer = id.toNat ∧ ∀ q, q ≠ p.val → portAt t q = portAt s q) ∧
  (∀ (p : Fin 18) (s : State), portUp s p = true →
    ∃ t, exec (.linkDown p) s = .next t ∧ portAt t p = { freshLink (portAt s p) with st := 4, half := false, downAt := s.now } ∧
      t.mem = s.mem ∧ ∀ q, q ≠ p.val → portAt t q = portAt s q) ∧
  (∀ (p : Fin 18) (s : State), hostUp s = true → portRole s p ≠ 0 → (portAt s p).disable = false →
    exec (.portRetrain p) s = .next (setPort (wakeS2 s) p
      { freshLink (portAt s p) with st := 4, half := false, downAt := s.now })) ∧
  (∀ (p : Fin 18) (s : State), ∃ t, exec (.cbl3v3Short p) s = .next t ∧ (portAt t p).cableOff = true ∧ portUp t p = false ∧
    t.mem = s.mem ∧ ∀ q, q ≠ p.val → portAt t q = portAt s q) ∧
  (∀ (p : Fin 18) (b : BitVec 2048) (k : BitVec 8) (bad : Bool) (s : State), portUp s p = true →
    let f := leBytes 256 b.toNat
    let good := !bad && leAt f 0xFC 4 == crc32c (f.take 252)
    let u := setPort s p { portAt s p with
      corr := wrap32 ((portAt s p).corr + k.toNat)
      uncorr := wrap32 ((portAt s p).uncorr + b2n bad) }
    (good = false → exec (.payloadFlit p b k bad) s = .next (sendCtl u p 2 0 0 true) ∧
      exec (.linkCtrlFlit p b k bad) s = .next (sendCtl u p 2 0 0 true) ∧
      exec (.idleFlit p b k bad) s = .next (sendCtl u p 2 0 0 true)) ∧
    (good = true → leAt f 0 1 = 2 → exec (.linkCtrlFlit p b k bad) s = .next (flitControl u p f)) ∧
    (good = true → leAt f 0 1 = 0 → exec (.idleFlit p b k bad) s = .next (flitControl u p f)) ∧
    (good = true → leAt f 0 1 = 1 → portUp (flitControl u p f) p = true → leAt f 2 2 = (portAt (flitControl u p f) p).rx →
      exec (.payloadFlit p b k bad) s = .next (acceptFlit (wakeS2 (flitControl u p f)) p f)))

/-- GROUP_JOIN, JOIN_TIMEOUT, GROUP_LEAVE, MEMBER_UNREACHABLE and MANAGER_LOST complete when due. In an ACTIVE domain of a worker
with a manager, GROUP_JOIN with a readable, well-formed list that names this member asks the authority and waits; GROUP_LEAVE
of a group of the domain leaves it; after the ticket timeout the authority fails an unformed join for all that joined, and a
member that hears nothing fails its own; a manager that has had no link to a module for 10 µs ends what it takes part in; a
worker without its manager's port for 10 µs becomes headless. The model's own choices in this: assumptions 8, 17, 79, 88, 89,
151. (R393, R394, R411, R413) -/
def Obligations.GroupsFormAndLoseMembers : Prop :=
  (∀ (h : Hdr) (s : State) (d : Nat), domOfVf s h.vf = some d → (domAt s d).st = .active →
    (∀ (key list : BitVec 64) (n : BitVec 16) (u : State) (b : List Byte) (ms : List (Nat × Nat)) (r : Nat),
      s.net.headless = false → 2 ≤ n.toNat → n.toNat ≤ 256 → vaFetch s d list.toNat (4 * n.toNat) = (u, .ok b) →
      readMembers b n.toNat = some ms → membersOk ms = true → u.net.role.role = 1 →
      firstIdx (fun (m : Nat × Nat) => m == (ownId u, d)) ms = some r →
      exec (.groupJoin h key list n) s = .next (sendMsg { u with net := { u.net with
        joins := u.net.joins ++ [⟨srcOf h, d, key.toNat, ms, u.now⟩] } } (authorityId u ms) (.join key.toNat ms r))) ∧
    (∀ (key list : BitVec 64) (n : BitVec 16) (ms : List (Nat × Nat)) (r : Nat),
      s.net.headless = false → 2 ≤ n.toNat → n.toNat ≤ 256 → s.net.role.role = 1 →
      Safety.ReadsClean s d list.toNat (4 * n.toNat) →
      readMembers (plain (Safety.rangeBytes s d list.toNat (4 * n.toNat))) n.toNat = some ms → membersOk ms = true →
      firstIdx (fun (m : Nat × Nat) => m == (ownId s, d)) ms = some r →
      exec (.groupJoin h key list n) s = .next (sendMsg { s with net := { s.net with
        joins := s.net.joins ++ [⟨srcOf h, d, key.toNat, ms, s.now⟩] } } (authorityId s ms) (.join key.toNat ms r))) ∧
    (∀ (gid : BitVec 16) (g : Group), s.net.groups.find? (fun g => g.id == gid.toNat && g.dom == d) = some g →
      exec (.groupLeave h gid) s = .next (succeed (srcOf h)
        (leaveGroup (sendMsg s (authorityId s g.members) (.leave gid.toNat d)) g)))) ∧
  (∀ (key : BitVec 64) (s : State),
    (∀ a, s.net.auth.find? (fun a => a.key == key.toNat && !a.formed && decide (a.t0 + ticketTimeout s ≤ s.now)) = some a →
      ∃ t, exec (.joinTimeout key) s = .next t ∧ t.mem = s.mem ∧
        ∀ x ∈ t.net.auth, x.key = key.toNat → x.formed = true) ∧
    (s.net.auth.find? (fun a => a.key == key.toNat && !a.formed && decide (a.t0 + ticketTimeout s ≤ s.now)) = none →
      s.net.joins.any (fun j => j.key == key.toNat && decide (j.t0 + ticketTimeout s ≤ s.now)) = true →
      exec (.joinTimeout key) s = .next (joinDone s key.toNat (.error .ticketTimeout)))) ∧
  (∀ (m : BitVec 10) (s : State) (p : Nat), 2 ≤ s.net.role.role → m.toNat < 256 →
    (if s.net.role.role = 3 then portOf s 8 (shoalOf m.toNat) else portOf s 5 (workerOf m.toNat)) = some p →
    portUp s p = false → (portAt s p).downAt + 10000 ≤ s.now →
    exec (.memberUnreachable m) s = .next (loseMember s (fun _ => true) (fun x => x.1 == m.toNat))) ∧
  (∀ (s : State) (p : Nat), managerPort s = some p → s.net.role.role = 1 → s.net.headless = false → portUp s p = false →
    (portAt s p).downAt + 10000 ≤ s.now → s.net.joins = [] → s.net.colls = [] →
    exec .managerLost s = .next (raise 0x174 (logE 1 .headless (some 0x174) 0xFF []
      { s with net := { s.net with headless := true, headlessAt := s.now } })))

/-- COLL and its events complete on a member. In an ACTIVE domain a COLL of the group's generation and next SEQ that passes the
checks in order is posted, and the group's next SEQ advances; when its WAIT holds it asks the authority once, or takes its
turn where a run of tickets covers it; a RESERVE is queued and granted in arrival order; with TICKET its pending range drops
staged lines, a run of tickets opens, and it moves; when the schedule is through, the result stands at the destination and
DONE goes out; at a COMMIT in time it is forwarded and committed; a headless member that waited 20 µs after DONE, or after
the shoal became headless, ends it with HEADLESS. Rows: COLL_WAIT_MET, COLL_RESERVE, COLL_TICKET, COLL_WRITES_DONE,
COLL_COMMIT, HEADLESS_COMMIT_TIMEOUT. The model's own choices in this: assumptions 8, 17, 46, 79, 83, 84, 85. (R394, R396,
R397, R398, R404, R413) -/
def Obligations.CollectivesOnMembers : Prop :=
  (∀ (h : Hdr) (s : State) (d : Nat) (group root : BitVec 16) (gen seq : BitVec 32) (kind op fmt flags : BitVec 8)
      (src dst counts : BitVec 64) (count target : BitVec 32) (ws ss inc run : BitVec 16) (g : Group),
    domOfVf s h.vf = some d → (domAt s d).st = .active → flags.toNat < 16 →
    let o := collOpOf group.toNat root.toNat gen.toNat seq.toNat kind.toNat op.toNat fmt.toNat flags.toNat src.toNat dst.toNat
      counts.toNat count.toNat target.toNat ws.toNat ss.toNat inc.toNat run.toNat
    s.net.groups.find? (fun g => g.id == o.group && g.dom == d) = some g → g.gen = o.gen →
    collFine o g.members.length = true → semFine s d ws.toNat = true → semFine s d ss.toNat = true →
    s.net.colls.length < 256 → postedOf s d < 4 * ctxQuota s d → s.net.headless = false → o.kind ≠ 3 → o.kind ≠ 4 →
    collInPlace o g [] = false → (numRec s d).det ≠ 2 → o.seq = g.next → (o.inSwitch && crossShoal g.members) = false →
    (tablesDigest s d).isSome = true → s.net.timed.contains (o.group, o.gen, o.seq) = false →
    ∃ t, exec (.coll h group root gen seq kind op fmt flags src dst counts count target ws ss inc run) s = .next t ∧
      t.net.colls = s.net.colls ++ [{ src := srcOf h, dom := d, o := o, counts := [] }] ∧
      t.net.groups = s.net.groups.map (fun x => if x.id = g.id then { x with next := x.next + 1 } else x) ∧
      t.mem = s.mem ∧ t.host = s.host ∧ t.doms = s.doms) ∧
  (∀ (gid : BitVec 16) (seq : BitVec 32) (s : State) (c : Coll) (g : Group), collOf s gid.toNat seq.toNat = some c →
    groupOf s gid.toNat = some g →
    (∀ tab, c.ph = .posted → waitHolds s c.o.wait c.o.target = true →
      s.net.runs.any (fun r => r.1 == g.id && decide (r.2.2.1 ≤ c.o.seq) && decide (c.o.seq ≤ r.2.2.2)) = false →
      tablesDigest s g.dom = some tab →
      exec (.collWaitMet gid seq) s = .next (sendMsg (setColl s { c with ph := .requested }) (authorityId s g.members)
        (.request g.id g.gen c.o.seq g.rank (groupDigest s g tab) (opDigest c.o) (max c.o.run 1) c.o.count (howOf c.o)))) ∧
    (c.ph = .posted → waitHolds s c.o.wait c.o.target = true →
      s.net.runs.any (fun r => r.1 == g.id && decide (r.2.2.1 ≤ c.o.seq) && decide (c.o.seq ≤ r.2.2.2)) = true →
      exec (.collWaitMet gid seq) s = .next (startRun (setColl s { c with ph := .queued }) g.id)) ∧
    (c.ph = .requested → exec (.collReserve gid seq) s = .next (grant { s with net := { s.net with
      resvs := s.net.resvs ++ [⟨crossShoal g.members, g.id, c.o.seq⟩] } })) ∧
    (∀ ns : List (BitVec 32), c.ph = .reserved → ns.length = g.members.length →
      let r := resultOf c.o g.members g.rank (ns.map BitVec.toNat)
      exec (.collTicket gid seq ns) s = .next (advance (setColl (dropStagedIn { s with net := { s.net with
          runs := if 2 ≤ c.o.run then s.net.runs ++ [(g.id, c.ctx.getD 0, c.o.seq, c.o.seq + c.o.run - 1)] else s.net.runs } }
            c.dom [(c.o.dstVa, r.2)])
        { c with ph := .moving, counts := ns.map BitVec.toNat, outAt := c.o.dstVa, outLen := r.2 }) g.id c.o.seq)) ∧
    (c.ph = .moving → c.loaded = true → c.sched.all List.isEmpty = true →
      let r := resultOf c.o g.members g.rank c.counts
      getRangeFault s c.dom c.o.dstVa r.2 = none →
      exec (.collWritesDone gid seq) s = .next (sendMsg (setColl
        (vaWrite s c.dom none c.o.dstVa ((slice c.vec r.1 r.2).map (fun b => (b, false))))
        { c with ph := .written, doneAt := some s.now }) (authorityId s g.members) (.done g.id c.o.seq g.rank))) ∧
    (c.ph = .written → commitLate s g c = false → ∃ u, exec (.collCommit gid seq) s = .next (startRun (commitColl u c) g.id) ∧ u.mem = s.mem ∧
      u.net = s.net ∧ u.sems = s.sems) ∧
    (∀ t, s.net.headless = true → crossShoal g.members = false → c.ph = .written → c.doneAt = some t → max t s.net.headlessAt + 20000 ≤ s.now →
      exec (.headlessCommitTimeout gid seq) s = .next (endColl s c .headless)))

/-- COLL_REQUEST, COLL_RESERVED, COLL_DONE and TICKET_TIMEOUT complete on the authority. The first REQUEST of a member of a
formed group of its generation opens the collective's record; one of a stale generation is answered with GROUP_MISMATCH; a
member's grant is noted and tickets go out as the total order allows; DONE is noted, and with the last one COMMIT goes to
every member; without a ticket after the ticket timeout the collective ends with TICKET_TIMEOUT. The model's own choices in
this: assumptions 8, 79. (R396, R397, R399, R401, R404) -/
def Obligations.CollectivesOnTheAuthority : Prop :=
  (∀ (gid : BitVec 16) (gen seq : BitVec 32) (rank how : BitVec 8) (gd od : BitVec 256) (run : BitVec 16) (count : BitVec 32)
      (s : State) (a : AuthGroup), authOf s gid.toNat = some a → rank.toNat < a.members.length →
    (a.gen ≠ gen.toNat → exec (.collRequest gid gen seq rank gd od run count how) s =
      .next (sendMsg s ((a.members.getD rank.toNat (0, 0)).1) (.ended a.id seq.toNat .groupMismatch))) ∧
    (a.gen = gen.toNat → orderOf s a.id seq.toNat = none → 2 ≤ a.members.length →
      ∃ t o, exec (.collRequest gid gen seq rank gd od run count how) s = .next t ∧ t.mem = s.mem ∧
        orderOf t a.id seq.toNat = some o ∧ o.ph = .collecting ∧ o.t0 = s.now ∧
        o.reqs = [⟨rank.toNat, leBytes 32 gd.toNat, leBytes 32 od.toNat, run.toNat, count.toNat, how.toNat⟩])) ∧
  (∀ (gid : BitVec 16) (seq : BitVec 32) (s : State) (o : Order), orderOf s gid.toNat seq.toNat = some o →
    (∀ rank : BitVec 8, o.ph = .reserving → o.reserved.contains rank.toNat = false →
      o.reqs.any (fun q => q.rank == rank.toNat) = true →
      exec (.collReserved gid seq rank) s = .next (tickets (setOrder s { o with reserved := o.reserved ++ [rank.toNat] }))) ∧
    (∀ (rank : BitVec 8) (a : AuthGroup), authOf s gid.toNat = some a → o.ph = .ticketed → rank.toNat < a.members.length →
      o.dones.contains rank.toNat = false →
      (o.dones.length + 1 < a.members.length →
        exec (.collDone gid seq rank) s = .next (setOrder s { o with dones := o.dones ++ [rank.toNat] })) ∧
      (a.members.length ≤ o.dones.length + 1 → ∃ u, exec (.collDone gid seq rank) s = .next (tickets (tellAll u a.members
        (.commit a.id seq.toNat))) ∧ u.mem = s.mem ∧ u.sent = s.sent)) ∧
    ((o.ph = .collecting ∨ o.ph = .reserving) → o.t0 + ticketTimeout s ≤ s.now →
      exec (.ticketTimeout gid seq) s = .next (tickets (endOrder s o .ticketTimeout))))

/-- TIME_BEACON, TIME_BEACON_SEND and SHOAL_PULSE complete when due. On a module that follows another, a beacon sets shoal time
to the beacon's time plus half the round trip (the first beacon, too); a correction beyond 1 µs also sets the drift flag and
raises 0x173. A manager sends beacons after 100 µs, and with PULSE_OUT one pulse for each whole millisecond of shoal time.
The model's own choices in this: assumptions 8, 87. (R402, R536) -/
def Obligations.ShoalTimeKept : Prop :=
  (∀ (time : BitVec 64) (rtt : BitVec 32) (s : State), s.net.role.role ≠ 0 → timeSource s.net = false →
    ∃ t, exec (.timeBeacon time rtt) s = .next t ∧ t.mem = s.mem ∧ t.net.locked = true ∧
      shoalTime t = time.toNat + rtt.toNat / 2 ∧ t.net.corrAt = s.now ∧
      (s.net.locked = true → t.net.lastCorr = (time.toNat : Int) + (rtt.toNat / 2 : Nat) - s.now - s.net.offset) ∧
      (s.net.locked = true → 1000 < ((time.toNat : Int) + (rtt.toNat / 2 : Nat) - s.now - s.net.offset).natAbs →
        t.net.drift = true)) ∧
  (∀ s : State, 2 ≤ s.net.role.role → s.net.beatAt + 100000 ≤ s.now →
    ∃ t, exec .timeBeaconSend s = .next t ∧ t.mem = s.mem ∧ t.net = { s.net with beatAt := s.now } ∧
      t.sent = s.sent ++ (beaconPeers s).map (fun m => .ctl m (.beacon (shoalTime s)))) ∧
  (∀ s : State, 2 ≤ s.net.role.role → s.net.role.pulse = true → s.pow.st < 3 → s.net.pulseAt < shoalTime s / 1000000 →
    exec .shoalPulse s = .next { s with
      sent := s.sent ++ [.pulse (shoalTime s / 1000000 * 1000000)]
      net := { s.net with pulseAt := shoalTime s / 1000000 } })

/-- The remote-memory commands and events complete. In an ACTIVE domain: a well-formed RMEM_EXPOSE of mapped memory under a
closed window number for a group of the domain opens the window; RMEM_UNEXPOSE of an open window without accepted transfers
closes it and completes; RMEM_GET and RMEM_PUT with a reachable peer and a good local range become transfers under the lowest
free number and begin when their WAIT holds; a transfer whose bytes have landed ends with success and its SIGNAL; one that
began and has had no answer for 1 ms ends with MEMBER_LOST. Rows: RMEM_TRANSFER_DONE, RMEM_TIMEOUT. The model's own choices
in this: assumptions 8, 17, 46, 65, 79, 85, 143. (R415, R416) -/
def Obligations.RemoteMemoryCompletes : Prop :=
  (∀ (h : Hdr) (s : State) (d : Nat), domOfVf s h.vf = some d → (domAt s d).st = .active →
    (∀ (w pm : BitVec 8) (gid sem inc : BitVec 16) (va len : BitVec 64), w.toNat < 64 → pm.toNat < 4 → len.toNat ≠ 0 →
      ((semOf sem.toNat).isSome = true → inc.toNat ≠ 0) → semFine s d sem.toNat = true →
      s.net.groups.any (fun g => g.id == gid.toNat && g.dom == d) = true → windowAt s d w.toNat = none →
      vaFault s d none va.toNat len.toNat = none →
      (bit pm.toNat 1 = true → ∀ x ∈ piecesOf va.toNat len.toNat, ∀ p, xlat s d none x.1 = .ok p → p.sealed = false) →
      exec (.rmemExpose h w pm gid sem inc va len) s = .next (succeed (srcOf h) (setWindow s d w.toNat (some
        ⟨va.toNat, len.toNat, bit pm.toNat 0, bit pm.toNat 1, gid.toNat, semOf sem.toNat, inc.toNat, false, none⟩)))) ∧
    (∀ (w : BitVec 8) (x : Window), w.toNat < 64 → windowAt s d w.toNat = some x → x.shut = false →
      s.net.xfers.any (fun y => y.owner && y.dom == d && y.window == w.toNat) = false →
      sparseWf none (domAt s d).windows = true →
      ∃ t, exec (.rmemUnexpose h w) s = .next t ∧ windowAt t d w.toNat = none ∧ t.mem = s.mem) ∧
    (∀ (put : Bool) (w : BitVec 8) (gid rank ws ss inc : BitVec 16) (va off len : BitVec 64) (tg : BitVec 32) (g : Group),
      len.toNat ≠ 0 → ((semOf ss.toNat).isSome = true → inc.toNat ≠ 0) → semFine s d ws.toNat = true →
      semFine s d ss.toNat = true → s.net.groups.find? (fun g => g.id == gid.toNat && g.dom == d) = some g → w.toNat < 64 →
      rmemPath s g rank.toNat = true →
      (if put then vaFault s d none va.toNat len.toNat else getRangeFault s d va.toNat len.toNat) = none →
      let n := (lowestFree ((s.net.xfers.filter (fun x => !x.owner)).map (·.num)) 0 65536 (s.net.xfers.length + 1) 0).getD 0
      let x : RmemXfer := ⟨n, some (srcOf h), d, put, false, gid.toNat, rank.toNat, moduleOf g rank.toNat, w.toNat, va.toNat,
        off.toNat, len.toNat, semOf ws.toNat, tg.toNat, semOf ss.toNat, inc.toNat, 0, false, s.now⟩
      exec (if put then .rmemPut h w gid rank ws va off len tg ss inc else .rmemGet h w gid rank ws va off len tg ss inc) s =
        .next (beginXfer { s with net := { s.net with xfers := s.net.xfers ++ [x] } } x))) ∧
  (∀ (num : BitVec 16) (s : State) (x : RmemXfer),
    (s.net.xfers.find? (fun x => x.num == num.toNat && x.owner == false && decide (0 < x.got)) = some x →
      exec (.rmemTransferDone num false) s = .next (endXfer s x .success)) ∧
    (s.net.xfers.find? (fun x => x.num == num.toNat && x.owner == true && decide (0 < x.got)) = some x → x.signal = none →
      exec (.rmemTransferDone num true) s = .next (settleWindow
        (dropXfer (sendMsg s x.peer (.rmemEnded x.num .success)) x) x.dom x.window)) ∧
    (s.net.xfers.find? (fun x => x.num == num.toNat && !x.owner && x.begun && x.got == 0) = some x → x.t0 + 1000000 ≤ s.now →
      exec (.rmemTimeout num) s = .next (endXfer s x .memberLost)))

/-- SQ_DOORBELL, CQ_HEAD_WRITE, SQ_ENABLE, CQ_ENABLE and CQ_HOLDOFF_EXPIRY complete. With the host link up: a doorbell of an
enabled ring within its size takes the tail and the VF's rings are read, one beyond the size disables the ring with RING_BAD;
a head of an enabled completion ring up to the tail is taken and waiting completions are written, one ahead of the tail
disables the ring; enabling a ring of size 6 to 16 (for a submission ring, whose completion ring is enabled) sets head and
tail to 0, otherwise it is disabled with RING_BAD; a due message goes out once HOLDOFF has passed. The model's own choices in
this: assumptions 20, 21, 22. (R432, R436, R450, R451, R452, R455) -/
def Obligations.RingRegistersComplete : Prop :=
  (∀ (v : Fin 16) (q : Fin 8) (w : Word) (s : State), hostUp s = true → let x := sqAt s v q
    (bit x.ctrl 0 = true → w.toNat < ringSize x.ctrl →
      exec (.sqDoorbell v q w) s = .next (serveVf (setSq (wakeS2 s) v q { x with tail := w.toNat }) v)) ∧
    (bit x.ctrl 0 = true → ringSize x.ctrl ≤ w.toNat → exec (.sqDoorbell v q w) s = .next (sqError (wakeS2 s) v q .ringBad)) ∧
    (bit x.ctrl 0 = false → bit w.toNat 0 = true → let c := Nat.land w.toNat 0x00031F01
      (sizeOk c = true → bit (cqAt s v (bits c 17 16)).ctrl 0 = true →
        exec (.sqEnable v q w) s = .next (setSq (wakeS2 s) v q { x with ctrl := c, head := 0, tail := 0 })) ∧
      ((sizeOk c = false ∨ bit (cqAt s v (bits c 17 16)).ctrl 0 = false) →
        exec (.sqEnable v q w) s = .next (sqError (setSq (wakeS2 s) v q { x with ctrl := c }) v q .ringBad)))) ∧
  (∀ (v : Fin 16) (c : Fin 4) (w : Word) (s : State), let x := cqAt s v c
    let n := ringSize x.ctrl
    (hostUp s = true → bit x.ctrl 0 = true →
      (w.toNat < n → (w.toNat + n - x.head) % n ≤ cqHeld x →
        exec (.cqHeadWrite v c w) s = .next (serveVf (setCq (wakeS2 s) v c { x with head := w.toNat }) v)) ∧
      ((n ≤ w.toNat ∨ cqHeld x < (w.toNat + n - x.head) % n) →
        exec (.cqHeadWrite v c w) s = .next (cqError (wakeS2 s) v c .ringBad))) ∧
    (hostUp s = true → bit x.ctrl 0 = false → bit w.toNat 0 = true → let d := Nat.land w.toNat 0xFFFFDF03
      (sizeOk d = true → exec (.cqEnable v c w) s =
        .next (serveVf (setCq (wakeS2 s) v c { x with ctrl := d, head := 0, tail := 0, phase := true }) v)) ∧
      (sizeOk d = false → exec (.cqEnable v c w) s = .next (cqError (setCq (wakeS2 s) v c { x with ctrl := d }) v c .ringBad))) ∧
    (x.due = true → (∀ t, x.lastMsg = some t → t + 1000 * bits x.ctrl 31 20 ≤ s.now) →
      exec (.cqHoldoffExpiry v c) s = .next (sendVfVector (setCq s v c { x with lastMsg := some s.now, due := false }) v
        (bits x.ctrl 19 14))))

/-- WINDOW_READ and WINDOW_WRITE reach the domain's memory, or nothing. With the host link up: a write of one byte through a VF's
open window to a mapped T1 byte, sealed or not, on whose vault no engine operation waits stores it there and changes no other
byte of DRAM; a closed window reads all ones and drops writes; with debug closed the PF window reads zero and drops writes.
The model's own choices in this: assumptions 26, 27. (R431, R521) -/
def Obligations.WindowsReachMemory : Prop :=
  (∀ (fn : Fin 17) (off : BitVec 36) (b : Byte) (s : State) (d a : Nat) (p : Place), hostUp s = true → fn.val ≠ 0 →
    vfWindow s (fn.val - 1) off.toNat = some (d, a) → xlat s d none a = .ok p → p.tier = .t1 → s.mig.lag = [] →
    s.mig.stagings = [] → s.latent = [] → engineBusy s p.addr 1 = false → sparseWf 0 s.mem = true →
    ∃ t, exec (.windowWrite fn off [b]) s = .next t ∧ sparseGet 0 t.mem p.addr = b ∧
      ∀ x, x ≠ p.addr → sparseGet 0 t.mem x = sparseGet 0 s.mem x) ∧
  (∀ (fn : Fin 17) (off : BitVec 36) (n : Fin 4097) (data : List Byte) (s : State), hostUp s = true → fn.val ≠ 0 →
    vfWindow (wakeS2 s) (fn.val - 1) off.toNat = none →
    exec (.windowRead fn off n) s = .next { wakeS2 s with reply := List.replicate n 0xFF } ∧
    exec (.windowWrite fn off data) s = .next (wakeS2 s)) ∧
  (∀ (off : BitVec 36) (n : Fin 4097) (data : List Byte) (s : State), hostUp s = true → s.sec.dbg = none →
    exec (.windowRead 0 off n) s = .next { wakeS2 s with reply := List.replicate n 0 } ∧
    ∃ t, exec (.windowWrite 0 off data) s = .next t ∧ t.mem = s.mem ∧ t.poison = s.poison ∧ t.doms = s.doms)

/-- HOST_READ_TIMEOUT raises 0x207 and ends what waited for the data. A failed read of a ring's head record, which waits or comes
with a doorbell, disables the ring and faults its domain; of the list of a MAP refuses it with HOST_READ_FAULT; of the image,
with the engine not BUSY, refuses the STAGE; of a T3 line ends the island's task with HOST_READ_FAULT at its pc; of a TASK's
descriptor, or of the argument block it names, refuses that task (LOWER_TIER_TIMEOUT where the block comes late); of a
promotion's page drops that promotion and leaves the page; of the source of a frame raises the event alone. The model's own
choices in this: assumptions 21, 38, 120. (R439, R444, R448, R178, R85) -/
def Obligations.HostReadsThatFail : Prop :=
  ∀ s : State,
    (∀ (v : Fin 16) (q : Fin 8), ringReads s v q = true → (domOfVf s v).isNone = true →
      exec (.hostReadTimeout (.ring v q)) s = .next (sqError (raise 0x207 s) v q .hostReadFault)) ∧
    (∀ (v : Fin 16) (q : Fin 8) (d : Nat), ringReads s v q = true → domOfVf (sqError (raise 0x207 s) v q .hostReadFault) v = some d →
      exec (.hostReadTimeout (.ring v q)) s = .next (faultDomain (sqError (raise 0x207 s) v q .hostReadFault) d .hostReadFault)) ∧
    (∀ (v : Fin 16) (q : Fin 8) (tail : Word), hostUp s = true → s.pow.st ≠ 2 → tail.toNat < ringSize (sqAt s v q).ctrl →
      let u := setSq s v q { sqAt s v q with tail := tail.toNat }
      ringReads u v q = true → exec (.hostReadTimeout (.doorbell v q tail)) s = .next (ringReadFails u v q)) ∧
    (∀ (h : Hdr) (d : Nat), domOfVf s h.vf = some d →
      ((domAt s d).st ∈ setupStates → exec (.hostReadTimeout (.list h)) s = .next (refuse (srcOf h) .hostReadFault (raise 0x207 s))) ∧
      ((domAt s d).st = .active →
        exec (.hostReadTimeout (.descriptor h)) s = .next (refuseTask (raise 0x207 s) (srcOf h) d 0 .hostReadFault))) ∧
    (∀ (h : Hdr) (a : DWord) (d : Nat) (x : Desc) (p : Place), domOfVf s h.vf = some d → (domAt s d).st = .active →
      readDesc (hostBytes s a.toNat 128) d = some x → xlat s d none x.argVa = .ok p →
      let tag := leAt (hostBytes s a.toNat 128) 0x60 4
      (p.tier = .t3 → exec (.hostReadTimeout (.argument h a false)) s =
        .next (refuseTask (raise 0x207 s) (srcOf h) d tag .hostReadFault)) ∧
      (p.tier ≠ .t1 → exec (.hostReadTimeout (.argument h a true)) s =
        .next (refuseTask s (srcOf h) d tag .lowerTierTimeout))) ∧
    (∀ (v : Fin 16) (d : Nat) (src : Src) (a n : Nat) (rest : List (Src × Nat × Nat)), domOfVf s v = some d →
      (domAt s d).tasking = (src, a, n + 1) :: rest →
      let u := modDom s d (fun x => { x with tasking := if n = 0 then rest else (src, a + 128, n) :: rest })
      exec (.hostReadTimeout (.queued v)) s =
        .next (dispatchDom (refuseTask (raise 0x207 u) src d 0 .hostReadFault) d) ∧
      (∀ (x : Desc) (p : Place), readDesc (hostBytes s a 128) d = some x → xlat u d none x.argVa = .ok p → p.tier = .t3 →
        exec (.hostReadTimeout (.queuedArgument v false)) s =
          .next (dispatchDom (refuseTask (raise 0x207 u) src d (leAt (hostBytes s a 128) 0x60 4) .hostReadFault) d))) ∧
    (∀ (q : Promo) (rest : List Promo) (p : Page), s.mig.promos = q :: rest → pageAt s q.dom q.page = some p → p.tier ≠ .t1 →
      let u := { s with mig := { s.mig with promos := rest } }
      exec (.hostReadTimeout .promotion) s = .next (if p.tier = .t3 then raise 0x207 u else u)) ∧
    (imgBusy s = false → exec (.hostReadTimeout .image) s = .next (refuseImage .hostReadFault (raise 0x207 s))) ∧
    (∀ (i : Fin 256) (t : Task), waitsT3 s i = some t →
      exec (.hostReadTimeout (.task i)) s = .next (endTask (raise 0x207 s) t .hostReadFault (some (islandAt s i).pc))) ∧
    (∀ c : Fin 32, frameLow s c = true → exec (.hostReadTimeout (.source c)) s = .next (raise 0x207 s))

/-- The event controller's words, hold, priorities, routes and thresholds. For a control core, or the host with its link up: with
no hold, a write of a pending or a mask word replaces it; while another agent has held the word for less than 1 µs, the write
waits and the word stays; HOLD takes the word when none is held; after 1 µs the hold ends, EXPIRED is set and what was
latched has merged; a write of priorities, routes or a threshold takes effect at once. Rows: EVC_PEND_WRITE, EVC_MASK_WRITE,
EVC_HOLD, EVC_HOLD_EXPIRY, EVC_PRIO_WRITE, EVC_ROUTE_WRITE, EVC_THRESH_WRITE. The model's own choices in this: assumptions 8,
95, 97. (R461, R462, R467, R468, R469, R470) -/
def Obligations.EventWordsAndHold : Prop :=
  ∀ (a : Fin 9) (s : State), (a.val < 8 ∨ (hostUp s = true ∧ s.pow.st ≠ 2)) →
    (∀ (n : Fin 32) (v : Word), s.evc.held = none → sparseWf 0 s.evc.pend = true →
      (∃ t, exec (.evcPendWrite a n v) s = .next t ∧ evPend t.evc n = v ∧ t.mem = s.mem ∧
        ∀ k, k ≠ n.val → evPend t.evc k = evPend s.evc k) ∧
      (sparseWf (BitVec.allOnes 32) s.evc.mask = true → ∃ t, exec (.evcMaskWrite a n v) s = .next t ∧ evMask t.evc n = v ∧
        t.mem = s.mem ∧ ∀ k, k ≠ n.val → evMask t.evc k = evMask s.evc k)) ∧
    (∀ (n : Fin 32) (v : Word), s.evc.held = some n.val → s.evc.owner ≠ a.val → s.now < s.evc.holdAt + 1000 →
      exec (.evcPendWrite a n v) s = .next { s with evc := { s.evc with waits := s.evc.waits ++ [⟨false, n, v⟩] } } ∧
      exec (.evcMaskWrite a n v) s = .next { s with evc := { s.evc with waits := s.evc.waits ++ [⟨true, n, v⟩] } }) ∧
    (∀ v : Word, s.evc.held = none → v.getLsbD 8 = true → v.getLsbD 13 = false →
      exec (.evcHold a v) s = .next { s with evc := { s.evc with
        word := v.toNat % 32
        held := some (v.toNat % 32)
        owner := a
        holdAt := s.now } }) ∧
    (∀ n, s.evc.held = some n → s.evc.holdAt + 1000 ≤ s.now → s.evc.waits = [] → sparseWf 0 s.evc.pend = true →
      ∃ t, exec .evcHoldExpiry s = .next t ∧ t.evc.held = none ∧ t.evc.expired = true ∧ t.evc.latched = 0 ∧
        evPend t.evc n = evPend s.evc n ||| s.evc.latched ∧ ∀ k, k ≠ n → evPend t.evc k = evPend s.evc k) ∧
    (∀ (n : Fin 128) (v : Word), sparseWf 0 s.evc.prio = true → ∃ t, exec (.evcPrioWrite a n v) s = .next t ∧ t.mem = s.mem ∧
      t.evc.pend = s.evc.pend ∧ ∀ k, evPrio t.evc k = if k / 8 = n.val then v.toNat / 2 ^ (4 * (k % 8)) % 16 else evPrio s.evc k) ∧
    (∀ (n : Fin 256) (v : Word), sparseWf 0 s.evc.route = true → ∃ t, exec (.evcRouteWrite a n v) s = .next t ∧ t.mem = s.mem ∧
      t.evc.pend = s.evc.pend ∧
      ∀ k, evRoute t.evc k = if k / 4 = n.val then v.toNat / 2 ^ (8 * (k % 4)) % 128 else evRoute s.evc k) ∧
    (∀ (n : Fin 72) (v : Word), sparseWf {} s.evc.targets = true → ∃ t, exec (.evcThreshWrite a n v) s = .next t ∧
      (evTarget t.evc n).thresh = v.toNat % 16 ∧ (evTarget t.evc n).claims = (evTarget s.evc n).claims ∧
      t.mem = s.mem ∧ ∀ k, k ≠ n.val → evTarget t.evc k = evTarget s.evc k)

/-- CLAIM takes the best deliverable source, DONE pops it, SYNC ends. For a control core, or the host with its link up, when no
source was masked in the last 40 ns: CLAIM with no deliverable source of the target answers NONE and changes nothing else;
with one it answers its number and priority, clears its pending bit and pushes it; the source claimed is deliverable and none
of the target's deliverable sources has a higher priority; DONE of the innermost source pops it, any other sets DONE_ERR;
SYNC with no write waiting answers 0. Rows: EVC_CLAIM, EVC_DONE, EVC_SYNC. The model's own choices in this: assumptions 95,
96. (R456, R458, R464) -/
def Obligations.ClaimsNest : Prop :=
  ∀ (a : Fin 9) (t : Fin 72) (s : State), (a.val < 8 ∨ (hostUp s = true ∧ s.pow.st ≠ 2)) →
    let mine := (pendingSources s.evc).filter (fun k => evRoute s.evc k == t.val)
    (mine.filter (lateSource s) = [] →
      (mine.filter (deliverable s.evc) = [] →
        exec (.evcClaim a t) s = .next { s with reply := leBytes 4 (2 ^ 31) }) ∧
      (mine.filter (deliverable s.evc) ≠ [] → sparseWf {} s.evc.targets = true → sparseWf 0 s.evc.pend = true →
        ∃ k u, exec (.evcClaim a t) s = .next u ∧ k ∈ mine ∧ deliverable s.evc k = true ∧
          (∀ j ∈ mine, deliverable s.evc j = true → evPrio s.evc j ≤ evPrio s.evc k) ∧
          u.reply = leBytes 4 (k + evPrio s.evc k * 2 ^ 12) ∧
          evPend u.evc (k / 32) = evPend s.evc (k / 32) &&& ~~~(BitVec.ofNat 32 (2 ^ (k % 32))) ∧
          (evTarget u.evc t).claims = (k, evPrio s.evc k) :: (evTarget s.evc t).claims ∧ u.mem = s.mem)) ∧
    (∀ (src : BitVec 10), sparseWf {} s.evc.targets = true →
      (∀ p l, (evTarget s.evc t).claims = (src.toNat, p) :: l →
        ∃ u, exec (.evcDone a t src) s = .next u ∧ evTarget u.evc t = { evTarget s.evc t with claims := l } ∧ u.mem = s.mem) ∧
      ((∀ p l, (evTarget s.evc t).claims ≠ (src.toNat, p) :: l) →
        ∃ u, exec (.evcDone a t src) s = .next u ∧ evTarget u.evc t = { evTarget s.evc t with doneErr := true } ∧
          u.mem = s.mem)) ∧
    (s.evc.waits = [] → exec (.evcSync a) s = .next { s with
      reply := leBytes 4 0
      evc := { s.evc with maskedAt := [] } })

/-- Entries below LEVEL are counted as dropped, fatal ones are always written. A write of LOG_CTRL sets LEVEL. Writing an entry
of a severity below LEVEL, other than fatal, leaves every slot, LOG_WRITTEN and the events as they were and counts one in
LOG_DROPPED; every other entry, a fatal one always, stands in slot LOG_WRITTEN mod 2,048, and LOG_WRITTEN counts one more.
(R473) -/
def Obligations.LogKeepsItsLevel : Prop :=
  ∀ (sev : Nat) (code : Status) (src : Option Nat) (d : Nat) (data : List Byte) (s : State),
    let t := logE sev code src d data s
    (∀ v : Word, hostUp s = true → s.pow.st ≠ 2 →
      exec (.registerWrite 0 0x800004 v) s = .next { s with log := { s.log with level := v.toNat % 4 } }) ∧
    (sev < s.log.level → sev ≠ 3 → sev < 4 → t = { s with log := { s.log with dropped := wrap32 (s.log.dropped + 1) } }) ∧
    ((s.log.level ≤ sev ∨ sev = 3) → t.log.dropped = s.log.dropped ∧ t.log.written = wrap32 (s.log.written + 1) ∧
      (sparseWf none s.log.slots = true → sparseGet none t.log.slots (s.log.written % 2048) =
        some ⟨s.now, shoalTime s, statusCode code, src, sev, d, slice data 0 10⟩ ∧
        ∀ k, k ≠ s.log.written % 2048 → sparseGet none t.log.slots k = sparseGet none s.log.slots k))

/-- ISL_IDENT shows the island's place and number. For every island, whatever the state, ISL_IDENT of its register page reads its
column in [2:0], its row in [5:3], its atoll in [7:6], its index in [15:8], 1 in [19:16] in mesh columns 8 to 15 and 1 in
[23:20] in mesh rows 8 to 15, and zero above. (R30) -/
def Obligations.IslandsIdentifyThemselves : Prop :=
  ∀ (s : State) (a x y : Nat), a < 4 → x < 8 → y < 8 →
    readPf s (0x2000000 + a * 0x400000 + 4 * 0x40000 + (8 * y + x) * 0x1000) =
      x + 8 * y + 64 * a + 256 * (64 * a + 8 * y + x) + 65536 * (a % 2) + 1048576 * (a / 2)

/-- AUX_POWER_UP, AUX_LOSS, MAIN_IN_RANGE, DRAM_TRAINING_DONE, PERST_DEASSERT and HOST_LINK_REACHES_L0 complete. AUX_POWER_UP
without auxiliary is the cold power-up: kind 0, MR1 to MR7 zero, no domain, no DRAM byte, one log entry for the reset where
the identity is good; AUX_LOSS keeps nothing of the module but what lies outside it; main in range at the cold bring-up
starts training; when training ends every DRAM byte reads zero and the failed vaults and channels are out of service; the
release of PERST# lets the link train, and a training link reaches L0. The model's own choices in this: assumptions 4, 29,
99, 116. (R478, R491, R493, R537, R487, R106) -/
def Obligations.SuppliesAndLinkComeUp : Prop :=
  (∀ s : State, s.pow.auxOk = false → ∃ t, exec .auxPowerUp s = .next t ∧ t.pow.auxOk = true ∧ t.pow.lastReset = 0 ∧
    t.mem = [] ∧ t.doms = [] ∧ t.tasks = [] ∧ t.img.epoch = 0 ∧ t.host = s.host ∧ t.sec.mrs.drop 1 =
      List.replicate 7 (List.replicate 32 0) ∧ (Config.pufOk s.free = true → t.log.written = 1)) ∧
  (∀ s : State, s.pow.auxOk = true → ∃ t, exec .auxLoss s = .next t ∧ t.pow.auxOk = false ∧ t.mem = [] ∧ t.doms = [] ∧
    t.log = {} ∧ t.conf = {} ∧ t.host = s.host ∧ t.pending = s.pending) ∧
  (∀ s : State, s.pow.mainOk = false → s.pow.auxOk = true → s.pow.st = 0 → s.pow.tripped = false → s.pow.restore = none →
    ∃ t, exec .mainInRange s = .next t ∧ t.pow.mainOk = true ∧ t.pow.alive = true ∧ t.pow.training = true ∧
      t.pow.link = (if s.pow.perst then .down else .training) ∧ t.mem = s.mem) ∧
  (∀ (v : BitVec 256) (c : BitVec 16) (s : State), s.pow.training = true → s.pow.mainOk = true → s.pow.restore = none →
    s.img.waiting = false → ∃ t, exec (.dramTrainingDone v c) s = .next t ∧ t.pow.trained = true ∧ t.pow.training = false ∧
      t.pow.initing = true ∧
      t.mem = [] ∧ t.poison = [] ∧
      (sparseWf {} s.vaults = true → ∀ k, k < 256 → v.getLsbD k = true → (vaultAt t k).failed = true ∧ (vaultAt t k).untrained = true)) ∧
  (∀ s : State, s.pow.perst = true → s.pow.firstPerst = true → s.pow.alive = true →
    ∃ t, exec .perstDeassert s = .next t ∧ t.pow.perst = false ∧ t.pow.link = .training ∧ t.mem = s.mem ∧ t.doms = s.doms) ∧
  (∀ s : State, s.pow.link = .training → s.pow.alive = true →
    exec .hostLinkReachesL0 s = .next { s with pow := { s.pow with link := .up, wake := false } })

/-- Every reset of kinds 1 to 4 records its kind and clears the hub; only those that lose main power lose DRAM. Main loss and
overvoltage (with auxiliary, not in S4) are kind 1; a hot reset, a Data Link Down of a link in L0 and a later PERST# are kind
2; HUB_RESET with the right word and PEC, and PWR_RESET with 0xC0DE, are kind 3. After each, no task runs, HUB_LAST_RESET is
the kind and the restore waits; DRAM and poison are empty after kind 1 and as before after kinds 2 and 3; mirror store,
measurement registers and host memory are as before. WARM_RESTORE with main present and a good mirror store puts the stored
segments in force again. Rows: LINK_RESET, MAIN_LOSS, MAIN_OVERVOLTAGE. The model's own choices in this: assumptions 32, 101,
102. (R489, R490, R497, R502, R105, R106) -/
def Obligations.ResetsKeepWhatTheyMust : Prop :=
  (∀ s : State, s.pow.mainOk = true → s.pow.auxOk = true → s.pow.st ≠ 4 →
    ∀ c ∈ ([.mainLoss, .mainOvervoltage] : List Instr), ∃ t, exec c s = .next t ∧ t.pow.lastReset = 1 ∧ t.tasks = [] ∧
      t.mem = [] ∧ t.poison = [] ∧ t.mir = s.mir ∧ t.sec.mrs = s.sec.mrs ∧ t.host = s.host ∧ t.pow.restore.isSome = true ∧
      t.pow.mainOk = false) ∧
  (∀ (c : Instr) (k : Nat) (s : State),
    ((c = .linkReset .hotReset ∧ s.pow.link = .up ∧ k = 2) ∨
     (c = .linkReset .dataLinkDown ∧ s.pow.link = .up ∧ s.pow.perst = false ∧ k = 2) ∨
     (c = .linkReset .perst ∧ s.pow.perst = false ∧ s.pow.auxOk = true ∧ s.pow.st < 3 ∧ s.pow.seenMain = true ∧ k = 2) ∨
     (c = .hubReset 0xC0DE (some (pec (smbAddr false :: 0x51 :: leBytes 2 0xC0DE))) ∧ s.pow.auxOk = true ∧ k = 3) ∨
     (c = .pwrReset 0xC0DE ∧ hostUp s = true ∧ k = 3)) →
    ∃ t, exec c s = .next t ∧ t.pow.lastReset = k ∧ t.tasks = [] ∧ t.mem = s.mem ∧ t.poison = s.poison ∧ t.mir = s.mir ∧
      t.sec.mrs = s.sec.mrs ∧ t.host = s.host ∧ t.pow.restore.isSome = true ∧ t.sems = []) ∧
  (∀ (w : Word) (s : State), w ≠ 0xC0DE → hostUp s = true → exec (.pwrReset w) s = .next (wakeS2 s)) ∧
  (∀ (s : State) (r : Restore), s.pow.restore = some r → s.pow.mainOk = true → s.pow.tripped = false → s.pow.auxOk = true →
    s.mir.bad = false → ∃ t, exec .warmRestore s = .next t ∧ t.img.segs = s.mir.segs ∧ t.img.epoch = s.mir.epoch ∧
      t.conf = confOf s.mir.firmware s.mir.segs ∧ t.pow.restore = none ∧ t.mem = s.mem ∧ t.host = s.host)

/-- VF_FLR empties the VF's domain; PF_FLR that of every VF. With the host link up, VF_FLR of a VF whose domain is d, with no
group in progress, leaves d EMPTY with ZEROISING set and the VF's registers at their Cold values, no task of d in flight,
DRAM unchanged; PF_FLR leaves every VF's domain so and takes the staged image away. The model's own choices in this:
assumptions 18, 46. (R445, R446, R105) -/
def Obligations.FunctionResetsEndDomains : Prop :=
  (∀ (v : Fin 16) (s : State) (d : Nat), hostUp s = true → domOfVf s v = some d → s.img.cur = none →
    sparseWf {} s.vfs = true →
    ∃ t, exec (.vfFlr v) s = .next t ∧ domAt t d = { zeroising := true } ∧ vfAt t v = {} ∧ t.mem = s.mem ∧
      ∀ u ∈ t.tasks, u.desc.domain ≠ d) ∧
  (∀ (v : Fin 16) (s : State), hostUp s = true → domOfVf s v = none →
    exec (.vfFlr v) s = .next (setVf (wakeS2 s) v {})) ∧
  (∀ s : State, hostUp s = true → s.img.cur = none → sparseWf {} s.vfs = true → ∃ t, exec .pfFlr s = .next t ∧ t.img.staged = none ∧
    t.img.addr = 0 ∧ t.img.len = 0 ∧ t.pfMsix = [] ∧ t.mem = s.mem ∧
    ∀ v d, v < 16 → domOfVf s v = some d → domAt t d = { zeroising := true } ∧ vfAt t v = {})

/-- Power states are entered and left, islands doze and change clock. With the host link up: a request for S2 that the domains
and channels allow enters S2; for S3 or S4 with every domain EMPTY and none ZEROISING enters that state with DRAM empty; a
request that they forbid changes the target and status alone, with an info entry. MODULE_WAKE leaves S2 at once, S3 and S4
with main present, with the stored segments in force where the mirror store is good. POWER_WAKE with no PEC or a right one
does the same, and after a trip with every sensor cool it ends the trip. An idle island with DOZE set dozes once its delay
has passed; an island between two instructions whose clock differs from what it may use takes that. Rows:
ISLAND_CLOCK_CHANGE, POWER_REQUEST_S2, POWER_REQUEST_S3, POWER_REQUEST_S4, ISLAND_DOZE. The model's own choices in this:
assumptions 8, 103, 104, 144. (R484, R485, R486, R487, R488, R21) -/
def Obligations.PowerLadder : Prop :=
  (∀ s : State, hostUp s = true → let u := wakeS2 s
    (mayEnter u 2 = true → ∃ t, exec .powerRequestS2 s = .next t ∧ t.pow.st = 2 ∧ t.pow.status = .success ∧ t.mem = s.mem ∧
      t.doms = s.doms) ∧
    (∀ e ∈ ([(3, .powerRequestS3), (4, .powerRequestS4)] : List (Nat × Instr)), mayEnter u e.1 = true →
      ∃ t, exec e.2 s = .next t ∧ t.pow.st = e.1 ∧ t.mem = [] ∧ t.tasks = [] ∧ t.mir = s.mir) ∧
    (∀ e ∈ ([(2, .powerRequestS2), (3, .powerRequestS3), (4, .powerRequestS4)] : List (Nat × Instr)), mayEnter u e.1 = false →
      exec e.2 s = .next (logE 0 .powerStateRefused none 0xFF []
        { u with pow := { u.pow with target := e.1, status := .powerStateRefused } }))) ∧
  (∀ s : State, (s.pow.st = 2 → exec .moduleWake s = .next (raise 0x225 { s with pow := { s.pow with st := 0 } })) ∧
    (3 ≤ s.pow.st → s.pow.mainOk = true → ∃ t, exec .moduleWake s = .next t ∧ t.pow.st = 0 ∧ t.pow.wake = true ∧ t.mem = [] ∧
      t.img.segs = (if s.mir.bad then [] else s.mir.segs))) ∧
  (∀ (p : Option Byte) (s : State), s.pow.auxOk = true → (p = none ∨ p = some (pec [smbAddr false, 0x50])) →
    (s.pow.tripped = false → exec (.powerWake p) s = .next (wakeUp s)) ∧
    (s.pow.tripped = true → allCool s = true → exec (.powerWake p) s =
      .next { s with pow := { s.pow with tripped := false, therm := false } }) ∧
    (s.pow.tripped = true → allCool s = false → exec (.powerWake p) s = .next s)) ∧
  (∀ (i : Fin 256) (s : State), let x := islandAt s i
    (x.doze = true → x.task = none → x.dozing = false → x.idleSince + 1000 * s.conf.power.doze ≤ s.now →
      exec (.islandDoze i) s = .next (setIsland s i { x with dozing := true })) ∧
    (x.clkCurrent ≠ clkAllowed s x → atBoundary x = true →
      exec (.islandClockChange i) s = .next (setIsland s i { x with clkCurrent := clkAllowed s x })))

/-- THROTTLE_STEP, the temperature events and the trip complete. THROTTLE_STEP always completes, keeps the 1 ms average, and with
the average above the cap sets THROTTLE_CAP and moves one stage down where a stage is left (or reports the cap missed); with
the rails on, a die reading of THROTTLE_C or more sets the thermal throttle and THERM, one 3 °C below clears them, 110 °C
trips: reset kind 4, rails off, DRAM empty. A DRAM reading doubles or ends the refresh of its layer, and DRAM_C is the
hottest layer's; an inlet reading above 45 °C raises 0x227. Rows: DIE_TEMP_THROTTLE, THERMAL_TRIP, DRAM_OVERTEMP,
COOLANT_WARM. The model's own choices in this: assumption 104. (R480, R481, R488) -/
def Obligations.ThrottleAndTemperature : Prop :=
  (∀ (avg ms : BitVec 16) (s : State), ∃ t, exec (.throttleStep avg ms) s = .next t ∧ t.pow.avgW = ms.toNat ∧ t.mem = s.mem ∧
    t.tasks = s.tasks ∧
    (s.conf.power.cap < avg.toNat → t.pow.capThrottle = true ∧
      (stageDown { s with pow := { s.pow with avgW := ms.toNat, belowSince := none } } = none → t.pow.capMiss = true))) ∧
  (∀ (c : BitVec 8) (s : State), railsOn s = true →
    (110 ≤ c.toNat → ∃ t, exec (.dieTempThrottle c) s = .next t ∧ t.pow.tripped = true ∧ t.pow.therm = true ∧
      t.pow.lastReset = 4 ∧ t.mem = [] ∧ t.tasks = []) ∧
    (c.toNat < 110 → s.conf.power.throttle ≤ c.toNat → ∃ t, exec (.dieTempThrottle c) s = .next t ∧
      t.pow.thermThrottle = true ∧ t.pow.dieC = c.toNat ∧ t.pow.hot = decide (s.conf.power.throttle + 10 ≤ c.toNat) ∧
      t.mem = s.mem) ∧
    (c.toNat < 110 → c.toNat + 3 ≤ s.conf.power.throttle → ∃ t, exec (.dieTempThrottle c) s = .next t ∧
      t.pow.thermThrottle = false ∧ t.pow.therm = false ∧ t.mem = s.mem) ∧
    (∃ t, exec .thermalTrip s = .next t ∧ t.pow.tripped = true ∧ t.pow.therm = true ∧ t.pow.lastReset = 4 ∧ t.mem = [] ∧
      t.mir = s.mir)) ∧
  (∀ (l : Fin 8) (c : BitVec 8) (s : State), ∃ t, exec (.dramOvertemp l c) s = .next t ∧
    t.pow.layerC = sparseSet 0 s.pow.layerC l.val c.toNat ∧ t.pow.dramC = (t.pow.layerC.map (·.2)).foldl max 0 ∧
    t.pow.dramReg = t.pow.dramC ∧
    (l.val ∈ t.pow.hotLayers ↔ 85 < c.toNat) ∧ t.mem = s.mem ∧
    ∀ k, k ≠ l.val → (k ∈ t.pow.hotLayers ↔ k ∈ s.pow.hotLayers)) ∧
  (∀ (c : BitVec 8) (s : State),
    (45 < c.toNat → exec (.coolantWarm c) s = .next (raise 0x227 { s with pow := { s.pow with inletC := c.toNat, inletReg := c.toNat } })) ∧
    (c.toNat ≤ 45 → exec (.coolantWarm c) s = .next { s with pow := { s.pow with inletC := c.toNat, inletReg := c.toNat } }))

/-- Drift tracking, retraining, patrol scrub and the error clears complete. Drift tracking of a trained vault changes no data; a
retraining of a vault whose island no domain owns, or of a channel no domain has, begins when none runs, is refused with
RETRAIN_REFUSED and an informational log entry otherwise; while one runs KIND and INDEX alone are written; when it ends the
memory retrained reads zero, and all other DRAM as before; a scrub step goes on to the vault's next beat; CLEAR zeroes both
counts. Rows: PATROL_SCRUB, VLT_ECC_CLEAR, FAR_ECC_CLEAR, VAULT_DRIFT_TRACK, VAULT_RETRAIN, CHANNEL_RETRAIN, RETRAIN_DONE.
The model's own choices in this: assumptions 7, 33, 99, 100, 105. (R494, R495, R501, R71, R97, R549) -/
def Obligations.RetrainingAndScrub : Prop :=
  (∀ (v : Fin 256) (s : State), s.pow.trained = true → railsOn s = true → (vaultAt s v).retraining = false →
    (vaultAt s v).untrained = false →
    exec (.vaultDriftTrack v) s = .next (setVault s v { vaultAt s v with driftAt := s.now })) ∧
  (∀ (v : Fin 256) (s : State), hostUp s = true → s.pow.retBusy = false → s.pow.st ≠ 2 →
    ((islRec s v).owner = none → ∃ t, exec (.vaultRetrain v) s = .next t ∧ t.pow.retBusy = true ∧ t.mem = s.mem ∧
      vaultAt t v = { vaultAt s v with retraining := true }) ∧
    ((islRec s v).owner.isSome = true → exec (.vaultRetrain v) s = .next (logE 0 .retrainRefused none 0xFF [] { s with pow := { s.pow with
      retKind := 0, retIndex := v, retStatus := .retrainRefused } }))) ∧
  (∀ (c : Fin 16) (s : State), hostUp s = true → s.pow.retBusy = false → s.pow.st ≠ 2 →
    let taken := (List.range 16).any (fun d => (domRec s d).isSome && bit (memRec s d).channels c)
    (taken = false → ∃ t, exec (.channelRetrain c) s = .next t ∧ t.pow.retBusy = true ∧ t.mem = s.mem ∧
      chanAt t c = { chanAt s c with retraining := true }) ∧
    (taken = true → exec (.channelRetrain c) s = .next (logE 0 .retrainRefused none 0xFF [] { s with pow := { s.pow with
      retKind := 1, retIndex := c, retStatus := .retrainRefused } }))) ∧
  (∀ (v : Fin 256) (c : Fin 16) (s : State), hostUp s = true → s.pow.retBusy = true → s.pow.st ≠ 2 →
    exec (.vaultRetrain v) s = .next { s with pow := { s.pow with retKind := 0, retIndex := v } } ∧
    exec (.channelRetrain c) s = .next { s with pow := { s.pow with retKind := 1, retIndex := c } }) ∧
  (∀ (ok : Bool) (s : State), s.pow.retBusy = true → sparseWf 0 s.mem = true →
    let lo := if s.pow.retOp.1 = 0 then s.pow.retOp.2 * 2 ^ 30 else 2 ^ 40 + s.pow.retOp.2 * 2 ^ 36
    let n := if s.pow.retOp.1 = 0 then 2 ^ 30 else 2 ^ 36
    ∃ t, exec (.retrainDone ok) s = .next t ∧ t.pow.retBusy = false ∧
      t.pow.retStatus = (if ok then .success else .retrainFailed) ∧
      ∀ a, sparseGet 0 t.mem a = if lo ≤ a ∧ a < lo + n then 0 else sparseGet 0 s.mem a) ∧
  (∀ (v : Fin 256) (s : State), (vaultAt s v).scrubOn = true → (vaultAt s v).untrained = false →
    (vaultAt s v).retraining = false → s.pow.st < 3 → s.pow.mainOk = true → s.latent = [] → sparseWf {} s.vaults = true →
    ∃ t, exec (.patrolScrub v) s = .next t ∧ (vaultAt t v).scrubAt = ((vaultAt s v).scrubAt + 1) % 2 ^ 24 ∧ t.mem = s.mem ∧
      t.poison = s.poison) ∧
  (∀ (v : Fin 256) (c : Fin 16) (s : State), hostUp s = true →
    (sparseWf {} s.vaults = true → ∃ t, exec (.vltEccClear v) s = .next t ∧ t.mem = s.mem ∧
      (vaultAt t v).ecc = { (vaultAt s v).ecc with corrected := 0, uncorrected := 0, valid := false }) ∧
    (sparseWf {} s.chans = true → ∃ t, exec (.farEccClear c) s = .next t ∧ t.mem = s.mem ∧
      (chanAt t c).ecc = { (chanAt s c).ecc with corrected := 0, uncorrected := 0, valid := false }))

/-- MR_EXTEND, the DOE requests, DEBUG_EXPIRY and the SMBus reads complete. With the host link up: SEC_EXT GO naming MR6 or MR7
extends that register with SEC_EXT_DATA and logs it, naming another it sets ERROR and extends nothing; GET_IDENTITY and
GET_REPORT answer IDENTITY_FAILED without an identity, otherwise the key, version and root hash, or the 512 signed bytes and
their signature; GET_LOG answers at most COUNT entries from FIRST; a request with a reserved byte set, or COUNT 0 or above
64, is answered DOE_REQUEST_BAD; an open debug window whose lifetime has ended closes. With auxiliary power, LOG_STATUS
answers LOG_WRITTEN and LOG_DROPPED, LOG_ENTRY the 32 bytes of its slot (a slot above 2,047 is answered with NAK, an empty
reply), MODULE_STATUS its eight bytes, each as a block with its count first; without auxiliary the reply is empty; nothing
else changes. The model's own choices in this: assumptions 29, 93, 98, 106. (R475, R538, R539, R508, R510, R515, R516, R521,
R525) -/
def Obligations.RequestsAndReportsAnswer : Prop :=
  (∀ (m : BitVec 3) (s : State), hostUp s = true → let u := wakeS2 s
    let v := { u with sec := { u.sec with extMr := m.toNat } }
    (6 ≤ m.toNat → exec (.mrExtend m) s = .next (extendMr m.toNat 6 0 0 (wordBytes u.sec.extData) v)) ∧
    (m.toNat < 6 → exec (.mrExtend m) s = .next { v with sec := { v.sec with extErr := true } })) ∧
  (∀ (r : BitVec 24) (n : BitVec 256) (f : BitVec 32) (k : BitVec 16) (s : State), hostUp s = true → let u := wakeS2 s
    let bad := doe .doeRequestBad [] u
    (r ≠ 0 → exec (.getIdentity r) s = .next bad ∧ exec (.getReport r n) s = .next bad ∧ exec (.getLog r f k) s = .next bad) ∧
    ((k.toNat = 0 ∨ 64 < k.toNat) → exec (.getLog r f k) s = .next bad) ∧
    (r = 0 → 1 ≤ k.toNat → k.toNat ≤ 64 →
      exec (.getLog r f k) s = .next (doe .success ((u.sec.log.drop f.toNat).take k.toNat).flatten u)) ∧
    (r = 0 → s.sec.idOk = false → exec (.getIdentity r) s = .next (doe .identityFailed [] u) ∧
      exec (.getReport r n) s = .next (doe .identityFailed [] u)) ∧
    (r = 0 → s.sec.idOk = true →
      exec (.getIdentity r) s = .next (doe .success
        (deviceKey.pub ++ leBytes 8 Config.bootRomVersion.toNat ++ rootHash) u) ∧
      ∃ t, exec (.getReport r n) s = .next t ∧ t.mem = s.mem ∧ t.sec = s.sec ∧
        t.reply.take 4 = [0, 0, 0, 0] ∧ t.reply.length = 4 + 512 + 2420 ∧
        (t.reply.drop 4).take 512 = reportBytes u (leBytes 32 n.toNat))) ∧
  (∀ s : State, debugOver s = true → ∃ t, exec .debugExpiry s = .next t ∧ t.sec.dbg = none ∧ t.mem = s.mem) ∧
  (∀ s : State, s.pow.auxOk = true →
    exec .logStatus s = .next { s with reply := smbBlock 0x40 [] (leBytes 4 s.log.written ++ leBytes 4 s.log.dropped) } ∧
    (∀ n : BitVec 16, n.toNat ≤ 2047 → exec (.logEntry n) s = .next { s with
      reply := smbBlock 0x41 (2 :: leBytes 2 n.toNat) (logBytes (sparseGet none s.log.slots n.toNat)) }) ∧
    (∀ n : BitVec 16, 2047 < n.toNat → exec (.logEntry n) s = .next { s with reply := [] }) ∧
    exec .moduleStatus s = .next { s with reply := smbBlock 0x10 [] (moduleStatus s) }) ∧
  (∀ s : State, s.pow.auxOk = false → exec .logStatus s = .next { s with reply := [] } ∧
    (∀ n, exec (.logEntry n) s = .next { s with reply := [] }) ∧ exec .moduleStatus s = .next { s with reply := [] })

/-- Extending MR m replaces it with SHA3-256 of itself and the digest. Extending register m below 8 of a good register file
leaves at m the SHA3-256 of the old value followed by the digest and every other register as it was; with room in the log one
entry with the register, its kind and the digest stands at its end; a full log keeps its 512 entries and LOG_OVERFLOW is set.
The model's own choices in this: assumptions 28, 106. (R507, R510) -/
def Obligations.ExtensionHashesTheRegister : Prop :=
  ∀ (m kind core version : Nat) (d : List Byte) (s : State), m < 8 → s.sec.mrs.length = 8 → d.length = 32 →
    let t := extendMr m kind core version d s
    t.sec.mrs.length = 8 ∧ t.sec.mrs[m]? = (s.sec.mrs[m]?).map (fun r => sha3 (r ++ d)) ∧
    (∀ k, k ≠ m → t.sec.mrs[k]? = s.sec.mrs[k]?) ∧ t.mem = s.mem ∧ t.host = s.host ∧ t.doms = s.doms ∧
    (s.sec.log.length < 512 → t.sec.log = s.sec.log ++ [measureEntry m kind core version d] ∧
      t.sec.overflow = s.sec.overflow ∧ slice (measureEntry m kind core version d) 16 32 = d) ∧
    (512 ≤ s.sec.log.length → t.sec.log = s.sec.log ∧ t.sec.overflow = true)

/-- A REGISTER_WRITE completes, and writable fields read back. With the host link up and the module not in S2, a write of
HUB_IMG_ADDR, HUB_IMG_LEN, LOG_CTRL, SEC_EXT_DATA, or of the base of a disabled submission ring changes that register alone
and reads back, reserved and low base bits as zero; a write to LOG_WRITTEN or to reserved space changes nothing. The model's
own choices in this: assumptions 10, 92. (R7, R428, R450, R56, R476, R525) -/
def Obligations.RegistersReadBack : Prop :=
  ∀ (v : Word) (s : State), hostUp s = true → s.pow.st ≠ 2 →
    (∃ t, exec (.registerWrite 0 0x200 v) s = .next t ∧ readPf t 0x200 = v.toNat ∧ readPf t 0x204 = readPf s 0x204 ∧
      t = { s with img := t.img }) ∧
    (∃ t, exec (.registerWrite 0 0x208 v) s = .next t ∧ readPf t 0x208 = v.toNat ∧ t = { s with img := t.img }) ∧
    (∃ t, exec (.registerWrite 0 0x800004 v) s = .next t ∧ readPf t 0x800004 = v.toNat % 4 ∧ t = { s with log := t.log }) ∧
    exec (.registerWrite 0 0x800000 v) s = .next s ∧
    exec (.registerWrite 0 0x1C00000 v) s = .next s ∧
    (∀ n, n < 8 → n < s.sec.extData.length → ∃ t, exec (.registerWrite 0 (BitVec.ofNat 26 (0x1800200 + 4 * n)) v) s = .next t ∧
      readPf t (0x1800200 + 4 * n) = v.toNat ∧ t = { s with sec := t.sec }) ∧
    (∀ (f : Fin 16) (q : Nat), q < 8 → bit (sqAt s f q).ctrl 0 = false → q < (vfAt s f).sqs.length → sparseWf {} s.vfs = true →
      ∃ t, exec (.registerWrite f.succ (BitVec.ofNat 26 (0x1000 + 64 * q)) v) s = .next t ∧
        readVf t f (0x1000 + 64 * q) = v.toNat / 4096 * 4096 ∧ t.mem = s.mem ∧
        ∀ g : Fin 16, g ≠ f → vfAt t g = vfAt s g)

/-- Elements of a zero block decode as zero, and their markers are not counted. Element i of a narrow burst: in a block marked
zero it is zero, whatever payload and scale hold; a marker outside such blocks takes the outlier slot whose number is how
many markers outside such blocks stand before it, or zero when there are fewer slots; any other element is its level in its
block's scale. (R125) -/
def Obligations.ZeroBlocksAndMarkers : Prop :=
  ∀ (l : Layout) (b : List Byte) (i : Nat), i < groupSize l →
    let zero := fun k => zeroBlock (burstHdr b) (k / blockSize l)
    let marker := fun k => !(zero k) && isMarker l (elemCode l b k)
    let j := ((List.range i).filter marker).length
    (decodeBurst l b)[i]? = some (if zero i then ⟨vzero, false⟩
      else if marker i then ⟨if j < bits (burstHdr b) 6 4 then outlierSlot l b j else vzero, true⟩
      else ⟨scaleElem l (scaleByte b (i / blockSize l)) (elemCode l b i), false⟩)

/-- The state after the cold power-up. After reset: no segment in force, HUB_EPOCH, digest and PHASE zero; every domain EMPTY; no
island runs a task; every DRAM byte zero and unpoisoned; every event masked, none pending, every priority and threshold zero;
the last reset kind 0 with one log entry; MR0 the extension of zeros by the boot ROM's digest, MR1 to MR7 zero; the queue
empty. The model's own choices in this: assumptions 4, 13, 28, 99. (R41, R60, R106, R440, R467, R491, R507, R508) -/
def Obligations.ResetState : Prop :=
  State.reset.pending = [] ∧ State.reset.img.segs = [] ∧ readPf State.reset 0x214 = 0 ∧
  (∀ n, n < 8 → readPf State.reset (0x220 + 4 * n) = 0) ∧ State.reset.img.phase = 0 ∧
  (∀ d, (domAt State.reset d).st = .empty) ∧ (∀ i, (islandAt State.reset i).task = none) ∧ State.reset.tasks = [] ∧
  (∀ a, sparseGet 0 State.reset.mem a = 0 ∧ sparseGet false State.reset.poison a = false) ∧
  (∀ n, evPend State.reset.evc n = 0 ∧ evMask State.reset.evc n = BitVec.allOnes 32 ∧ evPrio State.reset.evc n = 0 ∧
    (evTarget State.reset.evc n).thresh = 0) ∧
  State.reset.pow.lastReset = 0 ∧ State.reset.log.written = 1 ∧
  State.reset.sec.mrs = sha3 (List.replicate 32 0 ++ (List.range 32).map Config.bootRomDigest) ::
    List.replicate 7 (List.replicate 32 0)

/-- The reset state's memory and tables are canonical. DRAM, host memory, poison marks and the other sparse tables of the reset
state have their keys strictly rising and list no default. The model's own choices in this: assumption 4. (R64, R106) -/
def Obligations.ResetIsCanonical : Prop :=
  Safety.MemCanon State.reset ∧ Safety.TablesCanon State.reset

/-- Every step keeps DRAM, host memory and the poison marks canonical. From every state whose DRAM, host memory and poison marks
are canonical (keys strictly rising, no default listed), whatever command stands first and whatever the free values are, a
step's next state has them canonical too. The model's own choices in this: assumptions 2, 46. (R64, R69, R106) -/
def Obligations.StepsKeepMemoryCanonical : Prop :=
  ∀ s t : State, Safety.MemCanon s → step s = .next t → Safety.MemCanon t

/-- Every step keeps the sparse tables canonical. From every state whose tables of reefs, domains, functions, vaults, channels,
islands, receive FIFOs, codec channels, event controller and log are canonical, whatever command stands first and whatever
the free values are, a step's next state has them canonical too. The model's own choices in this: assumption 2. (R78, R184,
R456) -/
def Obligations.StepsKeepTablesCanonical : Prop :=
  ∀ s t : State, Safety.TablesCanon s → step s = .next t → Safety.TablesCanon t
end

