-- ==== Sys2Proof/Laws/Sparse.lean ====
section
/-!
SUPPORT. The laws of sparse tables: what reading gives after each operation, and that each keeps the canonical form (keys
strictly rising, none at its default). DRAM, host memory and poison marks are such tables.
-/
namespace Sys2Proof.Machine

section Read
variable {α : Type} [DecidableEq α] (d : α)

omit [DecidableEq α] in
theorem sparseGet_erase_ne (m : Sparse α) {a b : Nat} (h : a ≠ b) : sparseGet d (sparseErase m a) b = sparseGet d m b := by
  induction m with
  | nil => rfl
  | cons e t ih =>
    obtain ⟨k, v⟩ := e
    by_cases hk : a = k
    · subst hk; simp [sparseErase, sparseGet, Ne.symm h]
    · simp [sparseErase, sparseGet, hk, ih]

omit [DecidableEq α] in
theorem sparseGet_insert (m : Sparse α) (a b : Nat) (v : α) :
    sparseGet d (sparseInsert m a v) b = if b = a then v else sparseGet d m b := by
  induction m with
  | nil => simp [sparseInsert, sparseGet]
  | cons e t ih =>
    obtain ⟨k, w⟩ := e
    simp only [sparseInsert]
    split
    · simp [sparseGet]
    · split
      · rename_i hk; simp only [← hk, sparseGet]; split <;> rfl
      · simp only [sparseGet, ih]; split <;> split <;> first | rfl | omega

theorem sparseGet_set_ne (m : Sparse α) {a b : Nat} (v : α) (h : b ≠ a) :
    sparseGet d (sparseSet d m a v) b = sparseGet d m b := by
  unfold sparseSet; split
  · exact sparseGet_erase_ne d m (Ne.symm h)
  · rw [sparseGet_insert, if_neg h]

/-- A value other than the default reads back, whatever the table's form. -/
theorem sparseGet_set_self (m : Sparse α) (a : Nat) {v : α} (h : v ≠ d) : sparseGet d (sparseSet d m a v) a = v := by
  simp [sparseSet, h, sparseGet_insert]

omit [DecidableEq α] in
theorem sparseGet_rising (m : Sparse α) {lo a : Nat} (h : risingFrom lo m = true) (ha : a < lo) : sparseGet d m a = d := by
  induction m generalizing lo with
  | nil => rfl
  | cons e t ih =>
    obtain ⟨k, v⟩ := e
    simp only [risingFrom, Bool.and_eq_true, decide_eq_true_eq] at h
    simp only [sparseGet]
    rw [if_neg (by omega)]
    exact ih h.2 (by omega)

omit [DecidableEq α] in
theorem sparseGet_erase_same (m : Sparse α) (a : Nat) {lo : Nat} (h : risingFrom lo m = true) :
    sparseGet d (sparseErase m a) a = d := by
  induction m generalizing lo with
  | nil => rfl
  | cons e t ih =>
    obtain ⟨k, v⟩ := e
    simp only [risingFrom, Bool.and_eq_true, decide_eq_true_eq] at h
    simp only [sparseErase]
    split
    · subst_vars; exact sparseGet_rising d t h.2 (by omega)
    · rename_i hk; simp only [sparseGet]; rw [if_neg hk]; exact ih h.2

theorem sparseGet_set (m : Sparse α) (h : sparseWf d m = true) (a b : Nat) (v : α) :
    sparseGet d (sparseSet d m a v) b = if b = a then v else sparseGet d m b := by
  by_cases hb : b = a
  · subst hb
    rw [if_pos rfl]; unfold sparseSet; split
    · subst_vars; exact sparseGet_erase_same _ m b (Bool.and_eq_true _ _ ▸ h).1
    · rw [sparseGet_insert, if_pos rfl]
  · rw [if_neg hb]; exact sparseGet_set_ne d m v hb

omit [DecidableEq α] in
theorem sparseGet_clear (m : Sparse α) (a n b : Nat) :
    sparseGet d (sparseClear m a n) b = if a ≤ b ∧ b < a + n then d else sparseGet d m b := by
  induction m with
  | nil => simp [sparseClear, sparseGet]
  | cons e t ih =>
    obtain ⟨k, v⟩ := e
    simp only [sparseClear, List.filter_cons] at ih ⊢
    by_cases hk : k < a ∨ a + n ≤ k
    · have : (decide (k < a) || decide (a + n ≤ k)) = true := by simpa using hk
      simp only [this, if_true, sparseGet, ih]
      by_cases hb : b = k
      · subst hb; rw [if_pos rfl, if_pos rfl, if_neg (by omega)]
      · simp [hb]
    · have : (decide (k < a) || decide (a + n ≤ k)) = false := by simpa using hk
      simp only [this]
      by_cases hb : b = k
      · subst hb; simp only [Bool.false_eq_true, if_false, ih]; rw [if_pos (by omega), if_pos (by omega)]
      · simpa [sparseGet, hb] using ih

end Read

section Form
variable {α : Type} [DecidableEq α] (d : α)

theorem sparseWf_nil : sparseWf d ([] : Sparse α) = true := rfl

omit [DecidableEq α] in
theorem risingFrom_mono {lo lo' : Nat} (m : Sparse α) (h : risingFrom lo m = true) (hl : lo' ≤ lo) :
    risingFrom lo' m = true := by
  cases m with
  | nil => rfl
  | cons e t =>
    obtain ⟨k, v⟩ := e
    simp only [risingFrom, Bool.and_eq_true, decide_eq_true_eq] at h ⊢
    exact ⟨by omega, h.2⟩

omit [DecidableEq α] in
theorem risingFrom_filter (m : Sparse α) (p : Nat × α → Bool) (lo : Nat) (h : risingFrom lo m = true) :
    risingFrom lo (m.filter p) = true := by
  induction m generalizing lo with
  | nil => rfl
  | cons e t ih =>
    obtain ⟨k, v⟩ := e
    simp only [risingFrom, Bool.and_eq_true, decide_eq_true_eq] at h
    simp only [List.filter_cons]
    split
    · simp only [risingFrom, Bool.and_eq_true, decide_eq_true_eq]; exact ⟨h.1, ih _ h.2⟩
    · exact risingFrom_mono _ (ih _ h.2) (by omega)

theorem sparseWf_filter (m : Sparse α) (p : Nat × α → Bool) (h : sparseWf d m = true) : sparseWf d (m.filter p) = true := by
  simp only [sparseWf, Bool.and_eq_true, List.all_eq_true] at h ⊢
  exact ⟨risingFrom_filter m p 0 h.1, fun e he => h.2 e (List.mem_filter.1 he).1⟩

omit [DecidableEq α] in
theorem risingFrom_insert (m : Sparse α) (a : Nat) (v : α) (lo : Nat) (h : risingFrom lo m = true) (ha : lo ≤ a) :
    risingFrom lo (sparseInsert m a v) = true := by
  induction m generalizing lo with
  | nil => simp [sparseInsert, risingFrom, ha]
  | cons e t ih =>
    obtain ⟨k, w⟩ := e
    simp only [risingFrom, Bool.and_eq_true, decide_eq_true_eq] at h
    simp only [sparseInsert]
    split
    · simp only [risingFrom, Bool.and_eq_true, decide_eq_true_eq]; exact ⟨ha, by omega, h.2⟩
    · split
      · subst_vars; simp only [risingFrom, Bool.and_eq_true, decide_eq_true_eq]; exact ⟨ha, h.2⟩
      · simp only [risingFrom, Bool.and_eq_true, decide_eq_true_eq]; exact ⟨h.1, ih _ h.2 (by omega)⟩

omit [DecidableEq α] in
theorem mem_insert {m : Sparse α} {a : Nat} {v : α} {e : Nat × α} (h : e ∈ sparseInsert m a v) : e = (a, v) ∨ e ∈ m := by
  induction m with
  | nil => simpa [sparseInsert] using h
  | cons x t ih =>
    obtain ⟨k, w⟩ := x
    simp only [sparseInsert] at h
    split at h
    · simpa using h
    · split at h
      · rcases List.mem_cons.1 h with h | h <;> simp [h]
      · rcases List.mem_cons.1 h with h | h
        · simp [h]
        · rcases ih h with h | h <;> simp [h]

omit [DecidableEq α] in
theorem risingFrom_erase (m : Sparse α) (a lo : Nat) (h : risingFrom lo m = true) : risingFrom lo (sparseErase m a) = true := by
  induction m generalizing lo with
  | nil => rfl
  | cons e t ih =>
    obtain ⟨k, v⟩ := e
    simp only [risingFrom, Bool.and_eq_true, decide_eq_true_eq] at h
    simp only [sparseErase]
    split
    · exact risingFrom_mono _ h.2 (by omega)
    · simp only [risingFrom, Bool.and_eq_true, decide_eq_true_eq]; exact ⟨h.1, ih _ h.2⟩

omit [DecidableEq α] in
theorem mem_erase {m : Sparse α} {a : Nat} {e : Nat × α} (h : e ∈ sparseErase m a) : e ∈ m := by
  induction m with
  | nil => exact h
  | cons x t ih =>
    obtain ⟨k, v⟩ := x
    simp only [sparseErase] at h
    split at h
    · exact List.mem_cons_of_mem _ h
    · rcases List.mem_cons.1 h with h | h
      · simp [h]
      · exact List.mem_cons_of_mem _ (ih h)

theorem sparseWf_erase (m : Sparse α) (a : Nat) (h : sparseWf d m = true) : sparseWf d (sparseErase m a) = true := by
  simp only [sparseWf, Bool.and_eq_true, List.all_eq_true] at h ⊢
  exact ⟨risingFrom_erase m a 0 h.1, fun e he => h.2 e (mem_erase he)⟩

theorem sparseWf_set (m : Sparse α) (a : Nat) (v : α) (h : sparseWf d m = true) : sparseWf d (sparseSet d m a v) = true := by
  unfold sparseSet; split
  · exact sparseWf_erase d m a h
  · rename_i hv
    simp only [sparseWf, Bool.and_eq_true, List.all_eq_true] at h ⊢
    refine ⟨risingFrom_insert m a v 0 h.1 (Nat.zero_le _), fun e he => ?_⟩
    rcases mem_insert he with rfl | he
    · simpa using hv
    · exact h.2 e he

theorem sparseWf_clear (m : Sparse α) (a n : Nat) (h : sparseWf d m = true) : sparseWf d (sparseClear m a n) = true :=
  sparseWf_filter d m _ h

theorem sparseWf_copy (m : Sparse α) (src dst n : Nat) (h : sparseWf d m = true) :
    sparseWf d (sparseCopy d m src dst n) = true := by
  unfold sparseCopy
  generalize sparseIn m src n = l
  have h0 := sparseWf_clear d m dst n h
  generalize sparseClear m dst n = acc at h0
  induction l generalizing acc with
  | nil => exact h0
  | cons e t ih => exact ih _ (sparseWf_set d acc _ _ h0)

omit [DecidableEq α] in
theorem risingFrom_map (m : Sparse α) (f : α → α) (lo : Nat) (h : risingFrom lo m = true) :
    risingFrom lo (m.map (fun e => (e.1, f e.2))) = true := by
  induction m generalizing lo with
  | nil => rfl
  | cons e t ih =>
    obtain ⟨k, v⟩ := e
    simp only [risingFrom, List.map_cons, Bool.and_eq_true, decide_eq_true_eq] at h ⊢
    exact ⟨h.1, ih _ h.2⟩

theorem sparseWf_map (m : Sparse α) (f : α → α) (h : sparseWf d m = true) : sparseWf d (sparseMap d m f) = true := by
  simp only [sparseWf, sparseMap, Bool.and_eq_true, List.all_eq_true] at h ⊢
  exact ⟨risingFrom_filter _ _ 0 (risingFrom_map m f 0 h.1), fun e he => (List.mem_filter.1 he).2⟩

/-- Reading after a map that leaves the default where it is. -/
theorem sparseGet_map (m : Sparse α) (f : α → α) (hf : f d = d) (h : sparseWf d m = true) (a : Nat) :
    sparseGet d (sparseMap d m f) a = f (sparseGet d m a) := by
  simp only [sparseWf, Bool.and_eq_true] at h
  obtain ⟨h, -⟩ := h
  revert h; generalize (0 : Nat) = lo; intro h
  induction m generalizing lo with
  | nil => simp [sparseMap, sparseGet, hf]
  | cons e t ih =>
    obtain ⟨k, v⟩ := e
    simp only [risingFrom, Bool.and_eq_true, decide_eq_true_eq] at h
    have ih := ih _ h.2
    simp only [sparseMap, List.map_cons, List.filter_cons] at ih ⊢
    split
    · simp only [sparseGet, ih]; split <;> rfl
    · rename_i hv
      rw [ih]
      by_cases ha : a = k
      · subst ha
        have hv : f v = d := by simpa using hv
        simp [sparseGet, hv, sparseGet_rising d t h.2 (Nat.lt_succ_self a), hf]
      · simp [sparseGet, ha]

end Form

/-! ### Bytes in DRAM and host memory -/

theorem memPut_wf (b : List Byte) (m : Sparse Byte) (a : Nat) (h : sparseWf 0 m = true) : sparseWf 0 (memPut m a b) = true := by
  induction b generalizing m a with
  | nil => exact h
  | cons x t ih => exact ih _ _ (sparseWf_set 0 m a x h)

theorem hostWrite_wf (b : List Byte) (m : Sparse Byte) (a : Nat) (h : sparseWf 0 m = true) :
    sparseWf 0 (hostWrite m a b) = true := by
  induction b generalizing m a with
  | nil => exact h
  | cons x t ih => exact ih _ _ (sparseWf_set 0 m a x h)

theorem ringPut_wf (b : List Byte) (m : Sparse Byte) (base size w : Nat) (h : sparseWf 0 m = true) :
    sparseWf 0 (ringPut m base size w b) = true := by
  unfold ringPut
  generalize b.zipIdx = l
  induction l generalizing m with
  | nil => exact h
  | cons x t ih => exact ih _ (sparseWf_set 0 m _ _ h)

/-- A byte after a store: the stored one inside the range, the old one outside. -/
theorem memPut_get (b : List Byte) (m : Sparse Byte) (a k : Nat) (h : sparseWf 0 m = true) :
    sparseGet 0 (memPut m a b) k = if a ≤ k ∧ k < a + b.length then b.getD (k - a) 0 else sparseGet 0 m k := by
  induction b generalizing m a with
  | nil => simp [memPut] <;> omega
  | cons x t ih =>
    simp only [memPut]
    rw [ih _ _ (sparseWf_set 0 m a x h), sparseGet_set 0 m h]
    by_cases hk : k = a
    · subst hk; rw [if_neg (by omega), if_pos rfl, if_pos (by simp only [List.length_cons]; omega)]; simp
    · by_cases h1 : a ≤ k ∧ k < a + (x :: t).length
      · simp only [List.length_cons] at h1
        rw [if_pos (by omega), if_pos (by simp only [List.length_cons]; omega)]
        have : k - a = (k - (a + 1)) + 1 := by omega
        rw [this, List.getD_cons_succ]
      · simp only [List.length_cons] at h1 ⊢
        rw [if_neg (by omega), if_neg h1, if_neg hk]

theorem hostWrite_get (b : List Byte) (m : Sparse Byte) (a k : Nat) (h : sparseWf 0 m = true) :
    sparseGet 0 (hostWrite m a b) k = if a ≤ k ∧ k < a + b.length then b.getD (k - a) 0 else sparseGet 0 m k := by
  induction b generalizing m a with
  | nil => simp [hostWrite] <;> omega
  | cons x t ih =>
    simp only [hostWrite]
    rw [ih _ _ (sparseWf_set 0 m a x h), sparseGet_set 0 m h]
    by_cases hk : k = a
    · subst hk; rw [if_neg (by omega), if_pos rfl, if_pos (by simp only [List.length_cons]; omega)]; simp
    · by_cases h1 : a ≤ k ∧ k < a + (x :: t).length
      · simp only [List.length_cons] at h1
        rw [if_pos (by omega), if_pos (by simp only [List.length_cons]; omega)]
        have : k - a = (k - (a + 1)) + 1 := by omega
        rw [this, List.getD_cons_succ]
      · simp only [List.length_cons] at h1 ⊢
        rw [if_neg (by omega), if_neg h1, if_neg hk]

end Sys2Proof.Machine
end

