-- ==== Sys2Proof/Laws/State.lean ====
section
/-!
SUPPORT. One lemma for each field of State under each update, so that no proof unfolds a record update.
-/
namespace Sys2Proof.Machine

@[simp] theorem takeFree_pending (s : State) : (takeFree s).pending = s.pending := rfl
@[simp] theorem takeFree_now (s : State) : (takeFree s).now = s.now := rfl
@[simp] theorem takeFree_ticks (s : State) : (takeFree s).ticks = s.ticks := rfl
@[simp] theorem takeFree_conf (s : State) : (takeFree s).conf = s.conf := rfl
@[simp] theorem takeFree_img (s : State) : (takeFree s).img = s.img := rfl
@[simp] theorem takeFree_mir (s : State) : (takeFree s).mir = s.mir := rfl
@[simp] theorem takeFree_cores (s : State) : (takeFree s).cores = s.cores := rfl
@[simp] theorem takeFree_evc (s : State) : (takeFree s).evc = s.evc := rfl
@[simp] theorem takeFree_log (s : State) : (takeFree s).log = s.log := rfl
@[simp] theorem takeFree_vfs (s : State) : (takeFree s).vfs = s.vfs := rfl
@[simp] theorem takeFree_pfMsix (s : State) : (takeFree s).pfMsix = s.pfMsix := rfl
@[simp] theorem takeFree_doms (s : State) : (takeFree s).doms = s.doms := rfl
@[simp] theorem takeFree_tasks (s : State) : (takeFree s).tasks = s.tasks := rfl
@[simp] theorem takeFree_order (s : State) : (takeFree s).order = s.order := rfl
@[simp] theorem takeFree_rot (s : State) : (takeFree s).rot = s.rot := rfl
@[simp] theorem takeFree_sems (s : State) : (takeFree s).sems = s.sems := rfl
@[simp] theorem takeFree_bars (s : State) : (takeFree s).bars = s.bars := rfl
@[simp] theorem takeFree_islands (s : State) : (takeFree s).islands = s.islands := rfl
@[simp] theorem takeFree_flights (s : State) : (takeFree s).flights = s.flights := rfl
@[simp] theorem takeFree_fifos (s : State) : (takeFree s).fifos = s.fifos := rfl
@[simp] theorem takeFree_vaults (s : State) : (takeFree s).vaults = s.vaults := rfl
@[simp] theorem takeFree_chans (s : State) : (takeFree s).chans = s.chans := rfl
@[simp] theorem takeFree_mem (s : State) : (takeFree s).mem = s.mem := rfl
@[simp] theorem takeFree_host (s : State) : (takeFree s).host = s.host := rfl
@[simp] theorem takeFree_poison (s : State) : (takeFree s).poison = s.poison := rfl
@[simp] theorem takeFree_latent (s : State) : (takeFree s).latent = s.latent := rfl
@[simp] theorem takeFree_mig (s : State) : (takeFree s).mig = s.mig := rfl
@[simp] theorem takeFree_dspKills (s : State) : (takeFree s).dspKills = s.dspKills := rfl
@[simp] theorem takeFree_dspPins (s : State) : (takeFree s).dspPins = s.dspPins := rfl
@[simp] theorem takeFree_codec (s : State) : (takeFree s).codec = s.codec := rfl
@[simp] theorem takeFree_net (s : State) : (takeFree s).net = s.net := rfl
@[simp] theorem takeFree_pow (s : State) : (takeFree s).pow = s.pow := rfl
@[simp] theorem takeFree_sec (s : State) : (takeFree s).sec = s.sec := rfl
@[simp] theorem takeFree_sent (s : State) : (takeFree s).sent = s.sent := rfl
@[simp] theorem takeFree_reply (s : State) : (takeFree s).reply = s.reply := rfl

@[simp] theorem setIsland_pending (s : State) (i : Nat) (v : Island) : (setIsland s i v).pending = s.pending := rfl
@[simp] theorem setIsland_now (s : State) (i : Nat) (v : Island) : (setIsland s i v).now = s.now := rfl
@[simp] theorem setIsland_ticks (s : State) (i : Nat) (v : Island) : (setIsland s i v).ticks = s.ticks := rfl
@[simp] theorem setIsland_free (s : State) (i : Nat) (v : Island) : (setIsland s i v).free = s.free := rfl
@[simp] theorem setIsland_conf (s : State) (i : Nat) (v : Island) : (setIsland s i v).conf = s.conf := rfl
@[simp] theorem setIsland_img (s : State) (i : Nat) (v : Island) : (setIsland s i v).img = s.img := rfl
@[simp] theorem setIsland_mir (s : State) (i : Nat) (v : Island) : (setIsland s i v).mir = s.mir := rfl
@[simp] theorem setIsland_cores (s : State) (i : Nat) (v : Island) : (setIsland s i v).cores = s.cores := rfl
@[simp] theorem setIsland_evc (s : State) (i : Nat) (v : Island) : (setIsland s i v).evc = s.evc := rfl
@[simp] theorem setIsland_log (s : State) (i : Nat) (v : Island) : (setIsland s i v).log = s.log := rfl
@[simp] theorem setIsland_vfs (s : State) (i : Nat) (v : Island) : (setIsland s i v).vfs = s.vfs := rfl
@[simp] theorem setIsland_pfMsix (s : State) (i : Nat) (v : Island) : (setIsland s i v).pfMsix = s.pfMsix := rfl
@[simp] theorem setIsland_doms (s : State) (i : Nat) (v : Island) : (setIsland s i v).doms = s.doms := rfl
@[simp] theorem setIsland_tasks (s : State) (i : Nat) (v : Island) : (setIsland s i v).tasks = s.tasks := rfl
@[simp] theorem setIsland_order (s : State) (i : Nat) (v : Island) : (setIsland s i v).order = s.order := rfl
@[simp] theorem setIsland_rot (s : State) (i : Nat) (v : Island) : (setIsland s i v).rot = s.rot := rfl
@[simp] theorem setIsland_sems (s : State) (i : Nat) (v : Island) : (setIsland s i v).sems = s.sems := rfl
@[simp] theorem setIsland_bars (s : State) (i : Nat) (v : Island) : (setIsland s i v).bars = s.bars := rfl
@[simp] theorem setIsland_flights (s : State) (i : Nat) (v : Island) : (setIsland s i v).flights = s.flights := rfl
@[simp] theorem setIsland_fifos (s : State) (i : Nat) (v : Island) : (setIsland s i v).fifos = s.fifos := rfl
@[simp] theorem setIsland_vaults (s : State) (i : Nat) (v : Island) : (setIsland s i v).vaults = s.vaults := rfl
@[simp] theorem setIsland_chans (s : State) (i : Nat) (v : Island) : (setIsland s i v).chans = s.chans := rfl
@[simp] theorem setIsland_mem (s : State) (i : Nat) (v : Island) : (setIsland s i v).mem = s.mem := rfl
@[simp] theorem setIsland_host (s : State) (i : Nat) (v : Island) : (setIsland s i v).host = s.host := rfl
@[simp] theorem setIsland_poison (s : State) (i : Nat) (v : Island) : (setIsland s i v).poison = s.poison := rfl
@[simp] theorem setIsland_latent (s : State) (i : Nat) (v : Island) : (setIsland s i v).latent = s.latent := rfl
@[simp] theorem setIsland_mig (s : State) (i : Nat) (v : Island) : (setIsland s i v).mig = s.mig := rfl
@[simp] theorem setIsland_dspKills (s : State) (i : Nat) (v : Island) : (setIsland s i v).dspKills = s.dspKills := rfl
@[simp] theorem setIsland_dspPins (s : State) (i : Nat) (v : Island) : (setIsland s i v).dspPins = s.dspPins := rfl
@[simp] theorem setIsland_codec (s : State) (i : Nat) (v : Island) : (setIsland s i v).codec = s.codec := rfl
@[simp] theorem setIsland_net (s : State) (i : Nat) (v : Island) : (setIsland s i v).net = s.net := rfl
@[simp] theorem setIsland_pow (s : State) (i : Nat) (v : Island) : (setIsland s i v).pow = s.pow := rfl
@[simp] theorem setIsland_sec (s : State) (i : Nat) (v : Island) : (setIsland s i v).sec = s.sec := rfl
@[simp] theorem setIsland_sent (s : State) (i : Nat) (v : Island) : (setIsland s i v).sent = s.sent := rfl
@[simp] theorem setIsland_reply (s : State) (i : Nat) (v : Island) : (setIsland s i v).reply = s.reply := rfl

@[simp] theorem setDom_pending (s : State) (d : Nat) (v : Dom) : (setDom s d v).pending = s.pending := rfl
@[simp] theorem setDom_now (s : State) (d : Nat) (v : Dom) : (setDom s d v).now = s.now := rfl
@[simp] theorem setDom_ticks (s : State) (d : Nat) (v : Dom) : (setDom s d v).ticks = s.ticks := rfl
@[simp] theorem setDom_free (s : State) (d : Nat) (v : Dom) : (setDom s d v).free = s.free := rfl
@[simp] theorem setDom_conf (s : State) (d : Nat) (v : Dom) : (setDom s d v).conf = s.conf := rfl
@[simp] theorem setDom_img (s : State) (d : Nat) (v : Dom) : (setDom s d v).img = s.img := rfl
@[simp] theorem setDom_mir (s : State) (d : Nat) (v : Dom) : (setDom s d v).mir = s.mir := rfl
@[simp] theorem setDom_cores (s : State) (d : Nat) (v : Dom) : (setDom s d v).cores = s.cores := rfl
@[simp] theorem setDom_evc (s : State) (d : Nat) (v : Dom) : (setDom s d v).evc = s.evc := rfl
@[simp] theorem setDom_log (s : State) (d : Nat) (v : Dom) : (setDom s d v).log = s.log := rfl
@[simp] theorem setDom_vfs (s : State) (d : Nat) (v : Dom) : (setDom s d v).vfs = s.vfs := rfl
@[simp] theorem setDom_pfMsix (s : State) (d : Nat) (v : Dom) : (setDom s d v).pfMsix = s.pfMsix := rfl
@[simp] theorem setDom_tasks (s : State) (d : Nat) (v : Dom) : (setDom s d v).tasks = s.tasks := rfl
@[simp] theorem setDom_order (s : State) (d : Nat) (v : Dom) : (setDom s d v).order = s.order := rfl
@[simp] theorem setDom_rot (s : State) (d : Nat) (v : Dom) : (setDom s d v).rot = s.rot := rfl
@[simp] theorem setDom_sems (s : State) (d : Nat) (v : Dom) : (setDom s d v).sems = s.sems := rfl
@[simp] theorem setDom_bars (s : State) (d : Nat) (v : Dom) : (setDom s d v).bars = s.bars := rfl
@[simp] theorem setDom_islands (s : State) (d : Nat) (v : Dom) : (setDom s d v).islands = s.islands := rfl
@[simp] theorem setDom_flights (s : State) (d : Nat) (v : Dom) : (setDom s d v).flights = s.flights := rfl
@[simp] theorem setDom_fifos (s : State) (d : Nat) (v : Dom) : (setDom s d v).fifos = s.fifos := rfl
@[simp] theorem setDom_vaults (s : State) (d : Nat) (v : Dom) : (setDom s d v).vaults = s.vaults := rfl
@[simp] theorem setDom_chans (s : State) (d : Nat) (v : Dom) : (setDom s d v).chans = s.chans := rfl
@[simp] theorem setDom_mem (s : State) (d : Nat) (v : Dom) : (setDom s d v).mem = s.mem := rfl
@[simp] theorem setDom_host (s : State) (d : Nat) (v : Dom) : (setDom s d v).host = s.host := rfl
@[simp] theorem setDom_poison (s : State) (d : Nat) (v : Dom) : (setDom s d v).poison = s.poison := rfl
@[simp] theorem setDom_latent (s : State) (d : Nat) (v : Dom) : (setDom s d v).latent = s.latent := rfl
@[simp] theorem setDom_mig (s : State) (d : Nat) (v : Dom) : (setDom s d v).mig = s.mig := rfl
@[simp] theorem setDom_dspKills (s : State) (d : Nat) (v : Dom) : (setDom s d v).dspKills = s.dspKills := rfl
@[simp] theorem setDom_dspPins (s : State) (d : Nat) (v : Dom) : (setDom s d v).dspPins = s.dspPins := rfl
@[simp] theorem setDom_codec (s : State) (d : Nat) (v : Dom) : (setDom s d v).codec = s.codec := rfl
@[simp] theorem setDom_net (s : State) (d : Nat) (v : Dom) : (setDom s d v).net = s.net := rfl
@[simp] theorem setDom_pow (s : State) (d : Nat) (v : Dom) : (setDom s d v).pow = s.pow := rfl
@[simp] theorem setDom_sec (s : State) (d : Nat) (v : Dom) : (setDom s d v).sec = s.sec := rfl
@[simp] theorem setDom_sent (s : State) (d : Nat) (v : Dom) : (setDom s d v).sent = s.sent := rfl
@[simp] theorem setDom_reply (s : State) (d : Nat) (v : Dom) : (setDom s d v).reply = s.reply := rfl

@[simp] theorem setVf_pending (s : State) (f : Nat) (v : Vf) : (setVf s f v).pending = s.pending := rfl
@[simp] theorem setVf_now (s : State) (f : Nat) (v : Vf) : (setVf s f v).now = s.now := rfl
@[simp] theorem setVf_ticks (s : State) (f : Nat) (v : Vf) : (setVf s f v).ticks = s.ticks := rfl
@[simp] theorem setVf_free (s : State) (f : Nat) (v : Vf) : (setVf s f v).free = s.free := rfl
@[simp] theorem setVf_conf (s : State) (f : Nat) (v : Vf) : (setVf s f v).conf = s.conf := rfl
@[simp] theorem setVf_img (s : State) (f : Nat) (v : Vf) : (setVf s f v).img = s.img := rfl
@[simp] theorem setVf_mir (s : State) (f : Nat) (v : Vf) : (setVf s f v).mir = s.mir := rfl
@[simp] theorem setVf_cores (s : State) (f : Nat) (v : Vf) : (setVf s f v).cores = s.cores := rfl
@[simp] theorem setVf_evc (s : State) (f : Nat) (v : Vf) : (setVf s f v).evc = s.evc := rfl
@[simp] theorem setVf_log (s : State) (f : Nat) (v : Vf) : (setVf s f v).log = s.log := rfl
@[simp] theorem setVf_pfMsix (s : State) (f : Nat) (v : Vf) : (setVf s f v).pfMsix = s.pfMsix := rfl
@[simp] theorem setVf_doms (s : State) (f : Nat) (v : Vf) : (setVf s f v).doms = s.doms := rfl
@[simp] theorem setVf_tasks (s : State) (f : Nat) (v : Vf) : (setVf s f v).tasks = s.tasks := rfl
@[simp] theorem setVf_order (s : State) (f : Nat) (v : Vf) : (setVf s f v).order = s.order := rfl
@[simp] theorem setVf_rot (s : State) (f : Nat) (v : Vf) : (setVf s f v).rot = s.rot := rfl
@[simp] theorem setVf_sems (s : State) (f : Nat) (v : Vf) : (setVf s f v).sems = s.sems := rfl
@[simp] theorem setVf_bars (s : State) (f : Nat) (v : Vf) : (setVf s f v).bars = s.bars := rfl
@[simp] theorem setVf_islands (s : State) (f : Nat) (v : Vf) : (setVf s f v).islands = s.islands := rfl
@[simp] theorem setVf_flights (s : State) (f : Nat) (v : Vf) : (setVf s f v).flights = s.flights := rfl
@[simp] theorem setVf_fifos (s : State) (f : Nat) (v : Vf) : (setVf s f v).fifos = s.fifos := rfl
@[simp] theorem setVf_vaults (s : State) (f : Nat) (v : Vf) : (setVf s f v).vaults = s.vaults := rfl
@[simp] theorem setVf_chans (s : State) (f : Nat) (v : Vf) : (setVf s f v).chans = s.chans := rfl
@[simp] theorem setVf_mem (s : State) (f : Nat) (v : Vf) : (setVf s f v).mem = s.mem := rfl
@[simp] theorem setVf_host (s : State) (f : Nat) (v : Vf) : (setVf s f v).host = s.host := rfl
@[simp] theorem setVf_poison (s : State) (f : Nat) (v : Vf) : (setVf s f v).poison = s.poison := rfl
@[simp] theorem setVf_latent (s : State) (f : Nat) (v : Vf) : (setVf s f v).latent = s.latent := rfl
@[simp] theorem setVf_mig (s : State) (f : Nat) (v : Vf) : (setVf s f v).mig = s.mig := rfl
@[simp] theorem setVf_dspKills (s : State) (f : Nat) (v : Vf) : (setVf s f v).dspKills = s.dspKills := rfl
@[simp] theorem setVf_dspPins (s : State) (f : Nat) (v : Vf) : (setVf s f v).dspPins = s.dspPins := rfl
@[simp] theorem setVf_codec (s : State) (f : Nat) (v : Vf) : (setVf s f v).codec = s.codec := rfl
@[simp] theorem setVf_net (s : State) (f : Nat) (v : Vf) : (setVf s f v).net = s.net := rfl
@[simp] theorem setVf_pow (s : State) (f : Nat) (v : Vf) : (setVf s f v).pow = s.pow := rfl
@[simp] theorem setVf_sec (s : State) (f : Nat) (v : Vf) : (setVf s f v).sec = s.sec := rfl
@[simp] theorem setVf_sent (s : State) (f : Nat) (v : Vf) : (setVf s f v).sent = s.sent := rfl
@[simp] theorem setVf_reply (s : State) (f : Nat) (v : Vf) : (setVf s f v).reply = s.reply := rfl

@[simp] theorem setVault_pending (s : State) (n : Nat) (v : Vault) : (setVault s n v).pending = s.pending := rfl
@[simp] theorem setVault_now (s : State) (n : Nat) (v : Vault) : (setVault s n v).now = s.now := rfl
@[simp] theorem setVault_ticks (s : State) (n : Nat) (v : Vault) : (setVault s n v).ticks = s.ticks := rfl
@[simp] theorem setVault_free (s : State) (n : Nat) (v : Vault) : (setVault s n v).free = s.free := rfl
@[simp] theorem setVault_conf (s : State) (n : Nat) (v : Vault) : (setVault s n v).conf = s.conf := rfl
@[simp] theorem setVault_img (s : State) (n : Nat) (v : Vault) : (setVault s n v).img = s.img := rfl
@[simp] theorem setVault_mir (s : State) (n : Nat) (v : Vault) : (setVault s n v).mir = s.mir := rfl
@[simp] theorem setVault_cores (s : State) (n : Nat) (v : Vault) : (setVault s n v).cores = s.cores := rfl
@[simp] theorem setVault_evc (s : State) (n : Nat) (v : Vault) : (setVault s n v).evc = s.evc := rfl
@[simp] theorem setVault_log (s : State) (n : Nat) (v : Vault) : (setVault s n v).log = s.log := rfl
@[simp] theorem setVault_vfs (s : State) (n : Nat) (v : Vault) : (setVault s n v).vfs = s.vfs := rfl
@[simp] theorem setVault_pfMsix (s : State) (n : Nat) (v : Vault) : (setVault s n v).pfMsix = s.pfMsix := rfl
@[simp] theorem setVault_doms (s : State) (n : Nat) (v : Vault) : (setVault s n v).doms = s.doms := rfl
@[simp] theorem setVault_tasks (s : State) (n : Nat) (v : Vault) : (setVault s n v).tasks = s.tasks := rfl
@[simp] theorem setVault_order (s : State) (n : Nat) (v : Vault) : (setVault s n v).order = s.order := rfl
@[simp] theorem setVault_rot (s : State) (n : Nat) (v : Vault) : (setVault s n v).rot = s.rot := rfl
@[simp] theorem setVault_sems (s : State) (n : Nat) (v : Vault) : (setVault s n v).sems = s.sems := rfl
@[simp] theorem setVault_bars (s : State) (n : Nat) (v : Vault) : (setVault s n v).bars = s.bars := rfl
@[simp] theorem setVault_islands (s : State) (n : Nat) (v : Vault) : (setVault s n v).islands = s.islands := rfl
@[simp] theorem setVault_flights (s : State) (n : Nat) (v : Vault) : (setVault s n v).flights = s.flights := rfl
@[simp] theorem setVault_fifos (s : State) (n : Nat) (v : Vault) : (setVault s n v).fifos = s.fifos := rfl
@[simp] theorem setVault_chans (s : State) (n : Nat) (v : Vault) : (setVault s n v).chans = s.chans := rfl
@[simp] theorem setVault_mem (s : State) (n : Nat) (v : Vault) : (setVault s n v).mem = s.mem := rfl
@[simp] theorem setVault_host (s : State) (n : Nat) (v : Vault) : (setVault s n v).host = s.host := rfl
@[simp] theorem setVault_poison (s : State) (n : Nat) (v : Vault) : (setVault s n v).poison = s.poison := rfl
@[simp] theorem setVault_latent (s : State) (n : Nat) (v : Vault) : (setVault s n v).latent = s.latent := rfl
@[simp] theorem setVault_mig (s : State) (n : Nat) (v : Vault) : (setVault s n v).mig = s.mig := rfl
@[simp] theorem setVault_dspKills (s : State) (n : Nat) (v : Vault) : (setVault s n v).dspKills = s.dspKills := rfl
@[simp] theorem setVault_dspPins (s : State) (n : Nat) (v : Vault) : (setVault s n v).dspPins = s.dspPins := rfl
@[simp] theorem setVault_codec (s : State) (n : Nat) (v : Vault) : (setVault s n v).codec = s.codec := rfl
@[simp] theorem setVault_net (s : State) (n : Nat) (v : Vault) : (setVault s n v).net = s.net := rfl
@[simp] theorem setVault_pow (s : State) (n : Nat) (v : Vault) : (setVault s n v).pow = s.pow := rfl
@[simp] theorem setVault_sec (s : State) (n : Nat) (v : Vault) : (setVault s n v).sec = s.sec := rfl
@[simp] theorem setVault_sent (s : State) (n : Nat) (v : Vault) : (setVault s n v).sent = s.sent := rfl
@[simp] theorem setVault_reply (s : State) (n : Nat) (v : Vault) : (setVault s n v).reply = s.reply := rfl

@[simp] theorem setChan_pending (s : State) (c : Nat) (v : Chan) : (setChan s c v).pending = s.pending := rfl
@[simp] theorem setChan_now (s : State) (c : Nat) (v : Chan) : (setChan s c v).now = s.now := rfl
@[simp] theorem setChan_ticks (s : State) (c : Nat) (v : Chan) : (setChan s c v).ticks = s.ticks := rfl
@[simp] theorem setChan_free (s : State) (c : Nat) (v : Chan) : (setChan s c v).free = s.free := rfl
@[simp] theorem setChan_conf (s : State) (c : Nat) (v : Chan) : (setChan s c v).conf = s.conf := rfl
@[simp] theorem setChan_img (s : State) (c : Nat) (v : Chan) : (setChan s c v).img = s.img := rfl
@[simp] theorem setChan_mir (s : State) (c : Nat) (v : Chan) : (setChan s c v).mir = s.mir := rfl
@[simp] theorem setChan_cores (s : State) (c : Nat) (v : Chan) : (setChan s c v).cores = s.cores := rfl
@[simp] theorem setChan_evc (s : State) (c : Nat) (v : Chan) : (setChan s c v).evc = s.evc := rfl
@[simp] theorem setChan_log (s : State) (c : Nat) (v : Chan) : (setChan s c v).log = s.log := rfl
@[simp] theorem setChan_vfs (s : State) (c : Nat) (v : Chan) : (setChan s c v).vfs = s.vfs := rfl
@[simp] theorem setChan_pfMsix (s : State) (c : Nat) (v : Chan) : (setChan s c v).pfMsix = s.pfMsix := rfl
@[simp] theorem setChan_doms (s : State) (c : Nat) (v : Chan) : (setChan s c v).doms = s.doms := rfl
@[simp] theorem setChan_tasks (s : State) (c : Nat) (v : Chan) : (setChan s c v).tasks = s.tasks := rfl
@[simp] theorem setChan_order (s : State) (c : Nat) (v : Chan) : (setChan s c v).order = s.order := rfl
@[simp] theorem setChan_rot (s : State) (c : Nat) (v : Chan) : (setChan s c v).rot = s.rot := rfl
@[simp] theorem setChan_sems (s : State) (c : Nat) (v : Chan) : (setChan s c v).sems = s.sems := rfl
@[simp] theorem setChan_bars (s : State) (c : Nat) (v : Chan) : (setChan s c v).bars = s.bars := rfl
@[simp] theorem setChan_islands (s : State) (c : Nat) (v : Chan) : (setChan s c v).islands = s.islands := rfl
@[simp] theorem setChan_flights (s : State) (c : Nat) (v : Chan) : (setChan s c v).flights = s.flights := rfl
@[simp] theorem setChan_fifos (s : State) (c : Nat) (v : Chan) : (setChan s c v).fifos = s.fifos := rfl
@[simp] theorem setChan_vaults (s : State) (c : Nat) (v : Chan) : (setChan s c v).vaults = s.vaults := rfl
@[simp] theorem setChan_mem (s : State) (c : Nat) (v : Chan) : (setChan s c v).mem = s.mem := rfl
@[simp] theorem setChan_host (s : State) (c : Nat) (v : Chan) : (setChan s c v).host = s.host := rfl
@[simp] theorem setChan_poison (s : State) (c : Nat) (v : Chan) : (setChan s c v).poison = s.poison := rfl
@[simp] theorem setChan_latent (s : State) (c : Nat) (v : Chan) : (setChan s c v).latent = s.latent := rfl
@[simp] theorem setChan_mig (s : State) (c : Nat) (v : Chan) : (setChan s c v).mig = s.mig := rfl
@[simp] theorem setChan_dspKills (s : State) (c : Nat) (v : Chan) : (setChan s c v).dspKills = s.dspKills := rfl
@[simp] theorem setChan_dspPins (s : State) (c : Nat) (v : Chan) : (setChan s c v).dspPins = s.dspPins := rfl
@[simp] theorem setChan_codec (s : State) (c : Nat) (v : Chan) : (setChan s c v).codec = s.codec := rfl
@[simp] theorem setChan_net (s : State) (c : Nat) (v : Chan) : (setChan s c v).net = s.net := rfl
@[simp] theorem setChan_pow (s : State) (c : Nat) (v : Chan) : (setChan s c v).pow = s.pow := rfl
@[simp] theorem setChan_sec (s : State) (c : Nat) (v : Chan) : (setChan s c v).sec = s.sec := rfl
@[simp] theorem setChan_sent (s : State) (c : Nat) (v : Chan) : (setChan s c v).sent = s.sent := rfl
@[simp] theorem setChan_reply (s : State) (c : Nat) (v : Chan) : (setChan s c v).reply = s.reply := rfl

@[simp] theorem setTask_pending (s : State) (t : Task) : (setTask s t).pending = s.pending := rfl
@[simp] theorem setTask_now (s : State) (t : Task) : (setTask s t).now = s.now := rfl
@[simp] theorem setTask_ticks (s : State) (t : Task) : (setTask s t).ticks = s.ticks := rfl
@[simp] theorem setTask_free (s : State) (t : Task) : (setTask s t).free = s.free := rfl
@[simp] theorem setTask_conf (s : State) (t : Task) : (setTask s t).conf = s.conf := rfl
@[simp] theorem setTask_img (s : State) (t : Task) : (setTask s t).img = s.img := rfl
@[simp] theorem setTask_mir (s : State) (t : Task) : (setTask s t).mir = s.mir := rfl
@[simp] theorem setTask_cores (s : State) (t : Task) : (setTask s t).cores = s.cores := rfl
@[simp] theorem setTask_evc (s : State) (t : Task) : (setTask s t).evc = s.evc := rfl
@[simp] theorem setTask_log (s : State) (t : Task) : (setTask s t).log = s.log := rfl
@[simp] theorem setTask_vfs (s : State) (t : Task) : (setTask s t).vfs = s.vfs := rfl
@[simp] theorem setTask_pfMsix (s : State) (t : Task) : (setTask s t).pfMsix = s.pfMsix := rfl
@[simp] theorem setTask_doms (s : State) (t : Task) : (setTask s t).doms = s.doms := rfl
@[simp] theorem setTask_order (s : State) (t : Task) : (setTask s t).order = s.order := rfl
@[simp] theorem setTask_rot (s : State) (t : Task) : (setTask s t).rot = s.rot := rfl
@[simp] theorem setTask_sems (s : State) (t : Task) : (setTask s t).sems = s.sems := rfl
@[simp] theorem setTask_bars (s : State) (t : Task) : (setTask s t).bars = s.bars := rfl
@[simp] theorem setTask_islands (s : State) (t : Task) : (setTask s t).islands = s.islands := rfl
@[simp] theorem setTask_flights (s : State) (t : Task) : (setTask s t).flights = s.flights := rfl
@[simp] theorem setTask_fifos (s : State) (t : Task) : (setTask s t).fifos = s.fifos := rfl
@[simp] theorem setTask_vaults (s : State) (t : Task) : (setTask s t).vaults = s.vaults := rfl
@[simp] theorem setTask_chans (s : State) (t : Task) : (setTask s t).chans = s.chans := rfl
@[simp] theorem setTask_mem (s : State) (t : Task) : (setTask s t).mem = s.mem := rfl
@[simp] theorem setTask_host (s : State) (t : Task) : (setTask s t).host = s.host := rfl
@[simp] theorem setTask_poison (s : State) (t : Task) : (setTask s t).poison = s.poison := rfl
@[simp] theorem setTask_latent (s : State) (t : Task) : (setTask s t).latent = s.latent := rfl
@[simp] theorem setTask_mig (s : State) (t : Task) : (setTask s t).mig = s.mig := rfl
@[simp] theorem setTask_dspKills (s : State) (t : Task) : (setTask s t).dspKills = s.dspKills := rfl
@[simp] theorem setTask_dspPins (s : State) (t : Task) : (setTask s t).dspPins = s.dspPins := rfl
@[simp] theorem setTask_codec (s : State) (t : Task) : (setTask s t).codec = s.codec := rfl
@[simp] theorem setTask_net (s : State) (t : Task) : (setTask s t).net = s.net := rfl
@[simp] theorem setTask_pow (s : State) (t : Task) : (setTask s t).pow = s.pow := rfl
@[simp] theorem setTask_sec (s : State) (t : Task) : (setTask s t).sec = s.sec := rfl
@[simp] theorem setTask_sent (s : State) (t : Task) : (setTask s t).sent = s.sent := rfl
@[simp] theorem setTask_reply (s : State) (t : Task) : (setTask s t).reply = s.reply := rfl

@[simp] theorem semAdd_pending (s : State) (n k : Nat) : (semAdd s n k).pending = s.pending := rfl
@[simp] theorem semAdd_now (s : State) (n k : Nat) : (semAdd s n k).now = s.now := rfl
@[simp] theorem semAdd_ticks (s : State) (n k : Nat) : (semAdd s n k).ticks = s.ticks := rfl
@[simp] theorem semAdd_free (s : State) (n k : Nat) : (semAdd s n k).free = s.free := rfl
@[simp] theorem semAdd_conf (s : State) (n k : Nat) : (semAdd s n k).conf = s.conf := rfl
@[simp] theorem semAdd_img (s : State) (n k : Nat) : (semAdd s n k).img = s.img := rfl
@[simp] theorem semAdd_mir (s : State) (n k : Nat) : (semAdd s n k).mir = s.mir := rfl
@[simp] theorem semAdd_cores (s : State) (n k : Nat) : (semAdd s n k).cores = s.cores := rfl
@[simp] theorem semAdd_evc (s : State) (n k : Nat) : (semAdd s n k).evc = s.evc := rfl
@[simp] theorem semAdd_log (s : State) (n k : Nat) : (semAdd s n k).log = s.log := rfl
@[simp] theorem semAdd_vfs (s : State) (n k : Nat) : (semAdd s n k).vfs = s.vfs := rfl
@[simp] theorem semAdd_pfMsix (s : State) (n k : Nat) : (semAdd s n k).pfMsix = s.pfMsix := rfl
@[simp] theorem semAdd_doms (s : State) (n k : Nat) : (semAdd s n k).doms = s.doms := rfl
@[simp] theorem semAdd_tasks (s : State) (n k : Nat) : (semAdd s n k).tasks = s.tasks := rfl
@[simp] theorem semAdd_order (s : State) (n k : Nat) : (semAdd s n k).order = s.order := rfl
@[simp] theorem semAdd_rot (s : State) (n k : Nat) : (semAdd s n k).rot = s.rot := rfl
@[simp] theorem semAdd_bars (s : State) (n k : Nat) : (semAdd s n k).bars = s.bars := rfl
@[simp] theorem semAdd_islands (s : State) (n k : Nat) : (semAdd s n k).islands = s.islands := rfl
@[simp] theorem semAdd_flights (s : State) (n k : Nat) : (semAdd s n k).flights = s.flights := rfl
@[simp] theorem semAdd_fifos (s : State) (n k : Nat) : (semAdd s n k).fifos = s.fifos := rfl
@[simp] theorem semAdd_vaults (s : State) (n k : Nat) : (semAdd s n k).vaults = s.vaults := rfl
@[simp] theorem semAdd_chans (s : State) (n k : Nat) : (semAdd s n k).chans = s.chans := rfl
@[simp] theorem semAdd_mem (s : State) (n k : Nat) : (semAdd s n k).mem = s.mem := rfl
@[simp] theorem semAdd_host (s : State) (n k : Nat) : (semAdd s n k).host = s.host := rfl
@[simp] theorem semAdd_poison (s : State) (n k : Nat) : (semAdd s n k).poison = s.poison := rfl
@[simp] theorem semAdd_latent (s : State) (n k : Nat) : (semAdd s n k).latent = s.latent := rfl
@[simp] theorem semAdd_mig (s : State) (n k : Nat) : (semAdd s n k).mig = s.mig := rfl
@[simp] theorem semAdd_dspKills (s : State) (n k : Nat) : (semAdd s n k).dspKills = s.dspKills := rfl
@[simp] theorem semAdd_dspPins (s : State) (n k : Nat) : (semAdd s n k).dspPins = s.dspPins := rfl
@[simp] theorem semAdd_codec (s : State) (n k : Nat) : (semAdd s n k).codec = s.codec := rfl
@[simp] theorem semAdd_net (s : State) (n k : Nat) : (semAdd s n k).net = s.net := rfl
@[simp] theorem semAdd_pow (s : State) (n k : Nat) : (semAdd s n k).pow = s.pow := rfl
@[simp] theorem semAdd_sec (s : State) (n k : Nat) : (semAdd s n k).sec = s.sec := rfl
@[simp] theorem semAdd_sent (s : State) (n k : Nat) : (semAdd s n k).sent = s.sent := rfl
@[simp] theorem semAdd_reply (s : State) (n k : Nat) : (semAdd s n k).reply = s.reply := rfl

@[simp] theorem setPort_pending (s : State) (p : Nat) (x : Port) : (setPort s p x).pending = s.pending := rfl
@[simp] theorem setPort_now (s : State) (p : Nat) (x : Port) : (setPort s p x).now = s.now := rfl
@[simp] theorem setPort_ticks (s : State) (p : Nat) (x : Port) : (setPort s p x).ticks = s.ticks := rfl
@[simp] theorem setPort_free (s : State) (p : Nat) (x : Port) : (setPort s p x).free = s.free := rfl
@[simp] theorem setPort_conf (s : State) (p : Nat) (x : Port) : (setPort s p x).conf = s.conf := rfl
@[simp] theorem setPort_img (s : State) (p : Nat) (x : Port) : (setPort s p x).img = s.img := rfl
@[simp] theorem setPort_mir (s : State) (p : Nat) (x : Port) : (setPort s p x).mir = s.mir := rfl
@[simp] theorem setPort_cores (s : State) (p : Nat) (x : Port) : (setPort s p x).cores = s.cores := rfl
@[simp] theorem setPort_evc (s : State) (p : Nat) (x : Port) : (setPort s p x).evc = s.evc := rfl
@[simp] theorem setPort_log (s : State) (p : Nat) (x : Port) : (setPort s p x).log = s.log := rfl
@[simp] theorem setPort_vfs (s : State) (p : Nat) (x : Port) : (setPort s p x).vfs = s.vfs := rfl
@[simp] theorem setPort_pfMsix (s : State) (p : Nat) (x : Port) : (setPort s p x).pfMsix = s.pfMsix := rfl
@[simp] theorem setPort_doms (s : State) (p : Nat) (x : Port) : (setPort s p x).doms = s.doms := rfl
@[simp] theorem setPort_tasks (s : State) (p : Nat) (x : Port) : (setPort s p x).tasks = s.tasks := rfl
@[simp] theorem setPort_order (s : State) (p : Nat) (x : Port) : (setPort s p x).order = s.order := rfl
@[simp] theorem setPort_rot (s : State) (p : Nat) (x : Port) : (setPort s p x).rot = s.rot := rfl
@[simp] theorem setPort_sems (s : State) (p : Nat) (x : Port) : (setPort s p x).sems = s.sems := rfl
@[simp] theorem setPort_bars (s : State) (p : Nat) (x : Port) : (setPort s p x).bars = s.bars := rfl
@[simp] theorem setPort_islands (s : State) (p : Nat) (x : Port) : (setPort s p x).islands = s.islands := rfl
@[simp] theorem setPort_flights (s : State) (p : Nat) (x : Port) : (setPort s p x).flights = s.flights := rfl
@[simp] theorem setPort_fifos (s : State) (p : Nat) (x : Port) : (setPort s p x).fifos = s.fifos := rfl
@[simp] theorem setPort_vaults (s : State) (p : Nat) (x : Port) : (setPort s p x).vaults = s.vaults := rfl
@[simp] theorem setPort_chans (s : State) (p : Nat) (x : Port) : (setPort s p x).chans = s.chans := rfl
@[simp] theorem setPort_mem (s : State) (p : Nat) (x : Port) : (setPort s p x).mem = s.mem := rfl
@[simp] theorem setPort_host (s : State) (p : Nat) (x : Port) : (setPort s p x).host = s.host := rfl
@[simp] theorem setPort_poison (s : State) (p : Nat) (x : Port) : (setPort s p x).poison = s.poison := rfl
@[simp] theorem setPort_latent (s : State) (p : Nat) (x : Port) : (setPort s p x).latent = s.latent := rfl
@[simp] theorem setPort_mig (s : State) (p : Nat) (x : Port) : (setPort s p x).mig = s.mig := rfl
@[simp] theorem setPort_dspKills (s : State) (p : Nat) (x : Port) : (setPort s p x).dspKills = s.dspKills := rfl
@[simp] theorem setPort_dspPins (s : State) (p : Nat) (x : Port) : (setPort s p x).dspPins = s.dspPins := rfl
@[simp] theorem setPort_codec (s : State) (p : Nat) (x : Port) : (setPort s p x).codec = s.codec := rfl
@[simp] theorem setPort_pow (s : State) (p : Nat) (x : Port) : (setPort s p x).pow = s.pow := rfl
@[simp] theorem setPort_sec (s : State) (p : Nat) (x : Port) : (setPort s p x).sec = s.sec := rfl
@[simp] theorem setPort_sent (s : State) (p : Nat) (x : Port) : (setPort s p x).sent = s.sent := rfl
@[simp] theorem setPort_reply (s : State) (p : Nat) (x : Port) : (setPort s p x).reply = s.reply := rfl

@[simp] theorem setCod_pending (s : State) (c : Nat) (x : CodChan) : (setCod s c x).pending = s.pending := rfl
@[simp] theorem setCod_now (s : State) (c : Nat) (x : CodChan) : (setCod s c x).now = s.now := rfl
@[simp] theorem setCod_ticks (s : State) (c : Nat) (x : CodChan) : (setCod s c x).ticks = s.ticks := rfl
@[simp] theorem setCod_free (s : State) (c : Nat) (x : CodChan) : (setCod s c x).free = s.free := rfl
@[simp] theorem setCod_conf (s : State) (c : Nat) (x : CodChan) : (setCod s c x).conf = s.conf := rfl
@[simp] theorem setCod_img (s : State) (c : Nat) (x : CodChan) : (setCod s c x).img = s.img := rfl
@[simp] theorem setCod_mir (s : State) (c : Nat) (x : CodChan) : (setCod s c x).mir = s.mir := rfl
@[simp] theorem setCod_cores (s : State) (c : Nat) (x : CodChan) : (setCod s c x).cores = s.cores := rfl
@[simp] theorem setCod_evc (s : State) (c : Nat) (x : CodChan) : (setCod s c x).evc = s.evc := rfl
@[simp] theorem setCod_log (s : State) (c : Nat) (x : CodChan) : (setCod s c x).log = s.log := rfl
@[simp] theorem setCod_vfs (s : State) (c : Nat) (x : CodChan) : (setCod s c x).vfs = s.vfs := rfl
@[simp] theorem setCod_pfMsix (s : State) (c : Nat) (x : CodChan) : (setCod s c x).pfMsix = s.pfMsix := rfl
@[simp] theorem setCod_doms (s : State) (c : Nat) (x : CodChan) : (setCod s c x).doms = s.doms := rfl
@[simp] theorem setCod_tasks (s : State) (c : Nat) (x : CodChan) : (setCod s c x).tasks = s.tasks := rfl
@[simp] theorem setCod_order (s : State) (c : Nat) (x : CodChan) : (setCod s c x).order = s.order := rfl
@[simp] theorem setCod_rot (s : State) (c : Nat) (x : CodChan) : (setCod s c x).rot = s.rot := rfl
@[simp] theorem setCod_sems (s : State) (c : Nat) (x : CodChan) : (setCod s c x).sems = s.sems := rfl
@[simp] theorem setCod_bars (s : State) (c : Nat) (x : CodChan) : (setCod s c x).bars = s.bars := rfl
@[simp] theorem setCod_islands (s : State) (c : Nat) (x : CodChan) : (setCod s c x).islands = s.islands := rfl
@[simp] theorem setCod_flights (s : State) (c : Nat) (x : CodChan) : (setCod s c x).flights = s.flights := rfl
@[simp] theorem setCod_fifos (s : State) (c : Nat) (x : CodChan) : (setCod s c x).fifos = s.fifos := rfl
@[simp] theorem setCod_vaults (s : State) (c : Nat) (x : CodChan) : (setCod s c x).vaults = s.vaults := rfl
@[simp] theorem setCod_chans (s : State) (c : Nat) (x : CodChan) : (setCod s c x).chans = s.chans := rfl
@[simp] theorem setCod_mem (s : State) (c : Nat) (x : CodChan) : (setCod s c x).mem = s.mem := rfl
@[simp] theorem setCod_host (s : State) (c : Nat) (x : CodChan) : (setCod s c x).host = s.host := rfl
@[simp] theorem setCod_poison (s : State) (c : Nat) (x : CodChan) : (setCod s c x).poison = s.poison := rfl
@[simp] theorem setCod_latent (s : State) (c : Nat) (x : CodChan) : (setCod s c x).latent = s.latent := rfl
@[simp] theorem setCod_mig (s : State) (c : Nat) (x : CodChan) : (setCod s c x).mig = s.mig := rfl
@[simp] theorem setCod_dspKills (s : State) (c : Nat) (x : CodChan) : (setCod s c x).dspKills = s.dspKills := rfl
@[simp] theorem setCod_dspPins (s : State) (c : Nat) (x : CodChan) : (setCod s c x).dspPins = s.dspPins := rfl
@[simp] theorem setCod_net (s : State) (c : Nat) (x : CodChan) : (setCod s c x).net = s.net := rfl
@[simp] theorem setCod_pow (s : State) (c : Nat) (x : CodChan) : (setCod s c x).pow = s.pow := rfl
@[simp] theorem setCod_sec (s : State) (c : Nat) (x : CodChan) : (setCod s c x).sec = s.sec := rfl
@[simp] theorem setCod_sent (s : State) (c : Nat) (x : CodChan) : (setCod s c x).sent = s.sent := rfl
@[simp] theorem setCod_reply (s : State) (c : Nat) (x : CodChan) : (setCod s c x).reply = s.reply := rfl

@[simp] theorem sendRaw_pending (s : State) (p : Nat) (b : List Byte) : (sendRaw s p b).pending = s.pending := rfl
@[simp] theorem sendRaw_now (s : State) (p : Nat) (b : List Byte) : (sendRaw s p b).now = s.now := rfl
@[simp] theorem sendRaw_ticks (s : State) (p : Nat) (b : List Byte) : (sendRaw s p b).ticks = s.ticks := rfl
@[simp] theorem sendRaw_free (s : State) (p : Nat) (b : List Byte) : (sendRaw s p b).free = s.free := rfl
@[simp] theorem sendRaw_conf (s : State) (p : Nat) (b : List Byte) : (sendRaw s p b).conf = s.conf := rfl
@[simp] theorem sendRaw_img (s : State) (p : Nat) (b : List Byte) : (sendRaw s p b).img = s.img := rfl
@[simp] theorem sendRaw_mir (s : State) (p : Nat) (b : List Byte) : (sendRaw s p b).mir = s.mir := rfl
@[simp] theorem sendRaw_cores (s : State) (p : Nat) (b : List Byte) : (sendRaw s p b).cores = s.cores := rfl
@[simp] theorem sendRaw_evc (s : State) (p : Nat) (b : List Byte) : (sendRaw s p b).evc = s.evc := rfl
@[simp] theorem sendRaw_log (s : State) (p : Nat) (b : List Byte) : (sendRaw s p b).log = s.log := rfl
@[simp] theorem sendRaw_vfs (s : State) (p : Nat) (b : List Byte) : (sendRaw s p b).vfs = s.vfs := rfl
@[simp] theorem sendRaw_pfMsix (s : State) (p : Nat) (b : List Byte) : (sendRaw s p b).pfMsix = s.pfMsix := rfl
@[simp] theorem sendRaw_doms (s : State) (p : Nat) (b : List Byte) : (sendRaw s p b).doms = s.doms := rfl
@[simp] theorem sendRaw_tasks (s : State) (p : Nat) (b : List Byte) : (sendRaw s p b).tasks = s.tasks := rfl
@[simp] theorem sendRaw_order (s : State) (p : Nat) (b : List Byte) : (sendRaw s p b).order = s.order := rfl
@[simp] theorem sendRaw_rot (s : State) (p : Nat) (b : List Byte) : (sendRaw s p b).rot = s.rot := rfl
@[simp] theorem sendRaw_sems (s : State) (p : Nat) (b : List Byte) : (sendRaw s p b).sems = s.sems := rfl
@[simp] theorem sendRaw_bars (s : State) (p : Nat) (b : List Byte) : (sendRaw s p b).bars = s.bars := rfl
@[simp] theorem sendRaw_islands (s : State) (p : Nat) (b : List Byte) : (sendRaw s p b).islands = s.islands := rfl
@[simp] theorem sendRaw_flights (s : State) (p : Nat) (b : List Byte) : (sendRaw s p b).flights = s.flights := rfl
@[simp] theorem sendRaw_fifos (s : State) (p : Nat) (b : List Byte) : (sendRaw s p b).fifos = s.fifos := rfl
@[simp] theorem sendRaw_vaults (s : State) (p : Nat) (b : List Byte) : (sendRaw s p b).vaults = s.vaults := rfl
@[simp] theorem sendRaw_chans (s : State) (p : Nat) (b : List Byte) : (sendRaw s p b).chans = s.chans := rfl
@[simp] theorem sendRaw_mem (s : State) (p : Nat) (b : List Byte) : (sendRaw s p b).mem = s.mem := rfl
@[simp] theorem sendRaw_host (s : State) (p : Nat) (b : List Byte) : (sendRaw s p b).host = s.host := rfl
@[simp] theorem sendRaw_poison (s : State) (p : Nat) (b : List Byte) : (sendRaw s p b).poison = s.poison := rfl
@[simp] theorem sendRaw_latent (s : State) (p : Nat) (b : List Byte) : (sendRaw s p b).latent = s.latent := rfl
@[simp] theorem sendRaw_mig (s : State) (p : Nat) (b : List Byte) : (sendRaw s p b).mig = s.mig := rfl
@[simp] theorem sendRaw_dspKills (s : State) (p : Nat) (b : List Byte) : (sendRaw s p b).dspKills = s.dspKills := rfl
@[simp] theorem sendRaw_dspPins (s : State) (p : Nat) (b : List Byte) : (sendRaw s p b).dspPins = s.dspPins := rfl
@[simp] theorem sendRaw_codec (s : State) (p : Nat) (b : List Byte) : (sendRaw s p b).codec = s.codec := rfl
@[simp] theorem sendRaw_net (s : State) (p : Nat) (b : List Byte) : (sendRaw s p b).net = s.net := rfl
@[simp] theorem sendRaw_pow (s : State) (p : Nat) (b : List Byte) : (sendRaw s p b).pow = s.pow := rfl
@[simp] theorem sendRaw_sec (s : State) (p : Nat) (b : List Byte) : (sendRaw s p b).sec = s.sec := rfl
@[simp] theorem sendRaw_reply (s : State) (p : Nat) (b : List Byte) : (sendRaw s p b).reply = s.reply := rfl

@[simp] theorem sendMsg_pending (s : State) (m : Nat) (x : Msg) : (sendMsg s m x).pending = s.pending := rfl
@[simp] theorem sendMsg_now (s : State) (m : Nat) (x : Msg) : (sendMsg s m x).now = s.now := rfl
@[simp] theorem sendMsg_ticks (s : State) (m : Nat) (x : Msg) : (sendMsg s m x).ticks = s.ticks := rfl
@[simp] theorem sendMsg_free (s : State) (m : Nat) (x : Msg) : (sendMsg s m x).free = s.free := rfl
@[simp] theorem sendMsg_conf (s : State) (m : Nat) (x : Msg) : (sendMsg s m x).conf = s.conf := rfl
@[simp] theorem sendMsg_img (s : State) (m : Nat) (x : Msg) : (sendMsg s m x).img = s.img := rfl
@[simp] theorem sendMsg_mir (s : State) (m : Nat) (x : Msg) : (sendMsg s m x).mir = s.mir := rfl
@[simp] theorem sendMsg_cores (s : State) (m : Nat) (x : Msg) : (sendMsg s m x).cores = s.cores := rfl
@[simp] theorem sendMsg_evc (s : State) (m : Nat) (x : Msg) : (sendMsg s m x).evc = s.evc := rfl
@[simp] theorem sendMsg_log (s : State) (m : Nat) (x : Msg) : (sendMsg s m x).log = s.log := rfl
@[simp] theorem sendMsg_vfs (s : State) (m : Nat) (x : Msg) : (sendMsg s m x).vfs = s.vfs := rfl
@[simp] theorem sendMsg_pfMsix (s : State) (m : Nat) (x : Msg) : (sendMsg s m x).pfMsix = s.pfMsix := rfl
@[simp] theorem sendMsg_doms (s : State) (m : Nat) (x : Msg) : (sendMsg s m x).doms = s.doms := rfl
@[simp] theorem sendMsg_tasks (s : State) (m : Nat) (x : Msg) : (sendMsg s m x).tasks = s.tasks := rfl
@[simp] theorem sendMsg_order (s : State) (m : Nat) (x : Msg) : (sendMsg s m x).order = s.order := rfl
@[simp] theorem sendMsg_rot (s : State) (m : Nat) (x : Msg) : (sendMsg s m x).rot = s.rot := rfl
@[simp] theorem sendMsg_sems (s : State) (m : Nat) (x : Msg) : (sendMsg s m x).sems = s.sems := rfl
@[simp] theorem sendMsg_bars (s : State) (m : Nat) (x : Msg) : (sendMsg s m x).bars = s.bars := rfl
@[simp] theorem sendMsg_islands (s : State) (m : Nat) (x : Msg) : (sendMsg s m x).islands = s.islands := rfl
@[simp] theorem sendMsg_flights (s : State) (m : Nat) (x : Msg) : (sendMsg s m x).flights = s.flights := rfl
@[simp] theorem sendMsg_fifos (s : State) (m : Nat) (x : Msg) : (sendMsg s m x).fifos = s.fifos := rfl
@[simp] theorem sendMsg_vaults (s : State) (m : Nat) (x : Msg) : (sendMsg s m x).vaults = s.vaults := rfl
@[simp] theorem sendMsg_chans (s : State) (m : Nat) (x : Msg) : (sendMsg s m x).chans = s.chans := rfl
@[simp] theorem sendMsg_mem (s : State) (m : Nat) (x : Msg) : (sendMsg s m x).mem = s.mem := rfl
@[simp] theorem sendMsg_host (s : State) (m : Nat) (x : Msg) : (sendMsg s m x).host = s.host := rfl
@[simp] theorem sendMsg_poison (s : State) (m : Nat) (x : Msg) : (sendMsg s m x).poison = s.poison := rfl
@[simp] theorem sendMsg_latent (s : State) (m : Nat) (x : Msg) : (sendMsg s m x).latent = s.latent := rfl
@[simp] theorem sendMsg_mig (s : State) (m : Nat) (x : Msg) : (sendMsg s m x).mig = s.mig := rfl
@[simp] theorem sendMsg_dspKills (s : State) (m : Nat) (x : Msg) : (sendMsg s m x).dspKills = s.dspKills := rfl
@[simp] theorem sendMsg_dspPins (s : State) (m : Nat) (x : Msg) : (sendMsg s m x).dspPins = s.dspPins := rfl
@[simp] theorem sendMsg_codec (s : State) (m : Nat) (x : Msg) : (sendMsg s m x).codec = s.codec := rfl
@[simp] theorem sendMsg_net (s : State) (m : Nat) (x : Msg) : (sendMsg s m x).net = s.net := rfl
@[simp] theorem sendMsg_pow (s : State) (m : Nat) (x : Msg) : (sendMsg s m x).pow = s.pow := rfl
@[simp] theorem sendMsg_sec (s : State) (m : Nat) (x : Msg) : (sendMsg s m x).sec = s.sec := rfl
@[simp] theorem sendMsg_reply (s : State) (m : Nat) (x : Msg) : (sendMsg s m x).reply = s.reply := rfl

@[simp] theorem modIsland_eq (s : State) (i : Nat) (f : Island → Island) : modIsland s i f = setIsland s i (f (islandAt s i)) := rfl
@[simp] theorem modDom_eq (s : State) (i : Nat) (f : Dom → Dom) : modDom s i f = setDom s i (f (domAt s i)) := rfl
@[simp] theorem modVf_eq (s : State) (i : Nat) (f : Vf → Vf) : modVf s i f = setVf s i (f (vfAt s i)) := rfl
@[simp] theorem modVault_eq (s : State) (i : Nat) (f : Vault → Vault) : modVault s i f = setVault s i (f (vaultAt s i)) := rfl
@[simp] theorem modCod_eq (s : State) (c : Nat) (f : CodChan → CodChan) : modCod s c f = setCod s c (f (codAt s c)) := rfl

end Sys2Proof.Machine
end

