-- ==== Sys2Proof/Laws/Ops.lean ====
section
/-!
SUPPORT. What the shared operations do: events, the log, completion records, refusals. For each one lemma says which parts of
the state it can change; the others follow for each field.
-/
namespace Sys2Proof.Machine

/-! ### What each operation can change -/

theorem sendPfVector_frame (s : State) (v : Nat) :
    ∃ p q, sendPfVector s v = { s with pfMsix := p, sent := q } := by
  simp only [sendPfVector]; split
  · exact ⟨_, s.sent, rfl⟩
  · exact ⟨s.pfMsix, _, rfl⟩

theorem evRefresh_frame (s : State) :
    ∃ u p q, evRefresh s = { s with evc := { s.evc with up := u }, pfMsix := p, sent := q } := by
  simp only [evRefresh]
  generalize (upTargets s.evc).filter _ = l
  refine ⟨upTargets s.evc, ?_⟩
  generalize hs : ({ s with evc := { s.evc with up := upTargets s.evc } } : State) = s0
  have : ∃ p q, s0 = { s with evc := { s.evc with up := upTargets s.evc }, pfMsix := p, sent := q } := ⟨s.pfMsix, s.sent, hs ▸ rfl⟩
  clear hs
  induction l generalizing s0 with
  | nil => exact this
  | cons t l ih =>
    apply ih
    obtain ⟨p, q, rfl⟩ := this
    obtain ⟨p', q', h⟩ := sendPfVector_frame { s with evc := { s.evc with up := upTargets s.evc }, pfMsix := p, sent := q } (t - 8)
    exact ⟨p', q', h⟩

theorem raise_frame (src : Nat) (s : State) : ∃ e p q, raise src s = { s with evc := e, pfMsix := p, sent := q } := by
  simp only [raise]; split
  · exact ⟨_, s.pfMsix, s.sent, rfl⟩
  · obtain ⟨u, p, q, h⟩ := evRefresh_frame { s with evc := { s.evc with
      pend := sparseSet 0 s.evc.pend (src / 32) (evPend s.evc (src / 32) ||| BitVec.ofNat 32 (2 ^ (src % 32))) } }
    exact ⟨_, p, q, h⟩

theorem logE_frame (sev : Nat) (code : Status) (src : Option Nat) (d : Nat) (b : List Byte) (s : State) :
    ∃ l e p q, logE sev code src d b s = { s with log := l, evc := e, pfMsix := p, sent := q } := by
  simp only [logE]; split
  · exact ⟨_, s.evc, s.pfMsix, s.sent, rfl⟩
  · split <;> split
    · obtain ⟨e, p, q, h⟩ := raise_frame 0x260 { s with log := _ }
      obtain ⟨e', p', q', h'⟩ := raise_frame 0x261 _
      rw [h', h]; exact ⟨_, e', p', q', rfl⟩
    · obtain ⟨e, p, q, h⟩ := raise_frame 0x261 _
      rw [h]; exact ⟨_, e, p, q, rfl⟩
    · obtain ⟨e, p, q, h⟩ := raise_frame 0x260 _
      rw [h]; exact ⟨_, e, p, q, rfl⟩
    · exact ⟨_, s.evc, s.pfMsix, s.sent, rfl⟩

theorem sendVfVector_frame (s : State) (v vec : Nat) : ∃ f q, sendVfVector s v vec = { s with vfs := f, sent := q } := by
  simp only [sendVfVector]; split
  · exact ⟨_, s.sent, rfl⟩
  · exact ⟨s.vfs, _, rfl⟩

theorem cqNotify_frame (s : State) (v c : Nat) : ∃ f q, cqNotify s v c = { s with vfs := f, sent := q } := by
  simp only [cqNotify]; split
  · have key : ∀ (b : Bool) (x y : Vf) (n : Nat), ∃ f q,
        (if b = true then sendVfVector (setVf s v x) v n else setVf s v y) = { s with vfs := f, sent := q } := by
      intro b x y n; cases b
      · exact ⟨_, s.sent, rfl⟩
      · obtain ⟨f, q, h⟩ := sendVfVector_frame (setVf s v x) v n
        exact ⟨f, q, h⟩
    exact key _ _ _ _
  · exact ⟨s.vfs, s.sent, rfl⟩

theorem cqPut_frame (s : State) (v c : Nat) (b : List Byte) :
    ∃ f m q, cqPut s v c b = { s with vfs := f, host := m, sent := q } := by
  simp only [cqPut]
  obtain ⟨f, q, h⟩ := cqNotify_frame (setVf { s with host := hostWrite s.host _ _ } v _) v c
  rw [h]; exact ⟨f, _, q, rfl⟩

theorem cplDeliver_frame (s : State) (v c : Nat) (b : List Byte) :
    ∃ f m q, cplDeliver s v c b = { s with vfs := f, host := m, sent := q } := by
  simp only [cplDeliver]; split
  · exact cqPut_frame s v c b
  · exact ⟨_, s.host, s.sent, rfl⟩

theorem complete_frame (src : Src) (st : Status) (r : Nat) (s : State) :
    ∃ f m q, complete src st r s = { s with vfs := f, host := m, sent := q } := cplDeliver_frame s _ _ _

theorem inform_frame (d : Nat) (st : Status) (r : Nat) (s : State) :
    ∃ f m q, inform d st r s = { s with vfs := f, host := m, sent := q } := by
  simp only [inform]; split
  · exact ⟨s.vfs, s.host, s.sent, rfl⟩
  · exact cplDeliver_frame s _ _ _

theorem cplDrain_frame (n : Nat) (s : State) (v : Nat) :
    ∃ f m q, cplDrain n s v = { s with vfs := f, host := m, sent := q } := by
  induction n generalizing s with
  | zero => exact ⟨s.vfs, s.host, s.sent, rfl⟩
  | succ n ih =>
    simp only [cplDrain]
    split
    · exact ⟨s.vfs, s.host, s.sent, rfl⟩
    · split
      · exact ⟨s.vfs, s.host, s.sent, rfl⟩
      · obtain ⟨f, m, q, h⟩ := cqPut_frame (setVf s v _) v _ _
        rw [h]
        obtain ⟨f', m', q', h'⟩ := ih { setVf s v _ with vfs := f, host := m, sent := q }
        rw [h']; exact ⟨f', m', q', rfl⟩

theorem refuseState_frame (src : Src) (op : Nat) (d : Option Nat) (s : State) :
    ∃ l e p f m q, refuseState src op d s = { s with log := l, evc := e, pfMsix := p, vfs := f, host := m, sent := q } := by
  simp only [refuseState, logRefused]
  obtain ⟨l, e, p, q, h⟩ := logE_frame 0 .stateRefused none (d.getD 0xFF) _ s
  rw [h]
  obtain ⟨f, m, q', h'⟩ := complete_frame src .stateRefused 0 { s with log := l, evc := e, pfMsix := p, sent := q }
  exact ⟨l, e, p, f, m, q', h'⟩

theorem refuse_frame (src : Src) (st : Status) (s : State) :
    ∃ l e p f m q, refuse src st s = { s with log := l, evc := e, pfMsix := p, vfs := f, host := m, sent := q } := by
  simp only [refuse]
  obtain ⟨l, e, p, q, h⟩ := logE_frame 0 st (if st = .hostReadFault then some 0x207 else none)
    ((domOfVf s src.vf).getD 0xFF) [] s
  rw [h]
  obtain ⟨f, m, q', h'⟩ := complete_frame src st 0 { s with log := l, evc := e, pfMsix := p, sent := q }
  exact ⟨l, e, p, f, m, q', h'⟩

/-! ### The fields that stay -/

@[simp] theorem sendPfVector_pending (s : State) (v : Nat) : (sendPfVector s v).pending = s.pending := by obtain ⟨_, _, h⟩ := sendPfVector_frame s v; rw [h]
@[simp] theorem sendPfVector_now (s : State) (v : Nat) : (sendPfVector s v).now = s.now := by obtain ⟨_, _, h⟩ := sendPfVector_frame s v; rw [h]
@[simp] theorem sendPfVector_ticks (s : State) (v : Nat) : (sendPfVector s v).ticks = s.ticks := by obtain ⟨_, _, h⟩ := sendPfVector_frame s v; rw [h]
@[simp] theorem sendPfVector_free (s : State) (v : Nat) : (sendPfVector s v).free = s.free := by obtain ⟨_, _, h⟩ := sendPfVector_frame s v; rw [h]
@[simp] theorem sendPfVector_conf (s : State) (v : Nat) : (sendPfVector s v).conf = s.conf := by obtain ⟨_, _, h⟩ := sendPfVector_frame s v; rw [h]
@[simp] theorem sendPfVector_img (s : State) (v : Nat) : (sendPfVector s v).img = s.img := by obtain ⟨_, _, h⟩ := sendPfVector_frame s v; rw [h]
@[simp] theorem sendPfVector_mir (s : State) (v : Nat) : (sendPfVector s v).mir = s.mir := by obtain ⟨_, _, h⟩ := sendPfVector_frame s v; rw [h]
@[simp] theorem sendPfVector_cores (s : State) (v : Nat) : (sendPfVector s v).cores = s.cores := by obtain ⟨_, _, h⟩ := sendPfVector_frame s v; rw [h]
@[simp] theorem sendPfVector_evc (s : State) (v : Nat) : (sendPfVector s v).evc = s.evc := by obtain ⟨_, _, h⟩ := sendPfVector_frame s v; rw [h]
@[simp] theorem sendPfVector_log (s : State) (v : Nat) : (sendPfVector s v).log = s.log := by obtain ⟨_, _, h⟩ := sendPfVector_frame s v; rw [h]
@[simp] theorem sendPfVector_vfs (s : State) (v : Nat) : (sendPfVector s v).vfs = s.vfs := by obtain ⟨_, _, h⟩ := sendPfVector_frame s v; rw [h]
@[simp] theorem sendPfVector_doms (s : State) (v : Nat) : (sendPfVector s v).doms = s.doms := by obtain ⟨_, _, h⟩ := sendPfVector_frame s v; rw [h]
@[simp] theorem sendPfVector_tasks (s : State) (v : Nat) : (sendPfVector s v).tasks = s.tasks := by obtain ⟨_, _, h⟩ := sendPfVector_frame s v; rw [h]
@[simp] theorem sendPfVector_order (s : State) (v : Nat) : (sendPfVector s v).order = s.order := by obtain ⟨_, _, h⟩ := sendPfVector_frame s v; rw [h]
@[simp] theorem sendPfVector_rot (s : State) (v : Nat) : (sendPfVector s v).rot = s.rot := by obtain ⟨_, _, h⟩ := sendPfVector_frame s v; rw [h]
@[simp] theorem sendPfVector_sems (s : State) (v : Nat) : (sendPfVector s v).sems = s.sems := by obtain ⟨_, _, h⟩ := sendPfVector_frame s v; rw [h]
@[simp] theorem sendPfVector_bars (s : State) (v : Nat) : (sendPfVector s v).bars = s.bars := by obtain ⟨_, _, h⟩ := sendPfVector_frame s v; rw [h]
@[simp] theorem sendPfVector_islands (s : State) (v : Nat) : (sendPfVector s v).islands = s.islands := by obtain ⟨_, _, h⟩ := sendPfVector_frame s v; rw [h]
@[simp] theorem sendPfVector_flights (s : State) (v : Nat) : (sendPfVector s v).flights = s.flights := by obtain ⟨_, _, h⟩ := sendPfVector_frame s v; rw [h]
@[simp] theorem sendPfVector_fifos (s : State) (v : Nat) : (sendPfVector s v).fifos = s.fifos := by obtain ⟨_, _, h⟩ := sendPfVector_frame s v; rw [h]
@[simp] theorem sendPfVector_vaults (s : State) (v : Nat) : (sendPfVector s v).vaults = s.vaults := by obtain ⟨_, _, h⟩ := sendPfVector_frame s v; rw [h]
@[simp] theorem sendPfVector_chans (s : State) (v : Nat) : (sendPfVector s v).chans = s.chans := by obtain ⟨_, _, h⟩ := sendPfVector_frame s v; rw [h]
@[simp] theorem sendPfVector_mem (s : State) (v : Nat) : (sendPfVector s v).mem = s.mem := by obtain ⟨_, _, h⟩ := sendPfVector_frame s v; rw [h]
@[simp] theorem sendPfVector_host (s : State) (v : Nat) : (sendPfVector s v).host = s.host := by obtain ⟨_, _, h⟩ := sendPfVector_frame s v; rw [h]
@[simp] theorem sendPfVector_poison (s : State) (v : Nat) : (sendPfVector s v).poison = s.poison := by obtain ⟨_, _, h⟩ := sendPfVector_frame s v; rw [h]
@[simp] theorem sendPfVector_latent (s : State) (v : Nat) : (sendPfVector s v).latent = s.latent := by obtain ⟨_, _, h⟩ := sendPfVector_frame s v; rw [h]
@[simp] theorem sendPfVector_mig (s : State) (v : Nat) : (sendPfVector s v).mig = s.mig := by obtain ⟨_, _, h⟩ := sendPfVector_frame s v; rw [h]
@[simp] theorem sendPfVector_dspKills (s : State) (v : Nat) : (sendPfVector s v).dspKills = s.dspKills := by obtain ⟨_, _, h⟩ := sendPfVector_frame s v; rw [h]
@[simp] theorem sendPfVector_dspPins (s : State) (v : Nat) : (sendPfVector s v).dspPins = s.dspPins := by obtain ⟨_, _, h⟩ := sendPfVector_frame s v; rw [h]
@[simp] theorem sendPfVector_codec (s : State) (v : Nat) : (sendPfVector s v).codec = s.codec := by obtain ⟨_, _, h⟩ := sendPfVector_frame s v; rw [h]
@[simp] theorem sendPfVector_net (s : State) (v : Nat) : (sendPfVector s v).net = s.net := by obtain ⟨_, _, h⟩ := sendPfVector_frame s v; rw [h]
@[simp] theorem sendPfVector_pow (s : State) (v : Nat) : (sendPfVector s v).pow = s.pow := by obtain ⟨_, _, h⟩ := sendPfVector_frame s v; rw [h]
@[simp] theorem sendPfVector_sec (s : State) (v : Nat) : (sendPfVector s v).sec = s.sec := by obtain ⟨_, _, h⟩ := sendPfVector_frame s v; rw [h]
@[simp] theorem sendPfVector_reply (s : State) (v : Nat) : (sendPfVector s v).reply = s.reply := by obtain ⟨_, _, h⟩ := sendPfVector_frame s v; rw [h]

@[simp] theorem raise_pending (s : State) (src : Nat) : (raise src s).pending = s.pending := by obtain ⟨_, _, _, h⟩ := raise_frame src s; rw [h]
@[simp] theorem raise_now (s : State) (src : Nat) : (raise src s).now = s.now := by obtain ⟨_, _, _, h⟩ := raise_frame src s; rw [h]
@[simp] theorem raise_ticks (s : State) (src : Nat) : (raise src s).ticks = s.ticks := by obtain ⟨_, _, _, h⟩ := raise_frame src s; rw [h]
@[simp] theorem raise_free (s : State) (src : Nat) : (raise src s).free = s.free := by obtain ⟨_, _, _, h⟩ := raise_frame src s; rw [h]
@[simp] theorem raise_conf (s : State) (src : Nat) : (raise src s).conf = s.conf := by obtain ⟨_, _, _, h⟩ := raise_frame src s; rw [h]
@[simp] theorem raise_img (s : State) (src : Nat) : (raise src s).img = s.img := by obtain ⟨_, _, _, h⟩ := raise_frame src s; rw [h]
@[simp] theorem raise_mir (s : State) (src : Nat) : (raise src s).mir = s.mir := by obtain ⟨_, _, _, h⟩ := raise_frame src s; rw [h]
@[simp] theorem raise_cores (s : State) (src : Nat) : (raise src s).cores = s.cores := by obtain ⟨_, _, _, h⟩ := raise_frame src s; rw [h]
@[simp] theorem raise_log (s : State) (src : Nat) : (raise src s).log = s.log := by obtain ⟨_, _, _, h⟩ := raise_frame src s; rw [h]
@[simp] theorem raise_vfs (s : State) (src : Nat) : (raise src s).vfs = s.vfs := by obtain ⟨_, _, _, h⟩ := raise_frame src s; rw [h]
@[simp] theorem raise_doms (s : State) (src : Nat) : (raise src s).doms = s.doms := by obtain ⟨_, _, _, h⟩ := raise_frame src s; rw [h]
@[simp] theorem raise_tasks (s : State) (src : Nat) : (raise src s).tasks = s.tasks := by obtain ⟨_, _, _, h⟩ := raise_frame src s; rw [h]
@[simp] theorem raise_order (s : State) (src : Nat) : (raise src s).order = s.order := by obtain ⟨_, _, _, h⟩ := raise_frame src s; rw [h]
@[simp] theorem raise_rot (s : State) (src : Nat) : (raise src s).rot = s.rot := by obtain ⟨_, _, _, h⟩ := raise_frame src s; rw [h]
@[simp] theorem raise_sems (s : State) (src : Nat) : (raise src s).sems = s.sems := by obtain ⟨_, _, _, h⟩ := raise_frame src s; rw [h]
@[simp] theorem raise_bars (s : State) (src : Nat) : (raise src s).bars = s.bars := by obtain ⟨_, _, _, h⟩ := raise_frame src s; rw [h]
@[simp] theorem raise_islands (s : State) (src : Nat) : (raise src s).islands = s.islands := by obtain ⟨_, _, _, h⟩ := raise_frame src s; rw [h]
@[simp] theorem raise_flights (s : State) (src : Nat) : (raise src s).flights = s.flights := by obtain ⟨_, _, _, h⟩ := raise_frame src s; rw [h]
@[simp] theorem raise_fifos (s : State) (src : Nat) : (raise src s).fifos = s.fifos := by obtain ⟨_, _, _, h⟩ := raise_frame src s; rw [h]
@[simp] theorem raise_vaults (s : State) (src : Nat) : (raise src s).vaults = s.vaults := by obtain ⟨_, _, _, h⟩ := raise_frame src s; rw [h]
@[simp] theorem raise_chans (s : State) (src : Nat) : (raise src s).chans = s.chans := by obtain ⟨_, _, _, h⟩ := raise_frame src s; rw [h]
@[simp] theorem raise_mem (s : State) (src : Nat) : (raise src s).mem = s.mem := by obtain ⟨_, _, _, h⟩ := raise_frame src s; rw [h]
@[simp] theorem raise_host (s : State) (src : Nat) : (raise src s).host = s.host := by obtain ⟨_, _, _, h⟩ := raise_frame src s; rw [h]
@[simp] theorem raise_poison (s : State) (src : Nat) : (raise src s).poison = s.poison := by obtain ⟨_, _, _, h⟩ := raise_frame src s; rw [h]
@[simp] theorem raise_latent (s : State) (src : Nat) : (raise src s).latent = s.latent := by obtain ⟨_, _, _, h⟩ := raise_frame src s; rw [h]
@[simp] theorem raise_mig (s : State) (src : Nat) : (raise src s).mig = s.mig := by obtain ⟨_, _, _, h⟩ := raise_frame src s; rw [h]
@[simp] theorem raise_dspKills (s : State) (src : Nat) : (raise src s).dspKills = s.dspKills := by obtain ⟨_, _, _, h⟩ := raise_frame src s; rw [h]
@[simp] theorem raise_dspPins (s : State) (src : Nat) : (raise src s).dspPins = s.dspPins := by obtain ⟨_, _, _, h⟩ := raise_frame src s; rw [h]
@[simp] theorem raise_codec (s : State) (src : Nat) : (raise src s).codec = s.codec := by obtain ⟨_, _, _, h⟩ := raise_frame src s; rw [h]
@[simp] theorem raise_net (s : State) (src : Nat) : (raise src s).net = s.net := by obtain ⟨_, _, _, h⟩ := raise_frame src s; rw [h]
@[simp] theorem raise_pow (s : State) (src : Nat) : (raise src s).pow = s.pow := by obtain ⟨_, _, _, h⟩ := raise_frame src s; rw [h]
@[simp] theorem raise_sec (s : State) (src : Nat) : (raise src s).sec = s.sec := by obtain ⟨_, _, _, h⟩ := raise_frame src s; rw [h]
@[simp] theorem raise_reply (s : State) (src : Nat) : (raise src s).reply = s.reply := by obtain ⟨_, _, _, h⟩ := raise_frame src s; rw [h]

@[simp] theorem evRefresh_pending (s : State) : (evRefresh s).pending = s.pending := by obtain ⟨_, _, _, h⟩ := evRefresh_frame s; rw [h]
@[simp] theorem evRefresh_now (s : State) : (evRefresh s).now = s.now := by obtain ⟨_, _, _, h⟩ := evRefresh_frame s; rw [h]
@[simp] theorem evRefresh_ticks (s : State) : (evRefresh s).ticks = s.ticks := by obtain ⟨_, _, _, h⟩ := evRefresh_frame s; rw [h]
@[simp] theorem evRefresh_free (s : State) : (evRefresh s).free = s.free := by obtain ⟨_, _, _, h⟩ := evRefresh_frame s; rw [h]
@[simp] theorem evRefresh_conf (s : State) : (evRefresh s).conf = s.conf := by obtain ⟨_, _, _, h⟩ := evRefresh_frame s; rw [h]
@[simp] theorem evRefresh_img (s : State) : (evRefresh s).img = s.img := by obtain ⟨_, _, _, h⟩ := evRefresh_frame s; rw [h]
@[simp] theorem evRefresh_mir (s : State) : (evRefresh s).mir = s.mir := by obtain ⟨_, _, _, h⟩ := evRefresh_frame s; rw [h]
@[simp] theorem evRefresh_cores (s : State) : (evRefresh s).cores = s.cores := by obtain ⟨_, _, _, h⟩ := evRefresh_frame s; rw [h]
@[simp] theorem evRefresh_log (s : State) : (evRefresh s).log = s.log := by obtain ⟨_, _, _, h⟩ := evRefresh_frame s; rw [h]
@[simp] theorem evRefresh_vfs (s : State) : (evRefresh s).vfs = s.vfs := by obtain ⟨_, _, _, h⟩ := evRefresh_frame s; rw [h]
@[simp] theorem evRefresh_doms (s : State) : (evRefresh s).doms = s.doms := by obtain ⟨_, _, _, h⟩ := evRefresh_frame s; rw [h]
@[simp] theorem evRefresh_tasks (s : State) : (evRefresh s).tasks = s.tasks := by obtain ⟨_, _, _, h⟩ := evRefresh_frame s; rw [h]
@[simp] theorem evRefresh_order (s : State) : (evRefresh s).order = s.order := by obtain ⟨_, _, _, h⟩ := evRefresh_frame s; rw [h]
@[simp] theorem evRefresh_rot (s : State) : (evRefresh s).rot = s.rot := by obtain ⟨_, _, _, h⟩ := evRefresh_frame s; rw [h]
@[simp] theorem evRefresh_sems (s : State) : (evRefresh s).sems = s.sems := by obtain ⟨_, _, _, h⟩ := evRefresh_frame s; rw [h]
@[simp] theorem evRefresh_bars (s : State) : (evRefresh s).bars = s.bars := by obtain ⟨_, _, _, h⟩ := evRefresh_frame s; rw [h]
@[simp] theorem evRefresh_islands (s : State) : (evRefresh s).islands = s.islands := by obtain ⟨_, _, _, h⟩ := evRefresh_frame s; rw [h]
@[simp] theorem evRefresh_flights (s : State) : (evRefresh s).flights = s.flights := by obtain ⟨_, _, _, h⟩ := evRefresh_frame s; rw [h]
@[simp] theorem evRefresh_fifos (s : State) : (evRefresh s).fifos = s.fifos := by obtain ⟨_, _, _, h⟩ := evRefresh_frame s; rw [h]
@[simp] theorem evRefresh_vaults (s : State) : (evRefresh s).vaults = s.vaults := by obtain ⟨_, _, _, h⟩ := evRefresh_frame s; rw [h]
@[simp] theorem evRefresh_chans (s : State) : (evRefresh s).chans = s.chans := by obtain ⟨_, _, _, h⟩ := evRefresh_frame s; rw [h]
@[simp] theorem evRefresh_mem (s : State) : (evRefresh s).mem = s.mem := by obtain ⟨_, _, _, h⟩ := evRefresh_frame s; rw [h]
@[simp] theorem evRefresh_host (s : State) : (evRefresh s).host = s.host := by obtain ⟨_, _, _, h⟩ := evRefresh_frame s; rw [h]
@[simp] theorem evRefresh_poison (s : State) : (evRefresh s).poison = s.poison := by obtain ⟨_, _, _, h⟩ := evRefresh_frame s; rw [h]
@[simp] theorem evRefresh_latent (s : State) : (evRefresh s).latent = s.latent := by obtain ⟨_, _, _, h⟩ := evRefresh_frame s; rw [h]
@[simp] theorem evRefresh_mig (s : State) : (evRefresh s).mig = s.mig := by obtain ⟨_, _, _, h⟩ := evRefresh_frame s; rw [h]
@[simp] theorem evRefresh_dspKills (s : State) : (evRefresh s).dspKills = s.dspKills := by obtain ⟨_, _, _, h⟩ := evRefresh_frame s; rw [h]
@[simp] theorem evRefresh_dspPins (s : State) : (evRefresh s).dspPins = s.dspPins := by obtain ⟨_, _, _, h⟩ := evRefresh_frame s; rw [h]
@[simp] theorem evRefresh_codec (s : State) : (evRefresh s).codec = s.codec := by obtain ⟨_, _, _, h⟩ := evRefresh_frame s; rw [h]
@[simp] theorem evRefresh_net (s : State) : (evRefresh s).net = s.net := by obtain ⟨_, _, _, h⟩ := evRefresh_frame s; rw [h]
@[simp] theorem evRefresh_pow (s : State) : (evRefresh s).pow = s.pow := by obtain ⟨_, _, _, h⟩ := evRefresh_frame s; rw [h]
@[simp] theorem evRefresh_sec (s : State) : (evRefresh s).sec = s.sec := by obtain ⟨_, _, _, h⟩ := evRefresh_frame s; rw [h]
@[simp] theorem evRefresh_reply (s : State) : (evRefresh s).reply = s.reply := by obtain ⟨_, _, _, h⟩ := evRefresh_frame s; rw [h]

@[simp] theorem logE_pending (s : State) (sev : Nat) (code : Status) (src : Option Nat) (d : Nat) (b : List Byte) : (logE sev code src d b s).pending = s.pending := by obtain ⟨_, _, _, _, h⟩ := logE_frame sev code src d b s; rw [h]
@[simp] theorem logE_now (s : State) (sev : Nat) (code : Status) (src : Option Nat) (d : Nat) (b : List Byte) : (logE sev code src d b s).now = s.now := by obtain ⟨_, _, _, _, h⟩ := logE_frame sev code src d b s; rw [h]
@[simp] theorem logE_ticks (s : State) (sev : Nat) (code : Status) (src : Option Nat) (d : Nat) (b : List Byte) : (logE sev code src d b s).ticks = s.ticks := by obtain ⟨_, _, _, _, h⟩ := logE_frame sev code src d b s; rw [h]
@[simp] theorem logE_free (s : State) (sev : Nat) (code : Status) (src : Option Nat) (d : Nat) (b : List Byte) : (logE sev code src d b s).free = s.free := by obtain ⟨_, _, _, _, h⟩ := logE_frame sev code src d b s; rw [h]
@[simp] theorem logE_conf (s : State) (sev : Nat) (code : Status) (src : Option Nat) (d : Nat) (b : List Byte) : (logE sev code src d b s).conf = s.conf := by obtain ⟨_, _, _, _, h⟩ := logE_frame sev code src d b s; rw [h]
@[simp] theorem logE_img (s : State) (sev : Nat) (code : Status) (src : Option Nat) (d : Nat) (b : List Byte) : (logE sev code src d b s).img = s.img := by obtain ⟨_, _, _, _, h⟩ := logE_frame sev code src d b s; rw [h]
@[simp] theorem logE_mir (s : State) (sev : Nat) (code : Status) (src : Option Nat) (d : Nat) (b : List Byte) : (logE sev code src d b s).mir = s.mir := by obtain ⟨_, _, _, _, h⟩ := logE_frame sev code src d b s; rw [h]
@[simp] theorem logE_cores (s : State) (sev : Nat) (code : Status) (src : Option Nat) (d : Nat) (b : List Byte) : (logE sev code src d b s).cores = s.cores := by obtain ⟨_, _, _, _, h⟩ := logE_frame sev code src d b s; rw [h]
@[simp] theorem logE_vfs (s : State) (sev : Nat) (code : Status) (src : Option Nat) (d : Nat) (b : List Byte) : (logE sev code src d b s).vfs = s.vfs := by obtain ⟨_, _, _, _, h⟩ := logE_frame sev code src d b s; rw [h]
@[simp] theorem logE_doms (s : State) (sev : Nat) (code : Status) (src : Option Nat) (d : Nat) (b : List Byte) : (logE sev code src d b s).doms = s.doms := by obtain ⟨_, _, _, _, h⟩ := logE_frame sev code src d b s; rw [h]
@[simp] theorem logE_tasks (s : State) (sev : Nat) (code : Status) (src : Option Nat) (d : Nat) (b : List Byte) : (logE sev code src d b s).tasks = s.tasks := by obtain ⟨_, _, _, _, h⟩ := logE_frame sev code src d b s; rw [h]
@[simp] theorem logE_order (s : State) (sev : Nat) (code : Status) (src : Option Nat) (d : Nat) (b : List Byte) : (logE sev code src d b s).order = s.order := by obtain ⟨_, _, _, _, h⟩ := logE_frame sev code src d b s; rw [h]
@[simp] theorem logE_rot (s : State) (sev : Nat) (code : Status) (src : Option Nat) (d : Nat) (b : List Byte) : (logE sev code src d b s).rot = s.rot := by obtain ⟨_, _, _, _, h⟩ := logE_frame sev code src d b s; rw [h]
@[simp] theorem logE_sems (s : State) (sev : Nat) (code : Status) (src : Option Nat) (d : Nat) (b : List Byte) : (logE sev code src d b s).sems = s.sems := by obtain ⟨_, _, _, _, h⟩ := logE_frame sev code src d b s; rw [h]
@[simp] theorem logE_bars (s : State) (sev : Nat) (code : Status) (src : Option Nat) (d : Nat) (b : List Byte) : (logE sev code src d b s).bars = s.bars := by obtain ⟨_, _, _, _, h⟩ := logE_frame sev code src d b s; rw [h]
@[simp] theorem logE_islands (s : State) (sev : Nat) (code : Status) (src : Option Nat) (d : Nat) (b : List Byte) : (logE sev code src d b s).islands = s.islands := by obtain ⟨_, _, _, _, h⟩ := logE_frame sev code src d b s; rw [h]
@[simp] theorem logE_flights (s : State) (sev : Nat) (code : Status) (src : Option Nat) (d : Nat) (b : List Byte) : (logE sev code src d b s).flights = s.flights := by obtain ⟨_, _, _, _, h⟩ := logE_frame sev code src d b s; rw [h]
@[simp] theorem logE_fifos (s : State) (sev : Nat) (code : Status) (src : Option Nat) (d : Nat) (b : List Byte) : (logE sev code src d b s).fifos = s.fifos := by obtain ⟨_, _, _, _, h⟩ := logE_frame sev code src d b s; rw [h]
@[simp] theorem logE_vaults (s : State) (sev : Nat) (code : Status) (src : Option Nat) (d : Nat) (b : List Byte) : (logE sev code src d b s).vaults = s.vaults := by obtain ⟨_, _, _, _, h⟩ := logE_frame sev code src d b s; rw [h]
@[simp] theorem logE_chans (s : State) (sev : Nat) (code : Status) (src : Option Nat) (d : Nat) (b : List Byte) : (logE sev code src d b s).chans = s.chans := by obtain ⟨_, _, _, _, h⟩ := logE_frame sev code src d b s; rw [h]
@[simp] theorem logE_mem (s : State) (sev : Nat) (code : Status) (src : Option Nat) (d : Nat) (b : List Byte) : (logE sev code src d b s).mem = s.mem := by obtain ⟨_, _, _, _, h⟩ := logE_frame sev code src d b s; rw [h]
@[simp] theorem logE_host (s : State) (sev : Nat) (code : Status) (src : Option Nat) (d : Nat) (b : List Byte) : (logE sev code src d b s).host = s.host := by obtain ⟨_, _, _, _, h⟩ := logE_frame sev code src d b s; rw [h]
@[simp] theorem logE_poison (s : State) (sev : Nat) (code : Status) (src : Option Nat) (d : Nat) (b : List Byte) : (logE sev code src d b s).poison = s.poison := by obtain ⟨_, _, _, _, h⟩ := logE_frame sev code src d b s; rw [h]
@[simp] theorem logE_latent (s : State) (sev : Nat) (code : Status) (src : Option Nat) (d : Nat) (b : List Byte) : (logE sev code src d b s).latent = s.latent := by obtain ⟨_, _, _, _, h⟩ := logE_frame sev code src d b s; rw [h]
@[simp] theorem logE_mig (s : State) (sev : Nat) (code : Status) (src : Option Nat) (d : Nat) (b : List Byte) : (logE sev code src d b s).mig = s.mig := by obtain ⟨_, _, _, _, h⟩ := logE_frame sev code src d b s; rw [h]
@[simp] theorem logE_dspKills (s : State) (sev : Nat) (code : Status) (src : Option Nat) (d : Nat) (b : List Byte) : (logE sev code src d b s).dspKills = s.dspKills := by obtain ⟨_, _, _, _, h⟩ := logE_frame sev code src d b s; rw [h]
@[simp] theorem logE_dspPins (s : State) (sev : Nat) (code : Status) (src : Option Nat) (d : Nat) (b : List Byte) : (logE sev code src d b s).dspPins = s.dspPins := by obtain ⟨_, _, _, _, h⟩ := logE_frame sev code src d b s; rw [h]
@[simp] theorem logE_codec (s : State) (sev : Nat) (code : Status) (src : Option Nat) (d : Nat) (b : List Byte) : (logE sev code src d b s).codec = s.codec := by obtain ⟨_, _, _, _, h⟩ := logE_frame sev code src d b s; rw [h]
@[simp] theorem logE_net (s : State) (sev : Nat) (code : Status) (src : Option Nat) (d : Nat) (b : List Byte) : (logE sev code src d b s).net = s.net := by obtain ⟨_, _, _, _, h⟩ := logE_frame sev code src d b s; rw [h]
@[simp] theorem logE_pow (s : State) (sev : Nat) (code : Status) (src : Option Nat) (d : Nat) (b : List Byte) : (logE sev code src d b s).pow = s.pow := by obtain ⟨_, _, _, _, h⟩ := logE_frame sev code src d b s; rw [h]
@[simp] theorem logE_sec (s : State) (sev : Nat) (code : Status) (src : Option Nat) (d : Nat) (b : List Byte) : (logE sev code src d b s).sec = s.sec := by obtain ⟨_, _, _, _, h⟩ := logE_frame sev code src d b s; rw [h]
@[simp] theorem logE_reply (s : State) (sev : Nat) (code : Status) (src : Option Nat) (d : Nat) (b : List Byte) : (logE sev code src d b s).reply = s.reply := by obtain ⟨_, _, _, _, h⟩ := logE_frame sev code src d b s; rw [h]

@[simp] theorem sendVfVector_pending (s : State) (v c : Nat) : (sendVfVector s v c).pending = s.pending := by obtain ⟨_, _, h⟩ := sendVfVector_frame s v c; rw [h]
@[simp] theorem sendVfVector_now (s : State) (v c : Nat) : (sendVfVector s v c).now = s.now := by obtain ⟨_, _, h⟩ := sendVfVector_frame s v c; rw [h]
@[simp] theorem sendVfVector_ticks (s : State) (v c : Nat) : (sendVfVector s v c).ticks = s.ticks := by obtain ⟨_, _, h⟩ := sendVfVector_frame s v c; rw [h]
@[simp] theorem sendVfVector_free (s : State) (v c : Nat) : (sendVfVector s v c).free = s.free := by obtain ⟨_, _, h⟩ := sendVfVector_frame s v c; rw [h]
@[simp] theorem sendVfVector_conf (s : State) (v c : Nat) : (sendVfVector s v c).conf = s.conf := by obtain ⟨_, _, h⟩ := sendVfVector_frame s v c; rw [h]
@[simp] theorem sendVfVector_img (s : State) (v c : Nat) : (sendVfVector s v c).img = s.img := by obtain ⟨_, _, h⟩ := sendVfVector_frame s v c; rw [h]
@[simp] theorem sendVfVector_mir (s : State) (v c : Nat) : (sendVfVector s v c).mir = s.mir := by obtain ⟨_, _, h⟩ := sendVfVector_frame s v c; rw [h]
@[simp] theorem sendVfVector_cores (s : State) (v c : Nat) : (sendVfVector s v c).cores = s.cores := by obtain ⟨_, _, h⟩ := sendVfVector_frame s v c; rw [h]
@[simp] theorem sendVfVector_evc (s : State) (v c : Nat) : (sendVfVector s v c).evc = s.evc := by obtain ⟨_, _, h⟩ := sendVfVector_frame s v c; rw [h]
@[simp] theorem sendVfVector_log (s : State) (v c : Nat) : (sendVfVector s v c).log = s.log := by obtain ⟨_, _, h⟩ := sendVfVector_frame s v c; rw [h]
@[simp] theorem sendVfVector_pfMsix (s : State) (v c : Nat) : (sendVfVector s v c).pfMsix = s.pfMsix := by obtain ⟨_, _, h⟩ := sendVfVector_frame s v c; rw [h]
@[simp] theorem sendVfVector_doms (s : State) (v c : Nat) : (sendVfVector s v c).doms = s.doms := by obtain ⟨_, _, h⟩ := sendVfVector_frame s v c; rw [h]
@[simp] theorem sendVfVector_tasks (s : State) (v c : Nat) : (sendVfVector s v c).tasks = s.tasks := by obtain ⟨_, _, h⟩ := sendVfVector_frame s v c; rw [h]
@[simp] theorem sendVfVector_order (s : State) (v c : Nat) : (sendVfVector s v c).order = s.order := by obtain ⟨_, _, h⟩ := sendVfVector_frame s v c; rw [h]
@[simp] theorem sendVfVector_rot (s : State) (v c : Nat) : (sendVfVector s v c).rot = s.rot := by obtain ⟨_, _, h⟩ := sendVfVector_frame s v c; rw [h]
@[simp] theorem sendVfVector_sems (s : State) (v c : Nat) : (sendVfVector s v c).sems = s.sems := by obtain ⟨_, _, h⟩ := sendVfVector_frame s v c; rw [h]
@[simp] theorem sendVfVector_bars (s : State) (v c : Nat) : (sendVfVector s v c).bars = s.bars := by obtain ⟨_, _, h⟩ := sendVfVector_frame s v c; rw [h]
@[simp] theorem sendVfVector_islands (s : State) (v c : Nat) : (sendVfVector s v c).islands = s.islands := by obtain ⟨_, _, h⟩ := sendVfVector_frame s v c; rw [h]
@[simp] theorem sendVfVector_flights (s : State) (v c : Nat) : (sendVfVector s v c).flights = s.flights := by obtain ⟨_, _, h⟩ := sendVfVector_frame s v c; rw [h]
@[simp] theorem sendVfVector_fifos (s : State) (v c : Nat) : (sendVfVector s v c).fifos = s.fifos := by obtain ⟨_, _, h⟩ := sendVfVector_frame s v c; rw [h]
@[simp] theorem sendVfVector_vaults (s : State) (v c : Nat) : (sendVfVector s v c).vaults = s.vaults := by obtain ⟨_, _, h⟩ := sendVfVector_frame s v c; rw [h]
@[simp] theorem sendVfVector_chans (s : State) (v c : Nat) : (sendVfVector s v c).chans = s.chans := by obtain ⟨_, _, h⟩ := sendVfVector_frame s v c; rw [h]
@[simp] theorem sendVfVector_mem (s : State) (v c : Nat) : (sendVfVector s v c).mem = s.mem := by obtain ⟨_, _, h⟩ := sendVfVector_frame s v c; rw [h]
@[simp] theorem sendVfVector_host (s : State) (v c : Nat) : (sendVfVector s v c).host = s.host := by obtain ⟨_, _, h⟩ := sendVfVector_frame s v c; rw [h]
@[simp] theorem sendVfVector_poison (s : State) (v c : Nat) : (sendVfVector s v c).poison = s.poison := by obtain ⟨_, _, h⟩ := sendVfVector_frame s v c; rw [h]
@[simp] theorem sendVfVector_latent (s : State) (v c : Nat) : (sendVfVector s v c).latent = s.latent := by obtain ⟨_, _, h⟩ := sendVfVector_frame s v c; rw [h]
@[simp] theorem sendVfVector_mig (s : State) (v c : Nat) : (sendVfVector s v c).mig = s.mig := by obtain ⟨_, _, h⟩ := sendVfVector_frame s v c; rw [h]
@[simp] theorem sendVfVector_dspKills (s : State) (v c : Nat) : (sendVfVector s v c).dspKills = s.dspKills := by obtain ⟨_, _, h⟩ := sendVfVector_frame s v c; rw [h]
@[simp] theorem sendVfVector_dspPins (s : State) (v c : Nat) : (sendVfVector s v c).dspPins = s.dspPins := by obtain ⟨_, _, h⟩ := sendVfVector_frame s v c; rw [h]
@[simp] theorem sendVfVector_codec (s : State) (v c : Nat) : (sendVfVector s v c).codec = s.codec := by obtain ⟨_, _, h⟩ := sendVfVector_frame s v c; rw [h]
@[simp] theorem sendVfVector_net (s : State) (v c : Nat) : (sendVfVector s v c).net = s.net := by obtain ⟨_, _, h⟩ := sendVfVector_frame s v c; rw [h]
@[simp] theorem sendVfVector_pow (s : State) (v c : Nat) : (sendVfVector s v c).pow = s.pow := by obtain ⟨_, _, h⟩ := sendVfVector_frame s v c; rw [h]
@[simp] theorem sendVfVector_sec (s : State) (v c : Nat) : (sendVfVector s v c).sec = s.sec := by obtain ⟨_, _, h⟩ := sendVfVector_frame s v c; rw [h]
@[simp] theorem sendVfVector_reply (s : State) (v c : Nat) : (sendVfVector s v c).reply = s.reply := by obtain ⟨_, _, h⟩ := sendVfVector_frame s v c; rw [h]

@[simp] theorem cplDeliver_pending (s : State) (v c : Nat) (b : List Byte) : (cplDeliver s v c b).pending = s.pending := by obtain ⟨_, _, _, h⟩ := cplDeliver_frame s v c b; rw [h]
@[simp] theorem cplDeliver_now (s : State) (v c : Nat) (b : List Byte) : (cplDeliver s v c b).now = s.now := by obtain ⟨_, _, _, h⟩ := cplDeliver_frame s v c b; rw [h]
@[simp] theorem cplDeliver_ticks (s : State) (v c : Nat) (b : List Byte) : (cplDeliver s v c b).ticks = s.ticks := by obtain ⟨_, _, _, h⟩ := cplDeliver_frame s v c b; rw [h]
@[simp] theorem cplDeliver_free (s : State) (v c : Nat) (b : List Byte) : (cplDeliver s v c b).free = s.free := by obtain ⟨_, _, _, h⟩ := cplDeliver_frame s v c b; rw [h]
@[simp] theorem cplDeliver_conf (s : State) (v c : Nat) (b : List Byte) : (cplDeliver s v c b).conf = s.conf := by obtain ⟨_, _, _, h⟩ := cplDeliver_frame s v c b; rw [h]
@[simp] theorem cplDeliver_img (s : State) (v c : Nat) (b : List Byte) : (cplDeliver s v c b).img = s.img := by obtain ⟨_, _, _, h⟩ := cplDeliver_frame s v c b; rw [h]
@[simp] theorem cplDeliver_mir (s : State) (v c : Nat) (b : List Byte) : (cplDeliver s v c b).mir = s.mir := by obtain ⟨_, _, _, h⟩ := cplDeliver_frame s v c b; rw [h]
@[simp] theorem cplDeliver_cores (s : State) (v c : Nat) (b : List Byte) : (cplDeliver s v c b).cores = s.cores := by obtain ⟨_, _, _, h⟩ := cplDeliver_frame s v c b; rw [h]
@[simp] theorem cplDeliver_evc (s : State) (v c : Nat) (b : List Byte) : (cplDeliver s v c b).evc = s.evc := by obtain ⟨_, _, _, h⟩ := cplDeliver_frame s v c b; rw [h]
@[simp] theorem cplDeliver_log (s : State) (v c : Nat) (b : List Byte) : (cplDeliver s v c b).log = s.log := by obtain ⟨_, _, _, h⟩ := cplDeliver_frame s v c b; rw [h]
@[simp] theorem cplDeliver_pfMsix (s : State) (v c : Nat) (b : List Byte) : (cplDeliver s v c b).pfMsix = s.pfMsix := by obtain ⟨_, _, _, h⟩ := cplDeliver_frame s v c b; rw [h]
@[simp] theorem cplDeliver_doms (s : State) (v c : Nat) (b : List Byte) : (cplDeliver s v c b).doms = s.doms := by obtain ⟨_, _, _, h⟩ := cplDeliver_frame s v c b; rw [h]
@[simp] theorem cplDeliver_tasks (s : State) (v c : Nat) (b : List Byte) : (cplDeliver s v c b).tasks = s.tasks := by obtain ⟨_, _, _, h⟩ := cplDeliver_frame s v c b; rw [h]
@[simp] theorem cplDeliver_order (s : State) (v c : Nat) (b : List Byte) : (cplDeliver s v c b).order = s.order := by obtain ⟨_, _, _, h⟩ := cplDeliver_frame s v c b; rw [h]
@[simp] theorem cplDeliver_rot (s : State) (v c : Nat) (b : List Byte) : (cplDeliver s v c b).rot = s.rot := by obtain ⟨_, _, _, h⟩ := cplDeliver_frame s v c b; rw [h]
@[simp] theorem cplDeliver_sems (s : State) (v c : Nat) (b : List Byte) : (cplDeliver s v c b).sems = s.sems := by obtain ⟨_, _, _, h⟩ := cplDeliver_frame s v c b; rw [h]
@[simp] theorem cplDeliver_bars (s : State) (v c : Nat) (b : List Byte) : (cplDeliver s v c b).bars = s.bars := by obtain ⟨_, _, _, h⟩ := cplDeliver_frame s v c b; rw [h]
@[simp] theorem cplDeliver_islands (s : State) (v c : Nat) (b : List Byte) : (cplDeliver s v c b).islands = s.islands := by obtain ⟨_, _, _, h⟩ := cplDeliver_frame s v c b; rw [h]
@[simp] theorem cplDeliver_flights (s : State) (v c : Nat) (b : List Byte) : (cplDeliver s v c b).flights = s.flights := by obtain ⟨_, _, _, h⟩ := cplDeliver_frame s v c b; rw [h]
@[simp] theorem cplDeliver_fifos (s : State) (v c : Nat) (b : List Byte) : (cplDeliver s v c b).fifos = s.fifos := by obtain ⟨_, _, _, h⟩ := cplDeliver_frame s v c b; rw [h]
@[simp] theorem cplDeliver_vaults (s : State) (v c : Nat) (b : List Byte) : (cplDeliver s v c b).vaults = s.vaults := by obtain ⟨_, _, _, h⟩ := cplDeliver_frame s v c b; rw [h]
@[simp] theorem cplDeliver_chans (s : State) (v c : Nat) (b : List Byte) : (cplDeliver s v c b).chans = s.chans := by obtain ⟨_, _, _, h⟩ := cplDeliver_frame s v c b; rw [h]
@[simp] theorem cplDeliver_mem (s : State) (v c : Nat) (b : List Byte) : (cplDeliver s v c b).mem = s.mem := by obtain ⟨_, _, _, h⟩ := cplDeliver_frame s v c b; rw [h]
@[simp] theorem cplDeliver_poison (s : State) (v c : Nat) (b : List Byte) : (cplDeliver s v c b).poison = s.poison := by obtain ⟨_, _, _, h⟩ := cplDeliver_frame s v c b; rw [h]
@[simp] theorem cplDeliver_latent (s : State) (v c : Nat) (b : List Byte) : (cplDeliver s v c b).latent = s.latent := by obtain ⟨_, _, _, h⟩ := cplDeliver_frame s v c b; rw [h]
@[simp] theorem cplDeliver_mig (s : State) (v c : Nat) (b : List Byte) : (cplDeliver s v c b).mig = s.mig := by obtain ⟨_, _, _, h⟩ := cplDeliver_frame s v c b; rw [h]
@[simp] theorem cplDeliver_dspKills (s : State) (v c : Nat) (b : List Byte) : (cplDeliver s v c b).dspKills = s.dspKills := by obtain ⟨_, _, _, h⟩ := cplDeliver_frame s v c b; rw [h]
@[simp] theorem cplDeliver_dspPins (s : State) (v c : Nat) (b : List Byte) : (cplDeliver s v c b).dspPins = s.dspPins := by obtain ⟨_, _, _, h⟩ := cplDeliver_frame s v c b; rw [h]
@[simp] theorem cplDeliver_codec (s : State) (v c : Nat) (b : List Byte) : (cplDeliver s v c b).codec = s.codec := by obtain ⟨_, _, _, h⟩ := cplDeliver_frame s v c b; rw [h]
@[simp] theorem cplDeliver_net (s : State) (v c : Nat) (b : List Byte) : (cplDeliver s v c b).net = s.net := by obtain ⟨_, _, _, h⟩ := cplDeliver_frame s v c b; rw [h]
@[simp] theorem cplDeliver_pow (s : State) (v c : Nat) (b : List Byte) : (cplDeliver s v c b).pow = s.pow := by obtain ⟨_, _, _, h⟩ := cplDeliver_frame s v c b; rw [h]
@[simp] theorem cplDeliver_sec (s : State) (v c : Nat) (b : List Byte) : (cplDeliver s v c b).sec = s.sec := by obtain ⟨_, _, _, h⟩ := cplDeliver_frame s v c b; rw [h]
@[simp] theorem cplDeliver_reply (s : State) (v c : Nat) (b : List Byte) : (cplDeliver s v c b).reply = s.reply := by obtain ⟨_, _, _, h⟩ := cplDeliver_frame s v c b; rw [h]

@[simp] theorem complete_pending (s : State) (src : Src) (st : Status) (r : Nat) : (complete src st r s).pending = s.pending := by obtain ⟨_, _, _, h⟩ := complete_frame src st r s; rw [h]
@[simp] theorem complete_now (s : State) (src : Src) (st : Status) (r : Nat) : (complete src st r s).now = s.now := by obtain ⟨_, _, _, h⟩ := complete_frame src st r s; rw [h]
@[simp] theorem complete_ticks (s : State) (src : Src) (st : Status) (r : Nat) : (complete src st r s).ticks = s.ticks := by obtain ⟨_, _, _, h⟩ := complete_frame src st r s; rw [h]
@[simp] theorem complete_free (s : State) (src : Src) (st : Status) (r : Nat) : (complete src st r s).free = s.free := by obtain ⟨_, _, _, h⟩ := complete_frame src st r s; rw [h]
@[simp] theorem complete_conf (s : State) (src : Src) (st : Status) (r : Nat) : (complete src st r s).conf = s.conf := by obtain ⟨_, _, _, h⟩ := complete_frame src st r s; rw [h]
@[simp] theorem complete_img (s : State) (src : Src) (st : Status) (r : Nat) : (complete src st r s).img = s.img := by obtain ⟨_, _, _, h⟩ := complete_frame src st r s; rw [h]
@[simp] theorem complete_mir (s : State) (src : Src) (st : Status) (r : Nat) : (complete src st r s).mir = s.mir := by obtain ⟨_, _, _, h⟩ := complete_frame src st r s; rw [h]
@[simp] theorem complete_cores (s : State) (src : Src) (st : Status) (r : Nat) : (complete src st r s).cores = s.cores := by obtain ⟨_, _, _, h⟩ := complete_frame src st r s; rw [h]
@[simp] theorem complete_evc (s : State) (src : Src) (st : Status) (r : Nat) : (complete src st r s).evc = s.evc := by obtain ⟨_, _, _, h⟩ := complete_frame src st r s; rw [h]
@[simp] theorem complete_log (s : State) (src : Src) (st : Status) (r : Nat) : (complete src st r s).log = s.log := by obtain ⟨_, _, _, h⟩ := complete_frame src st r s; rw [h]
@[simp] theorem complete_pfMsix (s : State) (src : Src) (st : Status) (r : Nat) : (complete src st r s).pfMsix = s.pfMsix := by obtain ⟨_, _, _, h⟩ := complete_frame src st r s; rw [h]
@[simp] theorem complete_doms (s : State) (src : Src) (st : Status) (r : Nat) : (complete src st r s).doms = s.doms := by obtain ⟨_, _, _, h⟩ := complete_frame src st r s; rw [h]
@[simp] theorem complete_tasks (s : State) (src : Src) (st : Status) (r : Nat) : (complete src st r s).tasks = s.tasks := by obtain ⟨_, _, _, h⟩ := complete_frame src st r s; rw [h]
@[simp] theorem complete_order (s : State) (src : Src) (st : Status) (r : Nat) : (complete src st r s).order = s.order := by obtain ⟨_, _, _, h⟩ := complete_frame src st r s; rw [h]
@[simp] theorem complete_rot (s : State) (src : Src) (st : Status) (r : Nat) : (complete src st r s).rot = s.rot := by obtain ⟨_, _, _, h⟩ := complete_frame src st r s; rw [h]
@[simp] theorem complete_sems (s : State) (src : Src) (st : Status) (r : Nat) : (complete src st r s).sems = s.sems := by obtain ⟨_, _, _, h⟩ := complete_frame src st r s; rw [h]
@[simp] theorem complete_bars (s : State) (src : Src) (st : Status) (r : Nat) : (complete src st r s).bars = s.bars := by obtain ⟨_, _, _, h⟩ := complete_frame src st r s; rw [h]
@[simp] theorem complete_islands (s : State) (src : Src) (st : Status) (r : Nat) : (complete src st r s).islands = s.islands := by obtain ⟨_, _, _, h⟩ := complete_frame src st r s; rw [h]
@[simp] theorem complete_flights (s : State) (src : Src) (st : Status) (r : Nat) : (complete src st r s).flights = s.flights := by obtain ⟨_, _, _, h⟩ := complete_frame src st r s; rw [h]
@[simp] theorem complete_fifos (s : State) (src : Src) (st : Status) (r : Nat) : (complete src st r s).fifos = s.fifos := by obtain ⟨_, _, _, h⟩ := complete_frame src st r s; rw [h]
@[simp] theorem complete_vaults (s : State) (src : Src) (st : Status) (r : Nat) : (complete src st r s).vaults = s.vaults := by obtain ⟨_, _, _, h⟩ := complete_frame src st r s; rw [h]
@[simp] theorem complete_chans (s : State) (src : Src) (st : Status) (r : Nat) : (complete src st r s).chans = s.chans := by obtain ⟨_, _, _, h⟩ := complete_frame src st r s; rw [h]
@[simp] theorem complete_mem (s : State) (src : Src) (st : Status) (r : Nat) : (complete src st r s).mem = s.mem := by obtain ⟨_, _, _, h⟩ := complete_frame src st r s; rw [h]
@[simp] theorem complete_poison (s : State) (src : Src) (st : Status) (r : Nat) : (complete src st r s).poison = s.poison := by obtain ⟨_, _, _, h⟩ := complete_frame src st r s; rw [h]
@[simp] theorem complete_latent (s : State) (src : Src) (st : Status) (r : Nat) : (complete src st r s).latent = s.latent := by obtain ⟨_, _, _, h⟩ := complete_frame src st r s; rw [h]
@[simp] theorem complete_mig (s : State) (src : Src) (st : Status) (r : Nat) : (complete src st r s).mig = s.mig := by obtain ⟨_, _, _, h⟩ := complete_frame src st r s; rw [h]
@[simp] theorem complete_dspKills (s : State) (src : Src) (st : Status) (r : Nat) : (complete src st r s).dspKills = s.dspKills := by obtain ⟨_, _, _, h⟩ := complete_frame src st r s; rw [h]
@[simp] theorem complete_dspPins (s : State) (src : Src) (st : Status) (r : Nat) : (complete src st r s).dspPins = s.dspPins := by obtain ⟨_, _, _, h⟩ := complete_frame src st r s; rw [h]
@[simp] theorem complete_codec (s : State) (src : Src) (st : Status) (r : Nat) : (complete src st r s).codec = s.codec := by obtain ⟨_, _, _, h⟩ := complete_frame src st r s; rw [h]
@[simp] theorem complete_net (s : State) (src : Src) (st : Status) (r : Nat) : (complete src st r s).net = s.net := by obtain ⟨_, _, _, h⟩ := complete_frame src st r s; rw [h]
@[simp] theorem complete_pow (s : State) (src : Src) (st : Status) (r : Nat) : (complete src st r s).pow = s.pow := by obtain ⟨_, _, _, h⟩ := complete_frame src st r s; rw [h]
@[simp] theorem complete_sec (s : State) (src : Src) (st : Status) (r : Nat) : (complete src st r s).sec = s.sec := by obtain ⟨_, _, _, h⟩ := complete_frame src st r s; rw [h]
@[simp] theorem complete_reply (s : State) (src : Src) (st : Status) (r : Nat) : (complete src st r s).reply = s.reply := by obtain ⟨_, _, _, h⟩ := complete_frame src st r s; rw [h]

@[simp] theorem succeed_pending (s : State) (src : Src) : (succeed src s).pending = s.pending := complete_pending ..
@[simp] theorem succeed_now (s : State) (src : Src) : (succeed src s).now = s.now := complete_now ..
@[simp] theorem succeed_ticks (s : State) (src : Src) : (succeed src s).ticks = s.ticks := complete_ticks ..
@[simp] theorem succeed_free (s : State) (src : Src) : (succeed src s).free = s.free := complete_free ..
@[simp] theorem succeed_conf (s : State) (src : Src) : (succeed src s).conf = s.conf := complete_conf ..
@[simp] theorem succeed_img (s : State) (src : Src) : (succeed src s).img = s.img := complete_img ..
@[simp] theorem succeed_mir (s : State) (src : Src) : (succeed src s).mir = s.mir := complete_mir ..
@[simp] theorem succeed_cores (s : State) (src : Src) : (succeed src s).cores = s.cores := complete_cores ..
@[simp] theorem succeed_evc (s : State) (src : Src) : (succeed src s).evc = s.evc := complete_evc ..
@[simp] theorem succeed_log (s : State) (src : Src) : (succeed src s).log = s.log := complete_log ..
@[simp] theorem succeed_pfMsix (s : State) (src : Src) : (succeed src s).pfMsix = s.pfMsix := complete_pfMsix ..
@[simp] theorem succeed_doms (s : State) (src : Src) : (succeed src s).doms = s.doms := complete_doms ..
@[simp] theorem succeed_tasks (s : State) (src : Src) : (succeed src s).tasks = s.tasks := complete_tasks ..
@[simp] theorem succeed_order (s : State) (src : Src) : (succeed src s).order = s.order := complete_order ..
@[simp] theorem succeed_rot (s : State) (src : Src) : (succeed src s).rot = s.rot := complete_rot ..
@[simp] theorem succeed_sems (s : State) (src : Src) : (succeed src s).sems = s.sems := complete_sems ..
@[simp] theorem succeed_bars (s : State) (src : Src) : (succeed src s).bars = s.bars := complete_bars ..
@[simp] theorem succeed_islands (s : State) (src : Src) : (succeed src s).islands = s.islands := complete_islands ..
@[simp] theorem succeed_flights (s : State) (src : Src) : (succeed src s).flights = s.flights := complete_flights ..
@[simp] theorem succeed_fifos (s : State) (src : Src) : (succeed src s).fifos = s.fifos := complete_fifos ..
@[simp] theorem succeed_vaults (s : State) (src : Src) : (succeed src s).vaults = s.vaults := complete_vaults ..
@[simp] theorem succeed_chans (s : State) (src : Src) : (succeed src s).chans = s.chans := complete_chans ..
@[simp] theorem succeed_mem (s : State) (src : Src) : (succeed src s).mem = s.mem := complete_mem ..
@[simp] theorem succeed_poison (s : State) (src : Src) : (succeed src s).poison = s.poison := complete_poison ..
@[simp] theorem succeed_latent (s : State) (src : Src) : (succeed src s).latent = s.latent := complete_latent ..
@[simp] theorem succeed_mig (s : State) (src : Src) : (succeed src s).mig = s.mig := complete_mig ..
@[simp] theorem succeed_dspKills (s : State) (src : Src) : (succeed src s).dspKills = s.dspKills := complete_dspKills ..
@[simp] theorem succeed_dspPins (s : State) (src : Src) : (succeed src s).dspPins = s.dspPins := complete_dspPins ..
@[simp] theorem succeed_codec (s : State) (src : Src) : (succeed src s).codec = s.codec := complete_codec ..
@[simp] theorem succeed_net (s : State) (src : Src) : (succeed src s).net = s.net := complete_net ..
@[simp] theorem succeed_pow (s : State) (src : Src) : (succeed src s).pow = s.pow := complete_pow ..
@[simp] theorem succeed_sec (s : State) (src : Src) : (succeed src s).sec = s.sec := complete_sec ..
@[simp] theorem succeed_reply (s : State) (src : Src) : (succeed src s).reply = s.reply := complete_reply ..

@[simp] theorem refuse_pending (s : State) (src : Src) (st : Status) : (refuse src st s).pending = s.pending := by obtain ⟨_, _, _, _, _, _, h⟩ := refuse_frame src st s; rw [h]
@[simp] theorem refuse_now (s : State) (src : Src) (st : Status) : (refuse src st s).now = s.now := by obtain ⟨_, _, _, _, _, _, h⟩ := refuse_frame src st s; rw [h]
@[simp] theorem refuse_ticks (s : State) (src : Src) (st : Status) : (refuse src st s).ticks = s.ticks := by obtain ⟨_, _, _, _, _, _, h⟩ := refuse_frame src st s; rw [h]
@[simp] theorem refuse_free (s : State) (src : Src) (st : Status) : (refuse src st s).free = s.free := by obtain ⟨_, _, _, _, _, _, h⟩ := refuse_frame src st s; rw [h]
@[simp] theorem refuse_conf (s : State) (src : Src) (st : Status) : (refuse src st s).conf = s.conf := by obtain ⟨_, _, _, _, _, _, h⟩ := refuse_frame src st s; rw [h]
@[simp] theorem refuse_img (s : State) (src : Src) (st : Status) : (refuse src st s).img = s.img := by obtain ⟨_, _, _, _, _, _, h⟩ := refuse_frame src st s; rw [h]
@[simp] theorem refuse_mir (s : State) (src : Src) (st : Status) : (refuse src st s).mir = s.mir := by obtain ⟨_, _, _, _, _, _, h⟩ := refuse_frame src st s; rw [h]
@[simp] theorem refuse_cores (s : State) (src : Src) (st : Status) : (refuse src st s).cores = s.cores := by obtain ⟨_, _, _, _, _, _, h⟩ := refuse_frame src st s; rw [h]
@[simp] theorem refuse_doms (s : State) (src : Src) (st : Status) : (refuse src st s).doms = s.doms := by obtain ⟨_, _, _, _, _, _, h⟩ := refuse_frame src st s; rw [h]
@[simp] theorem refuse_tasks (s : State) (src : Src) (st : Status) : (refuse src st s).tasks = s.tasks := by obtain ⟨_, _, _, _, _, _, h⟩ := refuse_frame src st s; rw [h]
@[simp] theorem refuse_order (s : State) (src : Src) (st : Status) : (refuse src st s).order = s.order := by obtain ⟨_, _, _, _, _, _, h⟩ := refuse_frame src st s; rw [h]
@[simp] theorem refuse_rot (s : State) (src : Src) (st : Status) : (refuse src st s).rot = s.rot := by obtain ⟨_, _, _, _, _, _, h⟩ := refuse_frame src st s; rw [h]
@[simp] theorem refuse_sems (s : State) (src : Src) (st : Status) : (refuse src st s).sems = s.sems := by obtain ⟨_, _, _, _, _, _, h⟩ := refuse_frame src st s; rw [h]
@[simp] theorem refuse_bars (s : State) (src : Src) (st : Status) : (refuse src st s).bars = s.bars := by obtain ⟨_, _, _, _, _, _, h⟩ := refuse_frame src st s; rw [h]
@[simp] theorem refuse_islands (s : State) (src : Src) (st : Status) : (refuse src st s).islands = s.islands := by obtain ⟨_, _, _, _, _, _, h⟩ := refuse_frame src st s; rw [h]
@[simp] theorem refuse_flights (s : State) (src : Src) (st : Status) : (refuse src st s).flights = s.flights := by obtain ⟨_, _, _, _, _, _, h⟩ := refuse_frame src st s; rw [h]
@[simp] theorem refuse_fifos (s : State) (src : Src) (st : Status) : (refuse src st s).fifos = s.fifos := by obtain ⟨_, _, _, _, _, _, h⟩ := refuse_frame src st s; rw [h]
@[simp] theorem refuse_vaults (s : State) (src : Src) (st : Status) : (refuse src st s).vaults = s.vaults := by obtain ⟨_, _, _, _, _, _, h⟩ := refuse_frame src st s; rw [h]
@[simp] theorem refuse_chans (s : State) (src : Src) (st : Status) : (refuse src st s).chans = s.chans := by obtain ⟨_, _, _, _, _, _, h⟩ := refuse_frame src st s; rw [h]
@[simp] theorem refuse_mem (s : State) (src : Src) (st : Status) : (refuse src st s).mem = s.mem := by obtain ⟨_, _, _, _, _, _, h⟩ := refuse_frame src st s; rw [h]
@[simp] theorem refuse_poison (s : State) (src : Src) (st : Status) : (refuse src st s).poison = s.poison := by obtain ⟨_, _, _, _, _, _, h⟩ := refuse_frame src st s; rw [h]
@[simp] theorem refuse_latent (s : State) (src : Src) (st : Status) : (refuse src st s).latent = s.latent := by obtain ⟨_, _, _, _, _, _, h⟩ := refuse_frame src st s; rw [h]
@[simp] theorem refuse_mig (s : State) (src : Src) (st : Status) : (refuse src st s).mig = s.mig := by obtain ⟨_, _, _, _, _, _, h⟩ := refuse_frame src st s; rw [h]
@[simp] theorem refuse_dspKills (s : State) (src : Src) (st : Status) : (refuse src st s).dspKills = s.dspKills := by obtain ⟨_, _, _, _, _, _, h⟩ := refuse_frame src st s; rw [h]
@[simp] theorem refuse_dspPins (s : State) (src : Src) (st : Status) : (refuse src st s).dspPins = s.dspPins := by obtain ⟨_, _, _, _, _, _, h⟩ := refuse_frame src st s; rw [h]
@[simp] theorem refuse_codec (s : State) (src : Src) (st : Status) : (refuse src st s).codec = s.codec := by obtain ⟨_, _, _, _, _, _, h⟩ := refuse_frame src st s; rw [h]
@[simp] theorem refuse_net (s : State) (src : Src) (st : Status) : (refuse src st s).net = s.net := by obtain ⟨_, _, _, _, _, _, h⟩ := refuse_frame src st s; rw [h]
@[simp] theorem refuse_pow (s : State) (src : Src) (st : Status) : (refuse src st s).pow = s.pow := by obtain ⟨_, _, _, _, _, _, h⟩ := refuse_frame src st s; rw [h]
@[simp] theorem refuse_sec (s : State) (src : Src) (st : Status) : (refuse src st s).sec = s.sec := by obtain ⟨_, _, _, _, _, _, h⟩ := refuse_frame src st s; rw [h]
@[simp] theorem refuse_reply (s : State) (src : Src) (st : Status) : (refuse src st s).reply = s.reply := by obtain ⟨_, _, _, _, _, _, h⟩ := refuse_frame src st s; rw [h]

@[simp] theorem inform_pending (s : State) (d : Nat) (st : Status) (r : Nat) : (inform d st r s).pending = s.pending := by obtain ⟨_, _, _, h⟩ := inform_frame d st r s; rw [h]
@[simp] theorem inform_now (s : State) (d : Nat) (st : Status) (r : Nat) : (inform d st r s).now = s.now := by obtain ⟨_, _, _, h⟩ := inform_frame d st r s; rw [h]
@[simp] theorem inform_ticks (s : State) (d : Nat) (st : Status) (r : Nat) : (inform d st r s).ticks = s.ticks := by obtain ⟨_, _, _, h⟩ := inform_frame d st r s; rw [h]
@[simp] theorem inform_free (s : State) (d : Nat) (st : Status) (r : Nat) : (inform d st r s).free = s.free := by obtain ⟨_, _, _, h⟩ := inform_frame d st r s; rw [h]
@[simp] theorem inform_conf (s : State) (d : Nat) (st : Status) (r : Nat) : (inform d st r s).conf = s.conf := by obtain ⟨_, _, _, h⟩ := inform_frame d st r s; rw [h]
@[simp] theorem inform_img (s : State) (d : Nat) (st : Status) (r : Nat) : (inform d st r s).img = s.img := by obtain ⟨_, _, _, h⟩ := inform_frame d st r s; rw [h]
@[simp] theorem inform_mir (s : State) (d : Nat) (st : Status) (r : Nat) : (inform d st r s).mir = s.mir := by obtain ⟨_, _, _, h⟩ := inform_frame d st r s; rw [h]
@[simp] theorem inform_cores (s : State) (d : Nat) (st : Status) (r : Nat) : (inform d st r s).cores = s.cores := by obtain ⟨_, _, _, h⟩ := inform_frame d st r s; rw [h]
@[simp] theorem inform_evc (s : State) (d : Nat) (st : Status) (r : Nat) : (inform d st r s).evc = s.evc := by obtain ⟨_, _, _, h⟩ := inform_frame d st r s; rw [h]
@[simp] theorem inform_log (s : State) (d : Nat) (st : Status) (r : Nat) : (inform d st r s).log = s.log := by obtain ⟨_, _, _, h⟩ := inform_frame d st r s; rw [h]
@[simp] theorem inform_pfMsix (s : State) (d : Nat) (st : Status) (r : Nat) : (inform d st r s).pfMsix = s.pfMsix := by obtain ⟨_, _, _, h⟩ := inform_frame d st r s; rw [h]
@[simp] theorem inform_doms (s : State) (d : Nat) (st : Status) (r : Nat) : (inform d st r s).doms = s.doms := by obtain ⟨_, _, _, h⟩ := inform_frame d st r s; rw [h]
@[simp] theorem inform_tasks (s : State) (d : Nat) (st : Status) (r : Nat) : (inform d st r s).tasks = s.tasks := by obtain ⟨_, _, _, h⟩ := inform_frame d st r s; rw [h]
@[simp] theorem inform_order (s : State) (d : Nat) (st : Status) (r : Nat) : (inform d st r s).order = s.order := by obtain ⟨_, _, _, h⟩ := inform_frame d st r s; rw [h]
@[simp] theorem inform_rot (s : State) (d : Nat) (st : Status) (r : Nat) : (inform d st r s).rot = s.rot := by obtain ⟨_, _, _, h⟩ := inform_frame d st r s; rw [h]
@[simp] theorem inform_sems (s : State) (d : Nat) (st : Status) (r : Nat) : (inform d st r s).sems = s.sems := by obtain ⟨_, _, _, h⟩ := inform_frame d st r s; rw [h]
@[simp] theorem inform_bars (s : State) (d : Nat) (st : Status) (r : Nat) : (inform d st r s).bars = s.bars := by obtain ⟨_, _, _, h⟩ := inform_frame d st r s; rw [h]
@[simp] theorem inform_islands (s : State) (d : Nat) (st : Status) (r : Nat) : (inform d st r s).islands = s.islands := by obtain ⟨_, _, _, h⟩ := inform_frame d st r s; rw [h]
@[simp] theorem inform_flights (s : State) (d : Nat) (st : Status) (r : Nat) : (inform d st r s).flights = s.flights := by obtain ⟨_, _, _, h⟩ := inform_frame d st r s; rw [h]
@[simp] theorem inform_fifos (s : State) (d : Nat) (st : Status) (r : Nat) : (inform d st r s).fifos = s.fifos := by obtain ⟨_, _, _, h⟩ := inform_frame d st r s; rw [h]
@[simp] theorem inform_vaults (s : State) (d : Nat) (st : Status) (r : Nat) : (inform d st r s).vaults = s.vaults := by obtain ⟨_, _, _, h⟩ := inform_frame d st r s; rw [h]
@[simp] theorem inform_chans (s : State) (d : Nat) (st : Status) (r : Nat) : (inform d st r s).chans = s.chans := by obtain ⟨_, _, _, h⟩ := inform_frame d st r s; rw [h]
@[simp] theorem inform_mem (s : State) (d : Nat) (st : Status) (r : Nat) : (inform d st r s).mem = s.mem := by obtain ⟨_, _, _, h⟩ := inform_frame d st r s; rw [h]
@[simp] theorem inform_poison (s : State) (d : Nat) (st : Status) (r : Nat) : (inform d st r s).poison = s.poison := by obtain ⟨_, _, _, h⟩ := inform_frame d st r s; rw [h]
@[simp] theorem inform_latent (s : State) (d : Nat) (st : Status) (r : Nat) : (inform d st r s).latent = s.latent := by obtain ⟨_, _, _, h⟩ := inform_frame d st r s; rw [h]
@[simp] theorem inform_mig (s : State) (d : Nat) (st : Status) (r : Nat) : (inform d st r s).mig = s.mig := by obtain ⟨_, _, _, h⟩ := inform_frame d st r s; rw [h]
@[simp] theorem inform_dspKills (s : State) (d : Nat) (st : Status) (r : Nat) : (inform d st r s).dspKills = s.dspKills := by obtain ⟨_, _, _, h⟩ := inform_frame d st r s; rw [h]
@[simp] theorem inform_dspPins (s : State) (d : Nat) (st : Status) (r : Nat) : (inform d st r s).dspPins = s.dspPins := by obtain ⟨_, _, _, h⟩ := inform_frame d st r s; rw [h]
@[simp] theorem inform_codec (s : State) (d : Nat) (st : Status) (r : Nat) : (inform d st r s).codec = s.codec := by obtain ⟨_, _, _, h⟩ := inform_frame d st r s; rw [h]
@[simp] theorem inform_net (s : State) (d : Nat) (st : Status) (r : Nat) : (inform d st r s).net = s.net := by obtain ⟨_, _, _, h⟩ := inform_frame d st r s; rw [h]
@[simp] theorem inform_pow (s : State) (d : Nat) (st : Status) (r : Nat) : (inform d st r s).pow = s.pow := by obtain ⟨_, _, _, h⟩ := inform_frame d st r s; rw [h]
@[simp] theorem inform_sec (s : State) (d : Nat) (st : Status) (r : Nat) : (inform d st r s).sec = s.sec := by obtain ⟨_, _, _, h⟩ := inform_frame d st r s; rw [h]
@[simp] theorem inform_reply (s : State) (d : Nat) (st : Status) (r : Nat) : (inform d st r s).reply = s.reply := by obtain ⟨_, _, _, h⟩ := inform_frame d st r s; rw [h]

@[simp] theorem cplDrain_pending (s : State) (n v : Nat) : (cplDrain n s v).pending = s.pending := by obtain ⟨_, _, _, h⟩ := cplDrain_frame n s v; rw [h]
@[simp] theorem cplDrain_now (s : State) (n v : Nat) : (cplDrain n s v).now = s.now := by obtain ⟨_, _, _, h⟩ := cplDrain_frame n s v; rw [h]
@[simp] theorem cplDrain_ticks (s : State) (n v : Nat) : (cplDrain n s v).ticks = s.ticks := by obtain ⟨_, _, _, h⟩ := cplDrain_frame n s v; rw [h]
@[simp] theorem cplDrain_free (s : State) (n v : Nat) : (cplDrain n s v).free = s.free := by obtain ⟨_, _, _, h⟩ := cplDrain_frame n s v; rw [h]
@[simp] theorem cplDrain_conf (s : State) (n v : Nat) : (cplDrain n s v).conf = s.conf := by obtain ⟨_, _, _, h⟩ := cplDrain_frame n s v; rw [h]
@[simp] theorem cplDrain_img (s : State) (n v : Nat) : (cplDrain n s v).img = s.img := by obtain ⟨_, _, _, h⟩ := cplDrain_frame n s v; rw [h]
@[simp] theorem cplDrain_mir (s : State) (n v : Nat) : (cplDrain n s v).mir = s.mir := by obtain ⟨_, _, _, h⟩ := cplDrain_frame n s v; rw [h]
@[simp] theorem cplDrain_cores (s : State) (n v : Nat) : (cplDrain n s v).cores = s.cores := by obtain ⟨_, _, _, h⟩ := cplDrain_frame n s v; rw [h]
@[simp] theorem cplDrain_evc (s : State) (n v : Nat) : (cplDrain n s v).evc = s.evc := by obtain ⟨_, _, _, h⟩ := cplDrain_frame n s v; rw [h]
@[simp] theorem cplDrain_log (s : State) (n v : Nat) : (cplDrain n s v).log = s.log := by obtain ⟨_, _, _, h⟩ := cplDrain_frame n s v; rw [h]
@[simp] theorem cplDrain_pfMsix (s : State) (n v : Nat) : (cplDrain n s v).pfMsix = s.pfMsix := by obtain ⟨_, _, _, h⟩ := cplDrain_frame n s v; rw [h]
@[simp] theorem cplDrain_doms (s : State) (n v : Nat) : (cplDrain n s v).doms = s.doms := by obtain ⟨_, _, _, h⟩ := cplDrain_frame n s v; rw [h]
@[simp] theorem cplDrain_tasks (s : State) (n v : Nat) : (cplDrain n s v).tasks = s.tasks := by obtain ⟨_, _, _, h⟩ := cplDrain_frame n s v; rw [h]
@[simp] theorem cplDrain_order (s : State) (n v : Nat) : (cplDrain n s v).order = s.order := by obtain ⟨_, _, _, h⟩ := cplDrain_frame n s v; rw [h]
@[simp] theorem cplDrain_rot (s : State) (n v : Nat) : (cplDrain n s v).rot = s.rot := by obtain ⟨_, _, _, h⟩ := cplDrain_frame n s v; rw [h]
@[simp] theorem cplDrain_sems (s : State) (n v : Nat) : (cplDrain n s v).sems = s.sems := by obtain ⟨_, _, _, h⟩ := cplDrain_frame n s v; rw [h]
@[simp] theorem cplDrain_bars (s : State) (n v : Nat) : (cplDrain n s v).bars = s.bars := by obtain ⟨_, _, _, h⟩ := cplDrain_frame n s v; rw [h]
@[simp] theorem cplDrain_islands (s : State) (n v : Nat) : (cplDrain n s v).islands = s.islands := by obtain ⟨_, _, _, h⟩ := cplDrain_frame n s v; rw [h]
@[simp] theorem cplDrain_flights (s : State) (n v : Nat) : (cplDrain n s v).flights = s.flights := by obtain ⟨_, _, _, h⟩ := cplDrain_frame n s v; rw [h]
@[simp] theorem cplDrain_fifos (s : State) (n v : Nat) : (cplDrain n s v).fifos = s.fifos := by obtain ⟨_, _, _, h⟩ := cplDrain_frame n s v; rw [h]
@[simp] theorem cplDrain_vaults (s : State) (n v : Nat) : (cplDrain n s v).vaults = s.vaults := by obtain ⟨_, _, _, h⟩ := cplDrain_frame n s v; rw [h]
@[simp] theorem cplDrain_chans (s : State) (n v : Nat) : (cplDrain n s v).chans = s.chans := by obtain ⟨_, _, _, h⟩ := cplDrain_frame n s v; rw [h]
@[simp] theorem cplDrain_mem (s : State) (n v : Nat) : (cplDrain n s v).mem = s.mem := by obtain ⟨_, _, _, h⟩ := cplDrain_frame n s v; rw [h]
@[simp] theorem cplDrain_poison (s : State) (n v : Nat) : (cplDrain n s v).poison = s.poison := by obtain ⟨_, _, _, h⟩ := cplDrain_frame n s v; rw [h]
@[simp] theorem cplDrain_latent (s : State) (n v : Nat) : (cplDrain n s v).latent = s.latent := by obtain ⟨_, _, _, h⟩ := cplDrain_frame n s v; rw [h]
@[simp] theorem cplDrain_mig (s : State) (n v : Nat) : (cplDrain n s v).mig = s.mig := by obtain ⟨_, _, _, h⟩ := cplDrain_frame n s v; rw [h]
@[simp] theorem cplDrain_dspKills (s : State) (n v : Nat) : (cplDrain n s v).dspKills = s.dspKills := by obtain ⟨_, _, _, h⟩ := cplDrain_frame n s v; rw [h]
@[simp] theorem cplDrain_dspPins (s : State) (n v : Nat) : (cplDrain n s v).dspPins = s.dspPins := by obtain ⟨_, _, _, h⟩ := cplDrain_frame n s v; rw [h]
@[simp] theorem cplDrain_codec (s : State) (n v : Nat) : (cplDrain n s v).codec = s.codec := by obtain ⟨_, _, _, h⟩ := cplDrain_frame n s v; rw [h]
@[simp] theorem cplDrain_net (s : State) (n v : Nat) : (cplDrain n s v).net = s.net := by obtain ⟨_, _, _, h⟩ := cplDrain_frame n s v; rw [h]
@[simp] theorem cplDrain_pow (s : State) (n v : Nat) : (cplDrain n s v).pow = s.pow := by obtain ⟨_, _, _, h⟩ := cplDrain_frame n s v; rw [h]
@[simp] theorem cplDrain_sec (s : State) (n v : Nat) : (cplDrain n s v).sec = s.sec := by obtain ⟨_, _, _, h⟩ := cplDrain_frame n s v; rw [h]
@[simp] theorem cplDrain_reply (s : State) (n v : Nat) : (cplDrain n s v).reply = s.reply := by obtain ⟨_, _, _, h⟩ := cplDrain_frame n s v; rw [h]

@[simp] theorem refuseState_pending (s : State) (src : Src) (op : Nat) (d : Option Nat) : (refuseState src op d s).pending = s.pending := by obtain ⟨_, _, _, _, _, _, h⟩ := refuseState_frame src op d s; rw [h]
@[simp] theorem refuseState_now (s : State) (src : Src) (op : Nat) (d : Option Nat) : (refuseState src op d s).now = s.now := by obtain ⟨_, _, _, _, _, _, h⟩ := refuseState_frame src op d s; rw [h]
@[simp] theorem refuseState_ticks (s : State) (src : Src) (op : Nat) (d : Option Nat) : (refuseState src op d s).ticks = s.ticks := by obtain ⟨_, _, _, _, _, _, h⟩ := refuseState_frame src op d s; rw [h]
@[simp] theorem refuseState_free (s : State) (src : Src) (op : Nat) (d : Option Nat) : (refuseState src op d s).free = s.free := by obtain ⟨_, _, _, _, _, _, h⟩ := refuseState_frame src op d s; rw [h]
@[simp] theorem refuseState_conf (s : State) (src : Src) (op : Nat) (d : Option Nat) : (refuseState src op d s).conf = s.conf := by obtain ⟨_, _, _, _, _, _, h⟩ := refuseState_frame src op d s; rw [h]
@[simp] theorem refuseState_img (s : State) (src : Src) (op : Nat) (d : Option Nat) : (refuseState src op d s).img = s.img := by obtain ⟨_, _, _, _, _, _, h⟩ := refuseState_frame src op d s; rw [h]
@[simp] theorem refuseState_mir (s : State) (src : Src) (op : Nat) (d : Option Nat) : (refuseState src op d s).mir = s.mir := by obtain ⟨_, _, _, _, _, _, h⟩ := refuseState_frame src op d s; rw [h]
@[simp] theorem refuseState_cores (s : State) (src : Src) (op : Nat) (d : Option Nat) : (refuseState src op d s).cores = s.cores := by obtain ⟨_, _, _, _, _, _, h⟩ := refuseState_frame src op d s; rw [h]
@[simp] theorem refuseState_doms (s : State) (src : Src) (op : Nat) (d : Option Nat) : (refuseState src op d s).doms = s.doms := by obtain ⟨_, _, _, _, _, _, h⟩ := refuseState_frame src op d s; rw [h]
@[simp] theorem refuseState_tasks (s : State) (src : Src) (op : Nat) (d : Option Nat) : (refuseState src op d s).tasks = s.tasks := by obtain ⟨_, _, _, _, _, _, h⟩ := refuseState_frame src op d s; rw [h]
@[simp] theorem refuseState_order (s : State) (src : Src) (op : Nat) (d : Option Nat) : (refuseState src op d s).order = s.order := by obtain ⟨_, _, _, _, _, _, h⟩ := refuseState_frame src op d s; rw [h]
@[simp] theorem refuseState_rot (s : State) (src : Src) (op : Nat) (d : Option Nat) : (refuseState src op d s).rot = s.rot := by obtain ⟨_, _, _, _, _, _, h⟩ := refuseState_frame src op d s; rw [h]
@[simp] theorem refuseState_sems (s : State) (src : Src) (op : Nat) (d : Option Nat) : (refuseState src op d s).sems = s.sems := by obtain ⟨_, _, _, _, _, _, h⟩ := refuseState_frame src op d s; rw [h]
@[simp] theorem refuseState_bars (s : State) (src : Src) (op : Nat) (d : Option Nat) : (refuseState src op d s).bars = s.bars := by obtain ⟨_, _, _, _, _, _, h⟩ := refuseState_frame src op d s; rw [h]
@[simp] theorem refuseState_islands (s : State) (src : Src) (op : Nat) (d : Option Nat) : (refuseState src op d s).islands = s.islands := by obtain ⟨_, _, _, _, _, _, h⟩ := refuseState_frame src op d s; rw [h]
@[simp] theorem refuseState_flights (s : State) (src : Src) (op : Nat) (d : Option Nat) : (refuseState src op d s).flights = s.flights := by obtain ⟨_, _, _, _, _, _, h⟩ := refuseState_frame src op d s; rw [h]
@[simp] theorem refuseState_fifos (s : State) (src : Src) (op : Nat) (d : Option Nat) : (refuseState src op d s).fifos = s.fifos := by obtain ⟨_, _, _, _, _, _, h⟩ := refuseState_frame src op d s; rw [h]
@[simp] theorem refuseState_vaults (s : State) (src : Src) (op : Nat) (d : Option Nat) : (refuseState src op d s).vaults = s.vaults := by obtain ⟨_, _, _, _, _, _, h⟩ := refuseState_frame src op d s; rw [h]
@[simp] theorem refuseState_chans (s : State) (src : Src) (op : Nat) (d : Option Nat) : (refuseState src op d s).chans = s.chans := by obtain ⟨_, _, _, _, _, _, h⟩ := refuseState_frame src op d s; rw [h]
@[simp] theorem refuseState_mem (s : State) (src : Src) (op : Nat) (d : Option Nat) : (refuseState src op d s).mem = s.mem := by obtain ⟨_, _, _, _, _, _, h⟩ := refuseState_frame src op d s; rw [h]
@[simp] theorem refuseState_poison (s : State) (src : Src) (op : Nat) (d : Option Nat) : (refuseState src op d s).poison = s.poison := by obtain ⟨_, _, _, _, _, _, h⟩ := refuseState_frame src op d s; rw [h]
@[simp] theorem refuseState_latent (s : State) (src : Src) (op : Nat) (d : Option Nat) : (refuseState src op d s).latent = s.latent := by obtain ⟨_, _, _, _, _, _, h⟩ := refuseState_frame src op d s; rw [h]
@[simp] theorem refuseState_mig (s : State) (src : Src) (op : Nat) (d : Option Nat) : (refuseState src op d s).mig = s.mig := by obtain ⟨_, _, _, _, _, _, h⟩ := refuseState_frame src op d s; rw [h]
@[simp] theorem refuseState_dspKills (s : State) (src : Src) (op : Nat) (d : Option Nat) : (refuseState src op d s).dspKills = s.dspKills := by obtain ⟨_, _, _, _, _, _, h⟩ := refuseState_frame src op d s; rw [h]
@[simp] theorem refuseState_dspPins (s : State) (src : Src) (op : Nat) (d : Option Nat) : (refuseState src op d s).dspPins = s.dspPins := by obtain ⟨_, _, _, _, _, _, h⟩ := refuseState_frame src op d s; rw [h]
@[simp] theorem refuseState_codec (s : State) (src : Src) (op : Nat) (d : Option Nat) : (refuseState src op d s).codec = s.codec := by obtain ⟨_, _, _, _, _, _, h⟩ := refuseState_frame src op d s; rw [h]
@[simp] theorem refuseState_net (s : State) (src : Src) (op : Nat) (d : Option Nat) : (refuseState src op d s).net = s.net := by obtain ⟨_, _, _, _, _, _, h⟩ := refuseState_frame src op d s; rw [h]
@[simp] theorem refuseState_pow (s : State) (src : Src) (op : Nat) (d : Option Nat) : (refuseState src op d s).pow = s.pow := by obtain ⟨_, _, _, _, _, _, h⟩ := refuseState_frame src op d s; rw [h]
@[simp] theorem refuseState_sec (s : State) (src : Src) (op : Nat) (d : Option Nat) : (refuseState src op d s).sec = s.sec := by obtain ⟨_, _, _, _, _, _, h⟩ := refuseState_frame src op d s; rw [h]
@[simp] theorem refuseState_reply (s : State) (src : Src) (op : Nat) (d : Option Nat) : (refuseState src op d s).reply = s.reply := by obtain ⟨_, _, _, _, _, _, h⟩ := refuseState_frame src op d s; rw [h]

end Sys2Proof.Machine
end

