-- ==== Sys2Proof/Laws/Access.lean ====
section
/-!
SUPPORT. Access by the host, folds that keep a field, the image engine's phase and the measurement registers.
-/
namespace Sys2Proof.Machine

/-- A fold of operations that keep a part of the state keeps it. -/
theorem foldl_keep {α β : Type} (g : State → β) (f : State → α → State) (hf : ∀ s a, g (f s a) = g s) (l : List α)
    (s : State) : g (l.foldl f s) = g s := by
  induction l generalizing s with
  | nil => rfl
  | cons a l ih => simp only [List.foldl_cons]; rw [ih, hf]

theorem viaHost_up {s : State} (h : hostUp s = true) (k : State → State) : viaHost s k = k (wakeS2 s) := by
  simp [viaHost, h]

theorem viaHost_down {s : State} (h : hostUp s = false) (k : State → State) : viaHost s k = s := by simp [viaHost, h]

theorem wakeS2_awake {s : State} (h : s.pow.st ≠ 2) : wakeS2 s = s := by simp [wakeS2, h]

/-- A control core, or the host with its link up and the module awake, reaches the controller at once. -/
theorem byAgent_reaches {a : Fin 9} {s : State} (h : a.val < 8 ∨ (hostUp s = true ∧ s.pow.st ≠ 2)) (k : State → State) :
    byAgent a s k = k s := by
  unfold byAgent
  split
  · rcases h with h | h
    · omega
    · rw [viaHost_up h.1, wakeS2_awake h.2]
  · rfl

theorem wakeS2_img (s : State) : (wakeS2 s).img = s.img := by simp only [wakeS2]; split <;> simp
theorem wakeS2_conf (s : State) : (wakeS2 s).conf = s.conf := by simp only [wakeS2]; split <;> simp
theorem wakeS2_mem (s : State) : (wakeS2 s).mem = s.mem := by simp only [wakeS2]; split <;> simp
theorem wakeS2_doms (s : State) : (wakeS2 s).doms = s.doms := by simp only [wakeS2]; split <;> simp
theorem wakeS2_sec (s : State) : (wakeS2 s).sec = s.sec := by simp only [wakeS2]; split <;> simp

theorem imgPhase_img (n : Nat) (s : State) : (imgPhase n s).img = { s.img with phase := n } := by
  simp only [imgPhase]; split <;> simp
theorem imgPhase_conf (n : Nat) (s : State) : (imgPhase n s).conf = s.conf := by simp only [imgPhase]; split <;> simp
theorem imgPhase_mem (n : Nat) (s : State) : (imgPhase n s).mem = s.mem := by simp only [imgPhase]; split <;> simp
theorem imgPhase_doms (n : Nat) (s : State) : (imgPhase n s).doms = s.doms := by simp only [imgPhase]; split <;> simp
theorem imgPhase_mir (n : Nat) (s : State) : (imgPhase n s).mir = s.mir := by simp only [imgPhase]; split <;> simp

theorem extendMr_img (m k c v : Nat) (d : List Byte) (s : State) : (extendMr m k c v d s).img = s.img := by
  simp only [extendMr]; split <;> simp
theorem extendMr_mir (m k c v : Nat) (d : List Byte) (s : State) : (extendMr m k c v d s).mir = s.mir := by
  simp only [extendMr]; split <;> simp
theorem extendMr_mem (m k c v : Nat) (d : List Byte) (s : State) : (extendMr m k c v d s).mem = s.mem := by
  simp only [extendMr]; split <;> simp

/-- The little-endian bytes of a number are as many as asked for. -/
theorem leBytes_length (n v : Nat) : (leBytes n v).length = n := by
  induction n generalizing v with
  | zero => rfl
  | succ n ih => simp [leBytes, ih]

/-- A slice has the length asked for. -/
theorem slice_length (b : List Byte) (o n : Nat) : (slice b o n).length = n := by
  simp [slice] <;> omega

end Sys2Proof.Machine
end

