-- ==== Sys2Proof/Laws/Memory.lean ====
section
/-!
SUPPORT. What the operations on DRAM and host memory do to the form of memory: each keeps addresses strictly rising with no
default listed, and so do the poison marks (R64, R69, R106).
-/
namespace Sys2Proof.Machine

/-- DRAM, host memory and the poison marks have their form. -/
def MemOk (s : State) : Prop :=
  Memory.wf s.mem = true ∧ Memory.wf s.host = true ∧ sparseWf false s.poison = true

/-- A state with the same three memories is as good. -/
theorem MemOk.of_eq {s t : State} (h : MemOk s) (h1 : t.mem = s.mem) (h2 : t.host = s.host) (h3 : t.poison = s.poison) :
    MemOk t := by
  unfold MemOk; rw [h1, h2, h3]; exact h

theorem reset_mem_ok : MemOk State.reset := ⟨rfl, rfl, rfl⟩

/-- A fold of operations that keep the form keeps it. -/
theorem foldl_mem_ok {α : Type} (f : State → α → State) (hf : ∀ s x, MemOk s → MemOk (f s x)) (l : List α) (s : State)
    (h : MemOk s) : MemOk (l.foldl f s) := by
  induction l generalizing s with
  | nil => exact h
  | cons x t ih => exact ih _ (hf s x h)

theorem foldl_erase_wf {α β : Type} [DecidableEq α] (d : α) (g : β → Nat) (l : List β) (m : Sparse α)
    (h : sparseWf d m = true) : sparseWf d (l.foldl (fun p b => sparseErase p (g b)) m) = true := by
  induction l generalizing m with
  | nil => exact h
  | cons x t ih => exact ih _ (sparseWf_erase d m _ h)

theorem foldl_set_wf {α β : Type} [DecidableEq α] (d : α) (g : β → Nat) (v : β → α) (l : List β) (m : Sparse α)
    (h : sparseWf d m = true) : sparseWf d (l.foldl (fun p b => sparseSet d p (g b) (v b)) m) = true := by
  induction l generalizing m with
  | nil => exact h
  | cons x t ih => exact ih _ (sparseWf_set d m _ _ h)

/-! ### Operations that leave the memories alone -/

theorem raise_mem_ok (n : Nat) (s : State) (h : MemOk s) : MemOk (raise n s) := by
  obtain ⟨e, p, q, he⟩ := raise_frame n s
  rw [he]; exact h

theorem logE_mem_ok (sev : Nat) (code : Status) (src : Option Nat) (d : Nat) (b : List Byte) (s : State) (h : MemOk s) :
    MemOk (logE sev code src d b s) := by
  obtain ⟨l, e, p, q, he⟩ := logE_frame sev code src d b s
  rw [he]; exact h

theorem heatUnits_mem_ok (s : State) (d page isl k : Nat) (h : MemOk s) : MemOk (heatUnits s d page isl k) := by
  unfold heatUnits
  split
  · exact h
  · split
    · exact h
    · dsimp only
      split <;> split <;> first | exact h | (split <;> exact h)

theorem addHeat_mem_ok (s : State) (isl d page n : Nat) (h : MemOk s) : MemOk (addHeat s isl d page n) := by
  unfold addHeat
  dsimp only
  split
  · exact heatUnits_mem_ok _ _ _ _ _ h
  · split <;> exact heatUnits_mem_ok _ _ _ _ _ h

theorem fillLine_mem_ok (atoll d : Nat) (dirty : Bool) (s : State) (line : Nat) (h : MemOk s) :
    MemOk (fillLine atoll d dirty s line) := by
  unfold fillLine
  dsimp only
  split
  · exact h
  · split <;> exact h

/-- An access through a lagoon moves lines and the count of free values only. -/
theorem homeAccess_mem_ok (s : State) (isl d : Nat) (write : Bool) (p : Place) (n : Nat) (h : MemOk s) :
    MemOk (homeAccess s isl d write p n) := by
  unfold homeAccess
  dsimp only
  split
  · exact h
  · have h1 := foldl_mem_ok (fillLine (p.addr / 2 ^ 30 / 64) d write) (fun s x hs => fillLine_mem_ok _ _ _ _ _ hs)
      (unitsOf 128 p.addr n) s h
    split
    · exact foldl_mem_ok _ (fun s x hs => fillLine_mem_ok _ _ _ _ _ hs) _ _ h1
    · exact h1

/-! ### DRAM -/

theorem eccCorrect_mem_ok (s : State) (b : Nat) (scrub : Bool) (h : MemOk s) : MemOk (eccCorrect s b scrub) := by
  unfold eccCorrect
  dsimp only
  split
  · split
    · exact logE_mem_ok _ _ _ _ _ _ h
    · exact h
  · exact h

theorem eccPoison_mem_ok (s : State) (b : Nat) (h : MemOk s) : MemOk (eccPoison s b) := by
  unfold eccPoison
  dsimp only
  split <;> exact raise_mem_ok _ _ (logE_mem_ok _ _ _ _ _ _ ⟨h.1, h.2.1, sparseWf_set false s.poison b true h.2.2⟩)

/-- Writing one DRAM byte keeps the form. -/
theorem setByte_mem_ok (s : State) (a : Nat) (v : Byte) (h : MemOk s) : MemOk { s with mem := sparseSet 0 s.mem a v } :=
  ⟨sparseWf_set 0 s.mem a v h.1, h.2.1, h.2.2⟩

theorem touchBeat_mem_ok (scrub : Bool) (s : State) (b : Nat) (h : MemOk s) : MemOk (touchBeat scrub s b) := by
  unfold touchBeat
  split
  · exact h
  · exact eccCorrect_mem_ok _ _ _ h
  · exact eccPoison_mem_ok _ _ h
  · dsimp only
    split
    · exact eccPoison_mem_ok _ _ h
    · split
      · exact eccCorrect_mem_ok _ _ _ (foldl_mem_ok _ (fun s x hs => setByte_mem_ok s _ _ hs) _ _ h)
      · exact h

theorem touch_mem_ok (s : State) (pa n : Nat) (h : MemOk s) : MemOk (touch s pa n) := by
  unfold touch
  refine foldl_mem_ok _ (fun s b hs => touchBeat_mem_ok false s b hs) _ _ ?_
  split <;> exact h

/-- Where no beat has a latent error, reading changes nothing. -/
theorem touch_clean (s : State) (pa n : Nat) (h : s.latent = []) : touch s pa n = s := by
  unfold touch
  have h' : sparseIn s.latent (pa / 64) ((pa + n - 1) / 64 - pa / 64 + 1) = [] := by rw [h]; rfl
  rw [h']
  split <;> rfl

/-- The same for the read of a domain range. -/
theorem vaFetch_clean (s : State) (d va n : Nat) (h : s.latent = []) : (vaFetch s d va n).1 = s := by
  unfold vaFetch
  split
  · rfl
  · have h' : ∀ l : List (Nat × Nat), l.foldl (fun s (x : Nat × Nat) => match xlat s d none x.1 with
        | .ok p => if p.tier = .t3 then s else touch s p.addr x.2
        | .error _ => s) s = s := by
      intro l
      induction l with
      | nil => rfl
      | cons x t ih =>
        simp only [List.foldl_cons]
        have h1 : (match xlat s d none x.1 with
            | .ok p => if p.tier = .t3 then s else touch s p.addr x.2
            | .error _ => s) = s := by
          split
          · split
            · rfl
            · exact touch_clean _ _ _ h
          · rfl
        rw [h1]; exact ih
    have h2 := h' (piecesOf va n)
    dsimp only
    split <;> exact h2

theorem dramWrite_mem_ok (s : State) (pa : Nat) (data : List MByte) (h : MemOk s) : MemOk (dramWrite s pa data) := by
  have h' := foldl_mem_ok (touchBeat false) (fun s b hs => touchBeat_mem_ok false s b hs)
    ((unitsOf 64 pa data.length).filter (fun b => !(decide (pa ≤ 64 * b) && decide (64 * b + 64 ≤ pa + data.length)))) s h
  exact ⟨memPut_wf _ _ _ h'.1, h'.2.1,
    foldl_set_wf false (fun b => b) (fun _ => true) _ _ (foldl_erase_wf false (fun b => b) _ _ h'.2.2)⟩

theorem dramZero_mem_ok (s : State) (pa n : Nat) (h : MemOk s) : MemOk (dramZero s pa n) :=
  ⟨sparseWf_clear 0 s.mem pa n h.1, h.2.1, sparseWf_clear false s.poison _ _ h.2.2⟩

theorem dramCopy_mem_ok (s : State) (src dst n : Nat) (h : MemOk s) : MemOk (dramCopy s src dst n) := by
  have h' := touch_mem_ok s src n h
  exact ⟨sparseWf_copy 0 _ src dst n h'.1, h'.2.1, sparseWf_copy false _ _ _ _ h'.2.2⟩

theorem loseDram_mem_ok (s : State) (h : MemOk s) : MemOk (loseDram s) := ⟨rfl, h.2.1, rfl⟩

/-! ### Domain ranges -/

theorem vaFetch_mem_ok (s : State) (d va n : Nat) (h : MemOk s) : MemOk (vaFetch s d va n).1 := by
  unfold vaFetch
  split
  · exact h
  · have h' := foldl_mem_ok (fun s (x : Nat × Nat) => match xlat s d none x.1 with
      | .ok p => if p.tier = .t3 then s else touch s p.addr x.2
      | .error _ => s) (fun s x hs => by
        split
        · split
          · exact hs
          · exact touch_mem_ok _ _ _ hs
        · exact hs) (piecesOf va n) s h
    dsimp only; split <;> exact h'

theorem vaWrite_mem_ok (s : State) (d : Nat) (tag : Option Nat) (va : Nat) (data : List MByte) (h : MemOk s) :
    MemOk (vaWrite s d tag va data) := by
  unfold vaWrite
  refine foldl_mem_ok _ (fun s x hs => ?_) _ _ h
  dsimp only; split
  · split
    · exact hs
    · exact dramWrite_mem_ok _ _ _ hs
  · exact hs

/-- Undefined output bytes change DRAM and the count of free values and nothing else, and DRAM keeps its form. -/
theorem undefineBytes_mem_ok (s : State) (d : Nat) (tag : Option Nat) (rs : List (Nat × Nat)) (h : MemOk s) :
    MemOk (undefineBytes s d tag rs) := by
  refine ⟨?_, h.2⟩
  show Memory.wf (List.foldl _ s.mem _) = true
  generalize (rs.flatMap fun r => piecesOf r.1 r.2) = l
  have h1 := h.1
  generalize s.mem = m at h1 ⊢
  induction l generalizing m with
  | nil => exact h1
  | cons x t ih =>
    refine ih _ ?_
    dsimp only
    split
    · split
      · exact memPut_wf _ _ _ h1
      · exact h1
    · exact h1

theorem taskWrite_mem_ok (s : State) (t : Task) (isl : Nat) (ws : List (Nat × List MByte)) (h : MemOk s) :
    MemOk (taskWrite s t isl ws) := by
  unfold taskWrite
  refine foldl_mem_ok _ (fun s w hs => ?_) _ _ h
  refine foldl_mem_ok _ (fun s x hs => ?_) _ _ (vaWrite_mem_ok _ _ _ _ _ hs)
  dsimp only; split
  · split
    · exact addHeat_mem_ok _ _ _ _ _ (homeAccess_mem_ok _ _ _ _ _ _ hs)
    · exact homeAccess_mem_ok _ _ _ _ _ _ hs
  · exact hs

theorem readEffects_mem_ok (s : State) (t : Task) (isl : Nat) (rs : List (Nat × Nat)) (h : MemOk s) :
    MemOk (readEffects s t isl rs) := by
  unfold readEffects
  refine foldl_mem_ok _ (fun s x hs => ?_) _ _ h
  dsimp only; split
  · have h1 : ∀ p : Place, MemOk (if p.tier = .t3 then s else touch s p.addr x.2) := fun p => by
      split
      · exact hs
      · exact touch_mem_ok _ _ _ hs
    split
    · exact addHeat_mem_ok _ _ _ _ _ (homeAccess_mem_ok _ _ _ _ _ _ (h1 _))
    · exact homeAccess_mem_ok _ _ _ _ _ _ (h1 _)
  · exact hs

theorem movePage_mem_ok (s : State) (d page : Nat) (p : Page) (tier : Tier) (frame : Nat) (h : MemOk s) :
    MemOk (movePage s d page p tier frame) := by
  have h1 : MemOk (if p.tier = .t3
      then dramWrite s (frame * pageSize) (placeRead s ⟨.t3, p.frame * pageSize, true, none⟩ pageSize)
      else dramCopy s (p.frame * pageSize) (frame * pageSize) pageSize) := by
    split
    · exact dramWrite_mem_ok _ _ _ h
    · exact dramCopy_mem_ok _ _ _ _ h
  unfold movePage
  generalize (if p.tier = .t3 then dramWrite s (frame * pageSize) (placeRead s ⟨.t3, p.frame * pageSize, true, none⟩ pageSize)
    else dramCopy s (p.frame * pageSize) (frame * pageSize) pageSize) = s1 at h1 ⊢
  dsimp only
  split <;> split <;> exact h1.of_eq rfl rfl rfl

theorem readGate_mem_ok (s u : State) (t : Task) (isl : Nat) (own low : Bool) (rs : List (Nat × Nat)) (h : MemOk s)
    (hg : readGate s t isl own low rs = .go u) : MemOk u := by
  simp only [readGate] at hg
  split at hg
  · cases hg
  · split at hg
    · cases hg
    · split at hg
      · cases hg
      · generalize (if low = true then _ else []) = missing at hg
        split at hg
        · cases hg
        · split at hg
          · cases hg
          · injection hg with hg
            rw [← hg]
            exact readEffects_mem_ok _ _ _ _ (h.of_eq rfl rfl rfl)

end Sys2Proof.Machine
end

