-- ==== Sys2Proof/Laws/Insn.lean ====
section
/-!
SUPPORT. What the shared operations of island instructions answer: running one instruction, the write gate, reads and
writes at an address generator (R177, R185, R196, R223-R227).
-/
namespace Sys2Proof.Machine

/-- The instruction that stands at the pc and completes moves the island on. -/
theorem runInsn_next {i : Nat} {s u : State} {c : Ctx} {n : String} {ok : Insn → Bool} {f : Ctx → State → Res}
    (h : ctxOf s i = some c) (ho : ok c.w = true) (hf : f c s = .next u) :
    runInsn n ok i s f = .next (Safety.advanced c u) := by
  have h1 : (ctxOf s i).filter (fun c => ok c.w) = some c := by rw [h]; simp [Option.filter, ho]
  simp only [runInsn, h1, hf, settle, Safety.advanced]

/-- A write gate that opens changes nothing. -/
theorem writeGate_go {s w : State} {t : Task} {rs : List (Nat × Nat)} (h : writeGate s t rs = .go w) : w = s := by
  simp only [writeGate] at h
  split at h
  · cases h
  · split at h
    · cases h
    · split at h
      · cases h
      · split at h
        · cases h
        · cases h; rfl

/-- A read that goes through hands its state and bytes on. -/
theorem withBytesAt_of {c : Ctx} {ag imm n : Nat} {s u : State} {b : List Byte} {k : State → List Byte → Res}
    (h : Safety.Fetches c ag imm n s u b) : withBytesAt c ag imm n s k = k u b := by
  unfold Safety.Fetches at h
  simp only [withBytesAt]
  split at h
  · obtain ⟨rfl, h⟩ := h
    rename_i hh; simp [hh, h, orFault]
  · obtain ⟨h1, h2, rfl⟩ := h
    rename_i hh; simp [hh, withRead, h1, h2]

/-- The same for a read of FP32 values. -/
theorem withF32At_of {c : Ctx} {ag imm n : Nat} {s u : State} {b : List Byte} {k : State → List Val → Res}
    (h : Safety.Fetches c ag imm (4 * n) s u b) : withF32At c ag imm n s k = k u (Safety.floats b n) := by
  simp only [withF32At]; rw [withBytesAt_of h]; rfl

/-- A result that goes through completes in its state. -/
theorem putAt_of {c : Ctx} {ag imm : Nat} {data : List Byte} {s u : State} (h : Safety.Stores c ag imm data s u) :
    putAt c ag imm data s = .next u := by
  unfold Safety.Stores at h
  simp only [putAt]
  split at h
  · obtain ⟨h1, rfl⟩ := h
    rename_i hh; simp only [hh, putRanges]; simp [clean, h1]
  · obtain ⟨h1, w, h2, rfl⟩ := h
    have := writeGate_go h2; subst this
    rename_i hh; simp [hh, h1, withWrite, List.map_map, Function.comp_def] at h2 ⊢
    simp [h2]

/-- A scratchpad that keeps its form keeps it under a write. -/
theorem putScratch_wf (x : Island) (a : Nat) (data : List MByte) (h : sparseWf 0 x.scratch = true) :
    sparseWf 0 (putScratch x a data).scratch = true := memPut_wf _ _ _ h

end Sys2Proof.Machine
end

