-- ==== Sys2Proof/Laws/Reads.lean ====
section
/-!
SUPPORT. A read of operand memory that nothing holds goes through, and the state after it shows every byte, translation and
pending entry as before: only heat, lagoon lines and the reads outstanding change (R82, R90, R196).
-/
namespace Sys2Proof.Machine

/-- Two states show the same bytes, translations, pending entries, engines and staging tiles. -/
structure SameView (s u : State) : Prop where
  mem : u.mem = s.mem
  host : u.host = s.host
  poison : u.poison = s.poison
  latent : u.latent = s.latent
  conf : u.conf = s.conf
  tasks : u.tasks = s.tasks
  net : u.net = s.net
  vaults : u.vaults = s.vaults
  unmaps : u.mig.unmaps = s.mig.unmaps
  seals : u.mig.seals = s.mig.seals
  stagings : u.mig.stagings = s.mig.stagings
  hostPages : ∀ d, (domAt u d).hostPages = (domAt s d).hostPages
  pages : ∀ d k va, ((sparseGet none (domAt u d).pages k).map (placeOf · va)) = ((sparseGet none (domAt s d).pages k).map (placeOf · va))

theorem SameView.refl (s : State) : SameView s s := ⟨rfl, rfl, rfl, rfl, rfl, rfl, rfl, rfl, rfl, rfl, rfl, fun _ => rfl, fun _ _ _ => rfl⟩

theorem SameView.trans {s u v : State} (h : SameView s u) (k : SameView u v) : SameView s v :=
  ⟨k.mem.trans h.mem, k.host.trans h.host, k.poison.trans h.poison, k.latent.trans h.latent, k.conf.trans h.conf,
   k.tasks.trans h.tasks, k.net.trans h.net, k.vaults.trans h.vaults, k.unmaps.trans h.unmaps, k.seals.trans h.seals,
   k.stagings.trans h.stagings, fun d => (k.hostPages d).trans (h.hostPages d), fun d n a => (k.pages d n a).trans (h.pages d n a)⟩

/-- Translation is the same in both. -/
theorem SameView.xlat {s u : State} (h : SameView s u) (d : Nat) (tag : Option Nat) (va : Nat) : xlat u d tag va = xlat s d tag va := by
  have hm : memRec u = memRec s := by funext d; simp [memRec, h.conf]
  have hr : islRec u = islRec s := by funext d; simp [islRec, h.conf]
  have hi : ownedIslands u = ownedIslands s := by funext d; simp only [ownedIslands, hr]
  have hs : xlatSplit u d va = xlatSplit s d va := by simp only [xlatSplit, hm, hi, h.hostPages]
  have hp := h.pages d (va / pageSize) va
  simp only [Machine.xlat, h.unmaps, hm, hs]
  split
  · rfl
  · split
    · rfl
    · revert hp
      cases sparseGet none (domAt u d).pages (va / pageSize) <;> cases sparseGet none (domAt s d).pages (va / pageSize) <;>
        simp

/-- A domain after its page entry `page` has become `q`. -/
theorem domAt_modPage (s : State) (d page e : Nat) (q : Page) :
    domAt (modDom s d (fun x => { x with pages := sparseSet none x.pages page (some q) })) e =
      if e = d then { domAt s d with pages := sparseSet none (domAt s d).pages page (some q) } else domAt s e := by
  simp only [modDom, domAt, setDom]
  by_cases h : e = d
  · subst h; rw [if_pos rfl]
    apply sparseGet_set_self
    intro h
    have h2 : sparseGet none (sparseSet none (sparseGet ({} : Dom) s.doms e).pages page (some q)) page = some q := by
      apply sparseGet_set_self; simp
    have h1 : sparseSet none (sparseGet ({} : Dom) s.doms e).pages page (some q) = [] := congrArg Dom.pages h
    rw [h1] at h2; cases h2
  · rw [if_neg h]; exact sparseGet_set_ne (d := ({} : Dom)) (h := h) ..

/-- A change of one domain's page entry that keeps what translation reads of it. -/
theorem sameView_modPage {s : State} {d page : Nat} {p : Page} (q : Page)
    (hp : sparseGet none (domAt s d).pages page = some p) (hq : ∀ va, placeOf q va = placeOf p va) :
    SameView s (modDom s d (fun x => { x with pages := sparseSet none x.pages page (some q) })) := by
  refine ⟨rfl, rfl, rfl, rfl, rfl, rfl, rfl, rfl, rfl, rfl, rfl, fun e => ?_, fun e k va => ?_⟩ <;> rw [domAt_modPage] <;> split
  · rename_i h; rw [h]
  · rfl
  · rename_i h; subst h
    show Option.map (placeOf · va) (sparseGet none (sparseSet none (domAt s e).pages page (some q)) k) = _
    by_cases hk : k = page
    · subst hk
      have h1 : sparseGet none (sparseSet none (domAt s e).pages k (some q)) k = some q := by apply sparseGet_set_self; simp
      rw [h1, hp]; exact congrArg some (hq va)
    · have h1 : sparseGet none (sparseSet none (domAt s e).pages page (some q)) k = sparseGet none (domAt s e).pages k :=
        sparseGet_set_ne (h := hk) ..
      rw [h1]
  · rfl

/-- What changes beside it keeps the view. -/
theorem SameView.of_eq {s u : State} (h1 : u.mem = s.mem) (h2 : u.host = s.host) (h3 : u.poison = s.poison)
    (h4 : u.latent = s.latent) (h5 : u.conf = s.conf) (h6 : u.tasks = s.tasks) (h7 : u.net = s.net) (h8 : u.vaults = s.vaults)
    (h9 : u.mig.unmaps = s.mig.unmaps) (h10 : u.mig.seals = s.mig.seals) (h11 : u.mig.stagings = s.mig.stagings)
    (h12 : u.doms = s.doms) : SameView s u :=
  ⟨h1, h2, h3, h4, h5, h6, h7, h8, h9, h10, h11, fun d => by simp only [domAt, h12], fun d k va => by simp only [domAt, h12]⟩

theorem heatUnits_view (s : State) (d page isl k : Nat) : SameView s (heatUnits s d page isl k) := by
  unfold heatUnits
  split
  · exact .refl s
  · rename_i p hp
    split
    · exact .refl s
    · dsimp only
      have h1 := sameView_modPage { p with heat := min 255 (p.heat + k) } hp (fun _ => rfl)
      split <;> split <;> first
        | exact h1
        | exact h1.trans (.of_eq rfl rfl rfl rfl rfl rfl rfl rfl rfl rfl rfl rfl)
        | (split <;> first | exact h1 | exact h1.trans (.of_eq rfl rfl rfl rfl rfl rfl rfl rfl rfl rfl rfl rfl))

theorem addHeat_view (s : State) (isl d page n : Nat) : SameView s (addHeat s isl d page n) := by
  unfold addHeat
  dsimp only
  split
  · exact SameView.trans (u := setIsland s isl _) (.of_eq rfl rfl rfl rfl rfl rfl rfl rfl rfl rfl rfl rfl) (heatUnits_view _ _ _ _ _)
  · split
    · exact SameView.trans (u := setIsland (takeFree s) isl _) (.of_eq rfl rfl rfl rfl rfl rfl rfl rfl rfl rfl rfl rfl)
        (heatUnits_view _ _ _ _ _)
    · exact SameView.trans (u := setIsland s isl _) (.of_eq rfl rfl rfl rfl rfl rfl rfl rfl rfl rfl rfl rfl)
        (heatUnits_view _ _ _ _ _)

theorem fillLine_view (atoll d : Nat) (dirty : Bool) (s : State) (line : Nat) : SameView s (fillLine atoll d dirty s line) := by
  unfold fillLine
  dsimp only
  split
  · exact .of_eq rfl rfl rfl rfl rfl rfl rfl rfl rfl rfl rfl rfl
  · split
    · exact .refl s
    · exact .of_eq rfl rfl rfl rfl rfl rfl rfl rfl rfl rfl rfl rfl

theorem foldl_view {α : Type} (f : State → α → State) (hf : ∀ s x, SameView s (f s x)) (l : List α) (s : State) :
    SameView s (l.foldl f s) := by
  induction l generalizing s with
  | nil => exact .refl s
  | cons x t ih => exact (hf s x).trans (ih _)

theorem homeAccess_view (s : State) (isl d : Nat) (write : Bool) (p : Place) (n : Nat) :
    SameView s (homeAccess s isl d write p n) := by
  unfold homeAccess
  dsimp only
  split
  · exact .refl s
  · have h1 := foldl_view (fillLine (p.addr / 2 ^ 30 / 64) d write) (fun s x => fillLine_view _ _ _ s x) (unitsOf 128 p.addr n) s
    split
    · exact h1.trans (foldl_view _ (fun s x => fillLine_view _ _ _ s x) _ _)
    · exact h1

/-- The effects of a read keep the view where no beat holds a latent error. -/
theorem readEffects_view (s : State) (t : Task) (isl : Nat) (rs : List (Nat × Nat)) (h : s.latent = []) :
    SameView s (readEffects s t isl rs) := by
  unfold readEffects
  generalize rs.flatMap (fun r => piecesOf r.1 r.2) = l
  induction l generalizing s with
  | nil => exact .refl s
  | cons x l ih =>
    have h1 : SameView s ((fun (s : State) (x : Nat × Nat) => match xlat s t.desc.domain (some t.tag) x.1 with
      | .ok p =>
        let s := homeAccess (if p.tier = .t3 then s else touch s p.addr x.2) isl t.desc.domain false p x.2
        (match p.page with | some k => addHeat s isl t.desc.domain k x.2 | none => s)
      | .error _ => s) s x) := by
      dsimp only
      split
      · rename_i p _
        have h0 : (if p.tier = .t3 then s else touch s p.addr x.2) = s := by rw [touch_clean _ _ _ h]; simp
        rw [h0]
        split
        · exact (homeAccess_view _ _ _ _ _ _).trans (addHeat_view _ _ _ _ _)
        · exact homeAccess_view _ _ _ _ _ _
      · exact .refl s
    simp only [List.foldl_cons]
    exact h1.trans (ih _ (h1.latent.trans h))

/-- A read that nothing holds or ends goes on, and shows the same view. -/
theorem readGate_freely {s : State} {t : Task} {rs : List (Nat × Nat)} (isl : Nat) (own low : Bool) (hl : s.latent = [])
    (h : Safety.readsFreely s t rs = true) : ∃ u, readGate s t isl own low rs = .go u ∧ SameView s u := by
  simp only [Safety.readsFreely, List.all_eq_true, Bool.or_eq_true, beq_iff_eq, Bool.and_eq_true, Bool.not_eq_true'] at h
  have hpos : ∀ r ∈ rs.filter (fun r => decide (0 < r.2)), ((t.desc.pinned = true ∨ (outRanges t).any (fun o => overlaps o r) = false) ∧
      pendingElsewhere s t r = false) ∧ ∀ x ∈ piecesOf r.1 r.2, (match xlat s t.desc.domain (some t.tag) x.1 with
        | .ok p => p.tier == .t1 && !(engineBusy s p.addr x.2)
        | .error _ => false) = true := by
    intro r hr
    obtain ⟨hr, hp⟩ := List.mem_filter.1 hr
    rcases h r hr with h0 | h1
    · simp only [decide_eq_true_eq] at hp; omega
    · exact h1
  simp only [readGate]
  generalize rs.filter (fun r => decide (0 < r.2)) = l at hpos
  have e1 : (!own && !t.desc.pinned && l.any (fun r => (outRanges t).any (fun o => overlaps o r))) = false := by
    cases hp : t.desc.pinned
    · have : l.any (fun r => (outRanges t).any (fun o => overlaps o r)) = false := by
        rw [List.any_eq_false]; intro r hr
        rcases (hpos r hr).1.1 with h | h
        · rw [hp] at h; cases h
        · simp [h]
      rw [this]; simp
    · simp
  have e2 : l.any (pendingElsewhere s t) = false := by
    rw [List.any_eq_false]; intro r hr; simp [(hpos r hr).1.2]
  have e3 : l.findSome? (fun r => vaFault s t.desc.domain (some t.tag) r.1 r.2) = none := by
    rw [List.findSome?_eq_none_iff]; intro r hr
    simp only [vaFault, List.findSome?_eq_none_iff]
    intro x hx
    have := (hpos r hr).2 x hx
    split at this
    · rename_i h; simp [h]
    · cases this
  have e4 : lowLines s t l = [] := by
    simp only [lowLines, List.flatMap_eq_nil_iff]
    intro x hx
    obtain ⟨r, hr, hx⟩ := List.mem_flatMap.1 hx
    have := (hpos r hr).2 x hx
    split at this
    · rename_i p h
      simp only [Bool.and_eq_true, beq_iff_eq] at this
      simp [h, this.1]
    · cases this
  have e5 : (l.flatMap (fun r => piecesOf r.1 r.2)).any (fun (a, m) =>
      match xlat s t.desc.domain (some t.tag) a with
      | .ok p => p.tier == .t1 && engineBusy s p.addr m
      | .error _ => false) = false := by
    rw [List.any_eq_false]; intro x hx
    obtain ⟨r, hr, hx⟩ := List.mem_flatMap.1 hx
    have := (hpos r hr).2 x hx
    split at this
    · rename_i p h
      simp only [Bool.and_eq_true, Bool.not_eq_true'] at this
      simp [h, this.2]
    · cases this
  simp only [e1, e2, e3, e4, Bool.false_eq_true, if_false, List.filter_nil, ite_self, List.isEmpty_nil, Bool.not_true]
  rw [if_neg (by intro hc; exact absurd (hc.symm.trans e5) (by simp))]
  refine ⟨_, rfl, ?_⟩
  refine SameView.trans (u := { s with mig := { s.mig with reads := _ } }) ?_ (readEffects_view _ _ _ _ hl)
  exact .of_eq rfl rfl rfl rfl rfl rfl rfl rfl rfl rfl rfl rfl

/-- A read of nothing changes nothing. -/
theorem readGate_nil (s : State) (t : Task) (isl : Nat) (own low : Bool) : readGate s t isl own low [] = .go s := by
  have h : s.mig.reads.filter (fun _ => true) = s.mig.reads := List.filter_eq_self.2 (fun _ _ => rfl)
  simp [readGate, lowLines, readEffects, h]

/-- A write that nothing holds or ends goes on. -/
theorem writeGate_freely {s : State} {t : Task} {rs : List (Nat × Nat)} (h : Safety.writesFreely s t rs = true) :
    writeGate s t rs = .go s := by
  simp only [Safety.writesFreely, List.all_eq_true, Bool.or_eq_true, beq_iff_eq, Bool.and_eq_true] at h
  have hpos : ∀ r ∈ rs.filter (fun r => decide (0 < r.2)), (outRanges t).any (fun o => decide (o.1 ≤ r.1) && decide (r.1 + r.2 ≤ o.1 + o.2)) = true ∧
      ∀ x ∈ piecesOf r.1 r.2, ∃ p, xlat s t.desc.domain (some t.tag) x.1 = .ok p ∧ p.tier = .t1 ∧
        (p.sealed && !(sealExempt s t p.page)) = false ∧ engineBusy s p.addr x.2 = false := by
    intro r hr
    obtain ⟨hr, hp⟩ := List.mem_filter.1 hr
    rcases h r hr with h0 | h1
    · simp only [decide_eq_true_eq] at hp; omega
    · refine ⟨h1.1, fun x hx => ?_⟩
      have := h1.2 x hx
      split at this
      · rename_i p hp
        refine ⟨p, hp, ?_⟩
        simp only [Bool.and_eq_true, beq_iff_eq, Bool.or_eq_true, Bool.not_eq_true'] at this
        obtain ⟨⟨h1, h2⟩, h3⟩ := this
        refine ⟨h1, ?_, h3⟩
        rcases h2 with h2 | h2 <;> simp [h2]
      · cases this
  simp only [writeGate]
  generalize rs.filter (fun r => decide (0 < r.2)) = l at hpos
  have e1 : l.any (fun r => !((outRanges t).any (fun o => decide (o.1 ≤ r.1) && decide (r.1 + r.2 ≤ o.1 + o.2)))) = false := by
    rw [List.any_eq_false]; intro r hr; simp only [(hpos r hr).1]; simp
  have hx : ∀ x ∈ l.flatMap (fun r => piecesOf r.1 r.2), ∃ p, xlat s t.desc.domain (some t.tag) x.1 = .ok p ∧ p.tier = .t1 ∧
        (p.sealed && !(sealExempt s t p.page)) = false ∧ engineBusy s p.addr x.2 = false := by
    intro x hx
    obtain ⟨r, hr, hx⟩ := List.mem_flatMap.1 hx
    exact (hpos r hr).2 x hx
  generalize l.flatMap (fun r => piecesOf r.1 r.2) = m at hx
  rw [if_neg (by intro hc; exact absurd (hc.symm.trans e1) (by simp))]
  split
  · rename_i e h
    obtain ⟨y, hy, h⟩ := List.exists_of_findSome?_eq_some h
    obtain ⟨x, hxm, rfl⟩ := List.mem_map.1 hy
    obtain ⟨p, h1, _⟩ := hx x hxm
    simp [h1] at h
  · rw [if_neg, if_neg]
    · intro hc
      obtain ⟨y, hy, h⟩ := List.any_eq_true.1 hc
      obtain ⟨x, hxm, rfl⟩ := List.mem_map.1 hy
      obtain ⟨p, h1, _, _, h4⟩ := hx x hxm
      simp [h1, h4] at h
    · intro hc
      obtain ⟨y, hy, h⟩ := List.any_eq_true.1 hc
      obtain ⟨x, hxm, rfl⟩ := List.mem_map.1 hy
      obtain ⟨p, h1, h2, h3, _⟩ := hx x hxm
      simp [h1, h2, h3] at h

/-- Bytes of a domain range are the same in both. -/
theorem SameView.bytes {s u : State} (h : SameView s u) (d : Nat) (tag : Option Nat) (a n : Nat) :
    vaBytes u d tag a n = vaBytes s d tag a n := by
  have hp : ∀ p n, placeRead u p n = placeRead s p n := by
    intro p n; simp only [placeRead, dramRead, h.mem, h.host, h.poison]
  simp only [vaBytes, h.xlat, hp]

theorem SameView.taskBytes {s u : State} (h : SameView s u) (c : Ctx) (a n : Nat) : taskBytes u c a n = taskBytes s c a n :=
  h.bytes _ _ _ _

theorem SameView.operandBytes {s u : State} (h : SameView s u) (c : Ctx) (o : Operand) (a : Int) (n : Nat) :
    operandBytes u c o a n = operandBytes s c o a n := by
  simp only [Machine.operandBytes, h.taskBytes]

theorem SameView.loadBytes {s u : State} (h : SameView s u) (c : Ctx) (a n : Nat) : loadBytes u c a n = loadBytes s c a n := by
  simp only [Machine.loadBytes, Machine.stagedLine, h.taskBytes, h.stagings]

/-- What holds a read or a write is the same in both. -/
theorem SameView.readsFreely {s u : State} (h : SameView s u) (t : Task) (rs : List (Nat × Nat)) :
    Safety.readsFreely u t rs = Safety.readsFreely s t rs := by
  simp only [Safety.readsFreely, pendingElsewhere, extPending, engineBusy, vaultAt, h.xlat, h.net, h.tasks, h.vaults]

theorem SameView.writesFreely {s u : State} (h : SameView s u) (t : Task) (rs : List (Nat × Nat)) :
    Safety.writesFreely u t rs = Safety.writesFreely s t rs := by
  simp only [Safety.writesFreely, sealExempt, engineBusy, vaultAt, h.xlat, h.seals, h.vaults]

end Sys2Proof.Machine
end

