-- ==== Sys2Proof/WellFormed.lean ====
section
/-!
DEFINITION. Which commands are well formed: what the operand types leave to be said of lists.
-/
namespace Sys2Proof

/-- No entry occurs twice. -/
def distinctIslands (l : List (Fin 256)) : Bool := decide l.Nodup

/-- A command that can be sent: a gang starts on at least one island and on each at most once (R173, R359); a ticket carries
the counts of at most 256 members (R393); a window write has 1 to 512 bytes, the largest PCIe payload (R424). -/
def wellFormed : Instr → Bool
  | .taskStart _ isls => decide (1 ≤ isls.length) && distinctIslands isls
  | .collTicket _ _ counts => decide (counts.length ≤ 256)
  | .windowWrite _ _ data => decide (1 ≤ data.length) && decide (data.length ≤ 512)
  | _ => true

end Sys2Proof
end

