-- ==== Sys2Proof/Tests/Slice0.lean ====
section
/-!
SUPPORT. Tests: the well-formedness checks, single steps on small states, and for each statement with hypotheses a concrete
state and operands that meet them.
-/
set_option Elab.async false

namespace Sys2Proof.Tests

open Sys2Proof Sys2Proof.Machine

/-! ### Small states -/

/-- On main power, trained, link in L0. -/
def up : State := { State.reset with pow := { State.reset.pow with mainOk := true, link := .up, trained := true } }

/-- Domain 0 on VF 0 (its record counts from 1), with island 0 and channel 0. -/
def withDom (st : DomState) (split : Bool) : State :=
  { up with
    conf := { up.conf with
      doms := [(0, some { vf := 1, quota := [8, 0, 0, 0], sem := [(0, 16), (0, 0), (0, 0), (0, 0)], bar := [(0, 8), (0, 0), (0, 0), (0, 0)] })]
      mems := [(0, { split := split, channels := 1, reserve := 1 })]
      isl := [(0, { owner := some 0 })] }
    doms := [(0, { st := st })] }

/-- An ACTIVE unified domain. -/
def act : State := withDom .active false

/-- VF 0, ring 0. -/
def h0 : Hdr := ⟨0, 0, 7⟩

/-- A page of the domain mapped at a frame of vault 0. -/
def t1Page (k : Nat) (p : Page) (s : State) : State := modDom s 0 (fun x => { x with pages := sparseSet none x.pages k (some p) })

/-- A change group in progress. -/
def group (p : GroupPhase) : GroupState :=
  { epoch := 5, segs := [], after := [], target := up.conf, phase := p, protocol := true, islands := [3] }

/-- The module with a change group in progress. -/
def inGroup (g : GroupState) : State := { up with img := { up.img with phase := 4, cur := some g } }

/-! ### A task on island 0 -/

/-- Tiles of the whole engine. -/
def rec0 : TileRec := ⟨[15, 15, 15, 15], [0xE4, 0xE4, 0xE4, 0xE4], List.replicate 3 [128, 128, 64, 1], 0⟩

/-- An address generator with one base. -/
def ag (o : Option Nat) (off : Int) : AddrGen := ⟨o, off, List.replicate 9 0, List.replicate 9 0⟩

/-- AGs: 0 the scratchpad, 1 operand 0, 2 operand 1, 3 the scratchpad from 0x8000, 4 to 6 operands 2 to 4. -/
def prog0 (l : List Insn) : Program :=
  ⟨l, 0x200000, [(1, .w128), (1, .fp32)], [], [ag none 0, ag (some 0) 0, ag (some 1) 0, ag none 0x8000, ag (some 2) 0, ag (some 3) 0],
    [1, 1, 1, 1], List.replicate 4 [64, 0, 0, 0, 0, 0, 0, 0], 0xFF, [rec0], 0, 0xFF, 0xFF, 4, [], 1024⟩

def desc0 : Desc :=
  { program := 0, lc := false, pinned := false, complete := true, domain := 0, widen := 0, bucket := [15, 15, 15, 15], place := none,
    m := 16, n := 64, k := 64, g := 1, anchorFirst := 0, anchorLen := 0, argVa := 0, waits := [], signals := [], gangId := 0,
    gangSize := 1, gangRank := 0, gangBarrier := some 1, gangSemFirst := 2, gangSemCount := 2, splitIndex := 0, splitCount := 1,
    tag := 0 }

/-- Operand 0 reads FP32 at 0x10000, operand 1 writes FP32 at 0x20000, operands 2 and 3 are BF16 matrices. -/
def ops0 : List Operand :=
  [⟨0x10000, 256, .fp32, false, 0, false, 0, 1, 0, 0, 0, false⟩, ⟨0x20000, 256, .fp32, false, 0, true, 0, 1, 0, 0, 0, false⟩,
   ⟨0x10000, 128, .bf16, false, 0, false, 0, 2, 0, 0, 0, false⟩, ⟨0x10000, 128, .bf16, false, 0, false, 2, 1, 0, 0, 0, false⟩]

def task0 (l : List Insn) : Task :=
  { tag := 0, src := ⟨0, 0, 7⟩, desc := desc0, ops := ops0, prog := prog0 l, serial := 0, idx := [0, 0, 0, 0], tile := rec0,
    ext := [16, 64, 64, 1], anchorFirst := 0, anchorLen := 0, phase := .running, order := 0, attempt := 0, island := some 0,
    started := some 0, kills := 0, snap := 0, torn := 0, innerShare := false, accFp := [false, true], share := none,
    drained := true }

/-- Pages 1 and 2 of the domain in vault 0. -/
def mapped (s : State) : State := t1Page 1 ⟨.t1, false, false, 0, 9⟩ (t1Page 2 ⟨.t1, false, false, 0, 10⟩ s)

/-- Island 0 runs a task that stands at the instruction. -/
def running0 (x : Island) (w : Insn) : State :=
  { mapped act with tasks := [task0 [w]], islands := [(0, { x with task := some 0 })] }

/-- An instruction with its address generators, immediates and count. -/
def insn (op : Op) (ag1 ag3 imm2 count : Nat) : Insn := ⟨op, 0, 0, ag1, 0, ag3, 0, imm2, count, 0, 0, 0⟩

/-- What the instruction on island 0 sees. -/
def ctx0 (x : Island) (w : Insn) : Ctx := ⟨0, task0 [w], { x with task := some 0 }, w, [16, 64, 64, 1], x.issued⟩

/-! ### Witnesses: the image engine, domains, memory -/

theorem wit_FrontCommandRuns :
    ({ up with pending := [Instr.groupCommit, .epochHeld] } : State).pending = Instr.groupCommit :: [.epochHeld] ∧ up.pending = [] :=
  ⟨rfl, rfl⟩

theorem wit_LinkDownTurnsHostAway : hostUp State.reset = false := rfl

theorem wit_StageAndColdApply :
    (let s : State := { up with img := { up.img with len := 0x800000 } }
     hostUp s = true ∧ imgBusy s = false ∧ s.img.len ≤ 0x800000) ∧
    (∀ b : Bool, let x : Staged := ⟨false, 1, []⟩
     let s : State := { up with img := { up.img with phase := 2, staged := some x }, pow := { up.pow with trained := b } }
     hostUp s = true ∧ imgBusy s = false ∧ s.img.staged = some x ∧ s.img.epoch = 0 ∧ applyLegal s = true ∧ s.pow.trained = b) := by
  decide +kernel

theorem wit_AbortStopsTheGroup :
    (let s := inGroup (group .hold); hostUp s = true ∧ s.img.cur = some (group .hold) ∧ s.mir.bad = false) ∧
    (hostUp up = true ∧ up.img.cur = none ∧ up.img.waiting = false) ∧
    (let s : State := { up with img := { up.img with phase := 3, waiting := true } }
     hostUp s = true ∧ s.img.cur = none ∧ s.img.waiting = true) := by decide +kernel

theorem wit_EpochProtocolAdvances :
    (∀ b : Bool, let g := { group .prepare with protocol := b, closed := [1], zeroed := [1] }
     let s := inGroup g
     s.img.cur = some g ∧ g.phase = .prepare ∧ g.closed.all (fun v => g.zeroed.contains v) = true ∧
       ∀ d, d < 16 → (leavingChan s d).isEmpty = true ∧ (comesUnified s d = true → hasDirectory s d = true) ∧ reserveFits s g.target d = true) ∧
    (let g := group .hold
     let s := inGroup g
     s.img.cur = some g ∧ g.phase = .hold ∧ g.islands.contains (3 : Fin 256).val = true ∧ g.arrived.contains (3 : Fin 256).val = false ∧
       (islandAt s (3 : Fin 256)).task = none ∧ splitBusy s g.target (3 : Fin 256) = false ∧ s.now < g.t0 + 10000000 ∧
       sparseWf {} s.islands = true) ∧
    (let g := group .hold
     let s := { inGroup g with now := 1000000 }
     s.img.cur = some g ∧ g.phase = .hold ∧ g.kills = false ∧ g.t0 + drainNs s ≤ s.now) ∧
    (let g := { group .hold with arrived := [3] }
     let s := inGroup g
     s.img.cur = some g ∧ g.phase = .hold ∧ g.islands.all (fun i => g.arrived.contains i) = true ∧ contextsIdle s g = true ∧
       s.now < g.t0 + 10000000) ∧
    (∀ p ∈ [GroupPhase.commit, .apply], let g := group p
     let s := inGroup g
     s.img.cur = some g ∧ (g.phase = .commit ∨ g.phase = .apply) ∧ allApplied s g = true) := by decide +kernel

theorem wit_GroupEndsOnTimeoutOrParts :
    (let g := group .hold
     let s := { inGroup g with now := 10000000 }
     s.img.cur = some g ∧ g.phase = .hold ∧ g.t0 + 10000000 ≤ s.now) ∧
    (let g := { group .apply with core := some 7, cores := [7] }
     let s := { inGroup g with now := 99999999 }
     s.img.cur = some g ∧ g.core = some (7 : Fin 8).val ∧ s.now < g.coreAt + 100000000) ∧
    (let g := { group .apply with core := some 7, cores := [7] }
     let s := { inGroup g with now := 100000000 }
     s.img.cur = some g ∧ g.core.isSome = true ∧ g.coreAt + 100000000 ≤ s.now) ∧
    (let g := { group .apply with lend := [255] }
     let s := inGroup g
     s.img.cur = some g ∧ g.phase ≠ .prepare ∧ g.lend.contains (255 : Fin 256).val = true ∧ (islandAt s (255 : Fin 256)).task = none) ∧
    (let s := modIsland up 0 (fun x => { x with fun_ := { x.fun_ with flip := true } })
     (islandAt s (0 : Fin 256)).fun_.flip = true ∧ (islandAt s (0 : Fin 256)).task = none) := by decide +kernel

theorem wit_RefusedInStateChangesNothing :
    (let s := withDom .faulted false
     domOfVf s h0.vf = some 0 ∧ (domAt s 0).st ∉ [DomState.active] ∧ (domAt s 0).st ∉ setupStates ∧ (domAt s 0).st ∉ chanStates ∧
       (domAt s 0).st ∉ [DomState.empty]) ∧ up.log.level = 0 := by decide +kernel

/-- The VF with its first completion ring enabled, 64 entries, at the last slot. -/
def ringed (head tail : Nat) : State :=
  modVf act 0 (fun x => { x with cqs := setAt x.cqs 0 { base := 0x10000, ctrl := 6 * 2 ^ 8 + 1, head := head, tail := tail } })

theorem wit_CompletionRecordPlaced :
    (let s := ringed 10 63
     let r := (vfAt s 0).cqs.getD (cqOf s ⟨0, 0, 7⟩) {}
     sparseWf 0 s.host = true ∧ (vfAt s 0).waitCpl.all (fun w => w.1 != cqOf s ⟨0, 0, 7⟩) = true ∧ cqRoom r = true ∧
       cqOf s ⟨0, 0, 7⟩ < (vfAt s 0).cqs.length ∧ (r.tail + 1) % ringSize r.ctrl = 0) ∧
    (let s := ringed 0 63
     cqRoom ((vfAt s 0).cqs.getD (cqOf s ⟨0, 0, 7⟩) {}) = false ∧ sparseWf 0 s.host = true) := by decide +kernel

theorem wit_DomainStatesFollowCommands :
    (let s := withDom .empty true
     domOfVf s h0.vf = some 0 ∧ (domAt s 0).st = .empty ∧ (domAt s 0).zeroising = false ∧ initWait s = false ∧
       (memRec s 0).split = true) ∧
    (let s := withDom .empty false
     domOfVf s h0.vf = some 0 ∧ (domAt s 0).st = .empty ∧ (domAt s 0).zeroising = false ∧ initWait s = false ∧
       (memRec s 0).split = false ∧ (ensureStruct s 0 .directory 8).isSome = true) ∧
    (let s := modDom (withDom .empty false) 0 (fun x => { x with zeroising := true })
     domOfVf s h0.vf = some 0 ∧ (domAt s 0).st = .empty ∧ (domAt s 0).zeroising = true) ∧
    (let s := withDom .bound false
     domOfVf s h0.vf = some 0 ∧ (domAt s 0).st = .bound ∧ residents (domAt s 0) = []) ∧
    (let s := modDom (withDom .bound false) 0 (fun x => { x with programs := [(0, some (1, { prog0 [] with uses := 8 }))] })
     domOfVf s h0.vf = some 0 ∧ (domAt s 0).st = .bound ∧ residents (domAt s 0) ≠ []) ∧
    (let s := modDom (withDom .bound false) 0 (fun x => { x with waitArm := [⟨0, 0, 1⟩] })
     domOfVf s h0.vf = some 0 ∧ (0 : Fin 16).val = 0 ∧ (domAt s 0).st = .bound ∧ (domAt s 0).waitArm ≠ []) ∧
    (∀ st ∈ [DomState.loaded, .draining, .quiesced], let s := withDom st false
     domOfVf s h0.vf = some 0 ∧ (domAt s 0).st = st) := by decide +kernel

theorem wit_DrainAndZeroiseComplete :
    (domOfVf act h0.vf = some 0 ∧ (domAt act 0).st = .active) ∧
    (let s := modDom (withDom .draining false) 0 (fun x => { x with waitDrain := some ⟨0, 0, 1⟩ })
     (domAt s 0).st = .draining ∧ nothingLeft s 0 = true ∧ (domAt s 0).waitDrain = some ⟨0, 0, 1⟩) ∧
    (let s := modDom (withDom .empty false) 0 (fun x => { x with zeroising := true })
     (domAt s 0).zeroising = true ∧ (domAt s 0).st = .empty ∧ s.pow.restore = none ∧ (∀ e, e < 16 → (domAt s e).waitBind = []) ∧
       sparseWf {} s.doms = true) := by decide +kernel

theorem wit_HostPagesMapAndUnmap :
    (domOfVf act h0.vf = some 0 ∧ (domAt act 0).st ∈ setupStates ∧ (memRec act 0).split = false ∧
      pageRangeOk (0xFFFF0000 * 0x10000) 65536 = true ∧ vaultField 0xFFFF = true ∧
      vaultField 255 = true ∧ vaultField 256 = false ∧ vaultField 0xFFFE = false) ∧
    (∃ u, (∀ k ∈ pagesOf 0x10000 2, pageAt act 0 k = none) ∧ (∀ b ∈ hostList act 0x1000 2, b % pageSize = 0) ∧ vaultArg act 0 0xFFFF = .default ∧
      ensureLeaves act 0 (pagesOf 0x10000 2) = some u) ∧
    (∃ u, mapUnified act 0 0x10000 2 0 0xFFFF 0 = .ok u) ∧ (∃ u, mapUnified act 0 0x10000 2 1 0 0 = .ok u) ∧
    (let s := modDom act 0 (fun x => { x with frames := [(8, .leaf 0)] })
     pagesOf 0x10000 1 = [1] ∧ pageAt s 0 1 = none ∧ sparseWf {} s.doms = true ∧ sparseWf none (domAt s 0).pages = true ∧
       (domAt s 0).frames.any (fun e => decide (e.2 = .leaf (1 / 65536))) = true ∧ (defaultFrame s 0).isSome = true ∧
       1 ≤ freeCount s (openVaults s 0) ∧ (chanFrame s 0 1 true).isSome = true) ∧
    (let s := t1Page 1 ⟨.t1, false, false, 0, 9⟩ act
     s.img.cur = none ∧ (∀ k ∈ pagesOf 0x10000 1, (pageAt s 0 k).isSome = true) ∧ sparseWf none (domAt s 0).pages = true) :=
  ⟨by decide +kernel, ⟨_, by decide +kernel, by decide +kernel, by decide +kernel, rfl⟩, ⟨_, rfl⟩, ⟨_, rfl⟩, by decide +kernel, by decide +kernel⟩
theorem wit_SealPromoteDemoteCopyComplete :
    (let s := mapped act
     let ks := pagesOf 0x10000 2
     domOfVf s h0.vf = some 0 ∧ (domAt s 0).st ∈ setupStates ∧ (memRec s 0).split = false ∧ pageRangeOk 0x10000 2 = true ∧
       (∀ k ∈ ks, (pageAt s 0 k).isSome = true) ∧ writersOf s 0 0x10000 2 = [] ∧ vaultField 0xFFFF = true ∧ vaultArg s 0 0xFFFF ≠ .bad ∧
       vaultArg s 0 0xFFFF ≠ .shut) ∧
    writersOf (running0 {} (insn .zero 0 0 0 0)) 0 0x10000 2 ≠ [] ∧
    (∃ u w, roomFor (mapped act) 0 (vaultsFor (mapped act) 0 .default) [1, 2] 0 = .ok u ∧ promoteAll 0 .default [1, 2] u = .ok w) ∧
    (let s := t1Page 1 ⟨.t1, true, false, 0, 9⟩ act
     (∀ k ∈ pagesOf 0x10000 1, ∀ p, pageAt s 0 k = some p → p.tier = .t1 → p.sealed = true) ∧
       ∃ w, demoteAll 0 (pagesOf 0x10000 1) s = .ok w) ∧
    (pagesOf 0x10000 1 = [1] ∧
      (let s := t1Page 1 ⟨.t2, true, false, 5, 2 ^ 24⟩ act
       Safety.PageIs s 0 1 ⟨.t2, true, false, 5, 2 ^ 24⟩ ∧ (defaultFrame s 0).isSome = true ∧ 1 ≤ freeCount s (openVaults s 0)) ∧
      (let s := t1Page 1 ⟨.t1, true, false, 5, 9⟩ act
       Safety.PageIs s 0 1 ⟨.t1, true, false, 5, 9⟩ ∧ (chanFrame s 0 1 false).isSome = true)) ∧
    (let q : Sealing := ⟨0, 1, 2, [], ⟨0, 0, 7⟩⟩
     let s : State := { act with mig := { act.mig with seals := [q] } }
     s.mig.seals.find? (fun q => q.dom == (0 : Fin 16).val && q.first == 1 && q.tags.isEmpty) = some q) ∧
    (let s := withDom .active true
     domOfVf s h0.vf = some 0 ∧ (domAt s 0).st ∈ setupStates ∧ (memRec s 0).split = true ∧ vaFault s 0 none 0 64 = none ∧
       vaFault s 0 none 0x1000 64 = none ∧ anyMark (vaBytes s 0 none 0 64) = false) :=
  ⟨by decide +kernel, by decide +kernel, ⟨_, _, rfl, rfl⟩,
   ⟨fun k hk p hp _ => by
      obtain rfl : k = 1 := by simpa [pagesOf, pageSize, List.range, List.range.loop] using hk
      have h : pageAt (t1Page 1 ⟨.t1, true, false, 0, 9⟩ act) 0 1 = some ⟨.t1, true, false, 0, 9⟩ := by decide +kernel
      rw [h] at hp; cases hp; rfl, _, rfl⟩, by decide +kernel, by decide +kernel, by decide +kernel⟩

/-- A change to another configuration, with vaults closed; the domain has page 1. -/
def departing (p : Page) (closed : List Nat) (t : Conf) (s : State) : State :=
  t1Page 1 p { s with img := { s.img with cur := some { group .prepare with closed := closed, target := t } } }

theorem wit_MigrationEngineMoves :
    (let p : Page := ⟨.t1, true, false, 0, 9⟩
     let s := departing p [0] act.conf act
     (leavingVault s 0).head? = some ((1 : BitVec 32).toNat, p) ∧ (evacuate s 0 1 p).isSome = true) ∧
    (let p : Page := ⟨.t1, true, false, 0, 9⟩
     let c : Conf := { act.conf with isl := [(0, { owner := some 0 }), (1, { owner := some 0 })] }
     let s := departing p [0] act.conf { act with conf := c }
     (leavingVault s 0).head? = some ((1 : BitVec 32).toNat, p) ∧ Safety.PageIs s 0 1 p ∧ defaultFrame s 0 = some 16384) ∧
    (let p : Page := ⟨.t2, true, false, 0, 2 ^ 24⟩
     let t : Conf := { act.conf with mems := [(0, { channels := 2 })] }
     let s := departing p [] t { act with conf := { act.conf with mems := [(0, { channels := 3 })] } }
     leavingVault s 0 = [] ∧ (leavingChan s 0).head? = some ((1 : BitVec 32).toNat, p) ∧
       chanFrame s 0 1 true = some (2 ^ 24 + 2 ^ 20)) ∧
    (let s : State := { act with mig := { act.mig with promos := [⟨0, 1, 0⟩] } }
     leavingVault s 0 = [] ∧ leavingChan s 0 = [] ∧ s.mig.promos = [⟨0, 1, 0⟩]) ∧
    (let s : State := { act with mig := { act.mig with unmaps := [⟨0, 1, ⟨.t1, false, false, 0, 9⟩, []⟩], olds := [⟨0, 9⟩] } }
     s.mig.unmaps.any (fun u => u.dom == (0 : Fin 16).val && u.page == 1 && u.tags.isEmpty) = true ∧
       s.mig.olds.any (fun o => o.frame == 9) = true ∧ frameRead s 9 = false) ∧
    (let p : Page := ⟨.t1, true, false, 0, 9⟩
     let s := modVault (t1Page 1 p { act with conf := { act.conf with mems := [(0, { channels := 1, highWater := 1 })] } }) 0
       (fun x => { x with demoting := true })
     (islRec s 0).owner = some 0 ∧ demoteDue s 0 0 = true ∧ nextDemote s 0 [0] = some (1, p) ∧ (demotePage s 0 1 p).isSome = true ∧
       (chanFrame s 0 1 false).isSome = true ∧ Safety.PageIs s 0 1 p) ∧
    (let p : Page := ⟨.t2, true, false, 0, 2 ^ 24⟩
     let s := departing p [] up.conf act
     farStalled s 0 = true ∧ s.mig.farLogAt = none) ∧
    (let s := { mapped act with now := 1000000 }
     s.mig.heatMs < s.now / 1000000 ∧ s.pow.restore = none ∧ sparseWf {} s.doms = true ∧ sparseWf none (domAt s 0).pages = true ∧
       pageAt s 0 1 = some ⟨.t1, false, false, 0, 9⟩) := by decide +kernel

theorem wit_LowerTiersAnswerOrTimeOut :
    let s : State := { running0 {} (insn .zero 0 0 0 0) with
      mig := { act.mig with reads := [⟨0, 0, 0, 5, 0, false, true, 0⟩] }, now := 50000 }
    s.mig.reads.any (fun r => r.island / 64 == (0 : Fin 4).val && r.line == 5 && !r.served) = true ∧
      taskAt s (0 : Fin 256) = some (task0 [insn .zero 0 0 0 0]) ∧
      s.mig.reads.find? (fun r => r.island == (0 : Fin 256).val && r.tag == 0 && r.live && !r.served && decide (r.t0 + 50000 ≤ s.now))
        = some ⟨0, 0, 0, 5, 0, false, true, 0⟩ := by decide +kernel

/-! ### Witnesses: shadows, programs, lists, prefixes, tasks, vault engines -/

/-- A shadow entry of one page, sealed at page 3. -/
def shadow0 : BitVec 256 := BitVec.ofNat 256 (leOf (leBytes 8 0x40000 ++ leBytes 8 0x30000 ++ leBytes 4 0x10000 ++ leBytes 4 128 ++
  leBytes 4 0 ++ [6, 0, 0, 0]))

theorem wit_ShadowsAndSyncSetUp :
    (let s := t1Page 3 ⟨.t1, true, false, 0, 11⟩ act
     let e : Shadow := ⟨0x40000, 0x30000, 0x10000, 128, 0, 6, 0⟩
     domOfVf s h0.vf = some 0 ∧ (domAt s 0).st ∈ setupStates ∧ readShadow (leBytes 32 shadow0.toNat) = some e ∧
       (1023 : BitVec 16).toNat < 1024 ∧ rangeSealed s 0 e.shadowVa e.len = true ∧ shadowClash s 0 1023 e = false ∧
       e.pitch % 64 = 0 ∧ (ensureStruct s 0 .shadows 1).isSome = true ∧ sparseWf none (domAt s 0).shadows = true) ∧
    (rangeInReef act 0 true 0 15 1 = true ∧ rangeInReef act 0 false 0 0 8 = true ∧
      syncInUse act (reefList 12 0 15 1) (reefList 10 0 0 8) = false ∧ sparseWf 0 act.sems = true ∧ sparseWf {} act.bars = true) := by
  decide +kernel

/-- The smallest program image: one COMMIT. -/
def image0 : List Byte :=
  leBytes 2 1 ++ leBytes 2 1 ++ leBytes 4 0 ++ List.replicate 16 0 ++ [0, 0, 1, 0, 0, 0, 0, 0] ++ List.replicate 32 0 ++
  [1, 1, 1, 1, 0xFF] ++ List.replicate 11 0 ++ (List.range 4).flatMap (fun _ => leBytes 4 64 ++ List.replicate 28 0) ++
  leBytes 4 0xFFFF ++ List.replicate 4 0xE4 ++ (List.range 3).flatMap (fun _ => leBytes 4 128 ++ leBytes 4 128 ++ leBytes 4 64 ++ leBytes 4 1) ++
  List.replicate 8 0 ++ [0x90] ++ List.replicate 15 0

/-- What a fetch read. -/
def fetched (r : State × Except Status (List Byte)) : Option (List Byte) :=
  match r.2 with
  | .ok b => some b
  | .error _ => none

theorem fetch_is {r : State × Except Status (List Byte)} {b : List Byte} (h : fetched r = some b) : r = (r.1, .ok b) := by
  obtain ⟨s, e⟩ := r
  cases e with
  | ok v => simp only [fetched, Option.some.injEq] at h; rw [h]
  | error e => simp [fetched] at h

/-- The image stands at page 1. -/
def loaded0 : State := { mapped act with mem := memPut [] (9 * 65536) image0 }

/-- A program in the table. -/
def tabled : State := modDom act 0 (fun x => { x with programs := [(1023, some (0, prog0 []))] })

/-- The program that the image holds. -/
def program0 : Program := (readProgram image0).getD (prog0 [])

theorem wit_ProgramsLoadAndUnload :
    (domOfVf loaded0 h0.vf = some 0 ∧ (domAt loaded0 0).st ∈ setupStates ∧ (1023 : BitVec 16).toNat < 1024 ∧
      sparseWf none (domAt loaded0 0).programs = true ∧
      ∃ s1 s2 s3 hd img p, vaFetch loaded0 0 0x10000 64 = (s1, .ok hd) ∧ progHeaderOk hd = true ∧ vaFetch s1 0 0x10000 (imageLength hd) = (s2, .ok img) ∧
        readProgram img = some p ∧
        footprintOk p ((List.range 256).map (fun i => openMask s2 i true)) ((List.range 256).map (fun i => openMask s2 i false)) = true ∧
        storeOk s2 0 1023 p = true ∧ allocStruct s2 0 (.program s2.order) (ceilDiv p.bytes pageSize) = some s3 ∧
        sparseWf none (domAt s3 0).programs = true) ∧
    (domOfVf tabled h0.vf = some 0 ∧ (domAt tabled 0).st ∈ setupStates ∧ sparseWf none (domAt tabled 0).programs = true ∧
      (sparseGet none (domAt tabled 0).programs (1023 : BitVec 16).toNat).isSome = true) ∧
    (domOfVf (mapped act) h0.vf = some 0 ∧ (domAt (mapped act) 0).st ∈ setupStates ∧
      ∃ s1 hd, vaFetch (mapped act) 0 0x10000 64 = (s1, .ok hd) ∧ progHeaderOk hd = false) ∧
    (plain (Safety.rangeBytes loaded0 0 0x10000 64) = slice image0 0 64 ∧ imageLength (slice image0 0 64) = image0.length ∧
      plain (Safety.rangeBytes loaded0 0 0x10000 image0.length) = image0 ∧ Safety.ReadsClean loaded0 0 0x10000 64 ∧
      Safety.ReadsClean loaded0 0 0x10000 image0.length ∧ storeOk loaded0 0 1023 program0 = true ∧
      (allocStruct loaded0 0 (.program loaded0.order) (ceilDiv program0.bytes pageSize)).isSome = true) :=
  ⟨⟨by decide +kernel, by decide +kernel, by decide, by decide +kernel,
    _, _, _, slice image0 0 64, image0, program0, fetch_is (by decide +kernel), by decide +kernel, fetch_is (by decide +kernel), by decide +kernel,
    by decide +kernel, by decide +kernel, (Option.some_get (by decide +kernel)).symm, by decide +kernel⟩, by decide +kernel,
    ⟨by decide +kernel, by decide +kernel, _, List.replicate 64 0, fetch_is (by decide +kernel), by decide⟩, by decide +kernel⟩

/-- A list of one entry at page 1. -/
def listed : State := modDom (mapped act) 0 (fun x => { x with lists := [⟨9, 1, 0x10000, 1, 1, none, []⟩], listSeq := 1 })

theorem wit_ListsArePublished :
    (∃ u w, domOfVf (mapped act) h0.vf = some 0 ∧ (domAt (mapped act) 0).st ∈ setupStates ∧ listCount (mapped act) 0 < 65536 ∧
      currentList (mapped act) 0 9 = none ∧ vaFetch (mapped act) 0 0x10000 (8 * 1) = (u, .ok (List.replicate 8 0)) ∧
      (words8 (List.replicate 8 0) 1).all entryFine = true ∧ bodyOk u 0 0x20000 1 = true ∧ ensureStruct u 0 .lists 1 = some w) ∧
    (∃ u w, domOfVf listed h0.vf = some 0 ∧ (domAt listed 0).st ∈ setupStates ∧
      currentList listed 0 9 = some ⟨9, 1, 0x10000, 1, 1, none, []⟩ ∧
      vaFetch listed 0 (0x10000 + 64) (8 * 1) = (u, .ok (List.replicate 8 0)) ∧ vaFetch u 0 0x10000 (16 * 0) = (w, .ok []) ∧
      editAll [] (words8 (List.replicate 8 0) 1) = some [0] ∧ bodyOk w 0 0x20000 1 = true) ∧
    (let s := modDom act 0 (fun x => { x with lists := [⟨9, 1, 0x10000, 1, 1, some 2, []⟩] })
     (domAt s (0 : Fin 16)).lists.any (fun g => g.body == 0x10000 && g.until_.isSome && g.tags.isEmpty) = true) ∧
    (let s := modDom listed 0 (fun x => { x with frames := [(8, .lists)] })
     currentList s 0 8 = none ∧ Safety.ReadsClean s 0 0x10000 (8 * 1) ∧
       (words8 (plain (Safety.rangeBytes s 0 0x10000 (8 * 1))) 1).all entryFine = true ∧ bodyOk s 0 0x20000 1 = true ∧
       (domAt s 0).frames.any (fun e => decide (e.2 = .lists)) = true ∧ Safety.ReadsClean s 0 (0x10000 + 64) (8 * 1) ∧
       Safety.ReadsClean s 0 0x20000 (16 * 0) ∧
       editAll [] (words8 (plain (Safety.rangeBytes s 0 (0x10000 + 64) (8 * 1))) 1) = some [0]) :=
  ⟨⟨_, _, by decide +kernel, by decide +kernel, by decide +kernel, by decide +kernel, fetch_is (by decide +kernel), by decide +kernel,
     by decide +kernel, rfl⟩,
   ⟨_, _, by decide +kernel, by decide +kernel, by decide +kernel, fetch_is (by decide +kernel), fetch_is (by decide +kernel),
     by decide +kernel, by decide +kernel⟩, by decide +kernel, by decide +kernel⟩

/-- A sealed page 1 of zeros, and a root node for its first block. -/
def prefixed (nodes : List PrefixNode) : State :=
  modDom (t1Page 1 ⟨.t1, true, false, 0, 9⟩ (mapped act)) 0 (fun x => { x with nodes := nodes })

def node0 : PrefixNode := ⟨3, blockHash 0 (List.replicate 512 0), none, 0x10000, 0x10000, 1⟩

theorem node0_hash : node0.hash = blockHash 0 (List.replicate 512 0) := by simp only [node0]

theorem prefixed_nodes (l : List PrefixNode) : (domAt (prefixed l) 0).nodes = l := by
  simp only [prefixed, modDom, domAt, setDom]; rw [sparseGet_set_self]; intro h; cases h

theorem findNode_single (s : State) (n : PrefixNode) (b : List Byte) (h1 : (domAt s 0).nodes = [n])
    (h2 : nodeHolds s 0 n b = true) (h3 : n.parent = none) : findNode s 0 none n.hash b = some n := by
  simp [findNode, h1, h2, h3]

theorem wit_PrefixIndexCommands :
    (let s := prefixed []
     domOfVf s h0.vf = some 0 ∧ (domAt s 0).st ∈ setupStates ∧ sealedFault s 0 0x10000 512 = none ∧ sealedFault s 0 0x10000 1 = none) ∧
    (∃ u, vaFetch (prefixed []) 0 0x10000 512 = (u, .ok (List.replicate 512 0)) ∧
      findNode u 0 none (blockHash 0 (List.replicate 512 0)) (List.replicate 512 0) = none ∧
      lowestFree ((domAt u 0).nodes.map PrefixNode.id) 0 262144 ((domAt u 0).nodes.length + 1) 0 = some 0 ∧
      (ensureStruct u 0 .prefixes 1).isSome = true) ∧
    (∃ u, vaFetch (prefixed [node0]) 0 0x10000 512 = (u, .ok (List.replicate 512 0)) ∧
      findNode u 0 none (blockHash 0 (List.replicate 512 0)) (List.replicate 512 0) = some node0) ∧
    (∃ u, lookupGo 0 0x10000 0 0 0 none (prefixed []) = (u, .ok []) ∧ vaFault u 0 none 0x20000 0 = none) ∧
    (∃ u, (1 : BitVec 8).toNat < 2 ∧ vaFetch (prefixed []) 0 0x10000 (4 * 1) = (u, .ok (List.replicate 4 0))) ∧
    (let s := modDom (prefixed []) 0 (fun x => { x with frames := [(8, .prefixes)] })
     Safety.ReadsClean s 0 0x10000 512 ∧ (domAt s 0).nodes = [] ∧ sealedFault s 0 0x10000 512 = none ∧
       (domAt s 0).frames.any (fun e => decide (e.2 = .prefixes)) = true ∧ Safety.ReadsClean s 0 0x10000 (4 * 1)) :=
  ⟨by decide +kernel, ⟨_, fetch_is (by decide +kernel), by decide +kernel, by decide +kernel, by decide +kernel⟩,
   ⟨_, fetch_is (by decide +kernel), by
      rw [vaFetch_clean _ _ _ _ rfl]; rw [← node0_hash]; exact findNode_single (prefixed [node0]) node0 _ (prefixed_nodes _) (by decide +kernel) rfl⟩, ⟨_, rfl, by decide +kernel⟩,
   ⟨_, by decide, fetch_is (by decide +kernel)⟩, by decide +kernel⟩

/-- A queued task without operands. -/
def queued (lc : Bool) (tag : Nat) : Task :=
  { task0 [insn .commit 0 0 0 0] with
    tag := tag, desc := { desc0 with lc := lc }, ops := [], phase := .queued, order := tag, island := none, started := none }

theorem wit_TasksDispatchStartAndEnd :
    (domOfVf act h0.vf = some 0 ∧ (domAt act 0).st = .active ∧ 1 ≤ (256 : BitVec 16).toNat ∧ (256 : BitVec 16).toNat ≤ 256 ∧
      (0x1000 : BitVec 64).toNat % 128 = 0) ∧
    (let s := { act with tasks := [queued false 0] }
     taskOf s (0 : BitVec 16).toNat = some (queued false 0) ∧ startLegal s (queued false 0) [0] = true) ∧
    (let v := task0 [insn .zero 0 0 0 0]
     let s := { running0 {} (insn .zero 0 0 0 0) with tasks := [v, queued true 1] }
     taskAt s (0 : Fin 256) = some v ∧ ∃ t ∈ s.tasks, t.desc.lc = true ∧ t.phase ≠ .running ∧ isReady s t = true ∧
       nextVictim s t = some v ∧ ∃ u ∈ gangOf s v, u.tag = v.tag) ∧
    (let t := { queued false 0 with phase := .killed, drained := false }
     let s := { act with tasks := [t] }
     taskOf s (0 : BitVec 16).toNat = some t ∧ t.phase = .killed ∧ t.drained = false ∧ oldVengs s t = false) ∧
    (let t := { task0 [insn .zero 0 0 0 0] with desc := { desc0 with pinned := true } }
     let s := { act with tasks := [t], islands := [(0, { firstAt := some 0 })], now := 20000 }
     taskOf s (0 : BitVec 16).toNat = some t ∧ t.island = some 0 ∧ (islandAt s 0).firstAt = some 0 ∧ t.desc.pinned = true ∧ t.phase = .running ∧ 0 + 20000 ≤ s.now) := by
  decide +kernel

/-- A vault-engine operation over one beat. -/
def vop0 (op : Nat) (o : VOwner) (done : Bool) : VOp := ⟨op, 0, 0, 0, [(0, 64)], [(64, 64)], o, 0, 0, 0, 0, done, .success, false⟩

theorem wit_VaultEngineOperations :
    (∀ k ∈ (List.range 9), let s := modVault up 0 (fun x => { x with ops := [vop0 1 .host true, vop0 (k + 1) .hub false] })
     firstIdx (fun (o : VOp) => !o.done) (vaultAt s (0 : Fin 256)).ops = some 1 ∧
       (vaultAt s (0 : Fin 256)).ops[1]? = some (vop0 (k + 1) .hub false) ∧ (vaultAt s (0 : Fin 256)).retraining = false ∧
       (vaultAt s (0 : Fin 256)).untrained = false) ∧
    (∀ o ∈ [VOwner.host, .hub, .task 0 0], let s := modVault up 0 (fun x => { x with ops := [vop0 1 o true] })
     (vaultAt s (0 : Fin 256)).ops = [vop0 1 o true] ∧ sparseWf {} s.vaults = true) := by decide +kernel
/-! ### Witnesses: instructions -/

/-- The gate opens. -/
def opens : Gate → Bool
  | .go _ => true
  | .wait _ _ => false
  | .fault _ _ => false

/-- The state behind an open gate. -/
def passed : Gate → State
  | .go s => s
  | .wait s _ => s
  | .fault s _ => s

theorem go_is {g : Gate} (h : opens g = true) : g = .go (passed g) := by
  cases g with
  | go s => rfl
  | wait s why => cases h
  | fault s st => cases h

/-- The value of a read that went right. -/
def got {α : Type} : Except Status α → Option α
  | .ok v => some v
  | .error _ => none

theorem got_ok {α : Type} {e : Except Status α} {v : α} (h : got e = some v) : e = .ok v := by
  cases e with
  | ok w => simp only [got, Option.some.injEq] at h; rw [h]
  | error e => simp [got] at h

theorem ok_is {α : Type} {e : Except Status α} (h : (got e).isSome = true) : e = .ok ((got e).get h) := by
  cases e with
  | ok w => rfl
  | error e => cases h

theorem fetch_scratch {c : Ctx} {a imm n : Nat} {b : List Byte} (s : State) (h : agOperand c a = none)
    (h2 : got (scratchUse c (agAt c a imm) n) = some b) : Safety.Fetches c a imm n s s b := by
  simp [Safety.Fetches, h, got_ok h2]

theorem store_scratch {c : Ctx} {a imm : Nat} {d : List Byte} (s : State) (h : agOperand c a = none)
    (h2 : inScratch c (agAt c a imm) d.length = true) :
    Safety.Stores c a imm d s (modIsland s c.isl (fun x => putScratch x (agAt c a imm).toNat (clean d))) := by
  simp [Safety.Stores, h, h2]

/-- Island 0 stands at a COPY, with a ZERO of the COPY's destination issued before it and waiting. -/
def zeroWaits : State :=
  { mapped act with
    tasks := [task0 [insn .zero 0 3 64 0, insn .copy 0 3 64 0]]
    islands := [(0, { task := some 0, pc := 1, waiting := [⟨0, 0, [], [], none, 0, .overlap⟩], issued := 1 })] }

theorem wit_ScratchpadMovesComplete :
    (∀ w ∈ [insn .copy 0 3 0x8000 0, insn .zero 0 3 0x8000 0], ctxOf (running0 {} w) (0 : Fin 256) = some (ctx0 {} w) ∧
      sparseWf 0 (islandAt (running0 {} w) (0 : Fin 256)).scratch = true ∧
      inScratch (ctx0 {} w) (agAt (ctx0 {} w) w.ag1 w.imm1) w.imm2 = true ∧ inScratch (ctx0 {} w) (agAt (ctx0 {} w) w.ag3 0) w.imm2 = true) ∧
    (insnAt zeroWaits (0 : Fin 256)).any (fun c => !(unblocked zeroWaits c) && decide (c.w.op = .copy)) = true ∧
    (insnAt zeroWaits (0 : Fin 256)).all (fun c => decide (c.w.op ≠ .zero)) = true ∧
    (∃ w, (islandAt zeroWaits (0 : Fin 256)).waiting = [w] ∧ (waiterAt zeroWaits (0 : Fin 256) w).any (fun p =>
      decide (p.2.w.op = .zero) && inScratch p.2 (agAt p.2 p.2.w.ag3 0) p.2.w.imm2) = true) ∧
    sparseWf 0 (islandAt zeroWaits (0 : Fin 256)).scratch = true :=
  ⟨by decide +kernel, by decide +kernel, by decide +kernel, ⟨_, rfl, by decide +kernel⟩, by decide +kernel⟩

/-- Operands 0 and 1 of the task. -/
def o0 : Operand := ⟨0x10000, 256, .fp32, false, 0, false, 0, 1, 0, 0, 0, false⟩
def o1 : Operand := ⟨0x20000, 256, .fp32, false, 0, true, 0, 1, 0, 0, 0, false⟩

theorem wit_LoadAndStoreComplete :
    (let w := insn .load 1 3 256 2
     let s := running0 {} w
     let c := ctx0 {} w
     bit w.flags 4 = false ∧ Fmt.fp32 = o0.fmt ∧ s.latent = [] ∧
       Safety.readsFreely s c.t ((rowAddrs o0 (agAt c c.w.ag1 c.w.imm1) c.w.count).flatMap (fun a =>
         segRanges (segs c o0 a c.w.imm2))) = true ∧
       ∀ k : Nat, k < c.w.count → inScratch c (agAt c c.w.ag3 0 + (k * c.w.imm2 : Nat)) c.w.imm2 = true) ∧
    (let w := insn .store 0 2 256 2
     let s := running0 {} w
     let c := ctx0 {} w
     bit w.flags 4 = false ∧ Fmt.fp32 = o1.fmt ∧
       Safety.writesFreely s c.t ((rowAddrs o1 (agAt c c.w.ag3 0) c.w.count).flatMap (fun a =>
         segRanges (segs c o1 a c.w.imm2))) = true ∧
       ∀ k : Nat, k < c.w.count → inScratch c (agAt c c.w.ag1 c.w.imm1 + (k * c.w.imm2 : Nat)) c.w.imm2 = true) ∧
    (let w := insn .load 1 3 256 2
     let s := running0 {} w
     let c := ctx0 {} w
     ctxOf s (0 : Fin 256) = some c ∧ fmtOf (w.flags % 16) = some .fp32 ∧ moveFormatOk o0 .fp32 (bit w.flags 4) = true ∧
       w.op = .load ∧ bit w.flags 5 = false ∧ agOperand c w.ag1 = some o0 ∧
       s.mig.stagings.all (fun g => !(g.members.contains c.t.tag)) = true ∧
       ∃ u data, readGate s c.t c.isl false true
           ((rowAddrs o0 (agAt c w.ag1 w.imm1) w.count).flatMap (fun a => segRanges (segs c o0 a w.imm2)) ++ []) = .go u ∧
         allOk ((rowAddrs o0 (agAt c w.ag1 w.imm1) w.count).map (fun a => loadRow u c o0 a w.imm2 .fp32 (bit w.flags 4))) = .ok data ∧
         ((List.range data.length).map (fun (k : Nat) =>
           (agAt c w.ag3 0 + (k * (data.headD []).length : Nat), data.getD k []))).all (fun w => inScratch c w.1 w.2.length) = true) ∧
    (let w := insn .store 0 2 256 2
     let s := running0 {} w
     let c := ctx0 {} w
     ctxOf s (0 : Fin 256) = some c ∧ fmtOf (w.flags % 16) = some .fp32 ∧ moveFormatOk o1 .fp32 (bit w.flags 4) = true ∧
       w.op = .store ∧ agOperand c w.ag3 = some o1 ∧ o1.output = true ∧
       ∃ u v data, readGate s c.t c.isl false true [] = .go u ∧
         allOk ((List.range (rowAddrs o1 (agAt c w.ag3 0) w.count).length).map (fun (k : Nat) =>
           storeRow u c o1 ((rowAddrs o1 (agAt c w.ag3 0) w.count).getD k 0) (agAt c w.ag1 w.imm1 + (k * w.imm2 : Nat)) w.imm2 .fp32
             (bit w.flags 4))) = .ok data ∧
         writeGate u c.t ((((List.range data.length).zip data).flatMap (fun p =>
           (segs c o1 ((rowAddrs o1 (agAt c w.ag3 0) w.count).getD p.1 0) p.2.length).map (fun g =>
             (g.2.1, (p.2.drop g.1).take g.2.2)))).map (fun w => (w.1, w.2.length))) = .go v) :=
  ⟨by decide +kernel, by decide +kernel,
   ⟨by decide +kernel, by decide, by decide, rfl, by decide, by decide +kernel, by decide +kernel,
    _, _, go_is (by decide +kernel), ok_is (by decide +kernel), by decide +kernel⟩,
   ⟨by decide +kernel, by decide, by decide, rfl, by decide +kernel, rfl,
    _, _, _, go_is (by decide +kernel), ok_is (by decide +kernel), go_is (by decide +kernel)⟩⟩

theorem wit_StoredBytesAreTheOnlyOnes :
    let s := running0 {} (insn .zero 0 0 0 0)
    let t := task0 [insn .zero 0 0 0 0]
    ∃ p, xlat s t.desc.domain (some t.tag) 0x2FFFF = .ok p ∧ p.tier = .t1 ∧ ([0xAB] : List Byte) ≠ [] ∧
      0x2FFFF % pageSize + ([0xAB] : List Byte).length ≤ pageSize ∧ s.latent = [] ∧ sparseWf 0 s.mem = true :=
  ⟨_, ok_is (by decide +kernel), by decide +kernel, by decide, by decide, rfl, by decide +kernel⟩

/-- A strait from island 0 to island 9 over two links. -/
def strait0 : Strait := ⟨0, 7, 9, 3, [0, 1, 9]⟩

def straited (x : Island) (w : Insn) : State :=
  { running0 x w with conf := { act.conf with straits := [strait0] }, fifos := [(7, [⟨List.replicate 128 0, 0, 2⟩])] }

theorem wit_StraitsCarryBundles :
    (let w := { insn .send 0 0 0 1 with x := 7 }
     let x : Island := { stall := some .sendFull }
     let s := straited x w
     let c := ctx0 x w
     ctxOf s (0 : Fin 256) = some c ∧ c.w.op = .send ∧ c.w.count = 1 ∧ c.x.progress = 0 ∧ straitOf s (0 : Fin 256) c.w.x = some strait0 ∧
       got (scratchUse c (agAt c c.w.ag1 c.w.imm1) 128) = some (List.replicate 128 0) ∧ sendRoom s strait0 = true ∧
       c.x.stall ≠ some .fenced ∧ (islandAt s (0 : Fin 256)).stall = some .sendFull) ∧
    (let w := { insn .recv 0 0 0 1 with x := 7 }
     let s := straited {} w
     let c := ctx0 {} w
     ctxOf s (0 : Fin 256) = some c ∧ c.w.op = .recv ∧ c.w.count = 1 ∧ c.x.progress = 0 ∧
       fifoOf s (0 : Fin 256) c.w.x = [⟨List.replicate 128 0, 0, 2⟩] ∧ inScratch c (agAt c c.w.ag3 0) 128 = true) ∧
    (∀ k ∈ [0, 1], let s := { straited {} (insn .zero 0 0 0 0) with flights := [(7, [⟨strait0, [⟨List.replicate 128 0, 0, k⟩]⟩])] }
     flightsOf s (0 : Fin 256) (7 : Fin 8) = [⟨strait0, [⟨List.replicate 128 0, 0, k⟩]⟩] ∧ (k = 0 → k + 1 < strait0.hops) ∧
       (k = 1 → strait0.hops ≤ k + 1 ∧ strait0 ∈ s.conf.straits ∧ (fifoOf s strait0.dst strait0.rch).length < 16 ∧
         0 = (islandAt s strait0.dst).epoch ∧ sparseWf [] s.fifos = true)) := by decide +kernel

/-- The operand is staged, in a tile with one line left to fill. -/
def staging0 (id : StageId) : Staging := ⟨id, [0], [512, 513], 1, [], []⟩

theorem wit_LagoonStagingCompletes :
    (∀ f ∈ [0, 1], let w := { insn .stage 1 0 256 2 with flags := f }
     let s := running0 {} w
     let c := ctx0 {} w
     ctxOf s (0 : Fin 256) = some c ∧ c.w.op = .stage ∧ agOperand c c.w.ag1 = some o0 ∧ o0.output = false ∧
       (bit c.w.flags 0 = decide (f = 1)) ∧ (∀ g ∈ s.mig.stagings, g.id ≠ stageId c o0) ∧
       (memRec s 0).stageWays * 4 * 2 ^ 20 < stagedBytes s 0 0 + 128 * (stageLines c o0).length ∧
       (∀ ways ∈ [1], let s' := { s with conf := { s.conf with mems := [(0, { stageWays := ways })] } }
         stagedBytes s' 0 0 + 128 * (stageLines c o0).length ≤ (memRec s' 0).stageWays * 4 * 2 ^ 20)) ∧
    (let w := insn .stage 1 0 256 2
     let c := ctx0 {} w
     let s := { running0 {} w with mig := { act.mig with stagings := [staging0 (stageId c o0)] } }
     let g := staging0 (stageId c o0)
     (∃ g ∈ s.mig.stagings, g.id = stageId c o0) ∧ s.mig.stagings[(0 : BitVec 16).toNat]? = some g ∧ g.lines[g.filled]? = some 513 ∧
       pendingIn s g.id.dom (513 * 128, 128) = false ∧ (got (xlat s g.id.dom g.members.head? (513 * 128))).isSome = true) ∧
    hostUp up = true := by decide +kernel
theorem none_of {c : Ctx} {a : Nat} (h : (agOperand c a).isNone = true) : agOperand c a = none := by
  cases h' : agOperand c a with
  | none => rfl
  | some o => simp [h'] at h

/-- Scratchpad reads and writes of this many bytes go through. -/
def scratchOk (c : Ctx) (a imm n : Nat) : Bool := (agOperand c a).isNone && (got (scratchUse c (agAt c a imm) n)).isSome

theorem fetches_ok {c : Ctx} {a imm n : Nat} (s : State) (h : scratchOk c a imm n = true) :
    ∃ b, Safety.Fetches c a imm n s s b := by
  simp only [scratchOk, Bool.and_eq_true] at h
  obtain ⟨v, e⟩ : ∃ v, scratchUse c (agAt c a imm) n = .ok v := ⟨_, ok_is h.2⟩
  refine ⟨v, ?_⟩
  unfold Safety.Fetches
  rw [none_of h.1]
  exact ⟨rfl, e⟩

theorem f32Bytes_length (l : List Val) : (f32Bytes l).length = 4 * l.length := by
  induction l with
  | nil => rfl
  | cons v t ih => simp only [f32Bytes, List.flatMap_cons, List.length_append, List.length_cons] at ih ⊢; rw [ih]; simp [leBytes]; omega

theorem stores_ok {c : Ctx} {a imm n : Nat} {d : List Byte} (s : State) (hd : d.length = n) (h : (agOperand c a).isNone = true)
    (h2 : inScratch c (agAt c a imm) n = true) : ∃ u, Safety.Stores c a imm d s u := by
  subst hd
  exact ⟨_, store_scratch s (none_of h) h2⟩

/-- Operand 0 is the scratchpad's first half, AG 3 its second. -/
def insn2 (op : Op) (count imm2 : Nat) : Insn := ⟨op, 0, 0, 0, 0, 3, 0, imm2, count, 0, 0, 0⟩

theorem wit_VectorInstructionsComplete :
    (∀ op ∈ [Op.vadd, .vmul, .vmax, .vmin, .vfma, .feval], let w := insn2 op 64 0
     let s := running0 {} w
     let c := ctx0 {} w
     ctxOf s (0 : Fin 256) = some c ∧ c.w.op = op ∧ scratchOk c c.w.ag1 c.w.imm1 (4 * c.w.count) = true ∧
       scratchOk c c.w.ag2 0 (4 * c.w.count) = true ∧ scratchOk c c.w.ag3 0 (4 * c.w.count) = true ∧
       inScratch c (agAt c c.w.ag3 0) (4 * c.w.count) = true) ∧
    (∀ op ∈ [Op.rsum, .rsumsq, .rmax], let w := insn2 op 2 8
     let s := running0 {} w
     let c := ctx0 {} w
     ctxOf s (0 : Fin 256) = some c ∧ c.w.op = op ∧ (agOperand c c.w.ag1).isNone = true ∧
       (got (allOk ((List.range c.w.count).map (fun (r : Nat) =>
         scratchUse c (agAt c c.w.ag1 c.w.imm1 + (4 * c.w.imm2 * r : Nat)) (4 * rowLen c))))).isSome = true ∧
       inScratch c (agAt c c.w.ag3 0) (4 * 2) = true) ∧
    (∀ op ∈ [Op.rsum, .rsumsq, .rmax], let w := { insn2 op 2 8 with ag1 := 1 }
     let s := running0 {} w
     let c := ctx0 {} w
     let l := (List.range c.w.count).map (fun (r : Nat) => (agAt c c.w.ag1 c.w.imm1 + (4 * c.w.imm2 * r : Nat), 4 * rowLen c))
     let g := readGate s c.t c.isl false true (l.flatMap (fun p => segRanges (segs c o0 p.1 p.2)))
     ctxOf s (0 : Fin 256) = some c ∧ c.w.op = op ∧ agOperand c c.w.ag1 = some o0 ∧ opens g = true ∧
       (l.map (fun p => operandBytes (passed g) c o0 p.1 p.2)).any anyMark = false ∧
       inScratch c (agAt c c.w.ag3 0) (4 * 2) = true) := by decide +kernel

/-- The reads and the write of the element-wise forms, as the statement names them. -/
theorem wit_VectorInstructionsComplete' (op : Op) (h : op ∈ [Op.vadd, .vmul, .vmax, .vmin, .vfma]) :
    let w := insn2 op 64 0
    let s := running0 {} w
    let c := ctx0 {} w
    (∃ a, Safety.Fetches c c.w.ag1 c.w.imm1 (4 * c.w.count) s s a) ∧ (∃ b, Safety.Fetches c c.w.ag2 0 (4 * c.w.count) s s b) ∧
      (∃ e, Safety.Fetches c c.w.ag3 0 (4 * c.w.count) s s e) ∧
      ∀ l : List Val, l.length = 64 → ∃ u, Safety.Stores c c.w.ag3 0 (f32Bytes l) s u := by
  simp only [List.mem_cons, List.not_mem_nil, or_false] at h
  rcases h with rfl | rfl | rfl | rfl | rfl <;>
    exact ⟨fetches_ok _ (by decide +kernel), fetches_ok _ (by decide +kernel), fetches_ok _ (by decide +kernel),
      fun l hl => stores_ok _ (by rw [f32Bytes_length, hl]) (by decide +kernel) (by decide +kernel)⟩

theorem ok_getD {α : Type} {e : Except Status α} (d : α) (h : (got e).isSome = true) : e = .ok ((got e).getD d) := by
  cases e with
  | ok w => rfl
  | error e => cases h

/-- The scratchpad gives what the statement's simple clauses take, and its rows one by one. -/
theorem pads_ok {c : Ctx} {a imm n : Nat} (h : scratchOk c a imm n = true) : ∃ b, Safety.PadGives c a imm n b := by
  simp only [scratchOk, Bool.and_eq_true] at h
  exact ⟨_, none_of h.1, ok_is h.2⟩

theorem wit_VectorInstructionsOnPads :
    (let c := ctx0 {} (insn2 .vadd 64 0)
     (∃ a, Safety.PadGives c c.w.ag1 c.w.imm1 (4 * c.w.count) a) ∧ (∃ b, Safety.PadGives c c.w.ag2 0 (4 * c.w.count) b) ∧
       (∃ e, Safety.PadGives c c.w.ag3 0 (4 * c.w.count) e) ∧
       ∀ l : List Val, l.length = 64 → Safety.PadTakes c c.w.ag3 0 (f32Bytes l)) ∧
    (let c := ctx0 {} (insn2 .rsum 2 8)
     ∃ rows : Nat → List Byte, ∀ r : Nat, r < c.w.count →
       scratchUse c (agAt c c.w.ag1 c.w.imm1 + (4 * c.w.imm2 * r : Nat)) (4 * rowLen c) = .ok (rows r)) := by
  refine ⟨⟨pads_ok (by decide +kernel), pads_ok (by decide +kernel), pads_ok (by decide +kernel), fun l hl =>
    ⟨none_of (by decide +kernel), ?_⟩⟩, fun r => (got (scratchUse (ctx0 {} (insn2 .rsum 2 8))
      (agAt (ctx0 {} (insn2 .rsum 2 8)) 0 0 + (4 * 8 * r : Nat)) (4 * rowLen (ctx0 {} (insn2 .rsum 2 8))))).getD [], ?_⟩
  · rw [f32Bytes_length, hl]; decide +kernel
  · intro r hr
    have hr : r = 0 ∨ r = 1 := by have : r < 2 := hr; omega
    rcases hr with rfl | rfl <;> exact ok_getD _ (by decide +kernel)

/-- A table set whose slot 0 holds an entry, slots 1 and 3 the powers of two and the reciprocals. -/
def tables0 : TableSet :=
  ⟨0, 0, true, false, [⟨2, 0, 1, 0, 0, 0, 0, 0, 0, 0, 0⟩, ⟨2, 0, 1, 0, 0, 0, 0, 0, 0, 0, 0⟩, ⟨3, 0, 1, 0, 0, 0, 0, 0, 0, 0, 0⟩,
    ⟨4, 0, 1, 0, 0, 0, 0, 0, 0, 0, 0⟩], [0, 0, 0, 0], List.replicate 32 0⟩

def funs0 : FunUnit := { bank0 := some tables0 }

theorem wit_RowFormsAndConversionComplete :
    (∀ op ∈ [Op.vrowmul, .vrowadd], let w := insn2 op 2 8
     let s := running0 {} w
     let c := ctx0 {} w
     ctxOf s (0 : Fin 256) = some c ∧ c.w.op = op ∧ (agOperand c c.w.ag1).isNone = true ∧ (agOperand c c.w.ag2).isNone = true ∧
       (agOperand c c.w.ag3).isNone = true ∧
       (got (allOk ((List.range c.w.count).map (fun (r : Nat) =>
         scratchUse c (agAt c c.w.ag1 c.w.imm1 + (4 * c.w.imm2 * r : Nat)) (4 * rowLen c))))).isSome = true ∧
       (got (scratchUse c (agAt c c.w.ag2 0) (4 * c.w.count))).isSome = true ∧
       (List.range 2).all (fun r => inScratch c (agAt c c.w.ag3 0 + (4 * c.w.imm2 * r : Nat)) (4 * rowLen c)) = true) ∧
    (∀ op ∈ [Op.vrowmul, .vrowadd], let w := { insn2 op 2 8 with ag1 := 1, ag3 := 2 }
     let s := running0 {} w
     let c := ctx0 {} w
     let l := (List.range c.w.count).map (fun (r : Nat) => (agAt c c.w.ag1 c.w.imm1 + (4 * c.w.imm2 * r : Nat), 4 * rowLen c))
     let g := readGate s c.t c.isl false true (l.flatMap (fun p => segRanges (segs c o0 p.1 p.2)))
     ctxOf s (0 : Fin 256) = some c ∧ c.w.op = op ∧ agOperand c c.w.ag1 = some o0 ∧ agOperand c c.w.ag3 = some o1 ∧
       o1.output = true ∧ opens g = true ∧ (l.map (fun p => operandBytes (passed g) c o0 p.1 p.2)).any anyMark = false ∧
       scratchOk c c.w.ag2 0 (4 * c.w.count) = true ∧
       opens (writeGate (passed g) c.t ((List.range 2).flatMap (fun r =>
         (segs c o1 (agAt c c.w.ag3 0 + (4 * c.w.imm2 * r : Nat)) 32).map (fun g => (g.2.1, g.2.2))))) = true) ∧
    (let w := { insn2 .vcvt 8 0 with opa := 2, opc := 0 }
     let s := running0 {} w
     let c := ctx0 {} w
     let sf := (operandOf c c.w.opa).fmt
     let df := (operandOf c c.w.opc).fmt
     ctxOf s (0 : Fin 256) = some c ∧ c.w.op = .vcvt ∧ isNarrow sf = false ∧ isNarrow df = false ∧ sf ≠ .int8 ∧ df ≠ .int8 ∧
       c.w.imm2 = 0 ∧ opens (readGate s c.t c.isl false true []) = true ∧
       scratchOk c c.w.ag1 c.w.imm1 (c.w.count * elemBytes sf) = true ∧ 1 ≤ c.w.count ∧
       inScratch c (agAt c c.w.ag3 0) (4 * c.w.count) = true) ∧
    (let w := insn2 .feval 64 0
     let c := ctx0 { fun_ := funs0 } w
     ctxOf (running0 { fun_ := funs0 } w) (0 : Fin 256) = some c ∧ (tableFn (running0 { fun_ := funs0 } w) c c.w.imm2).isOk = true) := by
  decide +kernel

/-! ### Witnesses: the matrix engine and the lens -/

/-- With no named source the anchors come from the scratchpad. -/
theorem gives_anchorWord {c : Ctx} {t : AccTile} {oa ob : Operand} {b : List Byte} (s : State) (h : bits c.w.flags 2 1 = 1)
    (h2 : agOperand c c.w.ag3 = none) (h3 : got (scratchUse c (agAt c c.w.ag3 c.w.imm2) (2 * t.anchors.length)) = some b) :
    Safety.Gives (withAnchors c t oa ob s) s ((List.range t.anchors.length).map (fun h => signed 16 (leAt b (2 * h) 2))) := by
  intro k
  simp only [withAnchors, h, if_true]
  rw [withBytesAt_of (fetch_scratch s h2 h3)]

/-- The prepass of operands without group heads reads nothing. -/
theorem gives_prepass {c : Ctx} {t : AccTile} {oa ob : Operand} {s u : State} (h : bits c.w.flags 2 1 ≠ 1)
    (ha : headLayout oa = none) (hb : headLayout ob = none) (hg : readGate s c.t c.isl false true [] = .go u) :
    ∃ as, Safety.Gives (withAnchors c t oa ob s) u as ∧ as.length = t.anchors.length := by
  refine ⟨(List.range t.anchors.length).map (fun h =>
    anchorOf u c oa ob (128 * ((originNow c 0 + 128 * h) / 128)) (128 * (originNow c 1 / 128))), ?_, by simp⟩
  intro k
  have e : ∀ l : List Nat, l.flatMap (fun _ => ([] : List Nat)) = [] := fun l => by induction l <;> simp_all
  simp [withAnchors, h, headAddrs, ha, hb, withRead, e, hg]

/-- A record whose anchor is unset adds nothing. -/
theorem gives_unsetRecord {c : Ctx} {a : Int} {t : AccTile} {b : List Byte} (n : Nat) (s : State)
    (h : got (scratchUse c a 64) = some b) (h2 : leAt b 2 1 = b2n t.fp) (h3 : leAt b 5 1 = 1) :
    Safety.Gives (loadRecord c none a t n s) s t := by
  intro k
  simp [loadRecord, withPieces, allOk, got_ok h, orFault, h2, h3, bit]

/-- The instruction with flags and formats of a matrix form: A is operand 2, B operand 3, the result operand 1. -/
def mx (op : Op) (flags ag3 count : Nat) : Insn := ⟨op, flags, 0, 0, 0, ag3, 0, 0, count, 2, 3, 0⟩

/-- An island with one tile. -/
def tiled (t : AccTile) : Island := { tiles := [t], scratch := [(5, 1), (0x41045, 1)] }

/-- A task of one row and `n` columns whose operand 1 is an FP4 output. -/
def o1n : Operand := { o1 with pitch := 128, fmt := .fp4 }
def narrowTask (n : Nat) (w : Insn) : Task := { task0 [w] with ops := [o0, o1n] ++ ops0.drop 2, ext := [1, n, 64, 1] }
def narrowed (n : Nat) (x : Island) (w : Insn) : State := { running0 x w with tasks := [narrowTask n w] }
def ctxN (n : Nat) (x : Island) (w : Insn) : Ctx := ⟨0, narrowTask n w, { x with task := some 0 }, w, [1, n, 64, 1], x.issued⟩

theorem foldl_same {α β : Type} {f : β → α → β} (h : ∀ b a, f b a = b) (l : List α) (b : β) : l.foldl f b = b := by
  induction l with
  | nil => rfl
  | cons a t ih => rw [List.foldl_cons, h, ih]

/-- Columns beyond the operand's drain nothing. -/
theorem gather_none {c : Ctx} {o : Operand} {key : Nat} {l : Layout} {row : Nat → Option Nat} {rows : List (List Val)}
    (h : (extOf c o).2 ≤ originNow c o.cdim) : (gatherGroups c o key l row rows).2 = [] := by
  unfold gatherGroups
  have e : ∀ k, originNow c o.cdim + k ≥ (extOf c o).2 := fun k => by omega
  simp only [e, if_true]
  rw [foldl_same]
  rintro ⟨pk, ws⟩ ⟨r, vs⟩
  dsimp only
  split
  · rfl
  · exact foldl_same (fun ⟨_, _⟩ ⟨_, _⟩ => rfl) _ _

theorem wit_NarrowEpiOnPad :
    let w := { mx .epi 0 3 0 with opc := 1 }
    let c := ctxN 0 (tiled (freshTile 1 false)) w
    ctxOf (narrowed 0 (tiled (freshTile 1 false)) w) (0 : Fin 256) = some c ∧ (activation (narrowed 0 (tiled (freshTile 1 false)) w) c).isOk = true ∧
      layoutOf (operandOf c w.opc).fmt (operandOf c w.opc).mx = some .k4 ∧ agOperand c w.ag3 = none ∧
      ∀ out, inScratch c (agAt c w.ag3 0) ((gatherGroups c (operandOf c w.opc) (16 + w.opc) .k4
        (fun r => some (originNow c (operandOf c w.opc).rdim + r)) out).2.flatMap (fun g => g.2.2)).length = true :=
  ⟨by decide +kernel, by decide +kernel, by decide +kernel, by decide +kernel, fun out => by
    rw [gather_none (by decide +kernel)]; decide +kernel⟩

theorem wit_NarrowEpiInMemory :
    let w := { mx .epi 0 2 0 with opc := 1 }
    let c := ctxN 1 (tiled (freshTile 1 false)) w
    let s := narrowed 1 (tiled (freshTile 1 false)) w
    let out := (List.range 64).map (fun _ => (List.range 64).map (fun _ => vzero))
    ctxOf s (0 : Fin 256) = some c ∧ agOperand c w.ag3 = some o1n ∧ o1n.output = true ∧
      opens (writeGate s c.t ((gatherGroups c o1n ((agOf c w.ag3).operand.getD 0) .k4 (fun r =>
        let row := (rowCol o1n (agAt c w.ag3 0 + (r * o1n.pitch : Nat))).1
        if row < 0 ∨ ((extOf c o1n).1 : Int) ≤ row then none else some row.toNat) out).2.map (fun g =>
          (o1n.base + g.1 * o1n.pitch + g.2.1 * 128, g.2.2.length)))) = true :=
  ⟨by decide +kernel, by decide +kernel, rfl, by decide +kernel⟩

theorem wit_AccumulatorInstructionsComplete :
    (∀ p ∈ [(0, 1, freshTile 1 false), (0, 0, freshTile 1 true), (1, 0, { freshTile 1 false with anchors := [some 3] })],
      let t := p.2.2
      let w := mx .mma (2 + p.1) 3 p.2.1
      let s := running0 (tiled t) w
      let c := ctx0 (tiled t) w
      let t0 := if bit w.flags 0 then freshTile t.shape t.fp else t
      ctxOf s (0 : Fin 256) = some c ∧ c.x.tiles[c.w.x]? = some t ∧ (operandOf c w.opa).fmt ≠ .fp32 ∧ (operandOf c w.opb).fmt ≠ .fp32 ∧
        bit w.flags 3 = false ∧
        (got (operandRows c (operandOf c w.opa) (agAt c w.ag1 w.imm1) (shapeRows t0.shape) (64 * w.count) (c.ext.getD 2 0 - originNow c 2))).isSome = true ∧
        (got (operandRows c (operandOf c w.opb) (agAt c w.ag2 w.imm2) (shapeCols t0.shape) (64 * w.count) (c.ext.getD 2 0 - originNow c 2))).isSome = true ∧
        (t0.fp = true ∨ t0.anchors.all (·.isSome) = true ∨ (bits w.flags 2 1 = 1 ∧ agOperand c w.ag3 = none ∧
          (got (scratchUse c (agAt c w.ag3 w.imm2) (2 * t.anchors.length))).isSome = true))) ∧
    (let w := mx .mma 8 2 1
     let t := freshTile 1 false
     let c := ctx0 (tiled t) w
     let s := running0 (tiled t) w
     let g := readGate s c.t c.isl false true []
     ctxOf s (0 : Fin 256) = some c ∧ c.x.tiles[c.w.x]? = some t ∧ (operandOf c w.opa).fmt ≠ .fp32 ∧ (operandOf c w.opb).fmt ≠ .fp32 ∧
       bit w.flags 3 = true ∧ agOperand c w.ag3 = some o1 ∧ o1.output = true ∧ headLayout (operandOf c w.opa) = none ∧
       headLayout (operandOf c w.opb) = none ∧ bits w.flags 2 1 ≠ 1 ∧ opens g = true ∧
       opens (writeGate (passed g) c.t (segRanges (segs c o1 (agAt c w.ag3 w.imm2) 2))) = true) ∧
    (∀ op ∈ [Op.accclr, .epiraw, .accload], ∀ k ∈ [1, 5], let w := mx op 0 3 0
     let t := freshTile k false
     let c := ctx0 (tiled t) w
     ctxOf (running0 (tiled t) w) (0 : Fin 256) = some c ∧ c.x.tiles[c.w.x]? = some t ∧ agOperand c w.ag1 = none ∧
       agOperand c w.ag3 = none ∧ inScratch c (agAt c w.ag3 0) (2 * (0x1040 + 262144)) = true ∧
       (∀ n ∈ [0, 1], (got (scratchUse c (agAt c w.ag1 w.imm1 + (recordSize false * n : Nat)) 64)).any (fun b =>
         leAt b 2 1 == b2n t.fp && leAt b 5 1 == 1) = true)) ∧
    (let w := mx .accload 0 3 0
     let t := freshTile 1 false
     let x : Island := { tiles := [t], scratch := [(3, 1), (4, 1)] }
     let c := ctx0 x w
     ctxOf (running0 x w) (0 : Fin 256) = some c ∧ t.anchors = [none] ∧ scratchOk c c.w.ag1 c.w.imm1 64 = true ∧
       (got (scratchUse c (agAt c c.w.ag1 c.w.imm1) 64)).any (fun b => leAt b 2 1 == b2n t.fp && leAt b 5 1 == 0 &&
         leAt b 3 1 == 1 && leAt b 4 1 == 1) = true ∧ 1 ≤ min 128 (shapeRows t.shape) ∧ 1 ≤ shapeCols t.shape ∧
       [(agAt c c.w.ag1 c.w.imm1 + (64 : Nat), ceilDiv 1 4), (agAt c c.w.ag1 c.w.imm1 + (0x1040 : Nat), 16)].all (fun p =>
         (got (scratchUse c p.1 p.2)).isSome) = true) ∧
    (let w := mx .epiraw 0 2 0
     let c := ctx0 (tiled (freshTile 1 false)) w
     ctxOf (running0 (tiled (freshTile 1 false)) w) (0 : Fin 256) = some c ∧ agOperand c c.w.ag3 = some o1 ∧ o1.output = true ∧
       opens (writeGate (running0 (tiled (freshTile 1 false)) w) c.t
         (segRanges (segs c o1 (agAt c c.w.ag3 0) (recordSize false)))) = true) ∧
    (∀ f ∈ [0, 1], ∀ a ∈ [2, 3], let w := mx .epi f a 0
     let t := freshTile 1 false
     let c := ctx0 (tiled t) w
     let s := running0 (tiled t) w
     let oc := operandOf c w.opc
     let g := readGate s c.t c.isl false true []
     let row := (List.range 64).flatMap (fun _ => toFmt .fp32 vone vzero)
     ctxOf s (0 : Fin 256) = some c ∧ c.x.tiles[c.w.x]? = some t ∧ (activation s c).isOk = true ∧ bit w.flags 2 = false ∧
       bit w.flags 3 = false ∧ (operandOf c w.opa).scaleKind ≠ 2 ∧ layoutOf oc.fmt oc.mx = none ∧ oc.fmt ≠ .int8 ∧ opens g = true ∧
       (a = 3 → agOperand c w.ag3 = none ∧ inScratch c (agAt c w.ag3 0) (64 * row.length) = true) ∧
       (a = 2 → agOperand c w.ag3 = some o1 ∧ o1.output = true ∧
         opens (writeGate (passed g) c.t ((List.range 64).flatMap (fun r => segRanges (segs c o1 (agAt c w.ag3 0 + (r * o1.pitch : Nat)) row.length)))) = true)) :=
  ⟨by decide +kernel, by decide +kernel, by decide +kernel, by decide +kernel, by decide +kernel, by decide +kernel⟩

/-- The read of a range of operand memory goes through: its gate, and no mark in its bytes. -/
def openRead (c : Ctx) (own : Bool) (r : Nat × Nat) (s : State) : Bool :=
  opens (readGate s c.t c.isl own true [r]) && !(anyMark (taskBytes (passed (readGate s c.t c.isl own true [r])) c r.1 r.2))

/-- The entries of the open walk read clean and give these keys. -/
def openKeys (c : Ctx) (s : State) (ks : List Key) : Bool :=
  let r := (c.x.lens.body + 0x40 + 8 * c.x.lens.first, 8 * c.x.lens.count)
  let d := taskBytes (passed (readGate s c.t c.isl false true [r])) c r.1 r.2
  let es := (List.range c.x.lens.count).map (fun i => leAt (plain d) (8 * i) 8)
  openRead c false r s && !(es.any (fun e => entryBad e || bits e 23 16 != c.x.lens.gen % 256)) && decide (es.flatMap entryKeys = ks)

/-- The tokens of these keys read clean. -/
def openTokens (c : Ctx) (val : Bool) (ks : List Key) (s : State) : Bool :=
  let rs := ks.map (tokenRange c.x.lens.lcb val)
  let u := passed (readGate s c.t c.isl false true rs)
  opens (readGate s c.t c.isl false true rs) && !((rs.map (fun r => taskBytes u c r.1 r.2)).any anyMark)

theorem gives_keys {c : Ctx} {s : State} {ks : List Key} (h : openKeys c s ks = true) : ∃ u, Safety.Gives (withKeys c s) u ks := by
  simp only [openKeys, openRead, Bool.and_eq_true, decide_eq_true_eq, Bool.not_eq_true'] at h
  obtain ⟨⟨⟨h1, h2⟩, h3⟩, h4⟩ := h
  obtain ⟨u, hu⟩ : ∃ u, readGate s c.t c.isl false true [(c.x.lens.body + 0x40 + 8 * c.x.lens.first, 8 * c.x.lens.count)] = .go u :=
    ⟨_, go_is h1⟩
  simp only [hu, passed] at h2 h3 h4
  refine ⟨u, fun k => ?_⟩
  simp only [withKeys, withRead, hu]
  rw [h2, h3]
  simp only [Bool.false_eq_true, if_false]
  rw [h4]

theorem gives_tokens {c : Ctx} {s : State} {ks : List Key} {val : Bool} (h : openTokens c val ks s = true) :
    ∃ u vs, Safety.Gives (withTokens c val ks s) u vs := by
  simp only [openTokens, Bool.and_eq_true, Bool.not_eq_true'] at h
  obtain ⟨u, hu⟩ : ∃ u, readGate s c.t c.isl false true (ks.map (tokenRange c.x.lens.lcb val)) = .go u := ⟨_, go_is h.1⟩
  have h2 := h.2
  simp only [hu, passed] at h2
  refine ⟨u, ((ks.map (tokenRange c.x.lens.lcb val)).map (fun r => taskBytes u c r.1 r.2)).map (fun d =>
    (List.range 128).map (elemAt ((kvFmt (c.x.lens.lcb.kv % 16)).getD .bf16) (plain d))), fun k => ?_⟩
  simp only [withTokens, withRead, hu]
  rw [h2]
  simp only [Bool.false_eq_true, if_false]

theorem gives_scores {c : Ctx} {s : State} {ks : List Key} (round : Bool) (h : openTokens c false ks s = true)
    (h2 : (got (lensRows c c.x.lens.lcb.qOff ((kvFmt c.x.lens.lcb.qFormat).getD .bf16))).isSome = true) :
    ∃ u us, Safety.Gives (withScores c round ks s) u us := by
  obtain ⟨u, vs, hv⟩ := gives_tokens h
  obtain ⟨qs, hq⟩ : ∃ qs, lensRows c c.x.lens.lcb.qOff ((kvFmt c.x.lens.lcb.qFormat).getD .bf16) = .ok qs := ⟨_, ok_is h2⟩
  refine ⟨u, qs.map (fun q => vs.map (fun key =>
    let u := scoreOf c.x.lens.lcb q key
    if round then spillRound c.x.lens.spillFp u else u)), fun k => ?_⟩
  simp only [withScores]
  rw [hv, hq]
  rfl

theorem gives_linear {c : Ctx} {own : Bool} {o : Operand} {off n : Nat} {s : State}
    (h : openRead c own (linearRange c o off n) s = true) : ∃ u, Safety.Gives (withLinear c own o off n s) u
      (slice (plain (taskBytes u c (linearRange c o off n).1 (linearRange c o off n).2)) 0 n) := by
  simp only [openRead, Bool.and_eq_true, Bool.not_eq_true'] at h
  obtain ⟨u, hu⟩ : ∃ u, readGate s c.t c.isl own true [linearRange c o off n] = .go u := ⟨_, go_is h.1⟩
  have h2 := h.2
  simp only [hu, passed] at h2
  refine ⟨u, fun k => ?_⟩
  simp only [withLinear, withRead, hu]
  rw [h2]
  simp only [Bool.false_eq_true, if_false]

theorem gives_spill {c : Ctx} {own : Bool} {b0 nb : Nat} {s : State}
    (h : openRead c own (linearRange c (operandOf c c.x.lens.opa) (b0 * 131072 * spillBytes c.x.lens.spillFp)
      (nb * 131072 * spillBytes c.x.lens.spillFp)) s = true) : ∃ u us, Safety.Gives (withSpill c own b0 nb s) u us := by
  obtain ⟨u, hv⟩ := gives_linear h
  refine ⟨u, ?_⟩
  refine ⟨?_, fun k => ?_⟩
  rotate_left
  · simp only [withSpill]
    rw [hv]

/-- A published list without entries, its header of zeros at 0x10000, and a record byte there for a walk of one row. -/
def withList (s : State) : State :=
  modDom { s with mem := [(9 * 65536 + 0x1A, 1), (9 * 65536 + 0x40, 1), (9 * 65536 + 0x43, 1)] } 0 (fun x =>
    { x with lists := [⟨0, 0, 0x10000, 0, 0, none, []⟩] })

/-- The control block of a walk of one row in BF16, in this mode. -/
def lcb0 (mode : Nat) : Lcb := { mode := mode, kv := 1, qFormat := 1, rows := 1 }

/-- A lens on the list, over this many entries. -/
def lens0 (ph : LensPhase) (mode n : Nat) (st : Bool) : Lens :=
  { phase := ph, lcb := lcb0 mode, body := 0x10000, count := n, asStream := st, spillFp := bit mode 4, stats := List.replicate 256 {} }

def lensed (ph : LensPhase) (mode n : Nat) (st : Bool) : Island :=
  { lens := lens0 ph mode n st, fun_ := funs0, tiles := [freshTile 5 st] }

/-- An LOPEN's control block in the scratchpad. -/
def opening (mode : Nat) : Island :=
  { scratch := (if mode = 0 then [] else [(0xC, BitVec.ofNat 8 mode)]) ++ [(0xD, 1), (0xE, 1), (0x2C, 1)] }

theorem wit_LensOnTheStateAlone :
    (let w := { insn .lopen 0 0 0 0 with opb := 2 }
     let s := withList (running0 (opening 0) w)
     let c := ctx0 (opening 0) w
     ctxOf s (0 : Fin 256) = some c ∧ scratchOk c c.w.ag1 c.w.imm1 64 = true ∧ s.latent = [] ∧
       Safety.readsFreely s c.t [(0x10000, 64)] = true ∧ anyMark (taskBytes s c 0x10000 64) = false ∧
       lcbStatsIn (lcb0 0) = false ∧ lcbBackward (lcb0 0) = false) ∧
    (∀ p ∈ [(Op.lscore, LensPhase.opened, 8, 0), (.lscore, .opened, 8, 1), (.lscore, .opened, 0, 0), (.lpv, .scored, 8, 0), (.lpv, .scored, 8, 1)],
     let w := insn p.1 0 0 0 0
     let x := lensed p.2.1 p.2.2.1 p.2.2.2 false
     let s := withList (running0 x w)
     let c := ctx0 x w
     let ks := (Safety.walkWords s c 0 p.2.2.2).flatMap entryKeys
     ctxOf s (0 : Fin 256) = some c ∧ (got (softTables s c)).isSome = true ∧ s.latent = [] ∧ Safety.WalkReads s c 0 p.2.2.2 ∧
       ks.length = p.2.2.2 ∧ (got (lensRows c 0 .bf16)).isSome = true ∧ Safety.TokensRead s c false ks ∧ Safety.TokensRead s c true ks ∧
       (lcbRecompute (lcb0 p.2.2.1) = decide (p.2.2.1 = 8)) ∧ (spillBlocks (lens0 .opened 0 0 false).spillFp ([] : List (List Val)) 0) = [] ∧
       Safety.writesFreely s c.t [] = true) ∧
    (∀ n ∈ [0, 1], let w := insn .lback 0 3 0 0
     let x := lensed .back 4 n false
     let s := withList (running0 x w)
     let c := ctx0 x w
     let ks := (Safety.walkWords s c 0 n).flatMap entryKeys
     ctxOf s (0 : Fin 256) = some c ∧ (got (softTables s c)).isSome = true ∧ s.latent = [] ∧
       entriesFor 512 (Safety.walkWords s c 0 n) = n ∧ Safety.WalkReads s c 0 n ∧ (ks = [] ↔ n = 0) ∧ c.x.lens.opa = 0 ∧
       Safety.TokensRead s c true ks ∧ Safety.TokensRead s c false ks ∧ (got (lensRows c 0 .bf16)).isSome = true ∧
       (got (scratchF32 c 0 1)).isSome = true ∧ agOperand c c.w.ag3 = none ∧
       [(0, 262144), (0x40000, 262144), (0x80000, 32)].all (fun (b : Nat × Nat) => inScratch c (agAt c c.w.ag3 0 + (b.1 : Nat)) b.2) = true) :=
  ⟨by decide +kernel, by decide +kernel, by decide +kernel⟩

/-- The next block of a backward walk, where its entries read clean. -/
theorem gives_block {c : Ctx} {s : State} (n : Nat)
    (hn : entriesFor (512 - c.x.lens.rest.length) (Safety.walkWords s c c.x.lens.next (c.x.lens.count - c.x.lens.next)) = n)
    (h : opens (readGate s c.t c.isl false true [(c.x.lens.body + 0x40 + 8 * (c.x.lens.first + c.x.lens.next), 8 * n)]) = true)
    (h2 : anyMark (taskBytes (passed (readGate s c.t c.isl false true
      [(c.x.lens.body + 0x40 + 8 * (c.x.lens.first + c.x.lens.next), 8 * n)])) c
        (c.x.lens.body + 0x40 + 8 * (c.x.lens.first + c.x.lens.next)) (8 * n)) = false)
    (h3 : (Safety.walkWords (passed (readGate s c.t c.isl false true
      [(c.x.lens.body + 0x40 + 8 * (c.x.lens.first + c.x.lens.next), 8 * n)])) c c.x.lens.next n).any
        (fun e => entryBad e || bits e 23 16 != c.x.lens.gen % 256) = false) :
    ∃ u ks q', ∀ next, withBlock c s next = next u ks q' := by
  subst hn
  refine ⟨passed (readGate s c.t c.isl false true [(c.x.lens.body + 0x40 + 8 * (c.x.lens.first + c.x.lens.next), 8 *
    entriesFor (512 - c.x.lens.rest.length) (Safety.walkWords s c c.x.lens.next (c.x.lens.count - c.x.lens.next)))]), ?_⟩
  refine ⟨?_, ?_, fun k => ?_⟩
  rotate_left 2
  · unfold withBlock withRead
    dsimp only [Safety.walkWords] at *
    rw [go_is h]
    dsimp only
    rw [h2, h3]
    rfl

theorem wit_LensBlock (n : Nat) (hn : n ∈ [0, 1]) :
    let w := insn .lback 0 2 0 0
    let x := lensed .back 4 n false
    ∃ u ks q', ∀ next, withBlock (ctx0 x w) (withList (running0 x w)) next = next u ks q' := by
  simp only [List.mem_cons, List.not_mem_nil, or_false] at hn
  rcases hn with rfl | rfl
  · exact gives_block 0 (by decide +kernel) (by decide +kernel) (by decide +kernel) (by decide +kernel)
  · exact gives_block 1 (by decide +kernel) (by decide +kernel) (by decide +kernel) (by decide +kernel)

theorem wit_LensInstructionsComplete :
    (∀ mode ∈ [0, 18, 20], let w := { insn .lopen 0 0 0 0 with opb := 2 }
     let s := withList (running0 (opening mode) w)
     let c := ctx0 (opening mode) w
     let r := linearRange c (operandOf c c.w.opb) 0 statsSize
     ctxOf s (0 : Fin 256) = some c ∧ c.x.lens.phase = .closed ∧ (got (scratchUse c (agAt c c.w.ag1 c.w.imm1) 64)).any (fun b =>
       decide (readLcb b c.w.opa = some (lcb0 mode))) = true ∧ resolveList s c.t 0 = some ⟨0, 0, 0x10000, 0, 0, none, []⟩ ∧
       openRead c false (0x10000, 64) s = true ∧
       leAt (plain (taskBytes (passed (readGate s c.t c.isl false true [(0x10000, 64)])) c 0x10000 64)) 0 8 = 0 ∧
       (mode ≠ 0 → openRead c false r (passed (readGate s c.t c.isl false true [(0x10000, 64)])) = true ∧
         statsKey (slice (plain (taskBytes s c r.1 r.2)) 0 statsSize) = (0, 0, 0, b2n (!(lcbSpillFp (lcb0 mode))), 1))) ∧
    (∀ mode ∈ [0, 8], let w := insn .lscore 0 0 0 0
     let s := withList (running0 (lensed .opened mode 0 false) w)
     let c := ctx0 (lensed .opened mode 0 false) w
     ctxOf s (0 : Fin 256) = some c ∧ (got (softTables s c)).isSome = true ∧ openKeys c s [] = true ∧
       openTokens c false [] (passed (readGate s c.t c.isl false true [(0x10040, 0)])) = true ∧
       (got (lensRows c 0 .bf16)).isSome = true ∧ opens (writeGate s c.t []) = true) ∧
    (∀ p ∈ [(LensPhase.scored, 0, false), (.scored, 8, false), (.opened, 1, false), (.opened, 1, true)],
     let w := insn .lpv 0 0 0 0
     let x := lensed p.1 p.2.1 0 p.2.2
     let s := withList (running0 x w)
     let c := ctx0 x w
     ctxOf s (0 : Fin 256) = some c ∧ c.x.tiles[c.w.x]? = some (freshTile 5 p.2.2) ∧ (got (softTables s c)).isSome = true ∧
       openKeys c s [] = true ∧ openTokens c false [] s = true ∧ openTokens c true [] s = true ∧ (got (lensRows c 0 .bf16)).isSome = true ∧
       (p.2.1 = 0 → openRead c true (linearRange c (operandOf c 0) 0 0) s = true)) ∧
    (∀ ph ∈ [LensPhase.scored, .done], let w := insn .lstats 0 3 0 0
     let c := ctx0 (lensed ph 0 0 false) w
     ctxOf (running0 (lensed ph 0 0 false) w) (0 : Fin 256) = some c ∧ agOperand c c.w.ag3 = none ∧ inScratch c (agAt c c.w.ag3 0) statsSize = true) ∧
    (let w := { insn .lstats 0 3 0 1 with flags := 1 }
     let c := ctx0 {} w
     ctxOf (running0 {} w) (0 : Fin 256) = some c ∧ scratchOk c c.w.ag1 c.w.imm1 (c.w.count * statsSize) = true ∧
       (got (scratchUse c (agAt c c.w.ag1 c.w.imm1) (c.w.count * statsSize))).any (fun b => !(streamRecord (slice b 0 statsSize))) = true ∧
       agOperand c c.w.ag3 = none ∧ inScratch c (agAt c c.w.ag3 0) statsSize = true) ∧
    (∀ n ∈ [0, 1], let w := insn .lback 0 2 0 0
     let s := withList (running0 (lensed .back 4 n false) w)
     let c := ctx0 (lensed .back 4 n false) w
     let ks : List Key := if n = 1 then [(1, 0)] else []
     ctxOf s (0 : Fin 256) = some c ∧ (got (softTables s c)).isSome = true ∧ openKeys c s ks = true ∧ openTokens c true ks s = true ∧
       openTokens c false ks s = true ∧ (got (lensRows c 0 .bf16)).isSome = true ∧ (got (scratchF32 c 0 1)).isSome = true ∧
       agOperand c c.w.ag3 = some o1 ∧ o1.output = true ∧ opens (writeGate s c.t ([(0, 262144), (0x40000, 262144), (0x80000, 32)].flatMap (fun b =>
         segRanges (segs c o1 (agAt c c.w.ag3 0 + (b.1 : Nat)) b.2)))) = true) :=
  ⟨by decide +kernel, by decide +kernel, by decide +kernel, by decide +kernel, by decide +kernel, by decide +kernel⟩

/-- A task with one instruction and another descriptor. -/
def withDesc (d : Desc) (x : Island) (w : Insn) : State := { running0 x w with tasks := [{ task0 [w] with desc := d }] }
def ctxD (d : Desc) (x : Island) (w : Insn) : Ctx := ⟨0, { task0 [w] with desc := d }, { x with task := some 0 }, w, [16, 64, 64, 1], x.issued⟩

theorem wit_SemaphoresAndBarriers :
    (∀ n ∈ [0, 1], let w := { insn .wait 0 0 n 0 with imm1 := 15 }
     let s := running0 {} w
     ctxOf s (0 : Fin 256) = some (ctx0 {} w) ∧ semInRange s 0 15 = true ∧ semAt s 15 = 0 ∧ (n = 0 ∨ 0 < n)) ∧
    (let w := { insn .signal 0 0 7 0 with x := 1 }
     let s := running0 {} w
     ctxOf s (0 : Fin 256) = some (ctx0 {} w) ∧ w.x < desc0.gangSemCount ∧ sendsLanded s (0 : Fin 256) = true ∧
       issuedBefore s (0 : Fin 256) (ctx0 {} w).id = true ∧ sparseWf 0 s.sems = true) ∧
    (let w := { insn .signal 0 0 7 0 with x := 1 }
     let s := { straited {} w with flights := [(7, [⟨strait0, [⟨List.replicate 128 0, 0, 0⟩]⟩])] }
     ctxOf s (0 : Fin 256) = some (ctx0 {} w) ∧ w.x < desc0.gangSemCount ∧ sendsLanded s (0 : Fin 256) = false) ∧
    (let w := { insn .signal 0 0 7 0 with x := 1 }
     let x : Island := { pc := 1, waiting := [⟨0, 0, [], [], none, 0, .overlap⟩], issued := 1 }
     let l := [insn .store 0 2 256 2, w]
     let s := { running0 x w with tasks := [task0 l] }
     (ctxOf s (0 : Fin 256)).any (fun c => decide (c.w = w)) = true ∧ issuedBefore s (0 : Fin 256) 1 = false) ∧
    (∀ z ∈ [1, 2], let d := { desc0 with gangSize := z }
     let w := insn .arrive 0 0 0 0
     let s := withDesc d {} w
     let c := ctxD d {} w
     ctxOf s (0 : Fin 256) = some c ∧ c.t.desc.gangBarrier = some 1 ∧ c.x.arrivedAt = none ∧ sendsLanded s (0 : Fin 256) = true ∧
       issuedBefore s (0 : Fin 256) c.id = true ∧
       sparseWf {} s.bars = true ∧ (barAt s 1).phase < 128 ∧ (if z = 1 then z ≤ (barAt s 1).arrived + 1 else (barAt s 1).arrived + 1 < z)) ∧
    (let w := insn .fence 0 0 0 0
     ctxOf (running0 {} w) (0 : Fin 256) = some (ctx0 {} w) ∧ quiet (running0 {} w) (ctx0 {} w) = true) := by decide +kernel

/-- A COPY record in the scratchpad. -/
def vengRec : Island := { scratch := [(0, 1), (4, 64), (10, 1), (0x12, 2)] }

/-- A CONV geometry of one channel and one tap. -/
def geomRec : Island :=
  { scratch := [4, 6, 8, 0xA, 0xC, 0xD, 0xE, 0x10, 0x11, 0x12, 0x14, 0x15, 0x16].map (fun a => (a, 1)) }

/-- A module 30 µs after reset. -/
def later (s : State) : State := { s with now := 30000 }

theorem wit_ProgramsOnTheStateAlone :
    (∀ g ∈ [0, 1], let d := { desc0 with g := g }
     let w := insn .gbegin 0 0 0 0
     let s := withDesc d {} w
     let c := ctxD d {} w
     let o := operandOf c c.w.opa
     ctxOf s (0 : Fin 256) = some c ∧ s.latent = [] ∧ Safety.readsFreely s c.t [(o.base, 16 * g)] = true ∧
       anyMark (taskBytes s c o.base (16 * g)) = false) ∧
    (∀ p ∈ [true, false], let d := { desc0 with pinned := p }
     let w := insn .commit 0 0 0 0
     let x : Island := { firstAt := some 0 }
     ctxOf (later (withDesc d x w)) (0 : Fin 256) = some (ctxD d x w) ∧ pinnedLate (later (withDesc d x w)) (ctxD d x w) = p ∧
       (ctxD d x w).x.waiting = []) ∧
    (let w := insn .commit 0 0 0 0
     let s := { straited {} w with flights := [(7, [⟨strait0, [⟨List.replicate 128 0, 0, 0⟩]⟩])] }
     ctxOf s (0 : Fin 256) = some (ctx0 {} w) ∧ pinnedLate s (ctx0 {} w) = false ∧ quiet s (ctx0 {} w) = false) ∧
    (let w := insn .veng 0 3 0 0
     let s := running0 vengRec w
     let c := ctx0 vengRec w
     let r : VRec := ⟨1, 0, 0, 64, 0x10000, 0x20000, 0⟩
     ctxOf s (0 : Fin 256) = some c ∧ s.latent = [] ∧ r.resv = 0 ∧ auxBad r.op r.aux = false ∧
       Safety.readsFreely s c.t [(r.src, vSrcLen r)] = true ∧ Safety.writesFreely s c.t [(r.dst, vDstLen r [])] = true ∧
       opens (gatherGate s c 0 r) = true) ∧
    (let w := { insn .load 4 3 2 1 with flags := 33 }
     let s := running0 geomRec w
     let c := ctx0 geomRec w
     let o : Operand := ⟨0x10000, 128, .bf16, false, 0, false, 0, 2, 0, 0, 0, false⟩
     ctxOf s (0 : Fin 256) = some c ∧ s.latent = [] ∧ c.w.imm2 % elemBytes .bf16 = 0 ∧ s.mig.stagings = [] ∧
       (got (scratchUse c (agAt c c.w.ag2 0) 64)).any (fun b => (readGeom b 2).any (fun g =>
         Safety.readsFreely s c.t (tapReads c g o .bf16) &&
         (got (tapRows s c g o .bf16)).any (fun rows => decide (rows.map (·.length) = [2])))) = true) := by
  decide +kernel

theorem wit_ProgramsEndByCommit :
    (∀ g ∈ [0, 1], let d := { desc0 with g := g }
     let w := insn .gbegin 0 0 0 0
     let s := withDesc d {} w
     let c := ctxD d {} w
     let r := ((operandOf c c.w.opa).base, 16 * g)
     ctxOf s (0 : Fin 256) = some c ∧ openRead c false r s = true ∧
       recordOk c.t 0 ⟨leAt (plain (taskBytes s c r.1 16)) 0 4, leAt (plain (taskBytes s c r.1 16)) 4 4,
         leAt (plain (taskBytes s c r.1 16)) 8 4, leAt (plain (taskBytes s c r.1 16)) 12 4⟩ = true) ∧
    (∀ g ∈ [none, some (GroupRun.mk 0 [⟨1, 1, 1, 1⟩, ⟨1, 1, 1, 1⟩] 0)], let w := insn .gend 0 0 0 0
     let x : Island := { group := g }
     ∃ c, ctxOf (running0 x w) (0 : Fin 256) = some c ∧ c.w.op = .gend ∧ c.x.group = g ∧
       (g.isSome = true → recordOk c.t 1 ⟨1, 1, 1, 1⟩ = true)) ∧
    (let w := insn .commit 0 0 0 0
     ctxOf (running0 {} w) (0 : Fin 256) = some (ctx0 {} w) ∧ quiet (running0 {} w) (ctx0 {} w) = true) ∧
    (let w := insn .veng 0 3 0 0
     let s := running0 vengRec w
     let c := ctx0 vengRec w
     let r : VRec := ⟨1, 0, 0, 64, 0x10000, 0x20000, 0⟩
     ctxOf s (0 : Fin 256) = some c ∧ scratchOk c c.w.ag1 c.w.imm1 32 = true ∧
       (got (scratchUse c (agAt c c.w.ag1 c.w.imm1) 32)).any (fun b => decide (readVRec b = r)) = true ∧ packOk r.op r.flags = true ∧
       agOperand c c.w.ag3 = none ∧ inScratch c (agAt c c.w.ag3 0) 4 = true ∧
       (got (xlat s 0 (some 0) r.dst)).any (fun p => decide (p.tier = .t1 ∧ p.addr / 2 ^ 30 = 0)) = true ∧
       (got (vaultRuns s c 0 r.src (vSrcLen r))).isSome = true ∧ (got (vaultRuns s c 0 r.dst (vDstLen r []))).isSome = true ∧
       opens (readGate s c.t c.isl false false [(r.src, vSrcLen r)]) = true ∧
       opens (writeGate (passed (readGate s c.t c.isl false false [(r.src, vSrcLen r)])) c.t [(r.dst, vDstLen r [])]) = true) ∧
    (let w := { insn .load 4 3 2 1 with flags := 33 }
     let s := running0 geomRec w
     let c := ctx0 geomRec w
     let o : Operand := ⟨0x10000, 128, .bf16, false, 0, false, 0, 2, 0, 0, 0, false⟩
     ctxOf s (0 : Fin 256) = some c ∧ bit c.w.flags 5 = true ∧ agOperand c c.w.ag1 = some o ∧ fmtOf (c.w.flags % 16) = some .bf16 ∧
       isNarrow o.fmt = false ∧ scratchOk c c.w.ag2 0 64 = true ∧
       (got (scratchUse c (agAt c c.w.ag2 0) 64)).any (fun b => (readGeom b 2).any (fun g =>
         let rg := readGate s c.t c.isl false true (tapReads c g o .bf16)
         decide (g.mode = 0) && opens rg && (got (tapRows (passed rg) c g o .bf16)).any (fun rows => decide (rows.map (·.length) = [2])))) = true ∧
       inScratch c (agAt c c.w.ag3 0) 2 = true ∧ s.mig.stagings = []) ∧
    (let w := insn .zero 0 0 0 0
     ∃ t, taskAt (running0 { pc := 1 } w) (0 : Fin 256) = some t ∧ t.prog.insns.length ≤ (islandAt (running0 { pc := 1 } w) (0 : Fin 256)).pc) :=
  ⟨by decide +kernel, fun g hg => by
      simp only [List.mem_cons, List.not_mem_nil, or_false] at hg
      rcases hg with rfl | rfl <;> exact ⟨_, rfl, by decide +kernel, by decide +kernel, by decide +kernel⟩,
   by decide +kernel, by decide +kernel, by decide +kernel, ⟨_, rfl, by decide +kernel⟩⟩

/-! ### Witnesses: the codec -/

/-- An AV1 picture of 128 × 128. -/
def cfg0 : EncCfg := { level := 41, width := 128, height := 128, ringSize := 0x10000, pool := 2, shortMax := 1 }
def req0 : CodReq := ⟨⟨0, 0, 7⟩, 0, false, 128, 0x10000, 0x20000, 0, 0, none, 0, some 3, 1, 0x10000, 64⟩
def run0 (n : Nat) : FrameRun := { req := req0, key := true, fallback := false, store := none, refs := [], roiSkip := false, hintSkip := false, unit := n, head := [] }

/-- Encode channel 0 and decode channel 32 of domain 0, with slots on pipeline 0 and the pages of the small tasks. -/
def coded (c : CodChan) : State :=
  { mapped act with
    conf := { act.conf with video := { enc := [(0, [4])], dec := [(0, [4])] } }
    codec := { chans := [(0, c), (32, c)] } }

def chan0 : CodChan := { st := .open_, cfg := cfg0, slots := 1, bufs := [{ mark := 1, frame := 3 }, {}] }

/-- The block of an ENC_OPEN at 0x10000. -/
def encBlock (s : State) : State :=
  { s with mem := [(2, 41), (4, 128), (6, 128), (8, 1), (0xA, 1), (0xD, 32), (0x11, 32), (0x15, 32), (0x1A, 1), (0x1B, 2), (0x22, 3),
      (0x32, 1)].map (fun e => (9 * 65536 + e.1, e.2)) }

/-- Pages 3 to 6 are mapped for the pool of reference buffers. -/
def pooled (s : State) : State := (List.range 4).foldl (fun s k => t1Page (3 + k) ⟨.t1, false, false, 0, 20 + k⟩ s) s

/-- The block that the small state holds. -/
def cfgRead (s : State) : Option EncCfg := readEncCfg s.conf.video 0 (plain (Safety.rangeBytes s 0 0x10000 64))

theorem encOpenFault_none {s : State} {d : Nat} {c : EncCfg}
    (h : Config.levelAdmits c.hevc [c.level, c.tier, c.width, c.height, c.fpsNum, c.fpsDen, c.bitrate, c.buffer] = true)
    (h2 : (decide ((if c.premium then 61 else 51) < c.level) || !(feasible c (gangWidth s.conf.video d c)) || (slotPlace s d c).isNone ||
      !(poolOk s d c)) = false) : encOpenFault s d c = none := by
  simp only [Bool.or_eq_false_iff] at h2
  obtain ⟨⟨⟨a, b⟩, e⟩, f⟩ := h2
  unfold encOpenFault
  dsimp only
  rw [h, a, b, e, f]
  rfl

theorem encOpenFault_level {s : State} {d : Nat} {c : EncCfg} (h : (if c.premium then 61 else 51) < c.level) :
    encOpenFault s d c = some .levelExceeded := by
  unfold encOpenFault
  simp [h]

theorem wit_EncOpenOnTheStateAlone :
    (let s := encBlock (pooled (coded {}))
     Safety.ReadsClean s 0 0x10000 64 ∧ chanFor s 0xFF 0 32 = some 0 ∧ ∃ g p n, cfgRead s = some g ∧ slotPlace s 0 g = some (p, n) ∧
       (Config.levelAdmits g.hevc [g.level, g.tier, g.width, g.height, g.fpsNum, g.fpsDen, g.bitrate, g.buffer] = true →
         encOpenFault s 0 g = none)) ∧
    (let s := { encBlock (coded {}) with mem := sparseSet 0 (encBlock (coded {})).mem (9 * 65536 + 2) 62 }
     Safety.ReadsClean s 0 0x10000 64 ∧ ∃ g, cfgRead s = some g ∧ encOpenFault s 0 g = some .levelExceeded) :=
  ⟨⟨by decide +kernel, by decide +kernel, (cfgRead (encBlock (pooled (coded {})))).get (by decide +kernel), 0, 1,
      by decide +kernel, by decide +kernel, fun h => encOpenFault_none h (by decide +kernel)⟩,
   by decide +kernel, (cfgRead { encBlock (coded {}) with mem := sparseSet 0 (encBlock (coded {})).mem (9 * 65536 + 2) 62 }).get
      (by decide +kernel), by decide +kernel, encOpenFault_level (by decide +kernel)⟩

theorem wit_ChannelsOpenMarkAndClose :
    (let s := encBlock (coded {})
     let r := vaFetch s 0 0x10000 64
     domOfVf s h0.vf = some 0 ∧ (domAt s 0).st = .active ∧ 0x10000 % 64 = 0 ∧
       (got r.2).any (fun b => (readEncCfg r.1.conf.video 0 b).any (fun g => (slotPlace r.1 0 g).isSome)) = true ∧
       chanFor r.1 0xFF 0 32 = some 0 ∧ chanFor r.1 5 0 32 = some 5) ∧
    (let s := coded {}
     slotsFor 128 128 1 1 ≤ 4 ∧ chanFor s 0xFF 32 16 = some 32 ∧ pipeFor s 0 (slotsFor 128 128 1 1) false = some 0) ∧
    (∀ f ∈ [none, some (run0 0)], let s := coded { chan0 with frame := f }
     (domAt s 0).st ∈ chanStates ∧ chanOpen s 0 0 true = true ∧ (codAt s 0).frame = f ∧
       firstIdx (fun (b : RefBuf) => b.mark != 0 && b.frame == 3) (codAt s 0).bufs = some 0 ∧
       firstIdx (fun (b : RefBuf) => b.mark != 0 && b.frame == 4) (codAt s 0).bufs = none ∧
       heldBufs (codAt s 0).bufs ≤ refLimit (codAt s 0).cfg ∧ sparseWf {} s.codec.chans = true) ∧
    (∀ q ∈ [[], [req0]], let s := coded { chan0 with queue := q }
     chanOpen s 0 32 false = true ∧ sparseWf {} s.codec.chans = true ∧ (codAt s 32).frame = none ∧ (codAt s 32).queue = q) ∧
    (let g := group .apply
     let s := { inGroup g with codec := { chans := [(0, chan0)] } }
     s.img.cur = some g ∧ g.phase ≠ .prepare ∧ (codAt s (0 : Fin 48)).frame = none ∧ revoked s g.target.video (0 : Fin 48) = true) := by
  decide +kernel

theorem wit_FramesAreCoded :
    (let s := coded chan0
     domOfVf s h0.vf = some 0 ∧ (domAt s 0).st = .active ∧ chanOpen s 0 0 true = true ∧ (codAt s 0).queue.length < 8 ∧
       semFine s 0 0 = true ∧ semFine s 0 0x8001 = true ∧ (semOf 0x8001).isSome = true ∧ chanOpen s 0 32 false = true ∧
       decOutOk s 0 (codAt s 32) 128 0x10000 0x20000 = true) ∧
    (∀ b ∈ [[], [({ mark := 1, acked := true, frame := 3 } : RefBuf)]], ∀ k ∈ [true, false],
     let s := coded { chan0 with queue := [req0], bufs := b, forceKey := k }
     let x := codAt s (0 : Fin 32)
     x.queue = [req0] ∧ x.st = .open_ ∧ x.frame = none ∧ waitMet s req0 0 = true ∧ leaving s (0 : Fin 32) = false ∧
       x.forceKey = k ∧ (b = [] → refsFor x.cfg x.bufs = [])) ∧
    (let s := coded { chan0 with frame := some (run0 0) }
     let x := codAt s (0 : Fin 32)
     let f := run0 0
     let g := gangWidth s.conf.video x.dom x.cfg
     let r1 := min ((f.unit + 1) * unitRows x.cfg g) (sbRows x.cfg)
     let src := unitSource x.cfg f.req (f.unit * unitRows x.cfg g) r1
     x.frame = some f ∧ f.unit < unitCount x.cfg g ∧ waitMet s f.req (r1 - 1) = true ∧ src.any (rangePending s x.dom) = false ∧
       max (ceilingOf x f (unitCount x.cfg g) (minUnit x.cfg g f.key)) (minUnit x.cfg g f.key) / 8 + f.head.length ≤ ringRoom x ∧
       x.cfg.rowNotify = false) ∧
    (let s := coded { chan0 with frame := some (run0 2) }
     let x := codAt s (0 : Fin 32)
     x.frame = some (run0 2) ∧ unitCount x.cfg (gangWidth s.conf.video x.dom x.cfg) ≤ (run0 2).unit ∧
       fillerBits x (run0 2).bits / 8 ≤ ringRoom x ∧ x.st = .open_ ∧ (domAt s x.dom).st = .active ∧ x.marks = [] ∧
       (run0 2).store = none ∧ sparseWf 0 s.sems = true) ∧
    (let s := coded { chan0 with queue := [req0] }
     let x := codAt s (32 + (0 : Fin 16).val)
     nextOut x = none ∧ x.queue[x.ahead.length]? = some req0 ∧ x.st = .open_ ∧ (domAt s x.dom).st = .active ∧
       sparseWf {} s.codec.chans = true) ∧
    (let s := coded chan0
     let x := codAt s (0 : Fin 48)
     hostUp s = true ∧ (x.wptr + 2 ^ 32 - (0 : Word).toNat) % 2 ^ 32 ≤ x.cfg.ringSize ∧
       x.cfg.ringSize < (x.wptr + 2 ^ 32 - (1 : Word).toNat) % 2 ^ 32) :=
  ⟨by decide +kernel, by decide +kernel, by decide +kernel, by decide +kernel, by decide +kernel, by decide +kernel⟩

/-- Once no further unit comes, the oldest picture that waits is due, or one that the stream orders before it. -/
theorem wit_PictureIsDue : let x := codAt (coded { chan0 with st := .closing, queue := [req0], ahead := [0] }) (32 + (0 : Fin 16).val)
    x.queue = [req0] ∧ ∃ i, nextOut x = some i := by
  refine ⟨by decide +kernel, ?_⟩
  have e : codAt (coded { chan0 with st := .closing, queue := [req0], ahead := [0] }) (32 + (0 : Fin 16).val) =
    { chan0 with st := .closing, queue := [req0], ahead := [0] } := by decide +kernel
  rw [e]
  unfold nextOut
  cases Config.decNext ({ chan0 with st := .closing, queue := [req0], ahead := [0] } : CodChan).coded
      ({ chan0 with st := .closing, queue := [req0], ahead := [0] } : CodChan).ahead with
  | none => exact ⟨0, rfl⟩
  | some i => exact ⟨_, rfl⟩

/-! ### Witnesses: ports, groups, collectives, remote memory -/

/-- A worker of shoal 0: port 0 to its manager, port 1 to worker 2. -/
def worker1 : LinkRec := { role := 1, worker := 1, ports := (2, 4, 0) :: (1, 4, 2) :: List.replicate 16 (0, 0, 0) }

/-- A shoal manager with worker 1 on port 0, and the top manager with shoal 0 on port 0. -/
def manager0 (r : Nat) : LinkRec := { role := r, ports := (if r = 3 then (8, 4, 0) else (5, 4, 1)) :: List.replicate 17 (0, 0, 0) }

/-- The domain's module with a link record in force and this port state on port 1. -/
def linked (l : LinkRec) (p : Port) (n : Net) : State :=
  { mapped act with conf := { act.conf with link := l }, net := { n with role := l, ports := [(1, p)] } }

def upPort : Port := { st := 3, peer := 2 }

/-- A flit of a type as a number. -/
def flit0 (type : Nat) : BitVec 2048 := BitVec.ofNat 2048 (leOf (sealFlit 0 65535 (flitBody type 12 0 0 0 0 0 0 [])))

theorem wit_PortsTrainAndCarryFlits :
    (∀ st ∈ [1, 2, 4, 5], let s := linked worker1 { upPort with st := st } {}
     running s = true ∧ portRole s (1 : Fin 18) ≠ 0 ∧ (portAt s (1 : Fin 18)).disable = false ∧ (portAt s (1 : Fin 18)).cableOff = false ∧
       (portAt s (1 : Fin 18)).st ∈ [1, 2, 4, 5] ∧ hostUp s = true) ∧
    (let s := linked worker1 upPort {}
     portUp s (1 : Fin 18) = true ∧
       (∀ t ∈ [0, 1, 2], let f := leBytes 256 (flit0 t).toNat
        (!false && leAt f 0xFC 4 == crc32c (f.take 252)) = true ∧ leAt f 0 1 = t ∧ (!true && leAt f 0xFC 4 == crc32c (f.take 252)) = false) ∧
       let u := setPort s (1 : Fin 18) { portAt s (1 : Fin 18) with
         corr := wrap32 ((portAt s (1 : Fin 18)).corr + (0 : BitVec 8).toNat)
         uncorr := wrap32 ((portAt s (1 : Fin 18)).uncorr + b2n false) }
       let f := leBytes 256 (flit0 1).toNat
       portUp (flitControl u (1 : Fin 18) f) (1 : Fin 18) = true ∧ leAt f 2 2 = (portAt (flitControl u (1 : Fin 18) f) (1 : Fin 18)).rx) := by
  decide +kernel

/-- Domain 0 of module 1 and domain 0 of module 2. -/
def members0 : List (Nat × Nat) := [(1, 0), (2, 0)]
def group5 : Group := ⟨5, 1, 9, 0, 0, members0, 0⟩
def auth5 (formed : Bool) : AuthGroup := ⟨5, 1, 9, members0, [0], formed, 0⟩

theorem wit_GroupsFormAndLoseMembers :
    (let s := { linked worker1 upPort { groups := [group5] } with mem := [(9 * 65536, 1), (9 * 65536 + 4, 2)] }
     let r := vaFetch s 0 0x10000 8
     domOfVf s h0.vf = some 0 ∧ (domAt s 0).st = .active ∧ s.net.headless = false ∧
       (got r.2).any (fun b => decide (readMembers b 2 = some members0)) = true ∧ membersOk members0 = true ∧ r.1.net.role.role = 1 ∧
       Safety.ReadsClean s 0 0x10000 8 ∧ readMembers (plain (Safety.rangeBytes s 0 0x10000 8)) 2 = some members0 ∧
       firstIdx (fun (m : Nat × Nat) => m == (ownId r.1, 0)) members0 = some 0 ∧
       s.net.groups.find? (fun g => g.id == 5 && g.dom == 0) = some group5) ∧
    (let s := { linked (manager0 2) upPort { auth := [auth5 false] } with now := 2000000000 }
     s.net.auth.find? (fun a => a.key == 9 && !a.formed && decide (a.t0 + ticketTimeout s ≤ s.now)) = some (auth5 false)) ∧
    (let s := { linked worker1 upPort { joins := [⟨⟨0, 0, 7⟩, 0, 9, members0, 0⟩] } with now := 2000000000 }
     s.net.auth.find? (fun a => a.key == 9 && !a.formed && decide (a.t0 + ticketTimeout s ≤ s.now)) = none ∧
       s.net.joins.any (fun j => j.key == 9 && decide (j.t0 + ticketTimeout s ≤ s.now)) = true) ∧
    (∀ r ∈ [2, 3], ∀ m ∈ [(1 : BitVec 10)], let s := { linked (manager0 r) {} {} with now := 20000 }
     2 ≤ s.net.role.role ∧ m.toNat < 256 ∧
       (if s.net.role.role = 3 then portOf s 8 (shoalOf m.toNat) else portOf s 5 (workerOf m.toNat)) = some 0 ∧ portUp s 0 = false ∧
       (portAt s 0).downAt + 10000 ≤ s.now) ∧
    (let s := { linked worker1 {} {} with now := 20000 }
     managerPort s = some 0 ∧ s.net.role.role = 1 ∧ s.net.headless = false ∧ portUp s 0 = false ∧
       (portAt s 0).downAt + 10000 ≤ s.now ∧ s.net.joins = [] ∧ s.net.colls = []) := by decide +kernel

/-- An ALL_REDUCE of four FP32 elements. -/
def collOp0 : CollOp := collOpOf 5 0 1 0 0 0 0 0 0x10000 0x20000 0 4 0 0 0 0 0

def coll0 (ph : CollPhase) : Coll := { src := ⟨0, 0, 7⟩, dom := 0, o := collOp0, ph := ph, loaded := true, vec := List.replicate 16 0 }

theorem wit_CollectivesOnMembers :
    (let s := linked worker1 upPort { groups := [group5] }
     domOfVf s h0.vf = some 0 ∧ (domAt s 0).st = .active ∧ s.net.groups.find? (fun g => g.id == collOp0.group && g.dom == 0) = some group5 ∧
       group5.gen = collOp0.gen ∧ collFine collOp0 members0.length = true ∧ semFine s 0 0 = true ∧ s.net.colls.length < 256 ∧
       postedOf s 0 < 4 * ctxQuota s 0 ∧ s.net.headless = false ∧ collOp0.kind ≠ 3 ∧ collOp0.kind ≠ 4 ∧
       collInPlace collOp0 group5 [] = false ∧ (numRec s 0).det ≠ 2 ∧ collOp0.seq = group5.next ∧
       (collOp0.inSwitch && crossShoal members0) = false ∧ (tablesDigest s 0).isSome = true ∧
       s.net.timed.contains (collOp0.group, collOp0.gen, collOp0.seq) = false) ∧
    (∀ ph ∈ [CollPhase.posted, .requested, .reserved, .moving, .written], let s := linked worker1 upPort { groups := [group5], colls := [coll0 ph] }
     let c := coll0 ph
     collOf s 5 0 = some c ∧ groupOf s 5 = some group5 ∧ c.ph = ph ∧ waitHolds s c.o.wait c.o.target = true ∧ s.net.runs = [] ∧
       [(5, 0, 0, 1)].any (fun (r : Nat × Nat × Nat × Nat) => r.1 == group5.id && decide (r.2.2.1 ≤ c.o.seq) && decide (c.o.seq ≤ r.2.2.2)) = true ∧
       commitLate s group5 c = false ∧
       (tablesDigest s group5.dom).isSome = true ∧ ([4, 4] : List (BitVec 32)).length = group5.members.length ∧
       c.loaded = true ∧ c.sched.all List.isEmpty = true ∧
       getRangeFault s c.dom c.o.dstVa (resultOf c.o group5.members group5.rank c.counts).2 = none) ∧
    (let c := { coll0 .written with doneAt := some 0 }
     let s := { linked worker1 upPort { groups := [group5], colls := [c], headless := true } with now := 20000 }
     collOf s 5 0 = some c ∧ s.net.headless = true ∧ crossShoal group5.members = false ∧ c.ph = .written ∧ c.doneAt = some 0 ∧ max 0 s.net.headlessAt + 20000 ≤ s.now) := by
  decide +kernel

def order5 (ph : OrderPhase) (dones : List Nat) : Order :=
  { group := 5, gen := 1, seq := 0, t0 := 0, reqs := [⟨0, [], [], 1, 4, 0⟩, ⟨1, [], [], 1, 4, 0⟩], ph := ph, dones := dones }

theorem wit_CollectivesOnTheAuthority :
    (let s := linked (manager0 2) upPort { auth := [auth5 true] }
     authOf s 5 = some (auth5 true) ∧ (0 : BitVec 8).toNat < (auth5 true).members.length ∧ (auth5 true).gen ≠ (2 : BitVec 32).toNat ∧
       (auth5 true).gen = (1 : BitVec 32).toNat ∧ orderOf s (auth5 true).id 0 = none ∧ 2 ≤ (auth5 true).members.length) ∧
    (∀ ph ∈ [OrderPhase.collecting, .reserving, .ticketed], ∀ d ∈ [[], [0]],
     let s := { linked (manager0 2) upPort { auth := [auth5 true], orders := [order5 ph d] } with now := 2000000000 }
     let o := order5 ph d
     orderOf s 5 0 = some o ∧ o.ph = ph ∧ authOf s 5 = some (auth5 true) ∧ o.reserved.contains (1 : BitVec 8).toNat = false ∧
       o.reqs.any (fun q => q.rank == (1 : BitVec 8).toNat) = true ∧ (1 : BitVec 8).toNat < (auth5 true).members.length ∧
       o.dones.contains (1 : BitVec 8).toNat = false ∧
       (if d = [] then o.dones.length + 1 < (auth5 true).members.length else (auth5 true).members.length ≤ o.dones.length + 1) ∧
       o.t0 + ticketTimeout s ≤ s.now) := by decide +kernel

theorem wit_ShoalTimeKept :
    (∀ b : Bool, let s := linked worker1 upPort { locked := b }
     s.net.role.role ≠ 0 ∧ timeSource s.net = false ∧ s.net.locked = b ∧
       1000 < (((2000 : BitVec 64).toNat : Int) + ((0 : BitVec 32).toNat / 2 : Nat) - s.now - s.net.offset).natAbs) ∧
    (let s := { linked { manager0 2 with pulse := true } upPort {} with now := 1000000 }
     2 ≤ s.net.role.role ∧ s.net.beatAt + 100000 ≤ s.now ∧ s.net.role.pulse = true ∧ s.pow.st < 3 ∧
       s.net.pulseAt < shoalTime s / 1000000) := by decide +kernel

def window0 : Window := ⟨0x10000, 64, true, true, 5, none, 0, false, none⟩

/-- A transfer on the caller or on the owner of the window. -/
def xfer0 (owner begun : Bool) (n : Nat) : RmemXfer :=
  ⟨0, if owner then none else some ⟨0, 0, 7⟩, 0, false, owner, 5, 1, 2, 3, 0x10000, 0, 64, none, 0, none, 0, n, begun, 0⟩

theorem wit_RemoteMemoryCompletes :
    (let s := linked worker1 upPort { groups := [group5] }
     domOfVf s h0.vf = some 0 ∧ (domAt s 0).st = .active ∧ semFine s 0 0 = true ∧ semFine s 0 0x8001 = true ∧
       s.net.groups.any (fun g => g.id == 5 && g.dom == 0) = true ∧ windowAt s 0 3 = none ∧ vaFault s 0 none 0x10000 64 = none ∧
       (piecesOf 0x10000 64).all (fun x => (got (xlat s 0 none x.1)).any (fun p => !p.sealed)) = true ∧
       rmemPath s group5 1 = true ∧ getRangeFault s 0 0x10000 64 = none) ∧
    (let s := modDom (linked worker1 upPort { groups := [group5] }) 0 (fun x => { x with windows := [(3, some window0)] })
     windowAt s 0 3 = some window0 ∧ window0.shut = false ∧ s.net.xfers = [] ∧ sparseWf none (domAt s 0).windows = true) ∧
    (∀ b : Bool, let s := linked worker1 upPort { groups := [group5], xfers := [xfer0 b true 1] }
     s.net.xfers.find? (fun x => x.num == 0 && x.owner == b && decide (0 < x.got)) = some (xfer0 b true 1) ∧ (xfer0 b true 1).signal = none) ∧
    (let s := { linked worker1 upPort { groups := [group5], xfers := [xfer0 false true 0] } with now := 1000000 }
     s.net.xfers.find? (fun x => x.num == 0 && !x.owner && x.begun && x.got == 0) = some (xfer0 false true 0) ∧ (0 : Nat) + 1000000 ≤ s.now) := by
  decide +kernel

/-! ### Witnesses: rings, windows, events, the log -/

/-- VF 0 with submission ring 0 and completion ring 0 at these controls. -/
def withRings (sq : SubRing) (cq : CplRing) : State :=
  { act with vfs := [(0, { sqs := sq :: List.replicate 7 {}, cqs := cq :: List.replicate 3 {} })] }

/-- An enabled ring of 64 entries. -/
def on : Nat := 0x601

theorem wit_RingRegistersComplete :
    (let s := withRings { ctrl := on } { ctrl := on }
     hostUp s = true ∧ bit (sqAt s (0 : Fin 16) (0 : Fin 8)).ctrl 0 = true ∧ (63 : Word).toNat < ringSize (sqAt s (0 : Fin 16) (0 : Fin 8)).ctrl ∧
       ringSize (sqAt s (0 : Fin 16) (0 : Fin 8)).ctrl ≤ (64 : Word).toNat) ∧
    (∀ cq ∈ [0, on], let s := withRings { ctrl := 0x600 } { ctrl := cq }
     bit (sqAt s (0 : Fin 16) (0 : Fin 8)).ctrl 0 = false ∧ bit (0x601 : Word).toNat 0 = true ∧ sizeOk (Nat.land (0x601 : Word).toNat 0x00031F01) = true ∧
       bit (cqAt s (0 : Fin 16) (bits (Nat.land (0x601 : Word).toNat 0x00031F01) 17 16)).ctrl 0 = decide (cq = on)) ∧
    sizeOk (Nat.land (0x1101 : Word).toNat 0x00031F01) = false ∧
    (let s := withRings { ctrl := on } { ctrl := on, tail := 2 }
     let x := cqAt s (0 : Fin 16) (0 : Fin 4)
     hostUp s = true ∧ bit x.ctrl 0 = true ∧ (2 : Word).toNat < ringSize x.ctrl ∧ ((2 : Word).toNat + ringSize x.ctrl - x.head) % ringSize x.ctrl ≤ cqHeld x ∧
       cqHeld x < ((3 : Word).toNat + ringSize x.ctrl - x.head) % ringSize x.ctrl) ∧
    (let s := withRings {} {}
     bit (cqAt s (0 : Fin 16) (0 : Fin 4)).ctrl 0 = false ∧ bit (0x601 : Word).toNat 0 = true ∧ sizeOk (Nat.land (0x601 : Word).toNat 0xFFFFDF03) = true ∧
       sizeOk (Nat.land (0x501 : Word).toNat 0xFFFFDF03) = false) ∧
    (let s := { withRings {} { ctrl := 0x100601, due := true, lastMsg := some 0 } with now := 1000 }
     let x := cqAt s (0 : Fin 16) (0 : Fin 4)
     x.due = true ∧ x.lastMsg = some 0 ∧ 0 + 1000 * bits x.ctrl 31 20 ≤ s.now) :=
  ⟨by decide +kernel, by decide +kernel, by decide +kernel, by decide +kernel, by decide +kernel, by decide +kernel⟩

theorem wit_WindowsReachMemory :
    (let s := { mapped act with vfs := [(0, { winCtrl := 1, winBase := 0x10000 })] }
     hostUp s = true ∧ (1 : Fin 17).val ≠ 0 ∧ vfWindow s ((1 : Fin 17).val - 1) 5 = some (0, 0x10005) ∧
       (got (xlat s 0 none 0x10005)).any (fun p => decide (p.tier = .t1) && !(engineBusy s p.addr 1)) = true ∧ s.mig.lag = [] ∧
       s.mig.stagings = [] ∧ s.latent = [] ∧ sparseWf 0 s.mem = true) ∧
    (hostUp up = true ∧ vfWindow (wakeS2 up) ((1 : Fin 17).val - 1) 5 = none ∧ up.sec.dbg = none) := by decide +kernel

theorem wit_HostReadsThatFail :
    (let s := withRings { ctrl := on } { ctrl := on }
     hostUp s = true ∧ s.pow.st ≠ 2 ∧ (1 : Word).toNat < ringSize (sqAt s 0 0).ctrl ∧
       ringReads (setSq s 0 0 { sqAt s 0 0 with tail := 1 }) 0 0 = true) ∧
    (let s := withRings { ctrl := on, tail := 1 } { ctrl := on }
     ringReads s (0 : Fin 16) (0 : Fin 8) = true ∧ domOfVf (sqError (raise 0x207 s) (0 : Fin 16) (0 : Fin 8) .hostReadFault) (0 : Fin 16) = some 0 ∧
       domOfVf s h0.vf = some 0 ∧ (domAt s 0).st ∈ setupStates ∧ (domAt s 0).st = .active ∧ imgBusy s = false) ∧
    (let s := { withRings { ctrl := on, tail := 1 } { ctrl := on } with conf := {} }
     ringReads s (0 : Fin 16) (0 : Fin 8) = true ∧ (domOfVf s (0 : Fin 16)).isNone = true) ∧
    (let s := running0 {} (insn .zero 0 0 0 0)
     waitsT3 { s with mig := { s.mig with reads := [⟨0, 0, 0, 2 ^ 57, 0, false, true, 0⟩] } } (0 : Fin 256) =
       some (task0 [insn .zero 0 0 0 0])) ∧
    (let s := modDom (t1Page 0 ⟨.t3, false, true, 0, 5⟩ act) 0 (fun x => { x with tasking := [(⟨0, 0, 7⟩, 0, 1)] })
     domOfVf s h0.vf = some 0 ∧ (domAt s 0).st = .active ∧ (readDesc (hostBytes s 0 128) 0).any (fun x =>
       (got (xlat s 0 none x.argVa)).any (fun p => decide (p.tier = .t3))) = true ∧
       domOfVf s (0 : Fin 16) = some 0 ∧ (domAt s 0).tasking = (⟨0, 0, 7⟩, 0, 0 + 1) :: []) ∧
    (∀ t ∈ [Tier.t2, .t3], let s := { t1Page 1 ⟨t, false, true, 0, 9⟩ act with mig := { act.mig with promos := [⟨0, 1, 0⟩] } }
     s.mig.promos = ⟨0, 1, 0⟩ :: [] ∧ pageAt s 0 1 = some ⟨t, false, true, 0, 9⟩ ∧ t ≠ .t1) ∧
    (let s := coded { chan0 with frame := some (run0 0) }
     frameLow (t1Page 1 ⟨.t2, false, false, 0, 9⟩ s) (0 : Fin 32) = true) := by decide +kernel

theorem wit_EventWordsAndHold :
    (let s := up
     (hostUp s = true ∧ s.pow.st ≠ 2) ∧ s.evc.held = none ∧ sparseWf 0 s.evc.pend = true ∧ sparseWf (BitVec.allOnes 32) s.evc.mask = true ∧
       sparseWf 0 s.evc.prio = true ∧ sparseWf 0 s.evc.route = true ∧ sparseWf ({} : EvTarget) s.evc.targets = true ∧
       (0x100 : Word).getLsbD 8 = true ∧ (0x100 : Word).getLsbD 13 = false) ∧
    (let s := { up with now := 1000, evc := { up.evc with held := some 3, word := 3, owner := 1 } }
     s.evc.held = some (3 : Fin 32).val ∧ s.evc.owner ≠ (8 : Fin 9).val ∧
       { s with now := 500 }.now < s.evc.holdAt + 1000 ∧ s.evc.holdAt + 1000 ≤ s.now ∧ s.evc.waits = [] ∧
       sparseWf 0 s.evc.pend = true) := by decide +kernel

/-- Sources 0x110 and 0x111 pend for target 0 at priorities 3 and 5; nothing is masked. -/
def claimable : Evc :=
  { pend := [(8, 0x30000)], mask := [(8, 0)], prio := [(0x110, 3), (0x111, 5)] }

theorem wit_ClaimsNest :
    (let s := { up with evc := claimable }
     let mine := (pendingSources s.evc).filter (fun k => evRoute s.evc k == (0 : Fin 72).val)
     (hostUp s = true ∧ s.pow.st ≠ 2) ∧ mine.filter (lateSource s) = [] ∧ mine.filter (deliverable s.evc) ≠ [] ∧
       sparseWf ({} : EvTarget) s.evc.targets = true ∧ sparseWf 0 s.evc.pend = true ∧ s.evc.waits = []) ∧
    (let mine := (pendingSources up.evc).filter (fun k => evRoute up.evc k == (0 : Fin 72).val)
     mine.filter (lateSource up) = [] ∧ mine.filter (deliverable up.evc) = []) ∧
    (let s := { up with evc := { claimable with targets := [(0, ⟨0, [(0x111, 5)], false⟩)] } }
     (evTarget s.evc (0 : Fin 72)).claims = (((0x111 : BitVec 10)).toNat, 5) :: [] ∧ sparseWf ({} : EvTarget) s.evc.targets = true) ∧
    (∀ p ∈ [5], (evTarget up.evc (0 : Fin 72)).claims ≠ (((0x111 : BitVec 10)).toNat, p) :: []) := by decide +kernel

theorem wit_LogKeepsItsLevel :
    (let s := { up with log := { up.log with level := 2 } }
     hostUp s = true ∧ s.pow.st ≠ 2 ∧ (1 < s.log.level ∧ (1 : Nat) ≠ 3 ∧ (1 : Nat) < 4) ∧ (s.log.level ≤ 2 ∨ (3 : Nat) = 3) ∧
       sparseWf none s.log.slots = true) := by decide +kernel

/-- The first and the last island's coordinates. -/
theorem wit_IslandsIdentifyThemselves : ∀ p ∈ [(0, 0, 0), (3, 7, 7)], p.1 < 4 ∧ p.2.1 < 8 ∧ p.2.2 < 8 := by decide

/-! ### Witnesses: power, resets, temperature, security, registers, the invariants -/

/-- The module with another power block. -/
def powered (f : Pow → Pow) : State := { up with pow := f up.pow }

theorem wit_SuppliesAndLinkComeUp :
    (powered (fun p => { p with auxOk := false })).pow.auxOk = false ∧ up.pow.auxOk = true ∧
    (let s := State.reset
     s.pow.mainOk = false ∧ s.pow.auxOk = true ∧ s.pow.st = 0 ∧ s.pow.tripped = false ∧ s.pow.restore = none) ∧
    (let s := powered (fun p => { p with training := true })
     s.pow.training = true ∧ s.pow.mainOk = true ∧ s.pow.restore = none ∧ s.img.waiting = false ∧ sparseWf {} s.vaults = true ∧
       (1 : BitVec 256).getLsbD 0 = true) ∧
    (let s := powered (fun p => { p with perst := true, firstPerst := true, alive := true })
     s.pow.perst = true ∧ s.pow.firstPerst = true ∧ s.pow.alive = true) ∧
    (let s := powered (fun p => { p with link := .training, alive := true })
     s.pow.link = .training ∧ s.pow.alive = true) := by decide +kernel

theorem wit_ResetsKeepWhatTheyMust :
    (up.pow.mainOk = true ∧ up.pow.auxOk = true ∧ up.pow.st ≠ 4) ∧
    (let s := powered (fun p => { p with perst := false, seenMain := true })
     s.pow.link = .up ∧ s.pow.perst = false ∧ s.pow.auxOk = true ∧ s.pow.st < 3 ∧ s.pow.seenMain = true ∧ hostUp s = true) ∧
    ((1 : Word) ≠ 0xC0DE ∧ hostUp up = true) ∧
    (let s := powered (fun p => { p with restore := some ⟨[3], 0⟩ })
     s.pow.restore = some ⟨[3], 0⟩ ∧ s.pow.mainOk = true ∧ s.pow.tripped = false ∧ s.pow.auxOk = true ∧ s.mir.bad = false) := by decide +kernel

theorem wit_FunctionResetsEndDomains :
    (hostUp act = true ∧ domOfVf act (0 : Fin 16) = some 0 ∧ act.img.cur = none ∧ sparseWf {} act.vfs = true) ∧
    (hostUp up = true ∧ domOfVf up (0 : Fin 16) = none) := by decide +kernel

theorem wit_PowerLadder :
    (hostUp up = true ∧ mayEnter (wakeS2 up) 2 = true ∧ mayEnter (wakeS2 up) 3 = true ∧ mayEnter (wakeS2 up) 4 = true ∧
      hostUp act = true ∧ mayEnter (wakeS2 act) 2 = false ∧ mayEnter (wakeS2 act) 3 = false ∧ mayEnter (wakeS2 act) 4 = false) ∧
    (powered (fun p => { p with st := 2 })).pow.st = 2 ∧ 3 ≤ (powered (fun p => { p with st := 3 })).pow.st ∧
      (powered (fun p => { p with st := 3 })).pow.mainOk = true ∧
    (∀ c ∈ [85, 86], let s := powered (fun p => { p with tripped := true, dieC := c })
     s.pow.auxOk = true ∧ s.pow.tripped = true ∧ allCool s = decide (c = 85)) ∧ up.pow.tripped = false ∧
    (let s := { up with islands := [(0, { doze := true, clkCurrent := 17 })], now := 1000000000000 }
     let x := islandAt s (0 : Fin 256)
     x.doze = true ∧ x.task = none ∧ x.dozing = false ∧ x.idleSince + 1000 * s.conf.power.doze ≤ s.now ∧ x.clkCurrent ≠ clkAllowed s x ∧ atBoundary x = true) := by
  decide +kernel

theorem wit_ThrottleAndTemperature :
    railsOn up = true ∧ up.conf.power.cap < (851 : BitVec 16).toNat ∧
      stageDown { powered (fun p => { p with pace := 9 }) with pow := { (powered (fun p => { p with pace := 9 })).pow with avgW := 851, belowSince := none } } = none ∧
      110 ≤ (110 : BitVec 8).toNat ∧ (109 : BitVec 8).toNat < 110 ∧ up.conf.power.throttle ≤ (109 : BitVec 8).toNat ∧
      (0 : BitVec 8).toNat + 3 ≤ up.conf.power.throttle ∧ 45 < (46 : BitVec 8).toNat ∧ (45 : BitVec 8).toNat ≤ 45 := by decide +kernel

theorem wit_RetrainingAndScrub :
    (let s := up
     let v : Fin 256 := 0
     s.pow.trained = true ∧ railsOn s = true ∧ (vaultAt s v).retraining = false ∧ (vaultAt s v).untrained = false ∧ hostUp s = true ∧
       s.pow.retBusy = false ∧ s.pow.st ≠ 2 ∧ (islRec s v).owner = none ∧ (vaultAt s v).scrubOn = true ∧ s.pow.st < 3 ∧ s.pow.mainOk = true ∧
       s.latent = [] ∧ sparseWf {} s.vaults = true ∧ sparseWf {} s.chans = true ∧
       (List.range 16).any (fun d => (domRec s d).isSome && bit (memRec s d).channels (0 : Fin 16)) = false) ∧
    (let s := act
     hostUp s = true ∧ s.pow.retBusy = false ∧ s.pow.st ≠ 2 ∧ (islRec s (0 : Fin 256)).owner.isSome = true ∧
       (List.range 16).any (fun d => (domRec s d).isSome && bit (memRec s d).channels (0 : Fin 16)) = true) ∧
    (let s := powered (fun p => { p with retBusy := true }); s.pow.retBusy = true ∧ sparseWf 0 s.mem = true ∧ hostUp s = true ∧ s.pow.st ≠ 2) :=
  ⟨by decide +kernel, by decide +kernel, by decide +kernel⟩

theorem wit_RequestsAndReportsAnswer :
    (hostUp up = true ∧ 6 ≤ (7 : BitVec 3).toNat ∧ (5 : BitVec 3).toNat < 6 ∧ (1 : BitVec 24) ≠ 0 ∧ up.sec.idOk = true ∧
      (1 ≤ (64 : BitVec 16).toNat ∧ (64 : BitVec 16).toNat ≤ 64) ∧ (64 < (65 : BitVec 16).toNat)) ∧
    { up.sec with idOk := false }.idOk = false ∧
    (∃ g : Debug, let s : State := { up with sec := { up.sec with dbg := some g } }; debugOver s = true) ∧
    (up.pow.auxOk = true ∧ (2047 : BitVec 16).toNat ≤ 2047 ∧ 2047 < (2048 : BitVec 16).toNat ∧
      (powered (fun p => { p with auxOk := false })).pow.auxOk = false) :=
  ⟨by decide +kernel, rfl, ⟨⟨⟨[], 0, 0, 0⟩, some 0⟩, by decide +kernel⟩, by decide +kernel⟩

theorem wit_ExtensionHashesTheRegister :
    (∀ n ∈ [0, 512], let s : State := { up with sec := { mrs := List.replicate 8 [], log := List.replicate n [] } }
     (7 : Nat) < 8 ∧ s.sec.mrs.length = 8 ∧ (List.replicate 32 (0 : Byte)).length = 32 ∧ (n = 0 → s.sec.log.length < 512) ∧
       (n = 512 → 512 ≤ s.sec.log.length)) := by decide +kernel

theorem wit_RegistersReadBack :
    hostUp up = true ∧ up.pow.st ≠ 2 ∧ (7 : Nat) < 8 ∧ (7 : Nat) < up.sec.extData.length ∧ bit (sqAt up (15 : Fin 16) 7).ctrl 0 = false ∧
      7 < (vfAt up (15 : Fin 16)).sqs.length ∧ sparseWf {} up.vfs = true := by decide +kernel

theorem wit_ZeroBlocksAndMarkers : ∀ l : Layout, 0 < groupSize l := by intro l; cases l <;> decide

theorem wit_StepsKeepMemoryCanonical :
    let s := { State.reset with pending := [.coolantWarm 46] }
    Safety.MemCanon s ∧ ∃ t, step s = .next t :=
  ⟨⟨by decide +kernel, by decide +kernel, by decide +kernel⟩, _, rfl⟩

theorem wit_StepsKeepTablesCanonical :
    let s := { State.reset with pending := [.coolantWarm 46] }
    Safety.TablesCanon s ∧ ∃ t, step s = .next t :=
  ⟨by constructor <;> first | decide +kernel | exact fun _ h => absurd h (by simp [State.reset]), _, rfl⟩

/-! ### Well-formed commands -/

/-- R173, R359: a gang starts on at least one island, each once; R393: at most 256 members; R424: at most 512 bytes. -/
theorem test_illFormed_refused :
    wellFormed (.taskStart 0 []) = false ∧ wellFormed (.taskStart 0 [3, 3]) = false ∧
      wellFormed (.collTicket 1 0 (List.replicate 257 0)) = false ∧ wellFormed (.windowWrite 1 0 []) = false ∧
      wellFormed (.windowWrite 1 0 (List.replicate 513 0)) = false := by decide +kernel

theorem test_wellFormed_accepted :
    wellFormed (.taskStart 0 [3, 4]) = true ∧ wellFormed (.collTicket 1 0 (List.replicate 256 0)) = true ∧
      wellFormed (.windowWrite 1 0 (List.replicate 512 0)) = true ∧ wellFormed .groupCommit = true := by decide +kernel

/-! ### The spec's worked examples -/

/-- spec/04, the packing example: block 0 of a K4 group. -/
def exampleBlock : List Val :=
  [0x3DF5C28F, 0xBD4CCCCD, 0x3E99999A, 0x3D8F5C29, 0xBE570A3D, 0x3CA3D70A, 0x41180000, 0x3E19999A, 0xBDE147AE, 0x3E851EB8, 0,
    0xBEA8F5C3, 0x3DB851EC, 0x3E3851EC, 0xBD23D70A, 0x3E6147AE].map ofF32

theorem test_k4_block_packs :
    let b := packGroup .k4 exampleBlock false
    slice b 0x20 8 = [0xA4, 0x27, 0x1E, 0x58, 0x6C, 0xF0, 0x53, 0x69] ∧ slice b 4 1 = [0x17] ∧
      ((decodeBurst .k4 b)[6]?).map (fun e => f32 e.val) = some 0x41180000 ∧
      ((decodeBurst .k4 b)[1]?).map (fun e => f32 e.val) = some 0xBD700000 := by decide +kernel

/-- spec/05, a large positive and a large negative sum that cancel: k and product. -/
def exampleProducts : List (Nat × Val) :=
  [(5, .fin false 4368 0), (17, .fin false 1 (-19)), (40, .fin false 15 (-12)), (900, .fin true 4368 0)]

theorem test_w128_sum_exact :
    f32 (drainW128 13 (addProducts false 13 15 {} exampleProducts)) = 0x3B702000 ∧
      f32 (drainW128 13 (addProducts false 13 15 {} exampleProducts.reverse)) = 0x3B702000 := by decide +kernel

theorem test_fp32_tree_rounds : (addProducts true 0 15 {} exampleProducts).n = 0x3B800000 := by decide +kernel

/-- spec/05: a product of −2^−90 goes down to one grid unit, +2^−90 to zero. -/
theorem test_products_floor :
    (addProduct 13 {} (.fin true 1 (-90))).n = BitVec.ofInt 128 (-1) ∧ (addProduct 13 {} (.fin false 1 (-90))).n = 0 := by decide +kernel

/-- spec/06, instruction 2 of the example program. -/
theorem test_mma_word_reads :
    readInsn [0x10, 0, 0x20, 3, 0, 0, 0, 0, 0, 0, 0, 0, 4, 0, 0x10, 0] = some ⟨.mma, 0, 0, 2, 3, 0, 0, 0, 4, 0, 1, 0⟩ := by decide +kernel

/-- spec/10: mirror and edge padding of the upscaler example. -/
theorem test_mirror_folds :
    mirrorIdx 30 (-32) = 26 ∧ mirrorIdx 30 32 = 26 ∧ mirrorIdx 17 (-32) = 0 ∧ mirrorIdx 17 32 = 0 ∧
      padIdx 3 30 (-32) = some 0 ∧ padIdx 3 30 32 = some 29 := by decide +kernel

/-- spec/11, the channel kinds and the tile heights. -/
theorem test_slots_and_tiles :
    slotsFor 1920 1080 60 1 = 1 ∧ slotsFor 2560 1440 60 1 = 2 ∧ slotsFor 3840 2160 60 1 = 4 ∧ slotsFor 3840 2160 120 1 = 8 ∧
      slotsFor 7680 4320 60 1 = 16 ∧ slotsFor 7680 4320 15 1 = 4 ∧
      unitRows { level := 41, width := 1920, height := 1080 } 1 = 1 ∧ unitRows { level := 52, width := 3840, height := 2160 } 2 = 2 ∧
      unitRows { level := 61, width := 7680, height := 4320 } 4 = 3 := by decide +kernel

/-- spec/11, the rate-control example: 1080p60 HEVC in CBR. -/
def exampleChan (full : Nat) : CodChan :=
  { full := full * 60, cfg := { hevc := true, cbr := true, width := 1920, height := 1080, fpsNum := 60, bitrate := 6000000, buffer := 300000, init := 200000 } }

theorem test_ceilings_and_filler :
    frameMinKey (exampleChan 0).cfg 1 = 43136 ∧ feasible (exampleChan 0).cfg 1 = true ∧ minUnit (exampleChan 0).cfg 1 false = 736 ∧
      ceilingOf (exampleChan 200000) { run0 13 with bits := 182048 } 17 736 = 15744 ∧
      ceilingOf (exampleChan 200000) { run0 14 with bits := 191848 } 17 736 = 6680 ∧
      fillerBits (exampleChan 250320) 10000 = 40320 ∧ nextFull (exampleChan 250320) 50320 = 300000 * 60 ∧
      nextFull (exampleChan 200000) 199680 = 100320 * 60 := by decide +kernel

/-- spec/14: the record of a task refused at dispatch, but for PHASE, which the ring sets. -/
theorem test_refusal_record :
    cplRecord 0x1234 .shapeBeyondBucket 2 1 0 0xFFFFFFFF = [0x34, 0x12, 0, 0, 0x10, 0x02, 0x0A, 0, 0xFF, 0xFF, 0xFF, 0xFF, 0, 0, 0, 0] := by
  decide +kernel

/-- spec/01: island 137 is island 2.1.1 with X = 1, Y = 9. -/
theorem test_island_137 :
    readPf up (0x2000000 + 2 * 0x400000 + 4 * 0x40000 + 9 * 0x1000) = 1 + 8 * 1 + 64 * 2 + 256 * 137 + 65536 * 0 + 1048576 * 1 := by decide +kernel

/-! ### Checksums and hashes, by the published check values of CRC-32C, CRC-8 and SHA3-256 -/

theorem test_crc : crc32c ("123456789".toUTF8.toList.map (fun c => BitVec.ofNat 8 c.toNat)) = 0xE3069283 ∧
    pec [0x31, 0x32, 0x33, 0x34, 0x35, 0x36, 0x37, 0x38, 0x39] = 0xF4 := by decide +kernel

theorem test_sha3_empty : (sha3 []).take 8 = [0xA7, 0xFF, 0xC6, 0xF8, 0xBF, 0x1E, 0xD7, 0x66] := by decide +kernel
theorem test_shake_empty : shake128 [] 4 = [0x7F, 0x9C, 0x2B, 0xA4] ∧ shake256 [] 4 = [0x46, 0xB9, 0xDD, 0x2B] := by decide +kernel

/-! ### Single steps -/

/-- The next state, or the state itself. -/
def after (s : State) (c : Instr) : State := match step { s with pending := [c] } with
  | .next t => t
  | .fault _ => s
  | .refused _ => s

/-- spec/16, events: a warm inlet raises 0x227. -/
theorem test_coolant : (evPend (after up (.coolantWarm 46)).evc 17).getLsbD 7 = true ∧ (after up (.coolantWarm 45)).evc.pend = [] ∧
    (after up (.coolantWarm 46)).pending = [] := by decide +kernel

/-- R192: a WAIT whose semaphore is short stands; R193: the last arrival turns the phase. -/
theorem test_wait_and_arrive :
    (islandAt (after (running0 {} { insn .wait 0 0 5 0 with imm1 := 3 }) (.wait 0)) 0).stall = some .semaphore ∧
      barAt (after (running0 {} (insn .arrive 0 0 0 0)) (.arrive 0)) 1 = ⟨0, 1⟩ := by decide +kernel

/-- R186: ZERO of two bytes at the scratchpad's end. -/
theorem test_zero : (islandAt (after (running0 { scratch := [(0x8000, 1), (0x8001, 2), (0x8002, 3)] } (insn .zero 0 3 2 0)) (.zero 0)) 0).scratch =
    [(0x8002, 3)] := by decide +kernel

/-- R200: an island beyond its last instruction ends its task with NO_COMMIT. -/
theorem test_noCommit : (after (running0 { pc := 1 } (insn .zero 0 0 0 0)) (.noCommit 0)).tasks = [] := by decide +kernel

/-- R106, R489: main loss takes DRAM and is recorded as kind 1. -/
theorem test_mainLoss : (after (encBlock up) .mainLoss).mem = [] ∧ (after up .mainLoss).pow.lastReset = 1 := by decide +kernel

/-- R473: LOG_CTRL.LEVEL takes two bits. -/
theorem test_logCtrl : (after up (.registerWrite 0 0x800004 0xFFFFFFFF)).log.level = 3 := by decide +kernel
end Sys2Proof.Tests
end

section
/-!
What the register map reads back after a write of the host (R7): the decoding of an offset into a block and an entry, then one
equation per written register.
-/
namespace Sys2Proof.Machine

/-! ### Offsets and 64-bit halves -/

/-- Entry `k` of a table of registers stands 4 bytes per entry above its base. -/
theorem regIdx_entry {base n k : Nat} (h : k < n) : regIdx base n (base + 4 * k) = some k := by
  unfold regIdx
  rw [if_pos (by omega)]
  congr 1
  omega

theorem regIdx_of_ge {base n o : Nat} (h : base + 4 * n ≤ o) : regIdx base n o = none := if_neg (by omega)

theorem putLo_mod (x : Nat) {v : Nat} (h : v < 2 ^ 32) : putLo x v % 2 ^ 32 = v := by unfold putLo; omega

theorem putLo_div (x : Nat) {v : Nat} (h : v < 2 ^ 32) : putLo x v / 2 ^ 32 = x / 2 ^ 32 := by unfold putLo; omega

/-! ### A write that the host's link carries -/

section Awake
variable {s : State} (hup : hostUp s = true) (hst : s.pow.st ≠ 2)
include hup hst

/-- With the link up and the module awake the PF's write reaches the register at once (R7, R487). -/
theorem exec_registerWrite_pf (off : BitVec 26) (v : Word) : exec (.registerWrite 0 off v) s = writePf off.toNat v s := by
  show execRegisterWrite 0 off v s = _
  simp [execRegisterWrite, hup, wakeS2_awake hst]

/-- The same for a VF, whose function number is one above its index. -/
theorem exec_registerWrite_vf (f : Fin 16) (off : BitVec 26) (v : Word) :
    exec (.registerWrite f.succ off v) s = writeVf f off.toNat v s := by
  show execRegisterWrite f.succ off v s = _
  simp [execRegisterWrite, hup, wakeS2_awake hst]

end Awake

/-! ### HUB_IMG_ADDR, HUB_IMG_LEN, LOG_CTRL, and writes that nothing takes -/

theorem writePf_imgAddrLo (v : Word) (s : State) :
    writePf 0x200 v s = .next { s with img := { s.img with addr := putLo s.img.addr v.toNat } } := rfl

theorem writePf_imgLen (v : Word) (s : State) : writePf 0x208 v s = .next { s with img := { s.img with len := v.toNat } } := rfl

theorem writePf_logCtrl (v : Word) (s : State) :
    writePf 0x800004 v s = .next { s with log := { s.log with level := v.toNat % 4 } } := rfl

theorem writePf_logWritten (v : Word) (s : State) : writePf 0x800000 v s = .next s := rfl

/-- The eighth 4 MiB block of the PF's map is reserved (R428). -/
theorem writePf_reservedBlock (v : Word) (s : State) : writePf 0x1C00000 v s = .next s := rfl

theorem readPf_imgAddrLo (s : State) : readPf s 0x200 = s.img.addr % 2 ^ 32 := rfl

theorem readPf_imgAddrHi (s : State) : readPf s 0x204 = s.img.addr / 2 ^ 32 := rfl

theorem readPf_imgLen (s : State) : readPf s 0x208 = s.img.len := rfl

theorem readPf_logCtrl (s : State) : readPf s 0x800004 = s.log.level := rfl

/-! ### SEC_EXT_DATA -/

theorem writeSec_extData {n : Nat} (hn : n < 8) (v : Word) (s : State) :
    writeSec (0x200 + 4 * n) v s = { s with sec := { s.sec with extData := setAt s.sec.extData n v } } := by
  unfold writeSec
  rw [if_neg (by omega), if_neg (by omega), if_neg (by omega), regIdx_entry hn]

theorem readSec_extData {n : Nat} (hn : n < 8) (s : State) : readSec s (0x200 + 4 * n) = (s.sec.extData.getD n 0).toNat := by
  unfold readSec
  rw [if_neg (by omega), if_neg (by omega), if_neg (by omega), if_neg (by omega), regIdx_of_ge (by omega),
    regIdx_of_ge (by omega), regIdx_of_ge (by omega), regIdx_entry hn]

/-- SEC_EXT_DATA[n] lies in the seventh 4 MiB block of the PF's map (R428). -/
theorem extData_block {n : Nat} (hn : n < 8) :
    (0x1800200 + 4 * n) / 0x400000 = 6 ∧ (0x1800200 + 4 * n) % 0x400000 = 0x200 + 4 * n := by omega

theorem writePf_extData {n : Nat} (hn : n < 8) (v : Word) (s : State) : writePf (0x1800200 + 4 * n) v s =
    .next { s with sec := { s.sec with extData := setAt s.sec.extData n v } } := by
  obtain ⟨hblock, hoff⟩ := extData_block hn
  unfold writePf
  rw [hblock, hoff, ← writeSec_extData hn]
  rfl

theorem readPf_extData {n : Nat} (hn : n < 8) (s : State) : readPf s (0x1800200 + 4 * n) = (s.sec.extData.getD n 0).toNat := by
  obtain ⟨hblock, hoff⟩ := extData_block hn
  unfold readPf
  rw [hblock, hoff, ← readSec_extData hn]
  rfl

/-! ### The base of a submission ring -/

/-- Of canonical functions, the one written reads back and every other is as before. -/
theorem vfAt_setVf {s : State} (h : sparseWf {} s.vfs = true) (f g : Nat) (x : Vf) :
    vfAt (setVf s f x) g = if g = f then x else vfAt s g :=
  sparseGet_set _ s.vfs h f g x

theorem sqAt_setSq_same {s : State} (h : sparseWf {} s.vfs = true) {f q : Nat} (hq : q < (vfAt s f).sqs.length) (x : SubRing) :
    sqAt (setSq s f q x) f q = x := by
  simp [sqAt, setSq, vfAt_setVf h, setAt, hq]

theorem vfAt_setSq_ne {s : State} (h : sparseWf {} s.vfs = true) {f g : Nat} (hg : g ≠ f) (q : Nat) (x : SubRing) :
    vfAt (setSq s f q x) g = vfAt s g := by
  simp [setSq, vfAt_setVf h, hg]

/-- The base's low word is the first of the 16 words of ring `q`. -/
theorem regIdx_sqBase {q : Nat} (hq : q < 8) : regIdx 0x1000 128 (0x1000 + 64 * q) = some (16 * q) := by
  have h : 0x1000 + 64 * q = 0x1000 + 4 * (16 * q) := by omega
  rw [h, regIdx_entry (by omega)]

/-- A disabled ring takes the low word of its base, aligned to 4096 bytes (R450). -/
theorem writeVf_sqBase {f : Fin 16} {q : Nat} (hq : q < 8) {s : State} (hoff : bit (sqAt s f q).ctrl 0 = false) (v : Word) :
    writeVf f (0x1000 + 64 * q) v s =
      .next (setSq s f q { sqAt s f q with base := putLo (sqAt s f q).base (v.toNat / 4096 * 4096) }) := by
  unfold writeVf
  rw [if_neg (by omega), if_neg (by omega), if_neg (by omega), regIdx_sqBase hq]
  simp [writeSq, Nat.mod_eq_of_lt hq, hoff]

theorem readVf_sqBase {q : Nat} (hq : q < 8) (s : State) (f : Nat) :
    readVf s f (0x1000 + 64 * q) = (sqAt s f q).base % 2 ^ 32 := by
  unfold readVf
  rw [if_neg (by omega), if_neg (by omega), if_neg (by omega), if_neg (by omega), regIdx_sqBase hq]
  simp

/-! ### The obligation -/

/-- R525: the eight data words of a software extension are plain storage. -/
theorem extData_reads_back {s : State} (hup : hostUp s = true) (hst : s.pow.st ≠ 2) (v : Word) {n : Nat} (hn : n < 8)
    (hlen : n < s.sec.extData.length) :
    ∃ t, exec (.registerWrite 0 (BitVec.ofNat 26 (0x1800200 + 4 * n)) v) s = .next t ∧
      readPf t (0x1800200 + 4 * n) = v.toNat ∧ t = { s with sec := t.sec } := by
  have hoff : (BitVec.ofNat 26 (0x1800200 + 4 * n)).toNat = 0x1800200 + 4 * n := Nat.mod_eq_of_lt (by omega)
  have hwrite := exec_registerWrite_pf hup hst (BitVec.ofNat 26 (0x1800200 + 4 * n)) v
  rw [hoff, writePf_extData hn] at hwrite
  refine ⟨_, hwrite, ?_, rfl⟩
  rw [readPf_extData hn]
  simp [setAt, hlen]

/-- R450: while the ring is disabled its base is plain storage, of which bits 11:0 read zero. -/
theorem sqBase_reads_back {s : State} (hup : hostUp s = true) (hst : s.pow.st ≠ 2) (v : Word) (f : Fin 16) {q : Nat}
    (hq : q < 8) (hdis : bit (sqAt s f q).ctrl 0 = false) (hlen : q < (vfAt s f).sqs.length)
    (hwf : sparseWf {} s.vfs = true) :
    ∃ t, exec (.registerWrite f.succ (BitVec.ofNat 26 (0x1000 + 64 * q)) v) s = .next t ∧
      readVf t f (0x1000 + 64 * q) = v.toNat / 4096 * 4096 ∧ t.mem = s.mem ∧
      ∀ g : Fin 16, g ≠ f → vfAt t g = vfAt s g := by
  have hoff : (BitVec.ofNat 26 (0x1000 + 64 * q)).toNat = 0x1000 + 64 * q := Nat.mod_eq_of_lt (by omega)
  have hword : v.toNat / 4096 * 4096 < 2 ^ 32 := by have := v.isLt; omega
  have hwrite := exec_registerWrite_vf hup hst f (BitVec.ofNat 26 (0x1000 + 64 * q)) v
  rw [hoff, writeVf_sqBase hq hdis] at hwrite
  refine ⟨_, hwrite, ?_, rfl, fun g hg => ?_⟩
  · rw [readVf_sqBase hq, sqAt_setSq_same hwf hlen, putLo_mod _ hword]
  · exact vfAt_setSq_ne hwf (fun h => hg (Fin.ext h)) q _

/-- Settles O55: the write reaches the register at once, and each register's read finds what its write left. -/
theorem registersReadBack : Obligations.RegistersReadBack := by
  intro v s hup hst
  have write := fun off => exec_registerWrite_pf hup hst off v
  refine ⟨⟨_, (write _).trans (writePf_imgAddrLo v s), ?_, ?_, rfl⟩, ⟨_, (write _).trans (writePf_imgLen v s), ?_, rfl⟩,
    ⟨_, (write _).trans (writePf_logCtrl v s), ?_, rfl⟩, (write _).trans (writePf_logWritten v s),
    (write _).trans (writePf_reservedBlock v s), fun n hn hlen => extData_reads_back hup hst v hn hlen,
    fun f q hq hdis hlen hwf => sqBase_reads_back hup hst v f hq hdis hlen hwf⟩
  · rw [readPf_imgAddrLo, putLo_mod _ v.isLt]
  · rw [readPf_imgAddrHi, readPf_imgAddrHi, putLo_div _ v.isLt]
  · rw [readPf_imgLen]
  · rw [readPf_logCtrl]

end Sys2Proof.Machine
end

section
/-!
Running an island's instruction at its pc: what `ctxOf` says of the island, how the outcome settles, and which parts of the
island `advancePc` leaves alone (R185, R187).
-/
namespace Sys2Proof.Machine

/-! ### What stands at the pc -/

/-- The instruction at an island's pc runs there, for the island's task, and sees the island as it stands. -/
theorem ctxOf_some {s : State} {i : Nat} {c : Ctx} (h : ctxOf s i = some c) :
    c.isl = i ∧ c.x = islandAt s i ∧ (islandAt s i).task ≠ none := by
  obtain ⟨hc, -⟩ := Option.filter_eq_some_iff.1 h
  unfold insnAt at hc
  split at hc
  · cases hc
  · rename_i t ht
    dsimp only at hc
    split at hc
    · cases hc
    · split at hc
      · cases hc
      · cases hc
        refine ⟨rfl, rfl, fun hnone => ?_⟩
        simp [taskAt, hnone] at ht

/-- The instruction at the pc runs and its outcome settles, whatever it is. -/
theorem runInsn_settle {s : State} {i : Nat} {c : Ctx} {name : String} {ok : Insn → Bool} {f : Ctx → State → Res}
    (h : ctxOf s i = some c) (hok : ok c.w = true) : runInsn name ok i s f = .next (settle c (f c s)) := by
  have hat : (ctxOf s i).filter (fun c => ok c.w) = some c := by rw [h]; simp [Option.filter, hok]
  simp only [runInsn, hat]

theorem isOp_of {w : Insn} {op : Op} (h : w.op = op) : isOp op w = true := decide_eq_true h

/-- One that does not run asynchronously stalls issue where it waits (R187). -/
theorem holdInsn_stalls {c : Ctx} (h : runsAsync c.w = false) (why : Stall) (s : State) :
    holdInsn c why s = modIsland s c.isl (fun x => { x with stall := some why, firstAt := x.firstAt <|> some s.now }) := by
  simp [holdInsn, h]

/-! ### An island after an update -/

/-- An island that an update leaves out of its reset state is listed as the update made it, whatever the table's form. -/
theorem islandAt_modIsland {s : State} {i : Nat} {f : Island → Island} (h : f (islandAt s i) ≠ {}) :
    islandAt (modIsland s i f) i = f (islandAt s i) := sparseGet_set_self ({} : Island) s.islands i h

/-- An island that runs a task, has issued an instruction of one or stands still is not in its reset state. -/
theorem island_ne_default {x : Island} (h : x.task ≠ none ∨ x.firstAt ≠ none ∨ x.stall ≠ none) : x ≠ {} := by
  rintro rfl
  simp at h

/-- An island that stands still is as it was but for why, and since when its task has issued. -/
theorem islandAt_stalled (s : State) (i : Nat) (why : Stall) (now : Nat) :
    islandAt (modIsland s i (fun x => { x with stall := some why, firstAt := x.firstAt <|> some now })) i =
      { islandAt s i with stall := some why, firstAt := (islandAt s i).firstAt <|> some now } :=
  islandAt_modIsland (island_ne_default (.inr (.inr nofun)))

/-- Leaving an instruction touches the walk alone: pc and loops. -/
theorem leaveInsn_frame (t : Task) (n : Nat) (x : Island) (last : Nat) :
    ∃ p l k, leaveInsn t n x last = { x with pc := p, loopIdx := l, loopTrip := k } := by
  induction n generalizing x with
  | zero => exact ⟨last + 1, x.loopIdx, x.loopTrip, rfl⟩
  | succ n ih =>
    simp only [leaveInsn]
    split
    · exact ⟨last + 1, x.loopIdx, x.loopTrip, rfl⟩
    · split
      · exact ⟨_, _, x.loopTrip, rfl⟩
      · obtain ⟨p, l, k, h⟩ := ih { x with loopTrip := _, loopIdx := _ }
        exact ⟨p, l, k, h⟩

/-- So does entering loops. -/
theorem enterLoops_frame (t : Task) (n : Nat) (x : Island) :
    ∃ p l k, enterLoops t n x = { x with pc := p, loopIdx := l, loopTrip := k } := by
  induction n generalizing x with
  | zero => exact ⟨x.pc, x.loopIdx, x.loopTrip, rfl⟩
  | succ n ih =>
    simp only [enterLoops]
    split
    · exact ⟨x.pc, x.loopIdx, x.loopTrip, rfl⟩
    · split
      · exact ⟨x.pc, x.loopIdx, x.loopTrip, rfl⟩
      · split
        · obtain ⟨p, l, k, h⟩ := ih { x with loopTrip := _, loopIdx := _ }
          exact ⟨p, l, k, h⟩
        · rename_i lp _ _
          obtain ⟨p, l, k, hleave⟩ := leaveInsn_frame t (t.prog.loops.length + 1) x lp.last
          obtain ⟨p', l', k', h⟩ := ih (leaveAt t x lp.last)
          refine ⟨p', l', k', h.trans ?_⟩
          simp only [leaveAt, hleave]

/-- The island that has moved on differs in its walk, its stall and its progress alone. -/
theorem advancePc_frame (t : Task) (x : Island) : ∃ p l k, advancePc t x =
    { x with pc := p, loopIdx := l, loopTrip := k, stall := none, progress := 0 } := by
  obtain ⟨p, l, k, hleave⟩ := leaveInsn_frame t (t.prog.loops.length + 1) { x with stall := none, progress := 0 } x.pc
  obtain ⟨p', l', k', henter⟩ := enterLoops_frame t walkFuel (leaveAt t { x with stall := none, progress := 0 } x.pc)
  refine ⟨p', l', k', henter.trans ?_⟩
  simp only [leaveAt, hleave]

theorem advancePc_firstAt (t : Task) (x : Island) : (advancePc t x).firstAt = x.firstAt := by
  obtain ⟨_, _, _, h⟩ := advancePc_frame t x; rw [h]

theorem advancePc_arrivedAt (t : Task) (x : Island) : (advancePc t x).arrivedAt = x.arrivedAt := by
  obtain ⟨_, _, _, h⟩ := advancePc_frame t x; rw [h]

/-- The island of an instruction that has completed, moved on from where it stood. -/
theorem islandAt_advanced (c : Ctx) (s : State) : islandAt (Safety.advanced c s) c.isl =
    advancePc c.t { islandAt s c.isl with firstAt := (islandAt s c.isl).firstAt <|> some s.now } := by
  refine islandAt_modIsland (island_ne_default (.inr (.inl ?_)))
  rw [advancePc_firstAt]
  cases (islandAt s c.isl).firstAt <;> simp

/-! ### Semaphores and barriers -/

/-- A signal adds to its semaphore, saturating, and to no other (R192). -/
theorem semAt_semAdd {s : State} (hwf : sparseWf 0 s.sems = true) (n k m : Nat) :
    semAt (semAdd s n k) m = if m = n then min (2 ^ 32 - 1) (semAt s n + k) else semAt s m :=
  sparseGet_set 0 s.sems hwf n m _

/-- A barrier after an arrival: the last member turns its phase, an earlier one is counted (R193, R372). -/
theorem barAt_arriveAt {s : State} (hwf : sparseWf {} s.bars = true) (n size : Nat) : barAt (arriveAt s n size) n =
    if (barAt s n).arrived + 1 ≥ size then ⟨0, ((barAt s n).phase + 1) % 128⟩ else ⟨(barAt s n).arrived + 1, (barAt s n).phase⟩ := by
  unfold barAt arriveAt
  rw [sparseGet_set {} s.bars hwf, if_pos rfl]
  rfl

/-- A turn of the phase shows: the seven bits of a barrier's phase never come back to themselves in one step (R193). -/
theorem phase_turns {p : Nat} (h : p < 128) : (p + 1) % 128 ≠ p := by
  have hle : p + 1 ≤ 128 := h
  omega

end Sys2Proof.Machine
end

section
/-! WAIT, SIGNAL, ARRIVE and FENCE at the pc (R27, R192, R193, R372). -/
namespace Sys2Proof.Machine

variable {i : Fin 256} {s : State} {c : Ctx}

theorem wait_completes (hc : ctxOf s i = some c) (hop : c.w.op = .wait) (hrange : semInRange s c.t.desc.domain c.w.imm1 = true)
    (hcount : c.w.imm2 ≤ semAt s c.w.imm1) : exec (.wait i) s = .next (Safety.advanced c s) :=
  runInsn_next hc (isOp_of hop) (by simp [waitRes, hrange, hcount])

theorem wait_stands (hc : ctxOf s i = some c) (hop : c.w.op = .wait) (hrange : semInRange s c.t.desc.domain c.w.imm1 = true)
    (hcount : semAt s c.w.imm1 < c.w.imm2) : exec (.wait i) s = .next (modIsland s i (fun x =>
      { x with stall := some .semaphore, firstAt := x.firstAt <|> some s.now })) := by
  obtain ⟨hisl, -, -⟩ := ctxOf_some hc
  have hwait : waitRes c s = .wait s .semaphore := by simp [waitRes, hrange, hcount]
  refine (runInsn_settle hc (isOp_of hop)).trans ?_
  rw [hwait]
  show Host.Outcome.next (holdInsn c .semaphore s) = _
  rw [holdInsn_stalls (by simp [runsAsync, hop]), hisl]

theorem signal_adds (hc : ctxOf s i = some c) (hop : c.w.op = .signal) (hgang : c.w.x < c.t.desc.gangSemCount)
    (hsends : sendsLanded s i = true) (hissued : issuedBefore s i c.id = true) :
    exec (.signal i) s = .next (Safety.advanced c (semAdd s (gangSem c.t.desc c.w.x) c.w.imm2)) := by
  obtain ⟨hisl, -, -⟩ := ctxOf_some hc
  exact runInsn_next hc (isOp_of hop) (by simp [signalRes, hgang, hisl, hsends, hissued])

theorem signal_is_kept (hc : ctxOf s i = some c) (hop : c.w.op = .signal) (hgang : c.w.x < c.t.desc.gangSemCount)
    (hbehind : sendsLanded s i = false ∨ issuedBefore s i c.id = false) :
    exec (.signal i) s = .next (Safety.advanced c (modIsland s i (fun x =>
      { x with sigs := x.sigs ++ [⟨gangSem c.t.desc c.w.x, c.w.imm2, outstanding s i, c.id⟩] }))) := by
  obtain ⟨hisl, -, -⟩ := ctxOf_some hc
  have hnot : (sendsLanded s i && issuedBefore s i c.id) = false := Bool.and_eq_false_iff.2 hbehind
  exact runInsn_next hc (isOp_of hop) (by simp [signalRes, hgang, hisl, hnot])

/-- The last arrival turns the barrier's phase, so that the island goes on (R193). -/
theorem arrive_last {n : Nat} (hc : ctxOf s i = some c) (hop : c.w.op = .arrive) (hbar : c.t.desc.gangBarrier = some n)
    (hfirst : c.x.arrivedAt = none) (hsends : sendsLanded s i = true) (hissued : issuedBefore s i c.id = true)
    (hwf : sparseWf {} s.bars = true) (hphase : (barAt s n).phase < 128)
    (hlast : c.t.desc.gangSize ≤ (barAt s n).arrived + 1) : exec (.arrive i) s = .next (Safety.advanced c
      (modIsland (arriveAt s n c.t.desc.gangSize) i (fun x => { x with arrivedAt := none }))) := by
  obtain ⟨hisl, -, -⟩ := ctxOf_some hc
  have hturned : (barAt (arriveAt s n c.t.desc.gangSize) n).phase ≠ (barAt s n).phase := by
    rw [barAt_arriveAt hwf, if_pos hlast]
    exact phase_turns hphase
  exact runInsn_next hc (isOp_of hop) (by simp [arriveRes, hbar, hfirst, hisl, hsends, hissued, hturned])

/-- An earlier arrival is counted, and the island waits for the phase to turn (R193). -/
theorem arrive_early {n : Nat} (hc : ctxOf s i = some c) (hop : c.w.op = .arrive) (hbar : c.t.desc.gangBarrier = some n)
    (hfirst : c.x.arrivedAt = none) (hsends : sendsLanded s i = true) (hissued : issuedBefore s i c.id = true)
    (hwf : sparseWf {} s.bars = true) (hearly : (barAt s n).arrived + 1 < c.t.desc.gangSize) :
    exec (.arrive i) s = .next (modIsland (modIsland (arriveAt s n c.t.desc.gangSize) i
      (fun x => { x with arrivedAt := some (barAt s n).phase })) i
      (fun x => { x with stall := some .barrier, firstAt := x.firstAt <|> some s.now })) := by
  obtain ⟨hisl, -, -⟩ := ctxOf_some hc
  have hsame : (barAt (arriveAt s n c.t.desc.gangSize) n).phase = (barAt s n).phase := by
    rw [barAt_arriveAt hwf, if_neg (by omega)]
  have hwait : arriveRes c s = .wait (modIsland (arriveAt s n c.t.desc.gangSize) i
      (fun x => { x with arrivedAt := some (barAt s n).phase })) .barrier := by
    simp [arriveRes, hbar, hfirst, hisl, hsends, hissued, hsame]
  refine (runInsn_settle hc (isOp_of hop)).trans ?_
  rw [hwait]
  show Host.Outcome.next (holdInsn c .barrier _) = _
  rw [holdInsn_stalls (by simp [runsAsync, hop]), hisl]
  rfl

theorem fence_goes_on (hc : ctxOf s i = some c) (hop : c.w.op = .fence) (hquiet : quiet s c = true) :
    exec (.fence i) s = .next (Safety.advanced c s) :=
  runInsn_next hc (isOp_of hop) (by simp [fenceRes, hquiet])

/-- The island of the last arrival stands where it would after any instruction, with no arrival of its own left. -/
theorem islandAt_after_last_arrival (hc : ctxOf s i = some c) (hfirst : c.x.arrivedAt = none) (n size : Nat) :
    islandAt (Safety.advanced c (modIsland (arriveAt s n size) i (fun x => { x with arrivedAt := none }))) i =
      islandAt (Safety.advanced c s) i := by
  obtain ⟨hisl, hx, htask⟩ := ctxOf_some hc
  have hinner : islandAt (modIsland (arriveAt s n size) i (fun x => { x with arrivedAt := none })) i = islandAt s i := by
    refine (islandAt_modIsland (island_ne_default (.inl htask))).trans ?_
    show ({ islandAt s i with arrivedAt := none } : Island) = islandAt s i
    rw [← hfirst, hx]
  rw [← hisl, islandAt_advanced, islandAt_advanced, hisl, hinner]
  rfl

/-- The island of an earlier arrival stands at its barrier. -/
theorem islandAt_after_early_arrival (hc : ctxOf s i = some c) (n size ph : Nat) :
    islandAt (modIsland (modIsland (arriveAt s n size) i (fun x => { x with arrivedAt := some ph })) i
      (fun x => { x with stall := some .barrier, firstAt := x.firstAt <|> some s.now })) i =
      { islandAt s i with
        arrivedAt := some ph, stall := some .barrier, firstAt := (islandAt s i).firstAt <|> some s.now } := by
  obtain ⟨-, -, htask⟩ := ctxOf_some hc
  rw [islandAt_stalled, islandAt_modIsland (island_ne_default (.inl htask))]
  rfl

/-- Settles O30: each instruction's outcome at the pc, and what its next state shows of the reef and the island. -/
theorem semaphoresAndBarriers : Obligations.SemaphoresAndBarriers := by
  intro i s c hc
  obtain ⟨hisl, hx, htask⟩ := ctxOf_some hc
  refine ⟨fun hop hrange => ⟨wait_completes hc hop hrange, wait_stands hc hop hrange⟩,
    fun hop hgang hsends hissued hwf => ⟨_, signal_adds hc hop hgang hsends hissued, rfl, rfl, ?_, fun n hn => ?_⟩,
    signal_is_kept hc, fun n hop hbar hfirst hsends hissued hwf hphase => ⟨fun hlast => ?_, fun hearly => ?_⟩, fence_goes_on hc⟩
  · exact (semAt_semAdd hwf _ _ _).trans (if_pos rfl)
  · exact (semAt_semAdd hwf _ _ _).trans (if_neg hn)
  · have hisland := islandAt_after_last_arrival hc hfirst n c.t.desc.gangSize
    refine ⟨_, arrive_last hc hop hbar hfirst hsends hissued hwf hphase hlast, rfl, rfl,
      (barAt_arriveAt hwf _ _).trans (if_pos hlast), ?_, by rw [hisland]⟩
    rw [hisland, ← hisl, islandAt_advanced, advancePc_arrivedAt, hisl, ← hx]
    exact hfirst
  · have hisland := islandAt_after_early_arrival hc n c.t.desc.gangSize (barAt s n).phase
    exact ⟨_, arrive_early hc hop hbar hfirst hsends hissued hwf hearly, rfl,
      (barAt_arriveAt hwf _ _).trans (if_neg (by omega)), by rw [hisland], by rw [hisland]⟩

end Sys2Proof.Machine
end

section
/-! Bundles on straits: SEND, SEND_RESUME, RECV and the links of a route (R22, R24, R26, R27). -/
namespace Sys2Proof.Machine

/-! ### What the release of signals leaves alone -/

/-- Signals that take effect change semaphores alone (R192). -/
theorem applySignals_frame (s : State) (l : List SemRef) : ∃ m, applySignals s l = { s with sems := m } := by
  induction l generalizing s with
  | nil => exact ⟨s.sems, rfl⟩
  | cons e l ih =>
    obtain ⟨m, h⟩ := ih (semAdd s e.1 e.2)
    exact ⟨m, h⟩

theorem releaseSignals_frame (s : State) (i : Nat) :
    ∃ x m, releaseSignals s i = { s with islands := x, sems := m } := by
  simp only [releaseSignals]
  split
  · exact ⟨s.islands, s.sems, rfl⟩
  · obtain ⟨m, h⟩ := applySignals_frame (setIsland s i { islandAt s i with sigs := _ }) _
    exact ⟨_, m, h⟩

/-- A bundle that has left its route changes islands and semaphores alone, through the signals behind it (R27). -/
theorem bundleLanded_frame (s : State) (i ch : Nat) : ∃ x m, bundleLanded s i ch = { s with islands := x, sems := m } := by
  obtain ⟨x, m, h⟩ := releaseSignals_frame (modIsland s i _) i
  exact ⟨x, m, h⟩

/-! ### SEND and SEND_RESUME -/

section Send
variable {i : Fin 256} {s : State} {c : Ctx} {x : Strait} {b : List Byte}
  (hc : ctxOf s i = some c) (hstrait : straitOf s i c.w.x = some x) (hroom : sendRoom s x = true)
include hc hstrait hroom

/-- One bundle enters the route of an open strait with room (R22, R26). -/
theorem sendRes_one (hcount : c.w.count = 1) (hstart : c.x.progress = 0)
    (hbytes : scratchUse c (agAt c c.w.ag1 c.w.imm1) 128 = .ok b) (hfence : c.x.stall ≠ some .fenced) :
    sendRes c s = .next (pushBundle s x ⟨b, (islandAt s i).epoch, 0⟩) := by
  obtain ⟨hisl, -, -⟩ := ctxOf_some hc
  simp [sendRes, hfence, hcount, hstart, sendFrom, hisl, hstrait, hbytes, hroom]

/-- A SEND that stands at a full FIFO, whose strait has room again, is one that SEND_RESUME takes up (R26). -/
theorem sendResume_runs (hop : c.w.op = .send) (hstall : (islandAt s i).stall = some .sendFull) :
    exec (.sendResume i) s = runInsn "SEND_RESUME" (isOp .send) i s sendRes := by
  have hstands : c.w.x ∈ sendsStanding s i := by simp [sendsStanding, hc, hstall, hop]
  have hready : (sendsStanding s i).any (fun ch => (straitOf s i ch).any (sendRoom s)) = true :=
    List.any_eq_true.2 ⟨c.w.x, hstands, by simp [hstrait, hroom]⟩
  show execSendResume i s = _
  rw [execSendResume, if_pos hready]

end Send

/-! ### RECV -/

/-- The oldest bundle leaves the FIFO for the scratchpad (R26). -/
theorem recvRes_one {i : Fin 256} {s : State} {c : Ctx} {b : Bundle} {l : List Bundle} (hc : ctxOf s i = some c)
    (hcount : c.w.count = 1) (hstart : c.x.progress = 0) (hfifo : fifoOf s i c.w.x = b :: l)
    (hpad : inScratch c (agAt c c.w.ag3 0) 128 = true) :
    recvRes c s = .next (modIsland { s with fifos := sparseSet [] s.fifos (i.val * 8 + c.w.x) l } c.isl
      (fun x => putScratch x (agAt c c.w.ag3 0).toNat (clean b.data))) := by
  obtain ⟨hisl, -, -⟩ := ctxOf_some hc
  have hold : sparseGet [] s.fifos (i.val * 8 + c.w.x) = b :: l := hfifo
  simp [recvRes, hcount, hstart, recvFrom, hisl, hold, hpad]

/-! ### STRAIT_BUNDLE -/

section Route
variable {s : State} {i ch : Nat} {f : Flight} {fs : List Flight} {b : Bundle} {bs : List Bundle}
  (hroute : flightsOf s i ch = f :: fs) (hfront : f.bundles = b :: bs)
include hroute hfront

/-- The foremost bundle goes one link on (R22). -/
theorem moveBundle_onward (hlink : b.pos + 1 < f.strait.hops) : moveBundle s i ch = some { s with
    flights := sparseSet [] s.flights (i * 8 + ch) ({ f with bundles := { b with pos := b.pos + 1 } :: bs } :: fs) } := by
  have hfl : sparseGet [] s.flights (i * 8 + ch) = f :: fs := hroute
  simp only [moveBundle, hfl, hfront, if_neg (Nat.not_le.2 hlink)]

/-- Over the last link it enters the receive FIFO behind those that came before; beside that only islands and semaphores
change, of the island that it wakes and of the signals that waited for it (R24, R27, R485). -/
theorem moveBundle_lands (hlast : f.strait.hops ≤ b.pos + 1) (hopen : f.strait ∈ s.conf.straits)
    (hfree : (fifoOf s f.strait.dst f.strait.rch).length < 16) (hepoch : b.epoch = (islandAt s f.strait.dst).epoch) :
    ∃ x m, moveBundle s i ch = some { s with
      flights := sparseSet [] s.flights (i * 8 + ch) (if bs.isEmpty then fs else { f with bundles := bs } :: fs)
      fifos := sparseSet [] s.fifos (f.strait.dst * 8 + f.strait.rch) (fifoOf s f.strait.dst f.strait.rch ++ [b])
      islands := x
      sems := m } := by
  have hfl : sparseGet [] s.flights (i * 8 + ch) = f :: fs := hroute
  have hcontains : s.conf.straits.contains f.strait = true := List.contains_iff_mem.2 hopen
  obtain ⟨x, m, h⟩ := bundleLanded_frame (modIsland { s with
      flights := sparseSet [] s.flights (i * 8 + ch) (if bs.isEmpty then fs else { f with bundles := bs } :: fs)
      fifos := sparseSet [] s.fifos (f.strait.dst * 8 + f.strait.rch) (fifoOf s f.strait.dst f.strait.rch ++ [b]) } f.strait.dst
        (fun y => { y with dozing := false })) i ch
  refine ⟨x, m, Eq.trans ?_ (congrArg some h)⟩
  simp only [moveBundle, hfl, hfront, ge_iff_le, if_pos hlast, hepoch, decide_true, Bool.true_or, Bool.not_true,
    Bool.false_eq_true, if_false, if_pos hcontains, if_pos hfree]

end Route

theorem straitBundle_moves {i : Fin 256} {ch : Fin 8} {s t : State} (h : moveBundle s i ch = some t) :
    exec (.straitBundle i ch) s = .next t := by
  show execStraitBundle i ch s = _
  simp only [execStraitBundle, h]

/-- Settles O24: each command's effect at the pc or on the route. -/
theorem straitsCarryBundles : Obligations.StraitsCarryBundles := by
  refine ⟨fun i s c x b hc hop hcount hstart hstrait hbytes hroom hfence => ?_,
    fun i s c b l hc hop hcount hstart hfifo hpad =>
      runInsn_next hc (isOp_of hop) (recvRes_one hc hcount hstart hfifo hpad),
    fun i ch s f fs b bs hroute hfront => ⟨fun hlink => straitBundle_moves (moveBundle_onward hroute hfront hlink),
      fun hlast hopen hfree hepoch => ?_⟩⟩
  · have hsend := sendRes_one hc hstrait hroom hcount hstart hbytes hfence
    exact ⟨runInsn_next hc (isOp_of hop) hsend, fun hstall =>
      (sendResume_runs hc hstrait hroom hop hstall).trans (runInsn_next hc (isOp_of hop) hsend)⟩
  · obtain ⟨x, m, hlands⟩ := moveBundle_lands hroute hfront hlast hopen hfree hepoch
    exact ⟨_, straitBundle_moves hlands, rfl, rfl, fun hwf => (sparseGet_set [] s.fifos hwf _ _ _).trans (if_pos rfl)⟩

end Sys2Proof.Machine
end

section
/-! ISL_IDENT in the register map (R30, R428, R429). -/
namespace Sys2Proof.Machine

section Place
variable {a x y : Nat} (hx : x < 8) (hy : y < 8)
include hx hy

/-- The first register of island (x, y) of atoll `a` lies in the PF's block 8 + a, in that window's fifth part. -/
theorem islIdent_block : (0x2000000 + a * 0x400000 + 4 * 0x40000 + (8 * y + x) * 0x1000) / 0x400000 = 8 + a ∧
    (0x2000000 + a * 0x400000 + 4 * 0x40000 + (8 * y + x) * 0x1000) % 0x400000 = 0x100000 + (8 * y + x) * 0x1000 := by omega

/-- The fields of ISL_IDENT (R30). -/
theorem islIdent_fields (ha : a < 4) : islIdent (64 * a + (8 * y + x)) =
    x + 8 * y + 64 * a + 256 * (64 * a + 8 * y + x) + 65536 * (a % 2) + 1048576 * (a / 2) := by
  have hatoll : (64 * a + (8 * y + x)) / 64 = a := by omega
  have hcol : (64 * a + (8 * y + x)) % 8 = x := by omega
  simp only [islIdent, fld, hatoll, hcol]
  omega

end Place

/-- The first register of an island's page is ISL_IDENT (R429). -/
theorem readAtoll_islIdent (s : State) (a : Nat) {k : Nat} (hk : k < 64) :
    readAtoll s a (0x100000 + k * 0x1000) = islIdent (64 * a + k) := by
  have hpart : (0x100000 + k * 0x1000) / 0x40000 = 4 := by omega
  have hreg : (0x100000 + k * 0x1000) % 0x1000 = 0 := by omega
  have hisl : (0x100000 + k * 0x1000) % 0x40000 / 0x1000 = k := by omega
  simp only [readAtoll, hpart, hreg, hisl, if_pos]

/-- The PF's blocks 8 to 11 are the windows of the atolls (R428). -/
theorem readPf_atoll (s : State) {a off : Nat} (ha : a < 4) (hblock : off / 0x400000 = 8 + a) :
    readPf s off = readAtoll s a (off % 0x400000) := by
  unfold readPf
  rw [hblock]
  match a, ha with
  | 0, _ => rfl
  | 1, _ => rfl
  | 2, _ => rfl
  | 3, _ => rfl

/-- Settles O46: the address names the island, and its page's first register the island's place. -/
theorem islandsIdentifyThemselves : Obligations.IslandsIdentifyThemselves := by
  intro s a x y ha hx hy
  obtain ⟨hblock, hoff⟩ := islIdent_block hx hy
  rw [readPf_atoll s ha hblock, hoff, readAtoll_islIdent s a (by omega), islIdent_fields hx hy ha]

end Sys2Proof.Machine
end

section
/-!
What leaves the structure-image engine and the mirror store alone: of all that a rollback undoes, only its own end writes them
(R52, R53).
-/
namespace Sys2Proof.Machine

/-- The image engine and the mirror store. -/
def imageOf (s : State) : Img × Mirror := (s.img, s.mir)

theorem imageOf_of {s t : State} (himg : s.img = t.img) (hmir : s.mir = t.mir) : imageOf s = imageOf t := Prod.ext himg hmir

theorem imageOf_img {s t : State} (h : imageOf s = imageOf t) : s.img = t.img := congrArg Prod.fst h

theorem imageOf_mir {s t : State} (h : imageOf s = imageOf t) : s.mir = t.mir := congrArg Prod.snd h

/-- A step that is skipped where a condition fails keeps them if the step does. -/
theorem imageOf_ite {c : Prop} [Decidable c] {s t u : State} (hs : imageOf s = imageOf u) (ht : imageOf t = imageOf u) :
    imageOf (if c then s else t) = imageOf u := by
  split
  · exact hs
  · exact ht

theorem imageOf_foldl {α : Type} {f : State → α → State} {l : List α} {s : State}
    (hf : ∀ s a, imageOf (f s a) = imageOf s) : imageOf (l.foldl f s) = imageOf s := foldl_keep imageOf f hf l s

/-! ### Events, the log and completion records -/

theorem raise_image (n : Nat) (s : State) : imageOf (raise n s) = imageOf s :=
  imageOf_of (by simp) (by simp)

theorem logE_image (sev : Nat) (code : Status) (src : Option Nat) (d : Nat) (b : List Byte) (s : State) :
    imageOf (logE sev code src d b s) = imageOf s :=
  imageOf_of (by simp) (by simp)

theorem complete_image (src : Src) (st : Status) (r : Nat) (s : State) : imageOf (complete src st r s) = imageOf s :=
  imageOf_of (by simp) (by simp)

theorem evRefresh_image (s : State) : imageOf (evRefresh s) = imageOf s :=
  imageOf_of (by simp) (by simp)

theorem maskWord_image (n : Nat) (v : Word) (s : State) : imageOf (maskWord n v s) = imageOf s :=
  imageOf_ite rfl (imageOf_ite (evRefresh_image _) (evRefresh_image _))

theorem reclaim_image (t : Nat) (s : State) : imageOf (reclaim t s) = imageOf s := by
  unfold reclaim
  exact Eq.trans (imageOf_foldl fun s c => raise_image c.1 s) (imageOf_of rfl rfl)

/-! ### Groups and ports -/

theorem grantPool_image (arch : Bool) (n : Nat) (s : State) : imageOf (grantPool arch n s) = imageOf s := by
  induction n generalizing s with
  | zero => rfl
  | succ n ih =>
    unfold grantPool
    split
    · rfl
    · dsimp only
      split
      · split
        · rfl
        · exact imageOf_ite (ih _) rfl
      · exact ih _

theorem releaseColl_image (s : State) (c : Coll) : imageOf (releaseColl s c) = imageOf s :=
  (grantPool_image true _ _).trans (grantPool_image false _ _)

theorem quitColl_image (s : State) (c : Coll) (st : Status) : imageOf (quitColl s c st) = imageOf s :=
  (releaseColl_image _ c).trans ((complete_image _ _ _ _).trans (logE_image _ _ _ _ _ s))

theorem endColl_image (s : State) (c : Coll) (st : Status) : imageOf (endColl s c st) = imageOf s :=
  (quitColl_image _ c st).trans (imageOf_ite rfl rfl)

theorem partGroup_image (keep : Bool) (s : State) (g : Group) : imageOf (partGroup keep s g) = imageOf s :=
  Eq.trans (imageOf_of rfl rfl) (imageOf_foldl fun s c => imageOf_ite (quitColl_image s c _) (endColl_image s c _))

theorem partGroups_image (keep : Bool) (s : State) (d : Nat) : imageOf (partGroups keep s d) = imageOf s := by
  unfold partGroups
  refine Eq.trans (imageOf_foldl fun s j => ?_) (imageOf_foldl fun s g => ?_)
  · exact (complete_image j.src _ _ _).trans (imageOf_of rfl rfl)
  · exact (partGroup_image keep _ g).trans (imageOf_of rfl rfl)

theorem leaveAllGroups_image (s : State) : imageOf (leaveAllGroups s) = imageOf s :=
  imageOf_foldl (partGroups_image false)

theorem retrainPorts_image (s : State) (ps : List Nat) : imageOf (retrainPorts s ps) = imageOf s := by
  unfold retrainPorts
  exact imageOf_foldl fun _ _ => rfl

theorem settleRole_image (s : State) : imageOf (settleRole s) = imageOf s := imageOf_ite rfl rfl

/-! ### The segments that take effect at once, and what a rollback sets back -/

theorem applyLink_image (new : LinkRec) (s : State) : imageOf (applyLink new s) = imageOf s := by
  unfold applyLink
  refine (settleRole_image _).trans ((retrainPorts_image _ _).trans ((imageOf_of rfl rfl).trans ?_))
  exact imageOf_ite rfl (leaveAllGroups_image s)

theorem applyPower_image (s : State) : imageOf (applyPower s) = imageOf s := by
  unfold applyPower
  exact imageOf_foldl fun _ _ => imageOf_ite rfl rfl

theorem applyEvent_image (b : List Byte) (s : State) : imageOf (applyEvent b s) = imageOf s := by
  unfold applyEvent
  refine (evRefresh_image _).trans (Eq.trans (imageOf_foldl fun s n => maskWord_image n _ s) ?_)
  exact imageOf_of rfl rfl

theorem loadCore_image (c : Nat) (fw : Nat × List Byte) (s : State) : imageOf (loadCore c fw s) = imageOf s :=
  (reclaim_image c _).trans (imageOf_of rfl rfl)

theorem endPrepare_image (g : GroupState) (s : State) : imageOf (endPrepare g s) = imageOf s := by
  unfold endPrepare
  exact Eq.trans (imageOf_foldl fun _ _ => imageOf_ite rfl rfl) (imageOf_foldl fun _ _ => rfl)

theorem restoreStores_image (g : GroupState) (t : Conf) (s : State) : imageOf (restoreStores g t s) = imageOf s := by
  unfold restoreStores
  exact imageOf_foldl fun _ _ => rfl

theorem restoreCores_image (g : GroupState) (old : Conf) (s : State) : imageOf (restoreCores g old s) = imageOf s := by
  unfold restoreCores
  exact imageOf_foldl fun s c => loadCore_image c _ s

theorem restoreEvc_image (t : Conf) (s : State) : imageOf (restoreEvc t s) = imageOf s := by
  unfold restoreEvc
  split
  · exact applyEvent_image _ s
  · refine (evRefresh_image _).trans (Eq.trans (imageOf_foldl fun s n => maskWord_image n _ s) ?_)
    exact imageOf_of rfl rfl

theorem setEpochs_image (e : Nat) (s : State) : imageOf (setEpochs e s) = imageOf s := by
  unfold setEpochs
  exact imageOf_foldl fun _ _ => rfl

/-! ### Rollback -/

/-- Without a fault of the mirror store, a rollback ends with the group and those behind it gone; what it undoes before lies
outside the image engine (R52-R54). -/
theorem rollbackFrom_good {s : State} {g : GroupState} (hcur : s.img.cur = some g) (hbad : s.mir.bad = false)
    (src : Option Nat) (st : Status) : ∃ u, imageOf u = imageOf s ∧ rollbackFrom src st s = imgPhase 8 (logE 2 st src 0xFF []
      { u with img := { u.img with cur := none, left := [], staged := none, status := st } }) := by
  unfold rollbackFrom
  rw [hcur]
  dsimp -zeta only
  extract_lets old begun prepared stores ports banks clocks events epochs img ended logged faulted
  have hprepared : imageOf prepared = imageOf s := endPrepare_image g s
  clear_value prepared
  have hstores : imageOf stores = imageOf s := (restoreStores_image _ _ _).trans ((imageOf_of rfl rfl).trans hprepared)
  clear_value stores
  have hports : imageOf ports = imageOf s := imageOf_ite ((applyLink_image _ _).trans hstores) hstores
  clear_value ports
  have hbanks : imageOf banks = imageOf s := Eq.trans (imageOf_foldl fun _ _ => rfl) hports
  clear_value banks
  have hclocks : imageOf clocks = imageOf s :=
    imageOf_ite ((applyPower_image _).trans ((restoreCores_image _ _ _).trans hbanks)) hbanks
  clear_value clocks
  have hevents : imageOf events = imageOf s := imageOf_ite ((restoreEvc_image _ _).trans hclocks) hclocks
  clear_value events
  have hepochs : imageOf epochs = imageOf s := (setEpochs_image _ _).trans hevents
  clear_value epochs
  have hgood : logged.mir.bad = false := by rw [logE_mir, ← hbad, ← imageOf_mir hepochs]
  refine ⟨epochs, hepochs, ?_⟩
  exact congrArg (imgPhase 8) (if_neg (by simp [hgood]))

end Sys2Proof.Machine
end

section
/-!
STAGE, APPLY and ABORT of the structure image: the state each leaves the image engine in (R39, R41, R47, R52, R491).
-/
namespace Sys2Proof.Machine

/-! ### The host's access -/

/-- An image command that the link carries acts on the woken module with its DRAIN_BE written (R57). -/
theorem hostImage_runs {s : State} (hup : hostUp s = true) (k : State → State) (n : Nat) :
    (.next (viaHost s (fun s => k (setDrain n s))) : Outcome) = .next (k (setDrain n (wakeS2 s))) := by
  rw [viaHost_up hup]

/-- What an access with its DRAIN_BE value leaves of the image engine. -/
theorem drained_img (n : Nat) (s : State) : (setDrain n (wakeS2 s)).img = { s.img with drainBe := n } := by
  rw [← wakeS2_img s]; rfl

theorem drained_mir (n : Nat) (s : State) : (setDrain n (wakeS2 s)).mir = s.mir := by
  simp only [setDrain, wakeS2]; split <;> simp

theorem drained_conf (n : Nat) (s : State) : (setDrain n (wakeS2 s)).conf = s.conf := wakeS2_conf s

theorem drained_mem (n : Nat) (s : State) : (setDrain n (wakeS2 s)).mem = s.mem := wakeS2_mem s

theorem drained_doms (n : Nat) (s : State) : (setDrain n (wakeS2 s)).doms = s.doms := wakeS2_doms s

/-- Leaving S2 does not bear on the training of DRAM. -/
theorem drained_trained (n : Nat) (s : State) : (setDrain n (wakeS2 s)).pow.trained = s.pow.trained := by
  simp only [setDrain, wakeS2]; split <;> simp

theorem drained_busy (n : Nat) (s : State) : imgBusy (setDrain n (wakeS2 s)) = imgBusy s := by
  simp only [imgBusy, drained_img]

/-! ### STAGE -/

/-- A refusal of STAGE sets the image engine's status and phase, with nothing staged. -/
theorem refuseImage_img (st : Status) (s : State) :
    (refuseImage st s).img = { s.img with status := st, staged := none, groupsDone := 0, phase := 8 } := by
  unfold refuseImage
  rw [imgPhase_img]
  split <;> simp

/-- It leaves the configuration in force, DRAM and the domains. -/
theorem refuseImage_frame (st : Status) (s : State) :
    (refuseImage st s).conf = s.conf ∧ (refuseImage st s).mem = s.mem ∧ (refuseImage st s).doms = s.doms := by
  unfold refuseImage
  simp only [imgPhase_conf, imgPhase_mem, imgPhase_doms]
  split <;> simp

/-- STAGE leaves the configuration in force, DRAM and the domains. -/
theorem stageImage_frame (s : State) :
    (stageImage s).conf = s.conf ∧ (stageImage s).mem = s.mem ∧ (stageImage s).doms = s.doms := by
  unfold stageImage
  split
  · exact ⟨rfl, rfl, rfl⟩
  · split
    · exact refuseImage_frame _ s
    · split
      · exact refuseImage_frame _ s
      · simp [imgPhase_conf, imgPhase_mem, imgPhase_doms]

theorem stageImage_verifies {s : State} (hidle : imgBusy s = false) (hlen : s.img.len ≤ 0x800000) {x : Staged}
    (hok : verifyImage s (hostBytes s s.img.addr s.img.len) s.img.len = .ok x) :
    (stageImage s).img = { s.img with status := .success, staged := some x, groupsDone := 0, phase := 2 } := by
  unfold stageImage
  rw [if_neg (by simp [hidle]), if_neg (by omega), hok]
  exact imgPhase_img _ _

theorem stageImage_refuses {s : State} (hidle : imgBusy s = false) (hlen : s.img.len ≤ 0x800000) {e : Status}
    (hbad : verifyImage s (hostBytes s s.img.addr s.img.len) s.img.len = .error e) :
    (stageImage s).img = { s.img with status := e, staged := none, groupsDone := 0, phase := 8 } := by
  unfold stageImage
  rw [if_neg (by simp [hidle]), if_neg (by omega), hbad]
  exact refuseImage_img e s

/-! ### APPLY with nothing in force -/

theorem measureCommit_image (old : Conf) (grp : List Seg) (cores : List Nat) (v : Nat) (s : State) :
    imageOf (measureCommit old grp cores v s) = imageOf s := by
  have hext : ∀ m k c v d (s : State), imageOf (extendMr m k c v d s) = imageOf s := fun _ _ _ _ _ _ =>
    imageOf_of (extendMr_img _ _ _ _ _ _) (extendMr_mir _ _ _ _ _ _)
  unfold measureCommit
  exact (hext _ _ _ _ _ _).trans (Eq.trans (imageOf_foldl fun _ _ => hext _ _ _ _ _ _)
    (imageOf_foldl fun _ _ => hext _ _ _ _ _ _))

/-- A cold application ends with the whole image in force, recorded in the image engine and the mirror store alike (R41, R44). -/
theorem coldApply_records {s t : State} {x : Staged} (hx : s.img.staged = some x) (ht : coldApply s = t) :
    t.img.phase = 7 ∧ t.img.status = .success ∧ t.img.staged = none ∧ t.img.segs = x.segs.filter (fun g => !(isRemove g)) ∧
    t.img.epoch = (x.segs.map (·.epoch)).foldl max 0 ∧ t.mir.segs = t.img.segs ∧ t.mir.epoch = t.img.epoch := by
  unfold coldApply at ht
  rw [hx] at ht
  dsimp -zeta only at ht
  extract_lets after conf epoch img marked linked cores loaded powered debugged measured img' at ht
  have hkept := measureCommit_image {} x.segs cores x.version (recordCommit epoch after debugged)
  have himg : measured.img = (recordCommit epoch after debugged).img := imageOf_img hkept
  have hmir : measured.mir = (recordCommit epoch after debugged).mir := imageOf_mir hkept
  clear_value measured debugged
  subst ht
  simp [imgPhase_img, imgPhase_mir, himg, hmir, img', recordCommit, after, epoch]

/-- Whether APPLY is legal does not depend on DRAIN_BE or on S2. -/
theorem drained_applyLegal (n : Nat) (s : State) : applyLegal (setDrain n (wakeS2 s)) = applyLegal s := by
  simp only [applyLegal, stagesFor, domAt, domRec, drained_img, drained_conf, drained_doms]
  rfl

/-- With nothing in force a legal APPLY applies the image at once, or waits for training to end (R41, R491). -/
theorem applyImage_cold {s : State} {x : Staged} (hidle : imgBusy s = false) (hx : s.img.staged = some x)
    (hepoch : s.img.epoch = 0) (hlegal : applyLegal s = true) : applyImage s =
      let t : State := { s with img := { s.img with groupsDone := 0, status := .success } }
      if s.pow.trained then coldApply t else imgPhase 3 { t with img := { t.img with waiting := true } } := by
  unfold applyImage
  rw [if_neg (by simp [hidle]), if_neg (by simp [hlegal]), hx]
  exact if_pos hepoch

/-- Settles O3: STAGE by the outcome of its checks, APPLY by whether training has ended. -/
theorem stageAndColdApply : Obligations.StageAndColdApply := by
  refine ⟨fun n s hup hidle hlen => ?_, fun n s x hup hidle hx hepoch hlegal => ?_⟩
  · dsimp only
    have himg := drained_img n.toNat s
    obtain ⟨hconf, hmem, hdoms⟩ := stageImage_frame (setDrain n.toNat (wakeS2 s))
    have hidle' := (drained_busy n.toNat s).trans hidle
    have hlen' : (setDrain n.toNat (wakeS2 s)).img.len ≤ 0x800000 := by rw [himg]; exact hlen
    cases hv : verifyImage (setDrain n.toNat (wakeS2 s)) (hostBytes (setDrain n.toNat (wakeS2 s)) s.img.addr s.img.len)
      s.img.len with
    | ok x =>
      have hstage := stageImage_verifies hidle' hlen' (x := x) (by rw [himg]; exact hv)
      exact ⟨_, hostImage_runs hup stageImage n.toNat, by rw [hstage, himg], hconf.trans (drained_conf _ s),
        hmem.trans (drained_mem _ s), hdoms.trans (drained_doms _ s), by simp [hstage]⟩
    | error e =>
      have hstage := stageImage_refuses hidle' hlen' (e := e) (by rw [himg]; exact hv)
      exact ⟨_, hostImage_runs hup stageImage n.toNat, by rw [hstage, himg], hconf.trans (drained_conf _ s),
        hmem.trans (drained_mem _ s), hdoms.trans (drained_doms _ s), by simp [hstage]⟩
  · have hidle' := (drained_busy n.toNat s).trans hidle
    have himg := drained_img n.toNat s
    have hlegal' := (drained_applyLegal n.toNat s).trans hlegal
    have happly := applyImage_cold (x := x) hidle' (by rw [himg]; exact hx) (by rw [himg]; exact hepoch) hlegal'
    rw [drained_trained] at happly
    refine ⟨_, hostImage_runs hup applyImage n.toNat, fun htrained => ?_, fun htrained => ?_⟩
    · rw [happly, htrained]
      exact coldApply_records (by simp [himg, hx]) rfl
    · rw [happly, htrained]
      simp [imgPhase_img, himg, hx]

/-! ### ABORT -/

/-- ABORT of an uncommitted group leaves nothing of it, and what is in force as it was (R47, R52). -/
theorem abortImage_group {s : State} {g : GroupState} (hcur : s.img.cur = some g) (hbad : s.mir.bad = false) :
    (abortImage s).img =
      { s.img with cur := none, left := [], staged := none, status := .applyAborted, phase := 8 } := by
  obtain ⟨u, hu, hroll⟩ := rollbackFrom_good hcur hbad none .applyAborted
  have habort : abortImage s = rollbackFrom none .applyAborted s := by
    unfold abortImage
    rw [hcur]
    rfl
  rw [habort, hroll, imgPhase_img, logE_img, imageOf_img hu]

theorem abortImage_nothing {s : State} (hcur : s.img.cur = none) (hwait : s.img.waiting = false) : abortImage s = s := by
  simp [abortImage, hcur, hwait]

theorem abortImage_waiting {s : State} (hcur : s.img.cur = none) (hwait : s.img.waiting = true) :
    (abortImage s).img = { s.img with waiting := false, staged := none, status := .applyAborted, phase := 8 } := by
  simp [abortImage, hcur, hwait, imgPhase_img]

/-- Settles O4: a group in progress rolls back, a waiting image is dropped, and otherwise nothing is left to stop. -/
theorem abortStopsTheGroup : Obligations.AbortStopsTheGroup := by
  intro n s hup
  have himg := drained_img n.toNat s
  refine ⟨_, hostImage_runs hup abortImage n.toNat, fun g hcur hbad => ?_, fun hcur hwait => ?_, fun hcur hwait => ?_⟩
  · rw [abortImage_group (g := g) (by rw [himg]; exact hcur) (by rw [drained_mir]; exact hbad), himg]
    exact ⟨rfl, rfl, rfl, rfl, rfl, rfl, rfl⟩
  · exact abortImage_nothing (by rw [himg]; exact hcur) (by rw [himg]; exact hwait)
  · rw [abortImage_waiting (by rw [himg]; exact hcur) (by rw [himg]; exact hwait)]
    exact ⟨rfl, rfl, rfl, rfl⟩

end Sys2Proof.Machine
end

section
/-!
The epoch protocol, event by event: what each does when it is due, and what an island's share leaves of the group and of the
island (R45, R47-R49, R52, R59, R244).
-/
namespace Sys2Proof.Machine

/-! ### An island's share -/

theorem releaseSignals_islands_wf {s : State} (hwf : sparseWf {} s.islands = true) (i : Nat) :
    sparseWf {} (releaseSignals s i).islands = true := by
  unfold releaseSignals
  dsimp only
  split
  · exact hwf
  · obtain ⟨m, h⟩ := applySignals_frame (setIsland s i _) _
    rw [h]
    exact sparseWf_set _ _ _ _ hwf

theorem bundleLanded_islands_wf {s : State} (hwf : sparseWf {} s.islands = true) (i ch : Nat) :
    sparseWf {} (bundleLanded s i ch).islands = true :=
  releaseSignals_islands_wf (sparseWf_set _ _ _ _ hwf) i

/-- Fencing straits keeps the islands canonical: it changes the SENDs and signals of their source islands, one at a time. -/
theorem fenceStraits_islands_wf {s : State} (hwf : sparseWf {} s.islands = true) (l : List Strait) :
    sparseWf {} (fenceStraits l s).islands = true := by
  unfold fenceStraits
  refine List.foldlRecOn (motive := fun s : State => sparseWf {} s.islands = true) l _ hwf fun s hs x _ => ?_
  refine List.foldlRecOn (motive := fun s : State => sparseWf {} s.islands = true) _ _ (sparseWf_set _ _ _ _ hs) ?_
  exact fun s hs _ _ => bundleLanded_islands_wf hs x.src x.sch

/-- Of canonical islands, the one changed reads back. -/
theorem islandAt_modIsland_same {s : State} (hwf : sparseWf {} s.islands = true) (i : Nat) (f : Island → Island) :
    islandAt (modIsland s i f) i = f (islandAt s i) :=
  (sparseGet_set _ s.islands hwf i i _).trans (if_pos rfl)

theorem takeShare_arrives (g : GroupState) (i : Nat) (s : State) :
    ∃ h, (takeShare g i s).img.cur = some h ∧ h.arrived = g.arrived ++ [i] := ⟨_, rfl, rfl⟩

/-- The island shows the group's epoch. -/
theorem takeShare_epoch (g : GroupState) (i : Nat) {s : State} (hwf : sparseWf {} s.islands = true) :
    (islandAt (takeShare g i s) i).epoch = g.epoch := by
  have hkept := fenceStraits_islands_wf hwf (straitsFenced s g.target i)
  unfold takeShare
  extract_lets target moved cleared n fenced conf conf' placed res shared
  change (islandAt shared i).epoch = g.epoch
  exact (congrArg Island.epoch (islandAt_modIsland_same (s := placed) hkept i _)).trans rfl

section Group
variable {s : State} {g : GroupState} (hcur : s.img.cur = some g)
include hcur

theorem prepareEnd_due (hphase : g.phase = .prepare) (hzeroed : g.closed.all (fun v => g.zeroed.contains v) = true)
    (hdoms : ∀ d, d < 16 → (leavingChan s d).isEmpty = true ∧ (comesUnified s d = true → hasDirectory s d = true) ∧
      reserveFits s g.target d = true) :
    let h : GroupState := { g with
      phase := if g.protocol then .hold else .apply
      t0 := s.now
      islands := if g.protocol then scopeOf s g.target g.doms else [] }
    let u := g.banks.foldl (fun s i => modIsland s i (fun x => { x with fun_ := { x.fun_ with loading := false } }))
      (imgPhase (if g.protocol then 4 else 9) { s with img := { s.img with cur := some h } })
    exec .prepareEnd s = .next (startImmediate h (if g.protocol then killAll gangBe (holdVictims u g.target) u else u)) := by
  have hready : ((List.range 16).all fun d => (leavingChan s d).isEmpty && (!(comesUnified s d) || hasDirectory s d) &&
      reserveFits s g.target d) = true := by
    refine List.all_eq_true.2 fun d hd => ?_
    obtain ⟨hleft, hdir, hfits⟩ := hdoms d (List.mem_range.1 hd)
    cases hc : comesUnified s d with
    | false => simp [hleft, hfits]
    | true => simp [hleft, hfits, hdir hc]
  show execPrepareEnd s = _
  unfold execPrepareEnd
  rw [hcur]
  exact if_neg (by simp only [hphase, hzeroed, hready]; decide)

theorem islandEpochArrive_due {i : Fin 256} (hphase : g.phase = .hold) (hscope : g.islands.contains i.val = true)
    (hnew : g.arrived.contains i.val = false) (hidle : (islandAt s i).task = none) (hsplit : splitBusy s g.target i = false)
    (htime : s.now < g.t0 + 10000000) : exec (.islandEpochArrive i) s = .next (takeShare g i s) := by
  show execIslandEpochArrive i s = _
  unfold execIslandEpochArrive
  rw [hcur]
  exact if_pos (by simp only [hphase, hscope, hnew, hidle, hsplit, barrierInTime, htime]; rfl)

theorem drainBeDeadline_due (hphase : g.phase = .hold) (honce : g.kills = false) (htime : g.t0 + drainNs s ≤ s.now) :
    exec .drainBeDeadline s = .next (killAll gangKillable (s.tasks.filter (fun u => g.killing && killable s u &&
        (match u.island with | some i => g.islands.contains i | none => false)))
      { s with img := { s.img with cur := some { g with kills := true } } }) := by
  show execDrainBeDeadline s = _
  unfold execDrainBeDeadline
  rw [hcur]
  exact if_pos ⟨hphase, by simp [honce], htime⟩

theorem epochBarrierComplete_due (hphase : g.phase = .hold) (hall : g.islands.all (fun i => g.arrived.contains i) = true)
    (hctx : contextsIdle s g = true) (htime : s.now < g.t0 + 10000000) : exec .epochBarrierComplete s =
      .next (imgPhase 5 { s with img := { s.img with cur := some { g with phase := .commit, doneAt := some s.now } } }) := by
  show execEpochBarrierComplete s = _
  unfold execEpochBarrierComplete
  rw [hcur]
  exact if_pos (by simp only [hphase, hall, hctx, barrierInTime, htime]; rfl)

theorem groupCommit_due (hphase : g.phase = .commit ∨ g.phase = .apply) (happlied : allApplied s g = true) :
    exec .groupCommit s = .next (commitGroup g s) := by
  show execGroupCommit s = _
  unfold execGroupCommit
  rw [hcur]
  exact if_pos (by simp [hphase, happlied])

theorem epochHeld_due (hphase : g.phase = .hold) (htime : g.t0 + 10000000 ≤ s.now) :
    exec .epochHeld s = .next (rollback .epochHeld (raise 0x201 s)) := by
  show execEpochHeld s = _
  unfold execEpochHeld
  rw [hcur]
  exact if_pos ⟨hphase, htime⟩

theorem firmwareCoreReady_due {c : Fin 8} (hcore : g.core = some c.val) (htime : s.now < g.coreAt + 100000000) :
    exec (.firmwareCoreReady c) s = .next (nextCore (loadCore c (sparseGet (0, []) g.target.firmware c) s)
      { g with coresDone := g.coresDone ++ [c.val], core := none }) := by
  show execFirmwareCoreReady c s = _
  unfold execFirmwareCoreReady
  rw [hcur]
  exact if_pos ⟨hcore, htime⟩

theorem firmwareReadyTimeout_due (hcore : g.core.isSome = true) (htime : g.coreAt + 100000000 ≤ s.now) :
    exec .firmwareReadyTimeout s = .next (rollbackFrom (some 0x203) .applyAborted (raise 0x203 s)) := by
  show execFirmwareReadyTimeout s = _
  unfold execFirmwareReadyTimeout
  rw [hcur]
  exact if_pos ⟨hcore, htime⟩

theorem lendingFlagApply_due {i : Fin 256} (hphase : g.phase ≠ .prepare) (hlend : g.lend.contains i.val = true)
    (hidle : (islandAt s i).task = none) : exec (.lendingFlagApply i) s = .next { s with
      conf := { s.conf with isl := sparseSet {} s.conf.isl i (sparseGet {} g.target.isl i) }
      img := { s.img with cur := some { g with lend := g.lend.filter (fun x => x != i.val) } } } := by
  show execLendingFlagApply i s = _
  unfold execLendingFlagApply
  rw [hcur]
  exact if_pos ⟨hphase, hlend, by simp [hidle]⟩

end Group

theorem tableBankFlip_due {s : State} {i : Fin 256} (hflip : (islandAt s i).fun_.flip = true) (hidle : (islandAt s i).task = none) :
    exec (.tableBankFlip i) s = .next (setIsland s i { islandAt s i with fun_ := flipBank (islandAt s i).fun_ }) :=
  if_pos ⟨hflip, by simp [hidle]⟩

/-! ### The obligations -/

/-- Settles O5: each event of the protocol when it is due. -/
theorem epochProtocolAdvances : Obligations.EpochProtocolAdvances := by
  intro s g hcur
  refine ⟨prepareEnd_due hcur, fun i hphase hscope hnew hidle hsplit htime hwf => ?_, drainBeDeadline_due hcur,
    fun hphase hall hctx htime => ?_, groupCommit_due hcur⟩
  · exact ⟨_, islandEpochArrive_due hcur hphase hscope hnew hidle hsplit htime, rfl, takeShare_arrives g i s,
      takeShare_epoch g i hwf⟩
  · exact ⟨_, epochBarrierComplete_due hcur hphase hall hctx htime, by simp [imgPhase_img], by simp [imgPhase_img]⟩

/-- Settles O6: the timeouts roll the group back, and each part that is due takes effect. -/
theorem groupEndsOnTimeoutOrParts : Obligations.GroupEndsOnTimeoutOrParts :=
  ⟨fun _ _ hcur => ⟨epochHeld_due hcur, fun _ => firmwareCoreReady_due hcur, firmwareReadyTimeout_due hcur,
    fun _ => lendingFlagApply_due hcur⟩, fun _ _ => tableBankFlip_due⟩

end Sys2Proof.Machine
end

section
/-! The state after the cold power-up (R41, R440, R467, R491, R507). -/
namespace Sys2Proof.Machine

/-- HUB_EPOCH reads the epoch in force (R41). -/
theorem readPf_epoch (s : State) : readPf s 0x214 = s.img.epoch := rfl

/-- HUB_IMG_DIGEST reads the in-force digest, word by word (R40). -/
theorem readPf_digest {n : Nat} (hn : n < 8) (s : State) : readPf s (0x220 + 4 * n) = wordOf s.img.digest n := by
  have hblock : (0x220 + 4 * n) / 0x400000 = 0 := by omega
  have hoff : (0x220 + 4 * n) % 0x400000 = 0x220 + 4 * n := by omega
  unfold readPf
  rw [hblock, hoff]
  change readHub s (0x220 + 4 * n) = _
  unfold readHub
  rw [if_neg (by omega), if_neg (by omega), if_neg (by omega), if_neg (by omega), if_neg (by omega), if_neg (by omega),
    regIdx_entry hn]

/-- The reset state's digest is zero in each of its eight words (R41). -/
theorem reset_digest_zero : ∀ n < 8, wordOf State.reset.img.digest n = 0 := by decide

/-- Settles O57: each part of the reset state by its definition; the sparse tables list nothing, so every entry reads its
default. -/
theorem resetState : Obligations.ResetState := by
  refine ⟨rfl, rfl, readPf_epoch _, fun n hn => (readPf_digest hn _).trans (reset_digest_zero n hn), rfl, ?_⟩
  refine ⟨fun _ => rfl, fun _ => rfl, rfl, fun _ => ⟨rfl, rfl⟩, fun _ => ⟨rfl, rfl, rfl, rfl⟩, rfl, rfl, ?_⟩
  show bootMeasure.1 :: _ = _
  rw [bootMeasure]

end Sys2Proof.Machine
end

section
/-! Elements of a narrow burst, by index: zero blocks, outlier markers and the slots they take (R119, R124-R126). -/
namespace Sys2Proof.Machine

/-- Element `k` is a marker that is counted: one outside the blocks marked zero (R125, R126). -/
def countedMarker (l : Layout) (b : List Byte) (k : Nat) : Bool :=
  !(zeroBlock (burstHdr b) (k / blockSize l)) && isMarker l (elemCode l b k)

/-- How many counted markers stand before element `i`. -/
def markersBefore (l : Layout) (b : List Byte) (i : Nat) : Nat := ((List.range i).filter (countedMarker l b)).length

/-- Element `i` of a burst when `j` counted markers stand before it (R124-R126). -/
def burstElem (l : Layout) (b : List Byte) (i j : Nat) : Elem :=
  if zeroBlock (burstHdr b) (i / blockSize l) then ⟨vzero, false⟩
  else if countedMarker l b i then ⟨if j < bits (burstHdr b) 6 4 then outlierSlot l b j else vzero, true⟩
  else ⟨scaleElem l (scaleByte b (i / blockSize l)) (elemCode l b i), false⟩

theorem markersBefore_succ (l : Layout) (b : List Byte) (i : Nat) :
    markersBefore l b (i + 1) = markersBefore l b i + if countedMarker l b i then 1 else 0 := by
  unfold markersBefore
  rw [List.range_succ, List.filter_append, List.length_append, List.filter_cons, List.filter_nil]
  cases countedMarker l b i <;> rfl

/-- The decoder's step: one element, and the count goes on by one exactly at a counted marker. -/
theorem decodeFrom_succ (l : Layout) (b : List Byte) (n i j : Nat) :
    decodeFrom l b (n + 1) i j = burstElem l b i j :: decodeFrom l b n (i + 1) (j + if countedMarker l b i then 1 else 0) := by
  rw [decodeFrom, burstElem, countedMarker]
  cases zeroBlock (burstHdr b) (i / blockSize l) with
  | true => rfl
  | false => cases isMarker l (elemCode l b i) <;> rfl

/-- The decoder started at an element with the markers that stand before it decodes each later element with its own count. -/
theorem decodeFrom_markersBefore (l : Layout) (b : List Byte) (n i : Nat) :
    decodeFrom l b n i (markersBefore l b i) = (List.range' i n).map (fun k => burstElem l b k (markersBefore l b k)) := by
  induction n generalizing i with
  | zero => rfl
  | succ n ih => rw [decodeFrom_succ, ← markersBefore_succ, ih, List.range'_succ, List.map_cons]

theorem decodeBurst_getElem? (l : Layout) (b : List Byte) {i : Nat} (hi : i < groupSize l) :
    (decodeBurst l b)[i]? = some (burstElem l b i (markersBefore l b i)) := by
  have hmap : decodeBurst l b = (List.range' 0 (groupSize l)).map (fun k => burstElem l b k (markersBefore l b k)) :=
    decodeFrom_markersBefore l b (groupSize l) 0
  rw [hmap, List.getElem?_map, List.getElem?_range' hi, Option.map_some, Nat.zero_add, Nat.one_mul]

/-- Settles O56: the element that the decoder gives at an index, with the markers before it counted outside zero blocks. -/
theorem zeroBlocksAndMarkers : Obligations.ZeroBlocksAndMarkers :=
  fun l b _ hi => decodeBurst_getElem? l b hi

end Sys2Proof.Machine
end

section
/-!
Setup commands of a domain: a command that the domain's state accepts, the frames of a structure, and the entries of the
shadow table and of the reef that SET_SHADOW, CLEAR_SHADOW and RESET_SYNC change (R134, R135, R373, R441).
-/
namespace Sys2Proof.Machine

/-! ### A domain that accepts a command -/

/-- A ring command runs in the domain of its VF when the domain's state accepts it (R441). -/
theorem ringCmd_accepted {src : Src} {ok : List DomState} {s : State} {d : Nat} (hdom : domOfVf s src.vf = some d)
    (hst : (domAt s d).st ∈ ok) (op : Nat) (k : Nat → State → State) : ringCmd src op ok k s = k d s := by
  unfold ringCmd
  rw [hdom]
  exact if_pos (List.contains_iff_mem.2 hst)

/-- A domain in a setup state is not the empty one. -/
theorem dom_ne_default {x : Dom} (h : x.st ∈ setupStates) : x ≠ {} := by
  rintro rfl
  exact absurd h (by decide)

/-- A domain that is not the empty one is listed as it was set, whatever the table's form. -/
theorem domAt_setDom (s : State) (d : Nat) {v : Dom} (h : v ≠ {}) : domAt (setDom s d v) d = v :=
  sparseGet_set_self ({} : Dom) s.doms d h

@[simp] theorem domAt_succeed (s : State) (src : Src) (d : Nat) : domAt (succeed src s) d = domAt s d := by
  rw [domAt, succeed_doms, domAt]

/-! ### Frames of structures -/

/-- Taking frames one at a time for a structure of a domain changes that domain's frames alone. -/
theorem allocFrames_frame {place : State → Option Nat} {d : Nat} {k : StructKind} {n : Nat} {s u : State}
    (hst : (domAt s d).st ∈ setupStates) (h : allocFrames place d k n s = some u) :
    ∃ ds fs, u = { s with doms := ds } ∧ domAt u d = { domAt s d with frames := fs } := by
  induction n generalizing s with
  | zero => cases h; exact ⟨_, _, rfl, rfl⟩
  | succ n ih =>
    rw [allocFrames] at h
    split at h
    · cases h
    · rename_i f _
      have hset : domAt (setDom s d { domAt s d with frames := (domAt s d).frames ++ [(f, k)] }) d =
          { domAt s d with frames := (domAt s d).frames ++ [(f, k)] } := domAt_setDom s d (dom_ne_default hst)
      obtain ⟨ds, fs, hu, hd⟩ := ih (by rw [modDom_eq, hset]; exact hst) h
      exact ⟨ds, fs, hu, by rw [hd, modDom_eq, hset]⟩

/-- The frames that a structure of a domain lacks are found: the domain's frames alone change. -/
theorem ensureStruct_shadows_frame {d n : Nat} {s u : State} (hst : (domAt s d).st ∈ setupStates)
    (h : ensureStruct s d .shadows n = some u) :
    ∃ ds fs, u = { s with doms := ds } ∧ domAt u d = { domAt s d with frames := fs } := by
  unfold ensureStruct at h
  split at h
  · cases h; exact ⟨_, _, rfl, rfl⟩
  · exact allocFrames_frame hst h

/-! ### The shadow table -/

/-- The state with an entry of a domain's shadow table set, or cleared by `none`. -/
def putShadow (s : State) (d x : Nat) (v : Option Shadow) : State :=
  modDom s d (fun y => { y with shadows := sparseSet none y.shadows x v })

/-- The entry set reads back, every other entry and what lies outside the domains is as before. -/
theorem succeed_putShadow (src : Src) {s : State} {d : Nat} (x : Nat) (v : Option Shadow) (hst : (domAt s d).st ∈ setupStates)
    (hwf : sparseWf none (domAt s d).shadows = true) :
    let t := succeed src (putShadow s d x v)
    t.mem = s.mem ∧ t.islands = s.islands ∧ t.tasks = s.tasks ∧ sparseGet none (domAt t d).shadows x = v ∧
      ∀ k, k ≠ x → sparseGet none (domAt t d).shadows k = sparseGet none (domAt s d).shadows k := by
  intro t
  have hdom : domAt t d = { domAt s d with shadows := sparseSet none (domAt s d).shadows x v } :=
    (domAt_succeed _ _ _).trans (domAt_setDom s d (dom_ne_default hst))
  refine ⟨succeed_mem _ _, succeed_islands _ _, succeed_tasks _ _, ?_, fun k hk => ?_⟩
  · rw [hdom, sparseGet_set none _ hwf, if_pos rfl]
  · rw [hdom, sparseGet_set_ne none _ v hk]

section Setup
variable {h : Hdr} {s : State} {d : Nat} (hdom : domOfVf s h.vf = some d) (hst : (domAt s d).st ∈ setupStates)
include hdom hst

/-- A SET_SHADOW that passes the checks of R135 sets its entry once the table has its frame. -/
theorem setShadow_accepted {x : BitVec 16} {w : BitVec 256} {e : Shadow} {u : State}
    (hread : readShadow (leBytes 32 w.toNat) = some e) (hx : x.toNat < 1024)
    (hsealed : rangeSealed s d e.shadowVa (shadowBytes e) = true) (hclash : shadowClash s d x.toNat e = false)
    (hpitch : e.pitch % 64 = 0) (hframe : ensureStruct s d .shadows 1 = some u) :
    exec (.setShadow h x w) s = .next (succeed (srcOf h) (putShadow u d x.toNat (some e))) := by
  change (.next (doSetShadow (srcOf h) x.toNat (leBytes 32 w.toNat) s) : Outcome) = _
  have hfit : ¬ (1024 ≤ x.toNat ∨ (!(rangeSealed s d e.shadowVa (shadowBytes e))) = true ∨ shadowClash s d x.toNat e = true) := by
    rw [hsealed, hclash]
    rintro (hout | hbad | hbad)
    · omega
    · cases hbad
    · cases hbad
  rw [doSetShadow, ringCmd_accepted (src := srcOf h) hdom hst]
  simp only [hread, hframe, putShadow, if_neg hfit, if_neg (not_not_intro hpitch)]

theorem clearShadow_accepted {x : BitVec 16} (hx : x.toNat < 1024) :
    exec (.clearShadow h x) s = .next (succeed (srcOf h) (putShadow s d x.toNat none)) := by
  change (.next (doClearShadow (srcOf h) x.toNat s) : Outcome) = _
  rw [doClearShadow, ringCmd_accepted (src := srcOf h) hdom hst, if_neg (by omega)]
  rfl

/-! ### The reef -/

/-- A RESET_SYNC of ranges in the domain's reef that no task names clears both ranges (R373). -/
theorem resetSync_accepted {a : BitVec 8} {sf sc bf bc : BitVec 16} (ha : a.toNat < 4)
    (hsem : rangeInReef s d true a.toNat sf.toNat sc.toNat = true)
    (hbar : rangeInReef s d false a.toNat bf.toNat bc.toNat = true)
    (hidle : syncInUse s (reefList 12 a.toNat sf.toNat sc.toNat) (reefList 10 a.toNat bf.toNat bc.toNat) = false) :
    exec (.resetSync h a sf sc bf bc) s = .next (succeed (srcOf h)
      { s with sems := sparseClear s.sems (a.toNat * 2 ^ 12 + sf.toNat) sc.toNat,
               bars := sparseClear s.bars (a.toNat * 2 ^ 10 + bf.toNat) bc.toNat }) := by
  change (.next (doResetSync (srcOf h) a.toNat sf.toNat sc.toNat bf.toNat bc.toNat s) : Outcome) = _
  rw [doResetSync, ringCmd_accepted (src := srcOf h) hdom hst, if_neg (by omega)]
  simp only [hsem, hbar, hidle, Bool.and_self, Bool.not_true, Bool.false_eq_true, if_false]

end Setup

/-! ### The obligation -/

/-- Settles O15: SET_SHADOW and CLEAR_SHADOW set one entry of the domain's shadow table, RESET_SYNC clears the two ranges. -/
theorem shadowsAndSyncSetUp : Obligations.ShadowsAndSyncSetUp := by
  intro h s d hdom hst
  refine ⟨fun x w e hread hx hsealed hclash hpitch hframe hwf => ?_, fun x hx hwf => ?_,
    fun a sf sc bf bc ha hsem hbar hidle _ _ => ?_⟩
  · obtain ⟨u, hu⟩ := Option.isSome_iff_exists.1 hframe
    refine ⟨_, setShadow_accepted hdom hst hread hx hsealed hclash hpitch hu, ?_⟩
    obtain ⟨ds, fs, rfl, hd⟩ := ensureStruct_shadows_frame hst hu
    have heffect := succeed_putShadow (srcOf h) x.toNat (some e) (by rw [hd]; exact hst) (by rw [hd]; exact hwf)
    rwa [hd] at heffect
  · exact ⟨_, clearShadow_accepted hdom hst hx, succeed_putShadow (srcOf h) x.toNat none hst hwf⟩
  · refine ⟨_, resetSync_accepted hdom hst ha hsem hbar hidle, succeed_mem _ _, succeed_doms _ _, succeed_tasks _ _, fun n => ?_,
      fun n => ?_⟩
    · rw [semAt, succeed_sems, sparseGet_clear, semAt]
    · rw [barAt, succeed_bars, sparseGet_clear, barAt]

end Sys2Proof.Machine
end

section
/-! MMA, ACCCLR, ACCLOAD, EPI and EPIRAW on the tile they name (R146, R154, R159-R161, R170, R188). -/
namespace Sys2Proof.Machine

/-! ### Accesses that go through -/

/-- Results none of which failed are collected in order. -/
theorem allOk_map_of_ok {α β : Type} {g : α → Except Status β} {f : α → β} {l : List α} (h : ∀ x ∈ l, g x = .ok (f x)) :
    allOk (l.map g) = .ok (l.map f) := by
  induction l with
  | nil => rfl
  | cons x l ih =>
    obtain ⟨hx, hl⟩ := List.forall_mem_cons.1 h
    simp only [List.map_cons, allOk, hx, ih hl]

/-- Numbering the entries of a list and dropping the numbers gives each entry once, in order. -/
theorem map_numbered {α β : Type} (f : α → β) (l : List α) : ((List.range l.length).zip l).map (fun p => f p.2) = l.map f := by
  have hsnd : ((List.range l.length).zip l).map Prod.snd = l := List.map_snd_zip (by simp)
  calc ((List.range l.length).zip l).map (fun p => f p.2)
      = (((List.range l.length).zip l).map Prod.snd).map f := (List.map_map ..).symm
    _ = l.map f := by rw [hsnd]

theorem withRead_go {c : Ctx} {own : Bool} {rs : List (Nat × Nat)} {s u : State}
    (h : readGate s c.t c.isl own true rs = .go u) (k : State → Res) : withRead c own rs s k = k u := by
  simp only [withRead, h]

theorem withWrite_go {c : Ctx} {ws : List (Nat × List MByte)} {s u : State}
    (h : writeGate s c.t (ws.map (fun w => (w.1, w.2.length))) = .go u) (k : State → Res) :
    withWrite c ws s k = k (taskWrite s c.t c.isl ws) := by
  obtain rfl := writeGate_go h
  simp only [withWrite, h]

theorem putRanges_fit {c : Ctx} {ws : List (Int × List MByte)} (h : ws.all (fun w => inScratch c w.1 w.2.length) = true)
    (s : State) :
    putRanges c ws s = .next (modIsland s c.isl (fun x => ws.foldl (fun x w => putScratch x w.1.toNat w.2) x)) := by
  simp only [putRanges, h, if_true]

theorem clean_length (b : List Byte) : (clean b).length = b.length := List.length_map ..

/-- Bytes that the scratchpad takes stand there afterwards. -/
theorem putAt_pad {c : Ctx} {ag imm : Nat} {b : List Byte} (h : Safety.PadTakes c ag imm b) (s : State) :
    putAt c ag imm b s = .next (Safety.padWith c ag imm b s) := by
  obtain ⟨hag, hfit⟩ := h
  refine putAt_of ?_
  simp only [Safety.Stores, hag]
  exact ⟨hfit, rfl⟩

/-- Pieces of the scratchpad that all read go on together. -/
theorem withPieces_pad {c : Ctx} {l : List (Int × Nat)} {data : Nat → List Byte}
    (h : l.map (fun p => scratchUse c p.1 p.2) = (List.range l.length).map (fun k => .ok (data k)))
    (s : State) (k : State → List (List Byte) → Res) : withPieces c none l s k = k s ((List.range l.length).map data) := by
  simp only [withPieces, h, allOk_map_of_ok (fun _ _ => rfl), orFault]

theorem withPieces_one {c : Ctx} {a : Int} {n : Nat} {b : List Byte} (h : scratchUse c a n = .ok b) (s : State)
    (k : State → List (List Byte) → Res) : withPieces c none [(a, n)] s k = k s [b] := by
  simp only [withPieces, List.map_cons, List.map_nil, h, allOk, orFault]

/-! ### The tile and its scoreboard -/

variable {i : Fin 256} {s : State} {c : Ctx} {t : AccTile}

theorem withTile_given (ht : c.x.tiles[c.w.x]? = some t) (s : State) (k : AccTile → Res) : withTile c s k = k t := by
  simp only [withTile, ht]

/-- An instruction under the scoreboard that completes notes its use of the tile, and the island moves on (R170). -/
theorem runInsn_useTile {u : State} {op : Op} {name : String} {f : Ctx → State → Res} (hc : ctxOf s i = some c)
    (hop : c.w.op = op) (hf : f c s = .next u) :
    runInsn name (isOp op) i s (scoreboard f) = .next (Safety.advanced c (useTile c u)) :=
  runInsn_next hc (isOp_of hop) (by rw [scoreboard, hf, andThen])

theorem accclrRes_given (ht : c.x.tiles[c.w.x]? = some t) (s : State) :
    accclrRes c s = .next (putTile c (freshTile t.shape t.fp) s) := by
  rw [accclrRes, withTile_given ht]

/-! ### MMA -/

/-- The tile that an MMA works on: cleared first where its flag says so (R188). -/
def mmaTarget (c : Ctx) (t : AccTile) : AccTile := if bit c.w.flags 0 then freshTile t.shape t.fp else t

/-- What the operand steps of an MMA make of the state: the tile, and the prism's extra cycles (R144, R154, R170). -/
def mmaSteps (c : Ctx) (ra rb : List (List KElem)) (s : State) (t : AccTile) : State :=
  let cycles := stepCycles (operandOf c c.w.opa).fmt (operandOf c c.w.opb).fmt
  modIsland (putTile c (mmaTile t c.w.count ra rb) s) c.isl (fun y =>
    { y with prismStall := wrap32 (y.prismStall + prismStall t c.w.count cycles ra rb) })

section Mma
variable (ht : c.x.tiles[c.w.x]? = some t) (hfa : (operandOf c c.w.opa).fmt ≠ .fp32) (hfb : (operandOf c c.w.opb).fmt ≠ .fp32)
include ht hfa hfb

section Steps
variable {ra rb : List (List KElem)} (honly : bit c.w.flags 3 = false)
  (hra : operandRows c (operandOf c c.w.opa) (agAt c c.w.ag1 c.w.imm1) (shapeRows (mmaTarget c t).shape) (64 * c.w.count)
    (c.ext.getD 2 0 - originNow c 2) = .ok ra)
  (hrb : operandRows c (operandOf c c.w.opb) (agAt c c.w.ag2 c.w.imm2) (shapeCols (mmaTarget c t).shape) (64 * c.w.count)
    (c.ext.getD 2 0 - originNow c 2) = .ok rb)
include honly hra hrb

/-- A tile in FP32 mode, or one whose anchors are all set, takes its operand steps at once (R154, R156). -/
theorem mmaRes_anchored (hset : (mmaTarget c t).fp = true ∨ (mmaTarget c t).anchors.all (·.isSome) = true) (s : State) :
    mmaRes c s = .next (mmaSteps c ra rb s (mmaTarget c t)) := by
  have hopen : ((mmaTarget c t).fp || (mmaTarget c t).anchors.all (·.isSome)) = true := Bool.or_eq_true_iff.2 hset
  unfold mmaTarget at hra hrb hopen ⊢
  simp only [mmaRes, withTile_given ht, hfa, hfb, or_self, if_false, honly, Bool.false_eq_true, hopen, if_true, hra, hrb,
    orFault, mmaSteps]

/-- Any other tile has its unset anchors set first (R152, R153). -/
theorem mmaRes_opens {u : State} {as : List Int} (hfp : (mmaTarget c t).fp = false)
    (hset : (mmaTarget c t).anchors.all (·.isSome) = false)
    (hgives : Safety.Gives (withAnchors c (mmaTarget c t) (operandOf c c.w.opa) (operandOf c c.w.opb) s) u as) :
    mmaRes c s = .next (mmaSteps c ra rb u
      { mmaTarget c t with anchors := ((mmaTarget c t).anchors.zip as).map (fun p => some (p.1.getD p.2)) }) := by
  have hopen : ((mmaTarget c t).fp || (mmaTarget c t).anchors.all (·.isSome)) = false := Bool.or_eq_false_iff.2 ⟨hfp, hset⟩
  unfold mmaTarget at hra hrb hopen hgives ⊢
  simp only [mmaRes, withTile_given ht, hfa, hfb, or_self, if_false, honly, Bool.false_eq_true, hopen]
  rw [hgives]
  simp only [hra, hrb, orFault, mmaSteps]

end Steps

/-- ANCHOR_ONLY sets the anchors and stores them (R153, R188). -/
theorem mmaRes_anchorOnly {o : Operand} {u v : State} {as : List Int} (honly : bit c.w.flags 3 = true)
    (hag : agOperand c c.w.ag3 = some o)
    (hgives : Safety.Gives (withAnchors c (mmaTarget c t) (operandOf c c.w.opa) (operandOf c c.w.opb) s) u as)
    (hstore : Safety.Stores c c.w.ag3 c.w.imm2 (as.flatMap (fun a => leBytes 2 (unsigned 16 a))) u v) :
    mmaRes c s = .next (putTile c { mmaTarget c t with anchors := as.map some } v) := by
  unfold mmaTarget at hgives ⊢
  simp only [mmaRes, withTile_given ht, hfa, hfb, or_self, if_false, honly, if_true, hag]
  rw [hgives, putAt_of hstore, andThen]

end Mma

/-! ### EPIRAW -/

/-- The records of a tile of whose rows and columns `em` and `en` lie within the extents (R159). -/
def rawRecords (t : AccTile) (em en : Nat) : List Byte :=
  (List.range t.anchors.length).flatMap (fun h =>
    recordBytes t h (max 1 (min (min 128 (shapeRows t.shape)) (em - 128 * h))) (max 1 (min (shapeCols t.shape) en)))

/-- Records in the scratchpad take the task's extents. -/
theorem epirawRes_pad (ht : c.x.tiles[c.w.x]? = some t)
    (htakes : Safety.PadTakes c c.w.ag3 0 (rawRecords t (c.ext.getD 0 0 - originNow c 0) (c.ext.getD 1 0 - originNow c 1)))
    (s : State) : epirawRes c s = .next (Safety.padWith c c.w.ag3 0
      (rawRecords t (c.ext.getD 0 0 - originNow c 0) (c.ext.getD 1 0 - originNow c 1)) s) := by
  rw [← putAt_pad htakes]
  simp only [epirawRes, withTile_given ht, htakes.1, rawRecords]

/-- Records in operand memory take the extents of their operand. -/
theorem epirawRes_operand {o : Operand} {u : State} (ht : c.x.tiles[c.w.x]? = some t) (hag : agOperand c c.w.ag3 = some o)
    (hstore : Safety.Stores c c.w.ag3 0
      (rawRecords t ((extOf c o).1 - originNow c o.rdim) ((extOf c o).2 - originNow c o.cdim)) s u) :
    epirawRes c s = .next u := by
  rw [← putAt_of hstore]
  simp only [epirawRes, withTile_given ht, hag, rawRecords]

/-! ### ACCLOAD -/

/-- The pieces of a record's body at `a`: its rows of states, which an FP32 record lacks, and its rows of cells (R159). -/
def recordPieces (fp : Bool) (a : Int) (rows cols : Nat) : List (Int × Nat) :=
  let w := if fp then 4 else 16
  (if fp then [] else (List.range rows).map (fun (r : Nat) => (a + 64 + (32 * r : Nat), ceilDiv cols 4))) ++
    (List.range rows).map (fun (r : Nat) => (a + 0x1040 + (128 * w * r : Nat), w * cols))

section Record
variable {a : Int} {b : List Byte} {h : Nat} (hhead : scratchUse c a 64 = .ok b) (hmode : leAt b 2 1 = b2n t.fp)
include hhead hmode

/-- A record whose anchor is unset adds nothing (R160). -/
theorem loadRecord_unset (hflag : leAt b 5 1 = 1) (s : State) : Safety.Gives (loadRecord c none a t h s) s t := by
  intro k
  have hwell : ¬ (leAt b 2 1 ≠ b2n t.fp ∨ leAt b 5 1 ≥ 2) := by omega
  have hset : bit (leAt b 5 1) 0 = true := by rw [hflag]; rfl
  simp only [loadRecord, withPieces_one hhead, List.headD_cons, if_neg hwell, hset, if_true]

/-- A record that matches the tile sets the anchor of its half and adds its cells (R160). -/
theorem loadRecord_adds {data : Nat → List Byte} (hflag : leAt b 5 1 = 0)
    (hanchor : t.fp = true ∨ t.anchors.getD h none = none ∨ t.anchors.getD h none = some (signed 16 (leAt b 0 2)))
    (hrows : leAt b 3 1 ≤ min 128 (shapeRows t.shape)) (hcols : leAt b 4 1 ≤ shapeCols t.shape)
    (hdata : (recordPieces t.fp a (leAt b 3 1) (leAt b 4 1)).map (fun p => scratchUse c p.1 p.2) =
      (List.range (recordPieces t.fp a (leAt b 3 1) (leAt b 4 1)).length).map (fun k => .ok (data k))) (s : State) :
    let ds := (List.range (recordPieces t.fp a (leAt b 3 1) (leAt b 4 1)).length).map data
    let k := if t.fp then 0 else leAt b 3 1
    Safety.Gives (loadRecord c none a t h s) s
      (addRecord (if t.fp then t else { t with anchors := setAt t.anchors h (some (signed 16 (leAt b 0 2))) }) h (leAt b 3 1)
        (leAt b 4 1) (ds.take k) (ds.drop k)) := by
  intro ds k next
  have hwell : ¬ (leAt b 2 1 ≠ b2n t.fp ∨ leAt b 5 1 ≥ 2) := by omega
  have hset : bit (leAt b 5 1) 0 = false := by rw [hflag]; rfl
  have hmatch : ¬ (¬ t.fp = true ∧ (t.anchors.getD h none).isSome = true ∧
      t.anchors.getD h none ≠ some (signed 16 (leAt b 0 2))) := by
    rintro ⟨hfp, hsome, hne⟩
    rcases hanchor with hfp' | hnone | hsame
    · exact hfp hfp'
    · rw [hnone] at hsome; cases hsome
    · exact hne hsame
  have hstates : (if t.fp then [] else (List.range (leAt b 3 1)).map
      (fun (r : Nat) => (a + 64 + (32 * r : Nat), ceilDiv (leAt b 4 1) 4))).length = k := by
    cases hfp : t.fp <;> simp [k, hfp]
  have hfits : ¬ (leAt b 3 1 > min 128 (shapeRows t.shape) ∨ leAt b 4 1 > shapeCols t.shape) := by omega
  simp only [loadRecord, withPieces_one hhead, List.headD_cons, if_neg hwell, hset, Bool.false_eq_true, if_false, if_neg hmatch,
    if_neg hfits, hstates]
  exact withPieces_pad hdata s _

end Record

/-- A fold of changes that keep a tile's anchors keeps them. -/
theorem foldl_anchors {α : Type} {f : AccTile → α → AccTile} (hf : ∀ t x, (f t x).anchors = t.anchors) (l : List α)
    (t : AccTile) : (l.foldl f t).anchors = t.anchors := by
  induction l generalizing t with
  | nil => rfl
  | cons x l ih => exact (ih _).trans (hf t x)

/-- Adding a record changes cells alone. -/
theorem addRecord_anchors (t : AccTile) (h rows cols : Nat) (states cells : List (List Byte)) :
    (addRecord t h rows cols states cells).anchors = t.anchors := by
  unfold addRecord
  refine foldl_anchors (fun t r => foldl_anchors (fun _ _ => ?_) _ t) _ t
  rfl

/-- A tile of one half takes one record. -/
theorem accloadRes_one {u : State} {x : AccTile} (ht : c.x.tiles[c.w.x]? = some t)
    (hgives : Safety.Gives (loadRecord c (agOperand c c.w.ag1) (agAt c c.w.ag1 c.w.imm1) t 0 s) u x)
    (hhalves : x.anchors.length ≠ 2) : accloadRes c s = .next (putTile c x u) := by
  simp only [accloadRes, withTile_given ht]
  rw [hgives, if_neg hhalves]

/-- A record of the scratchpad with its anchor unset leaves a tile of one half as it was. -/
theorem accloadRes_pad_unset {b : List Byte} (ht : c.x.tiles[c.w.x]? = some t) (hhalf : t.anchors.length = 1)
    (hpad : Safety.PadGives c c.w.ag1 c.w.imm1 64 b) (hmode : leAt b 2 1 = b2n t.fp) (hflag : leAt b 5 1 = 1) (s : State) :
    accloadRes c s = .next (putTile c t s) := by
  obtain ⟨hag, hhead⟩ := hpad
  refine accloadRes_one ht ?_ (by omega)
  rw [hag]
  exact loadRecord_unset hhead hmode hflag s

/-- A record of the scratchpad that matches a tile of one half is added to it. -/
theorem accloadRes_pad_adds {b : List Byte} {data : Nat → List Byte} (ht : c.x.tiles[c.w.x]? = some t)
    (hhalf : t.anchors.length = 1) (hpad : Safety.PadGives c c.w.ag1 c.w.imm1 64 b) (hmode : leAt b 2 1 = b2n t.fp)
    (hflag : leAt b 5 1 = 0)
    (hanchor : t.fp = true ∨ t.anchors = [none] ∨ t.anchors = [some (signed 16 (leAt b 0 2))])
    (hrows : leAt b 3 1 ≤ min 128 (shapeRows t.shape)) (hcols : leAt b 4 1 ≤ shapeCols t.shape) (s : State) :
    let pieces := recordPieces t.fp (agAt c c.w.ag1 c.w.imm1) (leAt b 3 1) (leAt b 4 1)
    let ds := (List.range pieces.length).map data
    let k := if t.fp then 0 else leAt b 3 1
    pieces.map (fun p => scratchUse c p.1 p.2) = (List.range pieces.length).map (fun k => .ok (data k)) →
    accloadRes c s = .next (putTile c (addRecord (if t.fp then t else { t with anchors := [some (signed 16 (leAt b 0 2))] }) 0
      (leAt b 3 1) (leAt b 4 1) (ds.take k) (ds.drop k)) s) := by
  intro pieces ds k hdata
  obtain ⟨hag, hhead⟩ := hpad
  have hfirst : t.fp = true ∨ t.anchors.getD 0 none = none ∨ t.anchors.getD 0 none = some (signed 16 (leAt b 0 2)) :=
    hanchor.imp_right (Or.imp (fun h => by rw [h]; rfl) (fun h => by rw [h]; rfl))
  have hset : setAt t.anchors 0 (some (signed 16 (leAt b 0 2))) = [some (signed 16 (leAt b 0 2))] := by
    obtain ⟨a, ha⟩ := List.length_eq_one_iff.1 hhalf
    rw [ha]; rfl
  have hadds := loadRecord_adds (h := 0) hhead hmode hflag hfirst hrows hcols hdata s
  rw [hset] at hadds
  refine accloadRes_one ht (by rw [hag]; exact hadds) ?_
  rw [addRecord_anchors]
  split
  · omega
  · simp

/-- A 256 × 128 tile takes two, one behind the other. -/
theorem accloadRes_two {u v : State} {x y : AccTile} (ht : c.x.tiles[c.w.x]? = some t)
    (hgives : Safety.Gives (loadRecord c (agOperand c c.w.ag1) (agAt c c.w.ag1 c.w.imm1) t 0 s) u x)
    (hhalves : x.anchors.length = 2)
    (hsecond : Safety.Gives (loadRecord c (agOperand c c.w.ag1) (agAt c c.w.ag1 c.w.imm1 + (recordSize x.fp : Nat)) x 1 u) v y) :
    accloadRes c s = .next (putTile c y v) := by
  simp only [accloadRes, withTile_given ht]
  rw [hgives, if_pos hhalves, hsecond]

/-! ### EPI -/

/-- The values that the epilogue makes of a tile's rows (R161). -/
def epiRows (c : Ctx) (t : AccTile) (act : Val → Val) (bias cs rs : List (Option Val)) : List (List Val) :=
  (List.range (shapeRows t.shape)).map (fun r => (List.range (shapeCols t.shape)).map (fun col =>
    epiValue (tensorScale (operandOf c c.w.opa) (operandOf c c.w.opb)) (rs.getD r none) (cs.getD col none) (bias.getD col none)
      act (drainCell t r col)))

/-- Once its activation, vectors and scales are at hand, an EPI drains the rows to its destination. -/
theorem epiRes_drains {act : Val → Val} {u v w : State} {bias cs rs : List (Option Val)} (ht : c.x.tiles[c.w.x]? = some t)
    (hact : activation s c = .ok act)
    (hbias : Safety.Gives (withVector c (bit c.w.flags 2) c.w.ag1 c.w.imm1 (shapeCols t.shape) .bf16 s) u bias)
    (hcs : Safety.Gives (withVector c (bit c.w.flags 3) c.w.ag2 0 (shapeCols t.shape) .fp32 u) v cs)
    (hrs : Safety.Gives (withRowScales c (operandOf c c.w.opa) (shapeRows t.shape) v) w rs) :
    epiRes c s = putOut c (operandOf c c.w.opc) (epiRows c t act bias cs rs) w := by
  simp only [epiRes, withTile_given ht, hact, orFault]
  rw [hbias, hcs, hrs, epiRows]

theorem withVector_unused {use : Bool} {ag imm n : Nat} {f : Fmt} (h : use = false) (s : State) :
    Safety.Gives (withVector c use ag imm n f s) s [] := fun _ => by rw [h]; rfl

theorem withRowScales_unused {o : Operand} (h : o.scaleKind ≠ 2) (rows : Nat) (s : State) :
    Safety.Gives (withRowScales c o rows s) s [] := fun _ => by rw [withRowScales, if_pos h]

section Out
variable {oc : Operand} {rows : List (List Val)}

/-- Values of a narrow format drain to the scratchpad packed in their groups (R162). -/
theorem putOut_packed {l : Layout} (hl : layoutOf oc.fmt oc.mx = some l) (hag : agOperand c c.w.ag3 = none) (s : State) :
    let gs := gatherGroups c oc (16 + c.w.opc) l (fun r => some (originNow c oc.rdim + r)) rows
    let b := gs.2.flatMap (fun g => g.2.2)
    inScratch c (agAt c c.w.ag3 0) b.length = true →
    putOut c oc rows s = .next (modIsland
      (modIsland s c.isl (fun y => putScratch y (agAt c c.w.ag3 0).toNat (clean b))) c.isl (fun y => { y with packing := gs.1 })) := by
  intro gs b hfit
  have hall : [(agAt c c.w.ag3 0, clean b)].all (fun w => inScratch c w.1 w.2.length) = true := by
    simpa [clean_length] using hfit
  simp only [putOut, hl, hag, putPacked]
  exact congrArg (andThen · _) (putRanges_fit hall s)

/-- To an output operand they are written at their groups' places (R162). -/
theorem putOut_narrow {l : Layout} {o : Operand} {u : State} (hl : layoutOf oc.fmt oc.mx = some l)
    (hag : agOperand c c.w.ag3 = some o) (hout : o.output = true) :
    let gs := gatherGroups c o ((agOf c c.w.ag3).operand.getD 0) l (fun r =>
      let row := (rowCol o (agAt c c.w.ag3 0 + (r * o.pitch : Nat))).1
      if row < 0 ∨ ((extOf c o).1 : Int) ≤ row then none else some row.toNat) rows
    let ws := gs.2.map (fun g => (o.base + g.1 * o.pitch + g.2.1 * 128, clean g.2.2))
    writeGate s c.t (ws.map (fun x => (x.1, x.2.length))) = .go u →
    putOut c oc rows s = .next (modIsland (taskWrite s c.t c.isl ws) c.isl (fun y => { y with packing := gs.1 })) := by
  intro gs ws hgate
  simp only [putOut, hl, hag, hout, if_true, putNarrow]
  exact withWrite_go hgate _

/-- The bytes of rows in a format of whole bytes, each row under its scale (R161 step 5). -/
def plainRows (oc : Operand) (sc : Nat → Val) (rows : List (List Val)) : List (List Byte) :=
  ((List.range rows.length).zip rows).map (fun p => p.2.flatMap (toFmt oc.fmt (sc p.1)))

/-- Values of a format of whole bytes take the scales of their rows, where the format has them (R161 step 5). -/
theorem putOut_plain {x : State} {sc : Nat → Val} (hl : layoutOf oc.fmt oc.mx = none)
    (hgate : readGate s c.t c.isl false true (if decide (oc.fmt = .int8) then
      (List.range rows.length).flatMap (fun r => scaleRange c oc (outRow c oc (agAt c c.w.ag3 0) r)) else []) = .go x)
    (hsc : ∀ r, r < rows.length →
      (if decide (oc.fmt = .int8) then scaleOf x c oc (outRow c oc (agAt c c.w.ag3 0) r) else .ok vone) = .ok (sc r)) :
    putOut c oc rows s = putRows c (agAt c c.w.ag3 0) (plainRows oc sc rows) x := by
  simp only [putOut, hl]
  rw [withRead_go hgate, allOk_map_of_ok (f := fun p => p.2.flatMap (toFmt oc.fmt (sc p.1))) fun p hp => ?_, orFault, plainRows]
  rw [hsc p.1 (List.mem_range.1 (List.of_mem_zip hp).1)]

/-- Formats but INT8 have no scales to read. -/
theorem putOut_unscaled (hl : layoutOf oc.fmt oc.mx = none) (hint8 : oc.fmt ≠ .int8) (s : State) :
    putOut c oc rows s = putRows c (agAt c c.w.ag3 0) (plainRows oc (fun _ => vone) rows) s := by
  have hplain : ¬ decide (oc.fmt = .int8) = true := mt of_decide_eq_true hint8
  exact putOut_plain hl (by rw [if_neg hplain, readGate_nil]) fun _ _ => if_neg hplain

end Out

/-- Rows stand back to back in the scratchpad. -/
theorem putRows_pad {bs : List (List Byte)} (hag : agOperand c c.w.ag3 = none) (dst : Int) (s : State) :
    let puts := ((List.range bs.length).zip bs).map (fun p => (dst + (p.1 * (bs.headD []).length : Nat), clean p.2))
    puts.all (fun w => inScratch c w.1 w.2.length) = true →
    putRows c dst bs s = .next (modIsland s c.isl (fun y => puts.foldl (fun y w => putScratch y w.1.toNat w.2) y)) := by
  intro puts hfit
  simp only [putRows, hag]
  exact putRanges_fit hfit s

/-- In an output operand they stand at its row pitch. -/
theorem putRows_operand {bs : List (List Byte)} {o : Operand} {u : State} (hag : agOperand c c.w.ag3 = some o)
    (hout : o.output = true) (dst : Int) :
    let ws := ((List.range bs.length).zip bs).flatMap (fun p =>
      (segs c o (dst + (p.1 * o.pitch : Nat)) p.2.length).map (fun g => (g.2.1, clean ((p.2.drop g.1).take g.2.2))))
    writeGate s c.t (ws.map (fun w => (w.1, w.2.length))) = .go u →
    putRows c dst bs s = .next (taskWrite s c.t c.isl ws) := by
  intro ws hgate
  simp only [putRows, hag, hout, if_true]
  exact withWrite_go hgate _

/-- With no vector and no scale, each row drains as its cells' values under the tensor scale. -/
theorem plainRows_epiRows (oc : Operand) (act : Val → Val) : plainRows oc (fun _ => vone) (epiRows c t act [] [] []) =
    (List.range (shapeRows t.shape)).map (fun r => (List.range (shapeCols t.shape)).flatMap (fun col => toFmt oc.fmt vone
      (epiValue (tensorScale (operandOf c c.w.opa) (operandOf c c.w.opb)) none none none act (drainCell t r col)))) := by
  rw [plainRows, map_numbered (fun vs : List Val => vs.flatMap (toFmt oc.fmt vone)), epiRows, List.map_map]
  simp only [Function.comp_def, List.flatMap_map, List.getD_nil]

/-! ### The obligation -/

/-- Settles O28: what each instruction's own function answers on the tile, then the scoreboard and the pc. -/
theorem accumulatorInstructionsComplete : Obligations.AccumulatorInstructionsComplete := by
  intro i s c t hc ht oa ob t0 steps
  refine ⟨?accclr, ?mma, ?anchorOnly, ?epiraw, ?accloadPad, ?accloadOne, ?accloadTwo, ?epiPad, ?epi⟩
  case accclr => exact fun hop => runInsn_useTile hc hop (accclrRes_given ht s)
  case mma =>
    exact fun ra rb hop hfa hfb honly hra hrb =>
      ⟨fun hset => runInsn_useTile hc hop (mmaRes_anchored ht hfa hfb honly hra hrb hset s),
        fun u as hfp hset hgives => runInsn_useTile hc hop (mmaRes_opens ht hfa hfb honly hra hrb hfp hset hgives)⟩
  case anchorOnly =>
    exact fun o u v as hop hfa hfb honly _ hag hgives hstore =>
      runInsn_useTile hc hop (mmaRes_anchorOnly ht hfa hfb honly hag hgives hstore)
  case epiraw =>
    exact fun hop => ⟨fun htakes => runInsn_useTile hc hop (epirawRes_pad ht htakes s),
      fun o u hag hstore => runInsn_useTile hc hop (epirawRes_operand ht hag hstore)⟩
  case accloadPad =>
    exact fun hd data hop hhalf hpad hmode _ =>
      ⟨fun hflag => runInsn_useTile hc hop (accloadRes_pad_unset ht hhalf hpad hmode hflag s),
        fun hflag hanchor hrows hcols hdata =>
          runInsn_useTile hc hop (accloadRes_pad_adds ht hhalf hpad hmode hflag hanchor hrows hcols s hdata)⟩
  case accloadOne => exact fun u x hop _ hgives hhalf => runInsn_useTile hc hop (accloadRes_one ht hgives hhalf)
  case accloadTwo =>
    exact fun u v x y hop _ hgives hhalves hsecond => runInsn_useTile hc hop (accloadRes_two ht hgives hhalves hsecond)
  case epiPad =>
    intro act hop hact hbias hcs hscale oc out puts hl hint8 hag hfit
    refine runInsn_useTile hc hop ((epiRes_drains ht hact (withVector_unused hbias s) (withVector_unused hcs s)
      (withRowScales_unused hscale _ s)).trans ?_)
    rw [putOut_unscaled hl hint8, plainRows_epiRows]
    exact putRows_pad hag _ s hfit
  case epi =>
    intro act u v w x bias cs rs hop hact hbias hcs hrs out oc dst
    have hdrains := epiRes_drains ht hact hbias hcs hrs
    refine ⟨fun l y hl => ⟨fun hag hfit => ?_, fun o hag hout hgate => ?_⟩,
      fun sc hl hgate hsc => ⟨fun hag hfit => ?_, fun o y hag hout hwrite => ?_⟩⟩
    · exact runInsn_useTile hc hop (hdrains.trans (putOut_packed hl hag w hfit))
    · exact runInsn_useTile hc hop (hdrains.trans (putOut_narrow hl hag hout hgate))
    · exact runInsn_useTile hc hop ((hdrains.trans (putOut_plain hl hgate hsc)).trans (putRows_pad hag _ x hfit))
    · exact runInsn_useTile hc hop ((hdrains.trans (putOut_plain hl hgate hsc)).trans (putRows_operand hag hout _ hwrite))

end Sys2Proof.Machine
end

section
/-!
LOAD_PROGRAM and UNLOAD_PROGRAM: the entry of the program table, and what changes beside it (R179, R182, R183).
-/
namespace Sys2Proof.Machine

/-! ### The program table, and what stays beside it -/

/-- What the commands of the program table show: the domain's table, the serial numbers and DRAM. -/
def programView (d : Nat) (s : State) : Sparse (Option (Nat × Program)) × Nat × Sparse Byte :=
  ((domAt s d).programs, s.order, s.mem)

/-- A domain that accepts setup, or that has an entry in its program table, is not the empty one. -/
theorem dom_ne_default_of_programs {x : Dom} (h : x.st ∈ setupStates ∨ x.programs ≠ []) : x ≠ {} :=
  h.elim dom_ne_default fun hne hempty => hne (congrArg Dom.programs hempty)

/-- A table in which an entry has been set is not empty. -/
theorem sparseSet_some_ne_nil {α : Type} [DecidableEq α] (m : Sparse (Option α)) (k : Nat) (v : α) :
    sparseSet none m k (some v) ≠ [] := fun hnil => by
  have hget := sparseGet_set_self none m k (Option.some_ne_none v)
  rw [hnil] at hget
  cases hget

theorem storeEverywhere_programView (s : State) (d n b : Nat) : programView d (storeEverywhere s d n b) = programView d s := by
  unfold storeEverywhere
  exact foldl_keep (programView d) _ (fun s _ => by rfl) _ s

theorem dropResident_programView (s : State) (d n : Nat) : programView d (dropResident s d n) = programView d s := by
  unfold dropResident
  exact foldl_keep (programView d) _ (fun s _ => by rfl) _ s

theorem succeed_programView (src : Src) (s : State) (d : Nat) : programView d (succeed src s) = programView d s := by
  simp [programView]

/-- Releasing an image frees frames of its domain and nothing else. -/
theorem releaseProgram_programView {s : State} {d : Nat}
    (hdom : (domAt s d).st ∈ setupStates ∨ (domAt s d).programs ≠ []) (n : Nat) :
    programView d (releaseProgram s d n) = programView d s := by
  unfold releaseProgram
  split
  · rfl
  · have hset : domAt (freeStruct s d (.program n)) d = _ := domAt_setDom s d (dom_ne_default_of_programs hdom)
    simp only [programView, hset]
    rfl

/-- Setting or clearing an entry of the program table changes that table alone (R183). -/
theorem setProgram_programView {s : State} {d k : Nat} {p : Option (Nat × Program)}
    (hdom : (domAt s d).st ∈ setupStates ∨ p ≠ none) :
    programView d (setProgram s d k p) = (sparseSet none (domAt s d).programs k p, s.order, s.mem) := by
  have hput : (domAt s d).st ∈ setupStates ∨ sparseSet none (domAt s d).programs k p ≠ [] := hdom.imp_right fun hp => by
    obtain ⟨v, rfl⟩ := Option.ne_none_iff_exists'.1 hp
    exact sparseSet_some_ne_nil _ k v
  unfold setProgram
  extract_lets old t
  have hset : domAt t d = { domAt s d with programs := sparseSet none (domAt s d).programs k p } :=
    domAt_setDom s d (dom_ne_default_of_programs hput)
  have hview : programView d t = (sparseSet none (domAt s d).programs k p, s.order, s.mem) := by
    simp only [programView, hset]; rfl
  have hlive : (domAt t d).st ∈ setupStates ∨ (domAt t d).programs ≠ [] := by rw [hset]; exact hput
  clear_value old t
  match old with
  | none => exact hview
  | some (n, q) =>
    dsimp only
    split
    · have hdrop := dropResident_programView t d n
      refine (releaseProgram_programView ?_ n).trans (hdrop.trans hview)
      have hdoms : domAt (dropResident t d n) d = domAt t d := by
        unfold dropResident
        exact foldl_keep (domAt · d) _ (fun _ _ => by rfl) _ t
      rwa [hdoms]
    · exact (releaseProgram_programView hlive n).trans hview

/-! ### LOAD_PROGRAM -/

/-- The domain range reads clean: a command's read gives its bytes and changes nothing (R69, R178). -/
theorem vaFetch_of_readsClean {s : State} {d va n : Nat} (h : Safety.ReadsClean s d va n) :
    vaFetch s d va n = (s, .ok (plain (Safety.rangeBytes s d va n))) := by
  obtain ⟨hlatent, hfault, hmark⟩ := h
  have hstate := vaFetch_clean s d va n hlatent
  simp only [vaFetch, hfault] at hstate ⊢
  generalize List.foldl _ s _ = t at hstate ⊢
  have hsame : t = s := by split at hstate <;> exact hstate
  subst hsame
  rw [Safety.rangeBytes] at hmark ⊢
  rw [if_neg (by simp [hmark])]

/-- The state after an image that passes its checks has entered the table under the next serial number (R182, R183). -/
def programLoaded (src : Src) (d k : Nat) (p : Program) (n : Nat) (s : State) : State :=
  let t := setProgram { s with order := n + 1 } d k (some (n, p))
  succeed src (if isResident p then storeEverywhere t d n p.bytes else t)

theorem enterProgram_accepted {src : Src} {d k : Nat} {img : List Byte} {s u : State} {p : Program}
    (hread : readProgram img = some p)
    (hfoot : footprintOk p ((List.range 256).map (fun i => openMask s i true)) ((List.range 256).map (fun i => openMask s i false))
      = true) (hstore : storeOk s d k p = true) (halloc : allocStruct s d (.program s.order) (ceilDiv p.bytes pageSize) = some u) :
    enterProgram src d k img s = programLoaded src d k p s.order u := by
  simp only [enterProgram, hread, hfoot, hstore, halloc, Bool.not_true, Bool.or_self, Bool.false_eq_true, if_false, programLoaded]

theorem programLoaded_effect (src : Src) (d k : Nat) (p : Program) (n : Nat) (s : State) :
    let t := programLoaded src d k p n s
    (domAt t d).programs = sparseSet none (domAt s d).programs k (some (n, p)) ∧ t.order = n + 1 ∧ t.mem = s.mem := by
  suffices hview : programView d (programLoaded src d k p n s) =
      (sparseSet none (domAt s d).programs k (some (n, p)), n + 1, s.mem) by
    simpa only [programView, Prod.mk.injEq] using hview
  have hset : programView d (setProgram { s with order := n + 1 } d k (some (n, p))) = _ :=
    setProgram_programView (.inr (Option.some_ne_none _))
  refine (succeed_programView src _ d).trans ?_
  split
  · exact (storeEverywhere_programView _ d n p.bytes).trans hset
  · exact hset

section Load
variable {h : Hdr} {x : BitVec 16} {s : State} {d : Nat} (hdom : domOfVf s h.vf = some d)
  (hst : (domAt s d).st ∈ setupStates) (hx : x.toNat < 1024)
include hdom hst hx

theorem loadProgram_badHeader {va : BitVec 64} {u : State} {hd : List Byte} (hfetch : vaFetch s d va.toNat 64 = (u, .ok hd))
    (hbad : progHeaderOk hd = false) : exec (.loadProgram h x va) s = .next (refuse (srcOf h) .programBad u) := by
  change (.next (doLoadProgram (srcOf h) x.toNat va.toNat s) : Outcome) = _
  rw [doLoadProgram, ringCmd_accepted (src := srcOf h) hdom hst, if_neg (by omega)]
  simp only [hfetch, hbad, Bool.not_false, if_true]

theorem loadProgram_entered {va : BitVec 64} {u v : State} {hd img : List Byte} (hfetch : vaFetch s d va.toNat 64 = (u, .ok hd))
    (hgood : progHeaderOk hd = true) (himg : vaFetch u d va.toNat (imageLength hd) = (v, .ok img)) :
    exec (.loadProgram h x va) s = .next (enterProgram (srcOf h) d x.toNat img v) := by
  change (.next (doLoadProgram (srcOf h) x.toNat va.toNat s) : Outcome) = _
  rw [doLoadProgram, ringCmd_accepted (src := srcOf h) hdom hst, if_neg (by omega)]
  simp only [hfetch, hgood, himg, Bool.not_true, Bool.false_eq_true, if_false]

theorem unloadProgram_clears (hused : (sparseGet none (domAt s d).programs x.toNat).isSome = true) :
    exec (.unloadProgram h x) s = .next (succeed (srcOf h) (setProgram s d x.toNat none)) := by
  change (.next (doUnloadProgram (srcOf h) x.toNat s) : Outcome) = _
  rw [doUnloadProgram, ringCmd_accepted (src := srcOf h) hdom hst, if_neg (by omega),
    if_neg (by simp [Option.isSome_iff_ne_none.1 hused])]

end Load

/-- Settles O16: by what the table, the serial numbers and DRAM show after each command. -/
theorem programsLoadAndUnload : Obligations.ProgramsLoadAndUnload := by
  intro h x s d hdom hst hx hwf
  refine ⟨fun va u hd => loadProgram_badHeader hdom hst hx, ?loads, ?loadsClean, fun hused => ?unloads⟩
  case loads =>
    intro va u v w hd img p hfetch hgood himg hread hfoot hstore halloc
    have hrun := loadProgram_entered hdom hst hx hfetch hgood himg
    rw [enterProgram_accepted hread hfoot hstore halloc] at hrun
    obtain ⟨htable, horder, -⟩ := programLoaded_effect (srcOf h) d x.toNat p v.order w
    exact ⟨_, hrun, horder, fun _ => by rw [htable]; exact sparseGet_set_self none _ _ (Option.some_ne_none _)⟩
  case loadsClean =>
    intro va p hd img hclean hclean' hgood hread hfoot hstore halloc
    obtain ⟨u, hu⟩ := Option.isSome_iff_exists.1 halloc
    have hrun := loadProgram_entered hdom hst hx (vaFetch_of_readsClean hclean) hgood (vaFetch_of_readsClean hclean')
    rw [enterProgram_accepted hread hfoot hstore hu] at hrun
    obtain ⟨-, horder, hmem⟩ := programLoaded_effect (srcOf h) d x.toNat p s.order u
    obtain ⟨ds, -, rfl, -⟩ := allocFrames_frame hst hu
    exact ⟨_, hrun, horder, hmem⟩
  case unloads =>
    have hview := (succeed_programView (srcOf h) _ d).trans (setProgram_programView (k := x.toNat) (p := none) (.inl hst))
    simp only [programView, Prod.mk.injEq] at hview
    obtain ⟨htable, -, hmem⟩ := hview
    refine ⟨_, unloadProgram_clears hdom hst hx hused, hmem, ?_⟩
    rw [htable, sparseGet_set none _ hwf, if_pos rfl]

end Sys2Proof.Machine
end

section
/-!
A task's write: the DRAM bytes it changes, and what lies outside DRAM and stays (R177, R186, R227).
-/
namespace Sys2Proof.Machine

/-! ### What the writes of a task leave alone -/

/-- Host memory, semaphores and tasks: what lies beside DRAM and its registers. -/
def besideDram (s : State) : Sparse Byte × Sparse Nat × List Task := (s.host, s.sems, s.tasks)

theorem besideDram_ite {c : Prop} [Decidable c] {s t u : State} (hs : besideDram s = besideDram u)
    (ht : besideDram t = besideDram u) : besideDram (if c then s else t) = besideDram u := by
  split
  · exact hs
  · exact ht

theorem eccCorrect_beside (s : State) (b : Nat) (scrub : Bool) : besideDram (eccCorrect s b scrub) = besideDram s := by
  unfold eccCorrect
  exact besideDram_ite (besideDram_ite (by simp [besideDram]) rfl) rfl

theorem eccPoison_beside (s : State) (b : Nat) : besideDram (eccPoison s b) = besideDram s := by
  unfold eccPoison
  exact besideDram_ite (by simp [besideDram]) (by simp [besideDram])

theorem touchBeat_beside (scrub : Bool) (s : State) (b : Nat) : besideDram (touchBeat scrub s b) = besideDram s := by
  unfold touchBeat
  split
  · rfl
  · exact eccCorrect_beside s b scrub
  · exact eccPoison_beside s b
  · refine besideDram_ite (eccPoison_beside _ b) (besideDram_ite ?_ rfl)
    exact (eccCorrect_beside _ b scrub).trans (foldl_keep besideDram _ (fun _ _ => by rfl) _ _)

theorem dramWrite_beside (s : State) (pa : Nat) (data : List MByte) : besideDram (dramWrite s pa data) = besideDram s :=
  foldl_keep besideDram (touchBeat false) (touchBeat_beside false) _ s

theorem vaWrite_beside (s : State) (d : Nat) (tag : Option Nat) (va : Nat) (data : List MByte) :
    besideDram (vaWrite s d tag va data) = besideDram s := by
  unfold vaWrite
  refine foldl_keep besideDram _ (fun s x => ?_) _ s
  dsimp only
  split
  · exact besideDram_ite rfl (dramWrite_beside s _ _)
  · rfl

theorem heatUnits_beside (s : State) (d page isl k : Nat) : besideDram (heatUnits s d page isl k) = besideDram s := by
  unfold heatUnits
  split
  · rfl
  · refine besideDram_ite rfl ?_
    extract_lets heat threshold barred heated mig kept
    have hkept : besideDram kept = besideDram s := besideDram_ite rfl rfl
    clear_value kept
    refine besideDram_ite ?_ hkept
    split
    · exact hkept
    · exact hkept

theorem addHeat_beside (s : State) (isl d page n : Nat) : besideDram (addHeat s isl d page n) = besideDram s := by
  unfold addHeat
  dsimp only
  split
  · exact heatUnits_beside _ _ _ _ _
  · split <;> exact heatUnits_beside _ _ _ _ _

theorem fillLine_beside (atoll d : Nat) (dirty : Bool) (s : State) (line : Nat) :
    besideDram (fillLine atoll d dirty s line) = besideDram s := by
  unfold fillLine
  exact besideDram_ite rfl (besideDram_ite rfl rfl)

theorem homeAccess_beside (s : State) (isl d : Nat) (write : Bool) (p : Place) (n : Nat) :
    besideDram (homeAccess s isl d write p n) = besideDram s := by
  have hfill : ∀ a w l s, besideDram (List.foldl (fillLine a d w) s l) = besideDram s := fun a w l s =>
    foldl_keep besideDram _ (fillLine_beside a d w) l s
  unfold homeAccess
  exact besideDram_ite rfl (besideDram_ite ((hfill _ _ _ _).trans (hfill _ _ _ _)) (hfill _ _ _ _))

/-- The home lagoon and the heat of the pages that a task's access meets. -/
def writeEffects (t : Task) (isl : Nat) (s : State) (x : Nat × Nat) : State :=
  match xlat s t.desc.domain (some t.tag) x.1 with
  | .ok p =>
    let u := homeAccess s isl t.desc.domain true p x.2
    (match p.page with | some k => addHeat u isl t.desc.domain k x.2 | none => u)
  | .error _ => s

/-- A task's writes, one after another: the bytes, then the effects of each piece's access. -/
theorem taskWrite_cons (s : State) (t : Task) (isl : Nat) (w : Nat × List MByte) (ws : List (Nat × List MByte)) :
    taskWrite s t isl (w :: ws) = taskWrite ((piecesOf w.1 w.2.length).foldl (writeEffects t isl)
      (vaWrite s t.desc.domain (some t.tag) w.1 w.2)) t isl ws := rfl

theorem writeEffects_beside (t : Task) (isl : Nat) (s : State) (x : Nat × Nat) :
    besideDram (writeEffects t isl s x) = besideDram s := by
  unfold writeEffects
  split
  · dsimp only
    split
    · exact (addHeat_beside _ _ _ _ _).trans (homeAccess_beside _ _ _ _ _ _)
    · exact homeAccess_beside _ _ _ _ _ _
  · rfl

theorem writeEffects_view (t : Task) (isl : Nat) (s : State) (x : Nat × Nat) :
    SameView s (writeEffects t isl s x) := by
  unfold writeEffects
  split
  · dsimp only
    split
    · exact (homeAccess_view _ _ _ _ _ _).trans (addHeat_view _ _ _ _ _)
    · exact homeAccess_view _ _ _ _ _ _
  · exact .refl s

theorem taskWrite_beside (s : State) (t : Task) (isl : Nat) (ws : List (Nat × List MByte)) :
    besideDram (taskWrite s t isl ws) = besideDram s := by
  induction ws generalizing s with
  | nil => rfl
  | cons w ws ih =>
    rw [taskWrite_cons, ih, foldl_keep besideDram _ (writeEffects_beside t isl), vaWrite_beside]

/-- Host memory, semaphores and tasks are as before a task's writes. -/
theorem taskWrite_frame (s : State) (t : Task) (isl : Nat) (ws : List (Nat × List MByte)) :
    (taskWrite s t isl ws).host = s.host ∧ (taskWrite s t isl ws).sems = s.sems ∧ (taskWrite s t isl ws).tasks = s.tasks := by
  simpa only [besideDram, Prod.mk.injEq] using taskWrite_beside s t isl ws

/-! ### The DRAM bytes of one write -/

/-- A range that ends within the page it begins in is one piece. -/
theorem piecesOf_within_page {a n : Nat} (hn : 0 < n) (hfit : a % pageSize + n ≤ pageSize) : piecesOf a n = [(a, n)] := by
  have hmin : min n (pageSize - a % pageSize) = n := Nat.min_eq_left (by omega)
  simp [piecesOf, pieces, hmin, Nat.ne_of_gt hn]

/-- Where no beat has a latent error, a write of DRAM changes the bytes it covers (R69). -/
theorem dramWrite_mem_clean {s : State} (h : s.latent = []) (pa : Nat) (data : List MByte) :
    (dramWrite s pa data).mem = memPut s.mem pa (plain data) := by
  have htouch : ∀ b, touchBeat false s b = s := fun b => by simp [touchBeat, h, sparseGet]
  have hfold : ∀ l : List Nat, l.foldl (touchBeat false) s = s := fun l =>
    List.foldlRecOn (motive := fun t => t = s) l _ rfl fun _ ht b _ => by rw [ht, htouch]
  simp only [dramWrite, hfold]

theorem plain_clean (b : List Byte) : plain (clean b) = b := by simp [plain, clean, Function.comp_def]

/-- One write inside a T1 page changes the bytes of DRAM at the place that its address translates to. -/
theorem taskWrite_mem_one {s : State} {t : Task} {va : Nat} {data : List Byte} {p : Place}
    (hx : xlat s t.desc.domain (some t.tag) va = .ok p) (htier : p.tier = .t1) (hne : data ≠ [])
    (hfit : va % pageSize + data.length ≤ pageSize) (hlatent : s.latent = []) (isl : Nat) :
    (taskWrite s t isl [(va, clean data)]).mem = memPut s.mem p.addr data := by
  have hpieces := piecesOf_within_page (List.length_pos_iff.2 hne) hfit
  have hwrite : vaWrite s t.desc.domain (some t.tag) va (clean data) = dramWrite s p.addr (clean data) := by
    simp only [vaWrite, clean_length, hpieces, List.foldl_cons, List.foldl_nil, hx, htier]
    simp [← clean_length data]
  rw [taskWrite_cons, hwrite]
  refine (foldl_keep State.mem _ (fun s x => (writeEffects_view t isl s x).mem) _ _).trans ?_
  rw [dramWrite_mem_clean hlatent, plain_clean]

/-- Settles O23: byte by byte of what the write puts into DRAM. -/
theorem storedBytesAreTheOnlyOnes : Obligations.StoredBytesAreTheOnlyOnes := by
  intro s t isl va data p hx htier hne hfit hlatent hwf u
  obtain ⟨hhost, hsems, htasks⟩ := taskWrite_frame s t isl [(va, clean data)]
  have hbyte : ∀ a, sparseGet 0 u.mem a =
      if p.addr ≤ a ∧ a < p.addr + data.length then data.getD (a - p.addr) 0 else sparseGet 0 s.mem a := fun a => by
    rw [taskWrite_mem_one hx htier hne hfit hlatent isl, memPut_get data s.mem p.addr a hwf]
  refine ⟨hhost, hsems, htasks, fun k hk => ?_, fun a ha => ?_⟩
  · rw [hbyte, if_pos (by omega), Nat.add_sub_cancel_left]
  · rw [hbyte, if_neg (by omega)]

end Sys2Proof.Machine
end

section
/-!
COPY and ZERO in the scratchpad, issue behind an overlap, and a waiting instruction that goes on (R12, R70, R186, R187, R199).
-/
namespace Sys2Proof.Machine

/-! ### Issue behind an overlap, and the instructions that wait -/

/-- What an instruction at an island's pc sees, whether or not it may go on. -/
theorem insnAt_some {s : State} {i : Nat} {c : Ctx} (h : insnAt s i = some c) : c.isl = i ∧ c.x = islandAt s i := by
  unfold insnAt at h
  split at h
  · cases h
  · dsimp only at h
    split at h
    · cases h
    · split at h
      · cases h
      · cases h
        exact ⟨rfl, rfl⟩

/-- An instruction at the pc that overlaps one outstanding issues and waits behind it (R187). -/
theorem runInsn_overlap {s : State} {i : Nat} {c : Ctx} {name : String} {ok : Insn → Bool} {f : Ctx → State → Res}
    (h : insnAt s i = some c) (hblocked : unblocked s c = false) (hok : ok c.w = true) :
    runInsn name ok i s f = .next (holdInsn c .overlap s) := by
  have hnone : ctxOf s i = none := by simp [ctxOf, h, Option.filter, hblocked]
  have hsome : (insnAt s i).filter (fun c => ok c.w && !(unblocked s c)) = some c := by
    simp [h, Option.filter, hok, hblocked]
  simp only [runInsn, hnone, Option.filter_none, hsome]

/-- An instruction that runs asynchronously joins those that wait, and the island goes on (R12, R187). -/
theorem islandAt_holdInsn {c : Ctx} {why : Stall} (hasync : runsAsync c.w = true) (hfull : why ≠ .sendFull)
    (hfenced : why ≠ .fenced) (s : State) : ∃ p l k, islandAt (holdInsn c why s) c.isl =
      let x := islandAt s c.isl
      { x with
        waiting := x.waiting ++ [⟨x.issued, c.x.pc, c.x.loopIdx, c.x.loopTrip, c.x.group, x.progress, why⟩]
        issued := x.issued + 1, firstAt := x.firstAt <|> some s.now
        pc := p, loopIdx := l, loopTrip := k, stall := none, progress := 0 } := by
  have hcond : (runsAsync c.w && decide (why ≠ .sendFull) && decide (why ≠ .fenced)) = true := by
    simp [hasync, hfull, hfenced]
  unfold holdInsn
  simp only [hcond, if_true]
  obtain ⟨p, l, k, hmoved⟩ := advancePc_frame c.t { islandAt s c.isl with
    waiting := (islandAt s c.isl).waiting ++
      [⟨(islandAt s c.isl).issued, c.x.pc, c.x.loopIdx, c.x.loopTrip, c.x.group, (islandAt s c.isl).progress, why⟩]
    issued := (islandAt s c.isl).issued + 1, firstAt := (islandAt s c.isl).firstAt <|> some s.now }
  refine ⟨p, l, k, (islandAt_modIsland (island_ne_default (.inr (.inl ?_)))).trans hmoved⟩
  rw [advancePc_firstAt]
  cases (islandAt s c.isl).firstAt <;> simp

/-- A waiting instruction that may go on runs in the island's walk as it was at its issue. -/
theorem waiterAt_some {s v : State} {i : Nat} {w : Waiter} {c : Ctx} (h : waiterAt s i w = some (v, c)) :
    v = modIsland s i (walkAs w) ∧ c.isl = i ∧ c.x = walkAs w (islandAt s i) ∧ c.id = w.id ∧ (islandAt s i).task ≠ none := by
  unfold waiterAt at h
  split at h
  · cases h
  · rename_i t ht
    have htask : (islandAt s i).task ≠ none := fun hnone => by simp [taskAt, hnone] at ht
    dsimp only at h
    split at h
    · cases h
    · rename_i c' hc'
      split at h
      · cases h
      · cases h
        obtain ⟨op, -, rfl⟩ := Option.map_eq_some_iff.1 hc'
        exact ⟨rfl, rfl, rfl, rfl, htask⟩

@[simp] theorem walkAs_task (w : Waiter) (x : Island) : (walkAs w x).task = x.task := rfl

@[simp] theorem walkBack_task (own x : Island) : (walkBack own x).task = x.task := rfl

@[simp] theorem putScratch_task (x : Island) (a : Nat) (data : List MByte) : (putScratch x a data).task = x.task := rfl

/-- Where the instruction at the pc is of another kind, the one that waits goes on (R187). -/
theorem runInsn_waiter {s u v : State} {i : Nat} {c : Ctx} {w : Waiter} {name : String} {ok : Insn → Bool}
    {f : Ctx → State → Res} (hother : ∀ d, insnAt s i = some d → ok d.w = false) (hwait : (islandAt s i).waiting = [w])
    (hw : waiterAt s i w = some (v, c)) (hok : ok c.w = true) (hf : f c v = .next u) :
    runInsn name ok i s f = .next (settleWaiter (islandAt s i) c (.next u)) := by
  have hnone : (ctxOf s i).filter (fun d => ok d.w) = none := Option.filter_eq_none_iff.2 fun d hd => by
    obtain ⟨hat, -⟩ := Option.filter_eq_some_iff.1 hd
    simp [hother d hat]
  have hfree : (insnAt s i).filter (fun d => ok d.w && !(unblocked s d)) = none := Option.filter_eq_none_iff.2 fun d hd => by
    simp [hother d hd]
  simp only [runInsn, hnone, hfree, hwait, tryWaiters, hw, hok, hf, isWait, if_true, Bool.false_eq_true, if_false]

/-- Signals that are released leave the rest of their island, which runs a task. -/
theorem islandAt_releaseSignals {s : State} {i : Nat} (htask : (islandAt s i).task ≠ none) :
    ∃ g, islandAt (releaseSignals s i) i = { islandAt s i with sigs := g } := by
  unfold releaseSignals
  dsimp only
  split
  · exact ⟨_, rfl⟩
  · obtain ⟨m, hsems⟩ := applySignals_frame (setIsland s i { islandAt s i with sigs := _ }) _
    rw [hsems]
    exact ⟨_, sparseGet_set_self ({} : Island) s.islands i (island_ne_default (.inl htask))⟩

/-- A waiting instruction other than SEND that changes its island alone is through: the island waits for it no longer, and its
own walk stands where it stood (R187). -/
theorem settleWaiter_effect {s : State} {i : Nat} {w : Waiter} {c : Ctx} {f : Island → Island} (hisl : c.isl = i)
    (hop : c.w.op ≠ .send) (htask : (islandAt s i).task ≠ none) (hf : ∀ x, (f x).task = x.task) :
    let t := settleWaiter (islandAt s i) c (.next (modIsland (modIsland s i (walkAs w)) i f))
    t.mem = s.mem ∧ t.tasks = s.tasks ∧ ∃ g, islandAt t i =
      let x := f (walkAs w (islandAt s i))
      { walkBack (islandAt s i) { x with waiting := x.waiting.filter (fun v => v.id != c.id) } with sigs := g } := by
  have hsent : ∀ u, countSent c u = u := fun u => if_neg hop
  simp only [settleWaiter, hsent, hisl]
  generalize ht : modIsland (modIsland (modIsland s i (walkAs w)) i f) i _ = t
  have hmem : t.mem = s.mem := by simp [← ht]
  have htasks : t.tasks = s.tasks := by simp [← ht]
  have hwalk := islandAt_modIsland (s := s) (i := i) (f := walkAs w) (island_ne_default (.inl (by simpa using htask)))
  have heffect := islandAt_modIsland (s := modIsland s i (walkAs w)) (i := i) (f := f)
    (island_ne_default (.inl (by simpa only [hwalk, hf, walkAs_task] using htask)))
  rw [hwalk] at heffect
  have hback : islandAt t i = _ := ht ▸ islandAt_modIsland (island_ne_default (.inl (by rw [heffect]; simpa [hf] using htask)))
  rw [heffect] at hback
  obtain ⟨is, m, hframe⟩ := releaseSignals_frame t i
  obtain ⟨g, hisland⟩ := islandAt_releaseSignals (s := t) (i := i) (by simpa [hback, hf] using htask)
  exact ⟨by rw [hframe, hmem], by rw [hframe, htasks], g, hisland.trans (by rw [hback])⟩

/-! ### Bytes in the scratchpad -/

/-- A byte of the scratchpad after a write: the one put there inside the range, the old one outside. -/
theorem putScratch_get {x : Island} (hwf : sparseWf 0 x.scratch = true) (a : Nat) (data : List MByte) (b : Nat) :
    sparseGet 0 (putScratch x a data).scratch b =
      if a ≤ b ∧ b < a + data.length then (plain data).getD (b - a) 0 else sparseGet 0 x.scratch b := by
  have h := memPut_get (plain data) x.scratch a b hwf
  rwa [plain, List.length_map] at h

/-- The bytes of a scratchpad range with the marks of their lines (R70). -/
def padBytes (c : Ctx) (a : Int) (n : Nat) : List MByte :=
  (List.range n).map (fun i => (sparseGet 0 c.x.scratch (a.toNat + i), sparseGet false c.x.marks ((a.toNat + i) / 64)))

theorem scratchRead_fits {c : Ctx} {a : Int} {n : Nat} (h : inScratch c a n = true) : scratchRead c a n = .ok (padBytes c a n) :=
  if_pos h

theorem padBytes_length (c : Ctx) (a : Int) (n : Nat) : (padBytes c a n).length = n := by
  rw [padBytes, List.length_map, List.length_range]

theorem plain_padBytes_getD {c : Ctx} {n k : Nat} (hk : k < n) (a : Int) :
    (plain (padBytes c a n)).getD k 0 = sparseGet 0 c.x.scratch (a.toNat + k) := by
  simp [plain, padBytes, hk]

/-- One range that lies in the task's region is put there. -/
theorem putRanges_one {c : Ctx} {a : Int} {data : List MByte} (h : inScratch c a data.length = true) (s : State) :
    putRanges c [(a, data)] s = .next (modIsland s c.isl (fun x => putScratch x a.toNat data)) :=
  putRanges_fit (by simpa using h) s

/-- Another island is as before an update. -/
theorem islandAt_modIsland_ne {i k : Nat} (hk : k ≠ i) (s : State) (f : Island → Island) :
    islandAt (modIsland s i f) k = islandAt s k := sparseGet_set_ne ({} : Island) s.islands _ hk

theorem islandAt_advanced_ne {c : Ctx} {k : Nat} (hk : k ≠ c.isl) (s : State) :
    islandAt (Safety.advanced c s) k = islandAt s k := islandAt_modIsland_ne hk s _

/-- What an instruction that puts bytes into the scratchpad of island `i` leaves, once the island has moved on. -/
theorem scratchPut_effect {i : Nat} {s : State} {c : Ctx} (hc : ctxOf s i = some c)
    (a : Nat) (data : List MByte) :
    let t := Safety.advanced c (modIsland s c.isl (fun x => putScratch x a data))
    (∀ k, k ≠ i → islandAt t k = islandAt s k) ∧ (islandAt t i).tiles = (islandAt s i).tiles ∧
      ∀ b, sparseGet 0 (islandAt t i).scratch b = sparseGet 0 (putScratch (islandAt s i) a data).scratch b := by
  obtain ⟨rfl, -, htask⟩ := ctxOf_some hc
  intro t
  have hput : islandAt (modIsland s c.isl (fun x => putScratch x a data)) c.isl = putScratch (islandAt s c.isl) a data :=
    islandAt_modIsland (island_ne_default (.inl htask))
  have hmoved : islandAt t c.isl = _ := islandAt_advanced c _
  obtain ⟨p, l, k, hframe⟩ := advancePc_frame c.t { putScratch (islandAt s c.isl) a data with
    firstAt := (putScratch (islandAt s c.isl) a data).firstAt <|> some s.now }
  rw [hput] at hmoved
  have hisland := hmoved.trans hframe
  refine ⟨fun k hk => ?_, by rw [hisland]; rfl, fun b => ?_⟩
  · exact (islandAt_advanced_ne hk _).trans (islandAt_modIsland_ne hk s _)
  · rw [hisland]

/-! ### COPY and ZERO -/

theorem copyRes_fits {c : Ctx} (hsrc : inScratch c (agAt c c.w.ag1 c.w.imm1) c.w.imm2 = true)
    (hdst : inScratch c (agAt c c.w.ag3 0) c.w.imm2 = true) (s : State) :
    copyRes c s = .next (modIsland s c.isl (fun x => putScratch x (agAt c c.w.ag3 0).toNat
      (padBytes c (agAt c c.w.ag1 c.w.imm1) c.w.imm2))) := by
  rw [← putRanges_one (by rwa [padBytes_length]) s, copyRes, scratchRead_fits hsrc, orFault]

theorem zeroRes_fits {c : Ctx} (hdst : inScratch c (agAt c c.w.ag3 0) c.w.imm2 = true) (s : State) :
    zeroRes c s = .next (modIsland s c.isl (fun x => putScratch x (agAt c c.w.ag3 0).toNat
      (List.replicate c.w.imm2 (0, false)))) := by
  rw [← putRanges_one (by simpa using hdst) s]
  simp only [zeroRes, hdst, if_true]

/-- Zeros read as zero. -/
theorem plain_zeros_getD (n k : Nat) : (plain (List.replicate n ((0, false) : MByte))).getD k 0 = 0 := by
  by_cases hk : k < n <;> simp [plain, hk]

/-! ### The obligation -/

/-- A COPY within the task's region (R70, R186, R199). -/
theorem copy_moves {i : Fin 256} {s : State} {c : Ctx} (hc : ctxOf s i = some c)
    (hwf : sparseWf 0 (islandAt s i).scratch = true) (hop : c.w.op = .copy)
    (hsrc : inScratch c (agAt c c.w.ag1 c.w.imm1) c.w.imm2 = true) (hdst : inScratch c (agAt c c.w.ag3 0) c.w.imm2 = true) :
    let a := agAt c c.w.ag1 c.w.imm1
    let d := agAt c c.w.ag3 0
    ∃ t, exec (.copy i) s = .next t ∧ t.mem = s.mem ∧ t.sems = s.sems ∧ t.tasks = s.tasks ∧
      (∀ k, k ≠ i.val → islandAt t k = islandAt s k) ∧ (islandAt t i).tiles = (islandAt s i).tiles ∧
      ∀ b, sparseGet 0 (islandAt t i).scratch b =
        if 0 < c.w.imm2 ∧ d.toNat ≤ b ∧ b < d.toNat + c.w.imm2 then sparseGet 0 (islandAt s i).scratch (a.toNat + (b - d.toNat))
        else sparseGet 0 (islandAt s i).scratch b := by
  intro a d
  obtain ⟨-, hx, -⟩ := ctxOf_some hc
  obtain ⟨hother, htiles, hbytes⟩ := scratchPut_effect hc d.toNat (padBytes c a c.w.imm2)
  refine ⟨_, runInsn_next hc (isOp_of hop) (copyRes_fits hsrc hdst s), rfl, rfl, rfl, hother, htiles, fun b => ?_⟩
  rw [hbytes, putScratch_get hwf, padBytes_length]
  by_cases hb : d.toNat ≤ b ∧ b < d.toNat + c.w.imm2
  · rw [if_pos hb, if_pos ⟨by omega, hb⟩, plain_padBytes_getD (by omega), hx]
  · rw [if_neg hb, if_neg (fun h => hb h.2)]

/-- A byte of a scratchpad in which a range has been zeroed (R186). -/
theorem putZeros_get {x : Island} (hwf : sparseWf 0 x.scratch = true) (a n b : Nat) :
    sparseGet 0 (putScratch x a (List.replicate n (0, false))).scratch b =
      if 0 < n ∧ a ≤ b ∧ b < a + n then 0 else sparseGet 0 x.scratch b := by
  rw [putScratch_get hwf, List.length_replicate, plain_zeros_getD]
  by_cases hb : a ≤ b ∧ b < a + n
  · rw [if_pos hb, if_pos ⟨by omega, hb⟩]
  · rw [if_neg hb, if_neg (fun h => hb h.2)]

/-- A ZERO within the task's region (R186, R199). -/
theorem zero_clears {i : Fin 256} {s : State} {c : Ctx} (hc : ctxOf s i = some c)
    (hwf : sparseWf 0 (islandAt s i).scratch = true) (hop : c.w.op = .zero)
    (hdst : inScratch c (agAt c c.w.ag3 0) c.w.imm2 = true) :
    let d := agAt c c.w.ag3 0
    ∃ t, exec (.zero i) s = .next t ∧ t.mem = s.mem ∧ t.sems = s.sems ∧ t.tasks = s.tasks ∧
      (∀ k, k ≠ i.val → islandAt t k = islandAt s k) ∧ (islandAt t i).tiles = (islandAt s i).tiles ∧
      ∀ b, sparseGet 0 (islandAt t i).scratch b =
        if 0 < c.w.imm2 ∧ d.toNat ≤ b ∧ b < d.toNat + c.w.imm2 then 0 else sparseGet 0 (islandAt s i).scratch b := by
  intro d
  obtain ⟨hother, htiles, hbytes⟩ := scratchPut_effect hc d.toNat (List.replicate c.w.imm2 (0, false))
  refine ⟨_, runInsn_next hc (isOp_of hop) (zeroRes_fits hdst s), rfl, rfl, rfl, hother, htiles, fun b => ?_⟩
  rw [hbytes, putZeros_get hwf]

/-- A COPY behind an overlap waits, with nothing moved (R187). -/
theorem copy_waits {i : Fin 256} {s : State} {c : Ctx} (hc : insnAt s i = some c) (hblocked : unblocked s c = false)
    (hop : c.w.op = .copy) : ∃ t w, exec (.copy i) s = .next t ∧ t.mem = s.mem ∧ t.tasks = s.tasks ∧
      (islandAt t i).scratch = (islandAt s i).scratch ∧ (islandAt t i).waiting = (islandAt s i).waiting ++ [w] ∧
      w.pc = (islandAt s i).pc ∧ w.why = .overlap := by
  obtain ⟨hisl, hx⟩ := insnAt_some hc
  obtain ⟨p, l, k, hisland⟩ := islandAt_holdInsn (c := c) (why := .overlap) (by simp [runsAsync, hop]) nofun nofun s
  rw [hisl] at hisland
  refine ⟨_, _, runInsn_overlap hc hblocked (isOp_of hop), rfl, rfl, by rw [hisland], by rw [hisland], by rw [hx], rfl⟩

/-- A waiting ZERO that may go on takes its effect, and its island stays where it is (R187). -/
theorem zero_goes_on {i : Fin 256} {s v : State} {c : Ctx} {w : Waiter}
    (hother : (insnAt s i).all (fun c => decide (c.w.op ≠ .zero)) = true) (hwait : (islandAt s i).waiting = [w])
    (hw : waiterAt s i w = some (v, c)) (hop : c.w.op = .zero) (hwf : sparseWf 0 (islandAt s i).scratch = true)
    (hdst : inScratch c (agAt c c.w.ag3 0) c.w.imm2 = true) :
    let d := agAt c c.w.ag3 0
    ∃ t, exec (.zero i) s = .next t ∧ t.mem = s.mem ∧ t.tasks = s.tasks ∧ (islandAt t i).pc = (islandAt s i).pc ∧
      (islandAt t i).waiting = [] ∧ ∀ b, sparseGet 0 (islandAt t i).scratch b =
        if 0 < c.w.imm2 ∧ d.toNat ≤ b ∧ b < d.toNat + c.w.imm2 then 0 else sparseGet 0 (islandAt s i).scratch b := by
  intro d
  obtain ⟨rfl, hisl, hx, hid, htask⟩ := waiterAt_some hw
  have hkind : ∀ e, insnAt s i = some e → isOp .zero e.w = false := fun e he => by
    rw [he] at hother
    simpa [isOp] using hother
  obtain ⟨hmem, htasks, g, hisland⟩ := settleWaiter_effect (w := w) (c := c)
    (f := fun x => putScratch x d.toNat (List.replicate c.w.imm2 (0, false))) hisl (by rw [hop]; nofun) htask (fun _ => rfl)
  refine ⟨_, runInsn_waiter hkind hwait hw (isOp_of hop) (hisl ▸ zeroRes_fits hdst _), hmem, htasks, ?_, ?_, fun b => ?_⟩
  · rw [hisland]; rfl
  · rw [hisland]
    simp [walkBack, putScratch, walkAs, hwait, hid]
  · rw [hisland]
    exact putZeros_get (x := walkAs w (islandAt s i)) hwf _ _ b

/-- Settles O21: at the pc, behind an overlap, and from the waiting instructions. -/
theorem scratchpadMovesComplete : Obligations.ScratchpadMovesComplete :=
  ⟨fun _ _ _ hc hwf => ⟨copy_moves hc hwf, zero_clears hc hwf⟩, fun _ _ _ => copy_waits, fun _ _ _ _ _ => zero_goes_on⟩

end Sys2Proof.Machine
end

section
/-!
LOAD and STORE between operand memory and the scratchpad: what each row gives, and what the gates leave (R186, R224, R225,
R227, R553).
-/
namespace Sys2Proof.Machine

/-! ### Lengths: pieces, segments, rows -/

/-- The pieces of a range are no longer than it. -/
theorem pieces_sum_le (fuel a n : Nat) : ((pieces fuel a n).map Prod.snd).sum ≤ n := by
  induction fuel generalizing a n with
  | zero => simp [pieces]
  | succ fuel ih =>
    unfold pieces
    split
    · simp
    · have hrest := ih (a + min n (pageSize - a % pageSize)) (n - min n (pageSize - a % pageSize))
      simp only [List.map_cons, List.sum_cons]
      omega

theorem placeRead_length (s : State) (p : Place) (n : Nat) : (placeRead s p n).length = n := by
  unfold placeRead
  split <;> simp [dramRead]

theorem vaBytes_length_le (s : State) (d : Nat) (tag : Option Nat) (va n : Nat) : (vaBytes s d tag va n).length ≤ n := by
  unfold vaBytes
  rw [List.length_flatMap]
  refine le_of_eq_of_le (congrArg List.sum (List.map_congr_left fun x _ => ?_)) (pieces_sum_le (n / pageSize + 2) va n)
  dsimp only
  split
  · exact placeRead_length s _ _
  · exact List.length_replicate

theorem loadBytes_length_le (s : State) (c : Ctx) (a n : Nat) : (loadBytes s c a n).length ≤ n := by
  unfold loadBytes
  dsimp only
  split
  · exact vaBytes_length_le s _ _ a n
  · simp

/-- A segment lies within the range that it is a part of. -/
theorem rowSeg_within {o : Operand} {cb n : Nat} {a r : Int} {g : Nat × Nat × Nat} (h : g ∈ rowSeg o cb a n r) :
    g.1 + g.2.2 ≤ n := by
  unfold rowSeg at h
  extract_lets start lo hi at h
  split at h
  · obtain rfl := List.mem_singleton.1 h
    have hlo : a ≤ lo := by omega
    have hhi : hi ≤ a + n := by omega
    dsimp only
    omega
  · cases h

theorem segs_within {c : Ctx} {o : Operand} {a : Int} {n : Nat} {g : Nat × Nat × Nat} (h : g ∈ segs c o a n) :
    g.1 + g.2.2 ≤ n := by
  unfold segs at h
  dsimp only at h
  split at h
  · cases h
  · split at h
    · exact rowSeg_within h
    · split at h
      · obtain ⟨_, _, h⟩ := List.mem_flatMap.1 h
        exact rowSeg_within h
      · cases h

/-- Segments laid over `n` zeros within their length are `n` bytes. -/
theorem overlay_length {n : Nat} {l : List (Nat × List MByte)} (h : ∀ g ∈ l, g.1 + g.2.length ≤ n) :
    (overlay n l).length = n := by
  unfold overlay
  refine List.foldlRecOn (motive := fun d : List MByte => d.length = n) l _ List.length_replicate fun d hd g hg => ?_
  have := h g hg
  simp only [List.length_append, List.length_take, List.length_drop, hd]
  omega

/-! ### LOAD -/

/-- The bytes of a row as a LOAD finds them, zeros where they lie outside the extents (R225). -/
def loadedRow (s : State) (c : Ctx) (o : Operand) (n : Nat) (a : Int) : List MByte :=
  overlay n ((segs c o a n).map (fun g => (g.1, loadBytes s c g.2.1 g.2.2)))

theorem loadedRow_length (s : State) (c : Ctx) (o : Operand) (n : Nat) (a : Int) : (loadedRow s c o n a).length = n := by
  refine overlay_length fun g hg => ?_
  obtain ⟨x, hx, rfl⟩ := List.mem_map.1 hg
  exact Nat.le_trans (Nat.add_le_add_left (loadBytes_length_le s c _ _) _) (segs_within hx)

/-- A row in the operand's own format goes into the scratchpad as it is, marks included (R70, R553). -/
theorem loadRow_raw (s : State) (c : Ctx) (o : Operand) (a : Int) (n : Nat) :
    loadRow s c o a n o.fmt false = .ok (loadedRow s c o n a) := by
  simp [loadRow, loadedRow]

theorem withLoad_unstaged {s : State} {c : Ctx} (h : s.mig.stagings.all (fun g => !(g.members.contains c.t.tag)) = true)
    (rs : List (Nat × Nat)) (k : State → Res) : withLoad c rs s k = withRead c false rs s k := if_pos h

section Move
variable {i : Fin 256} {s : State} {c : Ctx} {o : Operand} {f : Fmt} (hc : ctxOf s i = some c)
  (hf : fmtOf (c.w.flags % 16) = some f) (hok : moveFormatOk o f (bit c.w.flags 4) = true)
include hc hf hok

/-- A LOAD whose gate opens and whose rows convert puts them into the scratchpad, one after another (R186). -/
theorem load_completes {u : State} {data : List (List MByte)} (hop : c.w.op = .load) (htaps : bit c.w.flags 5 = false)
    (hag : agOperand c c.w.ag1 = some o) (hstage : s.mig.stagings.all (fun g => !(g.members.contains c.t.tag)) = true) :
    let rows := rowAddrs o (agAt c c.w.ag1 c.w.imm1) c.w.count
    let conv := decide (o.fmt = .int8) && decide (f ≠ .int8)
    readGate s c.t c.isl false true (rows.flatMap (fun a => segRanges (segs c o a c.w.imm2)) ++
      (if conv then rows.flatMap (fun a => if (segs c o a c.w.imm2).isEmpty then [] else scaleRange c o (rowCol o a).1) else []))
      = .go u →
    allOk (rows.map (fun a => loadRow u c o a c.w.imm2 f (bit c.w.flags 4))) = .ok data →
    let puts := (List.range data.length).map (fun (k : Nat) =>
      (agAt c c.w.ag3 0 + (k * (data.headD []).length : Nat), data.getD k []))
    puts.all (fun w => inScratch c w.1 w.2.length) = true →
    exec (.load i) s = .next (Safety.advanced c (modIsland u c.isl (fun x =>
      puts.foldl (fun x w => putScratch x w.1.toNat w.2) x))) := by
  intro rows conv hgate hrows puts hfit
  change runInsn "LOAD" (fun w => isOp .load w && !(bit w.flags 5)) i s loadRes = _
  refine runInsn_next hc (by simp [isOp, hop, htaps]) ?_
  simp only [loadRes, hag, hf, hok, if_true]
  rw [withLoad_unstaged hstage, withRead_go hgate, hrows, orFault]
  exact putRanges_fit hfit u

/-- A STORE whose gates open and whose rows convert writes the bytes of each row within the extents (R186, R227). -/
theorem store_completes {u v : State} {data : List (List MByte)} (hop : c.w.op = .store)
    (hag : agOperand c c.w.ag3 = some o) (hout : o.output = true) :
    let rows := rowAddrs o (agAt c c.w.ag3 0) c.w.count
    let conv := decide (o.fmt = .int8) && decide (f ≠ .int8)
    readGate s c.t c.isl false true (if conv then rows.flatMap (fun a => scaleRange c o (rowCol o a).1) else []) = .go u →
    allOk ((List.range rows.length).map (fun (k : Nat) => storeRow u c o (rows.getD k 0)
      (agAt c c.w.ag1 c.w.imm1 + (k * c.w.imm2 : Nat)) c.w.imm2 f (bit c.w.flags 4))) = .ok data →
    let ws := ((List.range data.length).zip data).flatMap (fun p =>
      (segs c o (rows.getD p.1 0) p.2.length).map (fun g => (g.2.1, (p.2.drop g.1).take g.2.2)))
    writeGate u c.t (ws.map (fun w => (w.1, w.2.length))) = .go v →
    exec (.store i) s = .next (Safety.advanced c (taskWrite u c.t c.isl ws)) := by
  intro rows conv hgate hrows ws hwrite
  refine runInsn_next hc (isOp_of hop) ?_
  simp only [storeRes, hag, hf, hok, hout, Bool.not_true, Bool.false_eq_true, if_false, if_true]
  rw [withRead_go hgate, hrows, orFault]
  exact withWrite_go hwrite _

end Move

/-- Rows that lie in the task's scratchpad `n` bytes apart. -/
theorem loadedRows_fit {c : Ctx} {u : State} {o : Operand} {rows : List Int} {n : Nat}
    (hfit : ∀ k : Nat, k < rows.length → inScratch c (agAt c c.w.ag3 0 + (k * n : Nat)) n = true) :
    let data := rows.map (loadedRow u c o n)
    ((List.range data.length).map (fun (k : Nat) =>
      (agAt c c.w.ag3 0 + (k * (data.headD []).length : Nat), data.getD k []))).all
        (fun w => inScratch c w.1 w.2.length) = true := by
  intro data
  have hrow : ∀ b ∈ data, b.length = n := fun b hb => by
    obtain ⟨a, -, rfl⟩ := List.mem_map.1 hb
    exact loadedRow_length u c o n a
  rw [List.all_eq_true]
  intro w hw
  obtain ⟨k, hk, rfl⟩ := List.mem_map.1 hw
  have hlt : k < data.length := List.mem_range.1 hk
  have hhead : (data.headD []).length = n := by
    cases hdata : data with
    | nil => simp [hdata] at hlt
    | cons b l => exact hrow b (by simp [hdata])
  have hentry : (data.getD k []).length = n := by
    rw [List.getD_eq_getElem?_getD, List.getElem?_eq_getElem hlt, Option.getD_some]
    exact hrow _ (List.getElem_mem hlt)
  rw [hhead, hentry]
  exact hfit k (by simpa [data] using hlt)

/-! ### STORE -/

/-- A row in the operand's own format goes to memory as it is, marks included (R70, R553). -/
theorem storeRow_raw {c : Ctx} {src : Int} {n : Nat} (h : inScratch c src n = true) (s : State) (o : Operand) (a : Int) :
    storeRow s c o a src n o.fmt false = .ok (padBytes c src n) := by
  simp [storeRow, scratchRead_fits h]

/-- The writes of a STORE's rows of `n` bytes each are those of the segments that lie within the extents (R224, R227). -/
theorem storedRanges {c : Ctx} {o : Operand} {rows : List Int} {n : Nat} {b : Nat → List MByte} (hb : ∀ k, (b k).length = n) :
    let data := (List.range rows.length).map b
    (((List.range data.length).zip data).flatMap (fun p =>
      (segs c o (rows.getD p.1 0) p.2.length).map (fun g => (g.2.1, (p.2.drop g.1).take g.2.2)))).map (fun w => (w.1, w.2.length)) =
      rows.flatMap (fun a => segRanges (segs c o a n)) := by
  intro data
  have hnum : (List.range data.length).zip data = (List.range rows.length).map (fun k => (k, b k)) := by
    have hid := List.zip_map' (f := id) (g := b) (l := List.range rows.length)
    simpa [data] using hid
  have hrow : ∀ k, (segs c o (rows.getD k 0) (b k).length).map (fun g => (g.2.1, (((b k).drop g.1).take g.2.2).length)) =
      segRanges (segs c o (rows.getD k 0) n) := fun k => by
    rw [hb, segRanges]
    refine List.map_congr_left fun g hg => ?_
    have hg := segs_within hg
    have hlen := hb k
    simp only [List.length_take, List.length_drop]
    congr 1
    omega
  have hrows : (List.range rows.length).map (fun k => rows.getD k 0) = rows := by
    refine List.ext_getElem (by simp) fun k h1 h2 => ?_
    simp [h2]
  calc _ = (List.range rows.length).flatMap (fun k => segRanges (segs c o (rows.getD k 0) n)) := by
        rw [hnum, List.flatMap_map, List.map_flatMap]
        simp only [List.map_map, Function.comp_def, hrow]
    _ = ((List.range rows.length).map (fun k => rows.getD k 0)).flatMap (fun a => segRanges (segs c o a n)) := by
        rw [List.flatMap_map]
    _ = rows.flatMap (fun a => segRanges (segs c o a n)) := by rw [hrows]

/-! ### The obligation -/

/-- Settles O22: both forms of each instruction, the one in the operand's own format by the other. -/
theorem loadAndStoreComplete : Obligations.LoadAndStoreComplete := by
  intro i s c o f hc hf hok
  refine ⟨?loadRaw, ?storeRaw, fun u data hop htaps hag hstage => load_completes hc hf hok hop htaps hag hstage,
    fun u v data hop hag hout => store_completes hc hf hok hop hag hout⟩
  case loadRaw =>
    intro hop htaps hunpack hsame hag hstage hlatent hfree hfit
    subst hsame
    have hconv : (decide (o.fmt = .int8) && decide (o.fmt ≠ .int8)) = false := by simp
    obtain ⟨u, hgate, hview⟩ := readGate_freely c.isl false true hlatent hfree
    refine ⟨_, load_completes hc hf hok hop htaps hag hstage (by rw [hconv, if_neg nofun, List.append_nil]; exact hgate)
      (allOk_map_of_ok fun a _ => by rw [hunpack]; exact loadRow_raw u c o a _) (loadedRows_fit ?_), hview.mem, hview.tasks⟩
    simpa [rowAddrs] using hfit
  case storeRaw =>
    intro hop hpack hsame hag hout hfree hfit
    subst hsame
    have hconv : (decide (o.fmt = .int8) && decide (o.fmt ≠ .int8)) = false := by simp
    refine ⟨_, store_completes hc hf hok hop hag hout (by rw [hconv, if_neg nofun]; exact readGate_nil ..)
      (allOk_map_of_ok (f := fun (k : Nat) => padBytes c (agAt c c.w.ag1 c.w.imm1 + (k * c.w.imm2 : Nat)) c.w.imm2) fun k hk => ?_)
      (v := s) ?_, ?_⟩
    · rw [hpack]
      exact storeRow_raw (hfit k (by simpa [rowAddrs] using hk)) s o _
    · rw [storedRanges (n := c.w.imm2) (fun _ => padBytes_length ..)]
      exact writeGate_freely hfree
    · obtain ⟨hhost, -, htasks⟩ := taskWrite_frame s c.t c.isl _
      exact ⟨htasks, hhost⟩

end Sys2Proof.Machine
end

section
/-!
The vector unit: element-wise operations, table functions, reductions, row forms and conversions, each in one form that covers
the scratchpad and operand memory (R186, R190, R228, R232, R553).
-/
namespace Sys2Proof.Machine

/-! ### The scratchpad as a source and as a destination -/

/-- Bytes of the scratchpad are fetched with the state as it is. -/
theorem fetches_pad {c : Ctx} {ag imm n : Nat} {b : List Byte} (h : Safety.PadGives c ag imm n b) (s : State) :
    Safety.Fetches c ag imm n s s b := by
  obtain ⟨hag, hb⟩ := h
  simp only [Safety.Fetches, hag]
  exact ⟨trivial, hb⟩

/-- Bytes that the scratchpad takes are stored there. -/
theorem stores_pad {c : Ctx} {ag imm : Nat} {b : List Byte} (h : Safety.PadTakes c ag imm b) (s : State) :
    Safety.Stores c ag imm b s (Safety.padWith c ag imm b s) := by
  obtain ⟨hag, hfit⟩ := h
  simp only [Safety.Stores, hag]
  exact ⟨hfit, rfl⟩

variable {i : Fin 256} {s : State} {c : Ctx}

/-! ### Element-wise operations and table functions (R186, R232) -/

section Elements
variable {u v w x : State} {a b e : List Byte}

theorem binaryRes_of {f : Val → Val → Val} (ha : Safety.Fetches c c.w.ag1 c.w.imm1 (4 * c.w.count) s u a)
    (hb : Safety.Fetches c c.w.ag2 0 (4 * c.w.count) u v b)
    (hstore : Safety.Stores c c.w.ag3 0 (f32Bytes (((Safety.floats a c.w.count).zip (Safety.floats b c.w.count)).map
      (fun p => f p.1 p.2))) v w) : binaryRes f c s = .next w := by
  rw [binaryRes, withF32At_of ha, withF32At_of hb, putAt_of hstore]

/-- VADD, VMUL, VMAX and VMIN complete in the state that their result leaves. -/
theorem binary_completes (hc : ctxOf s i = some c) {z : Op × Instr × (Val → Val → Val)}
    (hz : z ∈ ([(.vadd, .vadd i, addF), (.vmul, .vmul i, mulF), (.vmax, .vmax i, maxVal), (.vmin, .vmin i, minVal)] :
      List (Op × Instr × (Val → Val → Val)))) (hop : c.w.op = z.1) (hres : binaryRes z.2.2 c s = .next w) :
    exec z.2.1 s = .next (Safety.advanced c w) := by
  simp only [List.mem_cons, List.not_mem_nil, or_false] at hz
  obtain rfl | rfl | rfl | rfl := hz <;> exact runInsn_next hc (isOp_of hop) hres

theorem vfma_completes (hc : ctxOf s i = some c) (hop : c.w.op = .vfma)
    (ha : Safety.Fetches c c.w.ag1 c.w.imm1 (4 * c.w.count) s u a) (hb : Safety.Fetches c c.w.ag2 0 (4 * c.w.count) u v b)
    (he : Safety.Fetches c c.w.ag3 0 (4 * c.w.count) v w e)
    (hstore : Safety.Stores c c.w.ag3 0 (f32Bytes ((((Safety.floats a c.w.count).zip (Safety.floats b c.w.count)).zip
      (Safety.floats e c.w.count)).map (fun p => fmaF p.1.1 p.1.2 p.2))) w x) :
    exec (.vfma i) s = .next (Safety.advanced c x) :=
  runInsn_next hc (isOp_of hop) (by rw [vfmaRes, withF32At_of ha, withF32At_of hb, withF32At_of he, putAt_of hstore])

theorem feval_completes (hc : ctxOf s i = some c) {f : Val → Val} (hop : c.w.op = .feval)
    (hf : tableFn s c c.w.imm2 = .ok f) (ha : Safety.Fetches c c.w.ag1 c.w.imm1 (4 * c.w.count) s u a)
    (hstore : Safety.Stores c c.w.ag3 0 (f32Bytes ((Safety.floats a c.w.count).map f)) u v) :
    exec (.feval i) s = .next (Safety.advanced c v) :=
  runInsn_next hc (isOp_of hop) (by rw [fevalRes, hf, orFault, withF32At_of ha, putAt_of hstore])

end Elements

/-! ### Rows (R186, R190, R228) -/

/-- The places of the rows at AG1, with the bytes that CLIP leaves of each (R228). -/
def rowPlaces (c : Ctx) : List (Int × Nat) :=
  (List.range c.w.count).map (fun (r : Nat) => (agAt c c.w.ag1 c.w.imm1 + (4 * c.w.imm2 * r : Nat), 4 * rowLen c))

theorem withRows_eq (c : Ctx) (s : State) (k : State → List (List Val) → Res) :
    withRows c s k = withPieces c (agOperand c c.w.ag1) (rowPlaces c) s
      (fun u bs => k u (bs.map (fun b => Safety.floats b (rowLen c)))) := rfl

/-- Rows of the scratchpad that all read go on together. -/
theorem withRows_pad {rows : List (List Byte)} (hag : agOperand c c.w.ag1 = none)
    (h : allOk ((rowPlaces c).map (fun p => scratchUse c p.1 p.2)) = .ok rows) (s : State) :
    Safety.Gives (withRows c s) s (rows.map (fun b => Safety.floats b (rowLen c))) := by
  intro next
  simp only [withRows_eq, withPieces, hag, h, orFault]

/-- Rows of operand memory go on once their gate has opened and no byte of them is poisoned (R70, R225). -/
theorem withRows_operand {o : Operand} {u : State} (hag : agOperand c c.w.ag1 = some o)
    (hgate : readGate s c.t c.isl false true ((rowPlaces c).flatMap (fun p => segRanges (segs c o p.1 p.2))) = .go u)
    (hmark : ((rowPlaces c).map (fun p => operandBytes u c o p.1 p.2)).any anyMark = false) :
    Safety.Gives (withRows c s) u
      (((rowPlaces c).map (fun p => plain (operandBytes u c o p.1 p.2))).map (fun b => Safety.floats b (rowLen c))) := by
  intro next
  simp only [withRows_eq, withPieces, hag]
  rw [withRead_go hgate, hmark, if_neg Bool.false_ne_true]
  simp only [List.map_map, Function.comp_def]

/-- RSUM, RSUMSQ and RMAX store one value for each row (R190). -/
theorem reduction_completes (hc : ctxOf s i = some c) {u w : State} {rows : List (List Val)}
    {z : Op × Instr × (List Val → Val)}
    (hz : z ∈ ([(.rsum, .rsum i, rowSum u c), (.rsumsq, .rsumsq i, rowSumSq u c), (.rmax, .rmax i, rowMax)] :
      List (Op × Instr × (List Val → Val)))) (hop : c.w.op = z.1) (hrows : Safety.Gives (withRows c s) u rows)
    (hstore : Safety.Stores c c.w.ag3 0 (f32Bytes (rows.map z.2.2)) u w) : exec z.2.1 s = .next (Safety.advanced c w) := by
  have hres : ∀ f, f u c = z.2.2 → reduceRes f c s = .next w := fun f hf => by rw [reduceRes, hrows, hf, putAt_of hstore]
  simp only [List.mem_cons, List.not_mem_nil, or_false] at hz
  obtain rfl | rfl | rfl := hz <;> exact runInsn_next hc (isOp_of hop) (hres _ rfl)

/-- Settles O26: the general forms, and the scratchpad's as special cases of them. -/
theorem vectorInstructionsComplete : Obligations.VectorInstructionsComplete := by
  intro i s u v w x c a b e hc
  refine ⟨fun ha => ⟨fun hb => ⟨?binaryPad, ?vfmaPad⟩, ?fevalPad⟩, ?reducePad, fun ha hb => ⟨?binary, ?vfma⟩, ?feval,
    ?reducePadAll, ?reduceOperand⟩
  case binaryPad =>
    exact fun z hz hop htakes => binary_completes hc hz hop
      (binaryRes_of (fetches_pad ha s) (fetches_pad hb s) (stores_pad htakes s))
  case vfmaPad =>
    exact fun hop he htakes =>
      vfma_completes hc hop (fetches_pad ha s) (fetches_pad hb s) (fetches_pad he s) (stores_pad htakes s)
  case fevalPad => exact fun f hop hf htakes => feval_completes hc hop hf (fetches_pad ha s) (stores_pad htakes s)
  case reducePad =>
    intro rows hag hrows z hz hop out htakes
    have hread : allOk ((rowPlaces c).map (fun p => scratchUse c p.1 p.2)) = .ok ((List.range c.w.count).map rows) := by
      rw [rowPlaces, List.map_map]
      exact allOk_map_of_ok fun r hr => hrows r (List.mem_range.1 hr)
    refine reduction_completes hc hz hop (withRows_pad hag hread s) ?_
    rw [List.map_map, List.map_map]
    exact stores_pad htakes s
  case binary => exact fun z hz hop hstore => binary_completes hc hz hop (binaryRes_of ha hb hstore)
  case vfma => exact fun hop he hstore => vfma_completes hc hop ha hb he hstore
  case feval => exact fun f hop hf ha hstore => feval_completes hc hop hf ha hstore
  case reducePadAll =>
    intro rows hag hrows z hz hop hstore
    refine reduction_completes hc hz hop (withRows_pad hag (by rwa [rowPlaces, List.map_map]) s) ?_
    rwa [List.map_map]
  case reduceOperand =>
    intro o y hag l hgate hmark z hz hop hstore
    refine reduction_completes hc hz hop (withRows_operand hag hgate hmark) ?_
    rwa [List.map_map, List.map_map]

end Sys2Proof.Machine
end

section
/-! VROWMUL, VROWADD and VCVT (R186, R228, R553). -/
namespace Sys2Proof.Machine

variable {i : Fin 256} {s : State} {c : Ctx}

/-! ### Row forms -/

/-- The rows that a row form gives, with their places: each element combined with its row's value (R228). -/
def rowFormOut (c : Ctx) (f : Val → Val → Val) (rows : List (List Byte)) (vs : List Val) : List (Int × List Byte) :=
  ((List.range rows.length).zip (rows.zip vs)).map (fun p =>
    (agAt c c.w.ag3 0 + (4 * c.w.imm2 * p.1 : Nat), f32Bytes ((Safety.floats p.2.1 (rowLen c)).map (fun v => f v p.2.2))))

section RowForm
variable {f : Val → Val → Val} {u v : State} {rows : List (List Byte)} {vs : List Byte}
  (hrows : Safety.Gives (withRows c s) u (rows.map (fun b => Safety.floats b (rowLen c))))
  (hvs : Safety.Fetches c c.w.ag2 0 (4 * c.w.count) u v vs)
include hrows hvs

/-- The rows go into the scratchpad. -/
theorem rowFormRes_pad (hag : agOperand c c.w.ag3 = none) : rowFormRes f c s =
    putRanges c ((rowFormOut c f rows (Safety.floats vs c.w.count)).map (fun w => (w.1, clean w.2))) v := by
  rw [rowFormRes, hrows, withF32At_of hvs]
  simp only [hag, rowFormOut, List.length_map, List.zip_map_left, List.zip_map_right, List.map_map]
  rfl

/-- Those of an output operand are written within its extents (R223, R227). -/
theorem rowFormRes_operand {d : Operand} (hag : agOperand c c.w.ag3 = some d) (hout : d.output = true) : rowFormRes f c s =
    withWrite c ((rowFormOut c f rows (Safety.floats vs c.w.count)).flatMap (fun w =>
      (segs c d w.1 w.2.length).map (fun g => (g.2.1, clean ((w.2.drop g.1).take g.2.2))))) v .next := by
  rw [rowFormRes, hrows, withF32At_of hvs]
  simp only [hag, hout, if_true, rowFormOut, List.length_map, List.zip_map_left, List.zip_map_right, List.map_map]
  rfl

end RowForm

/-- VROWMUL and VROWADD complete in the state that their rows leave. -/
theorem rowForm_completes (hc : ctxOf s i = some c) {w : State} {z : Op × Instr × (Val → Val → Val)}
    (hz : z ∈ ([(.vrowmul, .vrowmul i, mulF), (.vrowadd, .vrowadd i, addF)] : List (Op × Instr × (Val → Val → Val))))
    (hop : c.w.op = z.1) (hres : rowFormRes z.2.2 c s = .next w) : exec z.2.1 s = .next (Safety.advanced c w) := by
  simp only [List.mem_cons, List.not_mem_nil, or_false] at hz
  obtain rfl | rfl := hz <;> exact runInsn_next hc (isOp_of hop) hres

/-! ### VCVT -/

/-- Elements of plain formats other than INT8 are one row with no scale (R553). -/
theorem vcvt_completes (hc : ctxOf s i = some c) {u v w : State} {b : List Byte} (hop : c.w.op = .vcvt)
    (hsn : isNarrow (operandOf c c.w.opa).fmt = false) (hdn : isNarrow (operandOf c c.w.opc).fmt = false)
    (hs8 : (operandOf c c.w.opa).fmt ≠ .int8) (hd8 : (operandOf c c.w.opc).fmt ≠ .int8) (himm : c.w.imm2 = 0)
    (hcount : 1 ≤ c.w.count) (hgate : readGate s c.t c.isl false true [] = .go u)
    (hb : Safety.Fetches c c.w.ag1 c.w.imm1 (c.w.count * elemBytes (operandOf c c.w.opa).fmt) u v b)
    (hstore : Safety.Stores c c.w.ag3 0 (convertRow (operandOf c c.w.opa).fmt (operandOf c c.w.opc).fmt vone vone
      (b.take (c.w.count * elemBytes (operandOf c c.w.opa).fmt))) v w) :
    exec (.vcvt i) s = .next (Safety.advanced c w) := by
  refine runInsn_next hc (isOp_of hop) ?_
  have hlen : max c.w.count 1 = c.w.count := by omega
  have hrows : ceilDiv c.w.count c.w.count = 1 := by
    rw [ceilDiv, if_neg (by omega)]
    exact Nat.div_eq_of_lt_le (by omega) (by omega)
  simp only [vcvtRes, hsn, hdn, Bool.false_eq_true, or_self, if_false, himm, if_true, hs8, hd8, List.append_nil, hlen, hrows]
  rw [withRead_go hgate, withBytesAt_of hb]
  simp only [List.range_one, List.map_cons, List.map_nil, allOk, orFault, Nat.zero_mul, List.drop_zero, List.flatten_cons,
    List.flatten_nil, List.append_nil]
  exact putAt_of hstore

/-- Settles O27: the row forms by where their rows lie, VCVT by its general form. -/
theorem rowFormsAndConversionComplete : Obligations.RowFormsAndConversionComplete := by
  intro i s c hc
  refine ⟨?rowsOperand, ?vcvtPad, ?rowsPad, ?vcvt⟩
  case rowsOperand =>
    intro o d y u w vs hag1 hag3 hout l hgate hmark hvs rows z hz hop ws hwrite
    refine rowForm_completes hc hz hop ((rowFormRes_operand (withRows_operand hag1 hgate hmark) hvs hag3 hout).trans ?_)
    rw [rowFormOut, List.flatMap_map]
    exact withWrite_go hwrite _
  case vcvtPad =>
    intro b hop sf df hsn hdn hs8 hd8 himm hcount hb out htakes
    exact vcvt_completes hc hop hsn hdn hs8 hd8 himm hcount (readGate_nil ..) (fetches_pad hb s) (stores_pad htakes s)
  case rowsPad =>
    intro rows vs hag1 hag2 hag3 hread hvs z hz hop out hfit
    have hrows := withRows_pad hag1 (by rwa [rowPlaces, List.map_map]) s
    refine rowForm_completes hc hz hop ((rowFormRes_pad hrows (fetches_pad ⟨hag2, hvs⟩ s) hag3).trans ?_)
    rw [rowFormOut, List.map_map]
    exact putRanges_fit hfit s
  case vcvt =>
    intro u v w b hop sf df hsn hdn hs8 hd8 himm hgate hb hcount hstore
    exact vcvt_completes hc hop hsn hdn hs8 hd8 himm hcount hgate hb hstore

end Sys2Proof.Machine
end

section
/-! The group block: GBEGIN and GEND (R187, R191). -/
namespace Sys2Proof.Machine

variable {i : Fin 256} {s : State} {c : Ctx}

/-- The instruction at the pc goes on at another place of the program. -/
theorem runInsn_jump {u : State} {n : String} {ok : Insn → Bool} {f : Ctx → State → Res} {pc : Nat}
    (hc : ctxOf s i = some c) (hok : ok c.w = true) (hf : f c s = .jump u pc) :
    runInsn n ok i s f = .next (Safety.jumped c u pc) := by
  rw [runInsn_settle hc hok, hf]
  rfl

/-- The records of a problem list of `n` problems (R191). -/
def problemList (b : List Byte) (n : Nat) : List GroupRec :=
  (List.range n).map (fun k =>
    GroupRec.mk (leAt b (16 * k) 4) (leAt b (16 * k + 4) 4) (leAt b (16 * k + 8) 4) (leAt b (16 * k + 12) 4))

/-- A list that reads clean is read whole, and its first record is reached (R191). -/
theorem gbeginRes_reads {u : State}
    (hgate : readGate s c.t c.isl false true [((operandOf c c.w.opa).base, 16 * c.t.desc.g)] = .go u)
    (hmark : anyMark (taskBytes u c (operandOf c c.w.opa).base (16 * c.t.desc.g)) = false) :
    gbeginRes c s = reachRecord c u
      ⟨c.x.pc, problemList (plain (taskBytes u c (operandOf c c.w.opa).base (16 * c.t.desc.g))) c.t.desc.g, 0⟩ := by
  simp only [gbeginRes, withRead_go hgate, hmark, Bool.false_eq_true, if_false, problemList]

theorem reachRecord_none {g : GroupRun} (h : g.recs[g.at_]? = none) (s : State) :
    reachRecord c s g = .jump (modIsland s c.isl (fun x => { x with group := none })) (afterGend c.t.prog g.start) := by
  simp only [reachRecord, h]

theorem reachRecord_fits {g : GroupRun} {r : GroupRec} (h : g.recs[g.at_]? = some r) (hok : recordOk c.t g.at_ r = true)
    (s : State) : reachRecord c s g = .jump (modIsland s c.isl (fun x => { x with group := some g })) (g.start + 1) := by
  simp only [reachRecord, h, hok, if_true]

/-- Ranges without bytes ask nothing of the gate. -/
theorem readGate_no_bytes {rs : List (Nat × Nat)} (h : ∀ r ∈ rs, r.2 = 0) (s : State) (t : Task) (isl : Nat) (own low : Bool) :
    readGate s t isl own low rs = .go s := by
  have hnone : rs.filter (fun r => decide (0 < r.2)) = [] := List.filter_eq_nil_iff.2 fun r hr => by simp [h r hr]
  rw [← readGate_nil s t isl own low]
  simp only [readGate, hnone, List.filter_nil]
  rfl

theorem taskBytes_none (s : State) (c : Ctx) (a : Nat) : taskBytes s c a 0 = [] := rfl

/-- With no problem the program goes on after the block (R191). -/
theorem gbegin_empty (hc : ctxOf s i = some c) (hop : c.w.op = .gbegin) (hnone : c.t.desc.g = 0) :
    exec (.gbegin i) s = .next (Safety.jumped c (modIsland s i (fun x => { x with group := none })) (afterGend c.t.prog c.x.pc)) := by
  obtain ⟨hisl, -, -⟩ := ctxOf_some hc
  have hlen : 16 * c.t.desc.g = 0 := by omega
  refine runInsn_jump hc (isOp_of hop) ?_
  rw [gbeginRes_reads (readGate_no_bytes (by simp [hlen]) _ _ _ _ _) (by rw [hlen, taskBytes_none]; rfl),
    reachRecord_none (by simp [problemList, hnone]), hisl]

/-- A first record that fits its buckets is run (R191). -/
theorem gbegin_runs {u : State} (hc : ctxOf s i = some c) (hop : c.w.op = .gbegin) (hsome : 0 < c.t.desc.g)
    (hgate : readGate s c.t c.isl false true [((operandOf c c.w.opa).base, 16 * c.t.desc.g)] = .go u)
    (hmark : anyMark (taskBytes u c (operandOf c c.w.opa).base (16 * c.t.desc.g)) = false) :
    let recs := problemList (plain (taskBytes u c (operandOf c c.w.opa).base (16 * c.t.desc.g))) c.t.desc.g
    (∀ r, recs[0]? = some r → recordOk c.t 0 r = true) → exec (.gbegin i) s = .next (Safety.jumped c
      (modIsland u i (fun x => { x with group := some ⟨c.x.pc, recs, 0⟩ })) (c.x.pc + 1)) := by
  intro recs hfits
  obtain ⟨hisl, -, -⟩ := ctxOf_some hc
  obtain ⟨r, hfirst⟩ : ∃ r, recs[0]? = some r := ⟨_, List.getElem?_eq_getElem (by simpa [recs, problemList] using hsome)⟩
  refine runInsn_jump hc (isOp_of hop) ?_
  rw [gbeginRes_reads hgate hmark, reachRecord_fits hfirst (hfits r hfirst), hisl]

theorem gend_outside (hc : ctxOf s i = some c) (hop : c.w.op = .gend) (hnone : c.x.group = none) :
    exec (.gend i) s = .next (Safety.advanced c s) :=
  runInsn_next hc (isOp_of hop) (by simp only [gendRes, hnone])

theorem gend_last {g : GroupRun} (hc : ctxOf s i = some c) (hop : c.w.op = .gend) (hg : c.x.group = some g)
    (hlast : g.recs[g.at_ + 1]? = none) : exec (.gend i) s = .next (Safety.jumped c
      (modIsland s i (fun x => { x with group := none })) (afterGend c.t.prog g.start)) := by
  obtain ⟨hisl, -, -⟩ := ctxOf_some hc
  refine runInsn_jump hc (isOp_of hop) ?_
  simp only [gendRes, hg]
  rw [reachRecord_none hlast, hisl]

theorem gend_next {g : GroupRun} {r : GroupRec} (hc : ctxOf s i = some c) (hop : c.w.op = .gend) (hg : c.x.group = some g)
    (hnext : g.recs[g.at_ + 1]? = some r) (hok : recordOk c.t (g.at_ + 1) r = true) :
    exec (.gend i) s = .next (Safety.jumped c
      (modIsland s i (fun x => { x with group := some { g with at_ := g.at_ + 1 } })) (g.start + 1)) := by
  obtain ⟨hisl, -, -⟩ := ctxOf_some hc
  refine runInsn_jump hc (isOp_of hop) ?_
  simp only [gendRes, hg]
  rw [reachRecord_fits hnext hok, hisl]

end Sys2Proof.Machine
end

section
/-! The end of a task: COMMIT, PIN_OVERRUN and NO_COMMIT (R177, R198, R200, R358, R367). -/
namespace Sys2Proof.Machine

/-! ### Tasks that leave flight -/

/-- A tag is out of flight, and no task left has been killed three times, so that none moves to another dispatcher (R358). -/
def TagGone (tag : Nat) (s : State) : Prop := ∀ u ∈ s.tasks, u.kills < 3 ∧ u.tag ≠ tag

theorem TagGone.of_tasks {tag : Nat} {s t : State} (h : TagGone tag s) (htasks : t.tasks = s.tasks) : TagGone tag t := by
  rwa [TagGone, htasks]

theorem releaseProgram_tasks (s : State) (d n : Nat) : (releaseProgram s d n).tasks = s.tasks := by
  unfold releaseProgram
  split <;> rfl

theorem releaseProgram_mem (s : State) (d n : Nat) : (releaseProgram s d n).mem = s.mem := by
  unfold releaseProgram
  split <;> rfl

theorem freeIsland_tasks (s : State) (t : Task) : (freeIsland s t).tasks = s.tasks := by
  unfold freeIsland
  split <;> rfl

theorem freeIsland_mem (s : State) (t : Task) : (freeIsland s t).mem = s.mem := by
  unfold freeIsland
  split <;> rfl

/-- A task taken out of flight leaves the others there. -/
theorem removeTask_tasks (s : State) (t : Task) : (removeTask s t).tasks = s.tasks.filter (fun u => u.tag != t.tag) := by
  rw [removeTask, releaseProgram_tasks, ← freeIsland_tasks s t]
  rfl

theorem removeTask_mem (s : State) (t : Task) : (removeTask s t).mem = s.mem := by
  rw [removeTask, releaseProgram_mem, ← freeIsland_mem s t]
  rfl

theorem undefineOut_tasks (s : State) (t : Task) : (undefineOut s t).tasks = s.tasks := by
  unfold undefineOut
  split <;> rfl

theorem endOne_tasks (s : State) (t : Task) (st : Status) (pc : Option Nat) :
    (endOne s t st pc).tasks = s.tasks.filter (fun u => u.tag != t.tag) := by
  simp [endOne, removeTask_tasks, completeTask, undefineOut_tasks]

/-- Of tasks none of which was killed three times, one that is filtered out is gone. -/
theorem tagGone_of_filter {s t : State} {tag : Nat} (hkills : ∀ u ∈ s.tasks, u.kills < 3)
    (htasks : t.tasks = s.tasks.filter (fun u => u.tag != tag)) : TagGone tag t := fun u hu => by
  rw [htasks] at hu
  obtain ⟨hmem, htag⟩ := List.mem_filter.1 hu
  exact ⟨hkills u hmem, by simpa using htag⟩

/-- Other tasks that leave flight as well bring none back. -/
theorem TagGone.filter {s t : State} {tag other : Nat} (h : TagGone tag s)
    (htasks : t.tasks = s.tasks.filter (fun u => u.tag != other)) : TagGone tag t := fun u hu =>
  h u (List.mem_filter.1 (htasks ▸ hu)).1

theorem TagGone.foldl {α : Type} {tag : Nat} {f : State → α → State} (hf : ∀ s a, TagGone tag s → TagGone tag (f s a))
    (l : List α) {s : State} (h : TagGone tag s) : TagGone tag (l.foldl f s) :=
  List.foldlRecOn l f h fun s hs a _ => hf s a hs

/-! ### Moves to the dispatcher of a BE island -/

theorem moveToBe_few_kills {t : Task} (h : t.kills < 3) (s : State) : moveToBe s t = s := by
  have hnot : decide (3 ≤ t.kills) = false := by simpa using h
  simp [moveToBe, hnot]

/-- No task moves while none has been killed three times (R358). -/
theorem lateMoves_few_kills {s : State} (h : ∀ u ∈ s.tasks, u.kills < 3) : lateMoves s = s :=
  List.foldlRecOn (motive := fun t => t = s) s.tasks moveToBe rfl fun _ ht u hu => by rw [ht, moveToBe_few_kills (h u hu)]

theorem TagGone.lateMoves {tag : Nat} {s : State} (h : TagGone tag s) : TagGone tag (lateMoves s) := by
  rwa [lateMoves_few_kills fun u hu => (h u hu).1]

theorem moveToBe_mem (s : State) (t : Task) : (moveToBe s t).mem = s.mem := by
  unfold moveToBe
  split
  · split
    · rfl
    · split
      · rfl
      · split <;> rfl
  · rfl

theorem lateMoves_mem (s : State) : (lateMoves s).mem = s.mem := foldl_keep State.mem moveToBe moveToBe_mem s.tasks s

/-! ### COMMIT -/

theorem noteCommit_mem (s : State) (t : Task) : (noteCommit s t).mem = s.mem := by
  unfold noteCommit
  split <;> rfl

theorem TagGone.noteCommit {tag : Nat} {s : State} (h : TagGone tag s) (t : Task) : TagGone tag (noteCommit s t) := by
  unfold Machine.noteCommit
  split
  · exact h
  · intro u hu
    obtain ⟨v, hv, rfl⟩ := List.mem_map.1 hu
    split
    · exact h v hv
    · exact h v hv

/-- A commit's signals and record leave DRAM and the tasks (R198). -/
theorem commitTask_frame (s : State) (t : Task) :
    let u := lateMoves (noteCommit (removeTask s t) t)
    (commitTask s t).mem = u.mem ∧ (commitTask s t).tasks = u.tasks := by
  intro u
  have hsignals : (applySignals u t.desc.signals).mem = u.mem ∧ (applySignals u t.desc.signals).tasks = u.tasks := by
    obtain ⟨m, hsems⟩ := applySignals_frame u t.desc.signals
    rw [hsems]
    exact ⟨rfl, rfl⟩
  simp only [commitTask]
  cases (sharesOf s t).isEmpty <;> cases t.desc.complete <;> simp [u, completeTask, hsignals]

theorem commitTask_mem (s : State) (t : Task) : (commitTask s t).mem = s.mem := by
  obtain ⟨hmem, -⟩ := commitTask_frame s t
  rw [hmem, lateMoves_mem, noteCommit_mem, removeTask_mem]

/-- A committed task leaves flight (R198). -/
theorem commitTask_gone {s : State} (hkills : ∀ u ∈ s.tasks, u.kills < 3) (t : Task) : TagGone t.tag (commitTask s t) := by
  obtain ⟨-, htasks⟩ := commitTask_frame s t
  exact ((tagGone_of_filter hkills (removeTask_tasks s t)).noteCommit t).lateMoves.of_tasks htasks

/-- A task that ends with a status leaves flight, whatever ends with it (R200). -/
theorem endTask_gone {s : State} (hkills : ∀ u ∈ s.tasks, u.kills < 3) (t : Task) (st : Status) (pc : Option Nat) :
    TagGone t.tag (endTask s t st pc) := by
  unfold endTask
  refine TagGone.lateMoves (TagGone.foldl (fun v u h => ?_) _ (TagGone.foldl (fun v u h => ?_) _ ?_))
  · exact h.filter ((removeTask_tasks _ u).trans (by rw [undefineOut_tasks]))
  · exact h.filter (endOne_tasks v u _ _)
  · exact tagGone_of_filter hkills (endOne_tasks s t st pc)

variable {i : Fin 256} {s : State} {c : Ctx} (hc : ctxOf s i = some c) (hop : c.w.op = .commit)
include hc hop

/-- A pinned task past its 20 µs ends instead (R367). -/
theorem commit_overruns (hlate : pinnedLate s c = true) : exec (.commit i) s = .next (overrun s c.t) := by
  refine (runInsn_settle hc (isOp_of hop)).trans ?_
  simp only [commitRes, hlate, if_true, settle]

/-- With something outstanding the island stands still (R198). -/
theorem commit_stands (htime : pinnedLate s c = false) (hbusy : quiet s c = false ∨ c.x.waiting ≠ []) :
    ∃ t, exec (.commit i) s = .next t ∧ t.tasks = s.tasks ∧ t.mem = s.mem ∧ (islandAt t i).committing = true ∧
      (islandAt t i).stall = some .writes := by
  obtain ⟨hisl, -, htask⟩ := ctxOf_some hc
  have hnot : (quiet s c && c.x.waiting.isEmpty) = false := by
    simpa only [Bool.and_eq_false_iff, List.isEmpty_eq_false_iff] using hbusy
  have hwait : commitRes c s = .wait (modIsland s i (fun x => { x with committing := true })) .writes := by
    simp only [commitRes, htime, hnot, Bool.false_eq_true, if_false, hisl]
  have hrun : exec (.commit i) s = _ := runInsn_settle hc (isOp_of hop)
  rw [hwait, settle, holdInsn_stalls (by simp [runsAsync, hop]), hisl] at hrun
  have hisland := islandAt_modIsland (s := s) (i := i) (f := fun x => { x with committing := true })
    (island_ne_default (.inl htask))
  refine ⟨_, hrun, rfl, rfl, ?_, ?_⟩
  · rw [islandAt_stalled, hisland]
  · rw [islandAt_stalled]

/-- With nothing outstanding the task commits (R198). -/
theorem commit_commits (htime : pinnedLate s c = false) (hquiet : quiet s c = true) (hnone : c.x.waiting = []) :
    exec (.commit i) s = .next (commitTask s c.t) := by
  refine (runInsn_settle hc (isOp_of hop)).trans ?_
  simp only [commitRes, htime, hquiet, hnone, List.isEmpty_nil, Bool.and_self, Bool.false_eq_true, if_false, if_true, settle]

omit hc hop

/-- Past its last instruction a program ends its task (R200). -/
theorem noCommit_ends {t : Task} (ht : taskAt s i = some t) (hend : t.prog.insns.length ≤ (islandAt s i).pc) :
    exec (.noCommit i) s = .next (endTask s t .noCommit (some (t.prog.insns.length - 1))) := by
  change execNoCommit i s = _
  simp only [execNoCommit, ht, hend, if_true]

end Sys2Proof.Machine
end

section
/-! VENG and LOAD with TAPS (R93 to R96, R186, R293). -/
namespace Sys2Proof.Machine

/-! ### What the reads of an instruction leave as it was -/

theorem SameView.runsOf {s u : State} (h : SameView s u) (d : Nat) (tag : Option Nat) (rs : List (Nat × Nat)) :
    runsOf u d tag rs = runsOf s d tag rs := by
  simp only [Machine.runsOf, h.xlat]

theorem SameView.pendingRanges {s u : State} (h : SameView s u) (d : Nat) (but : Option Nat) :
    pendingRanges u d but = pendingRanges s d but := by
  simp only [Machine.pendingRanges, h.tasks, h.net]

/-- The gate of a GATHER's granules that is open stays open. -/
theorem SameView.gatherGate {s u : State} {c : Ctx} {v : Nat} {r : VRec} (h : SameView s u)
    (hgate : gatherGate s c v r = .go s) : gatherGate u c v r = .go u := by
  revert hgate
  simp only [Machine.gatherGate, h.taskBytes, h.runsOf, h.pendingRanges]
  split
  · split
    · nofun
    · split
      · nofun
      · exact fun _ => rfl
  · exact fun _ => rfl

theorem SameView.scaleOf {s u : State} (h : SameView s u) (c : Ctx) (o : Operand) (r : Int) : scaleOf u c o r = scaleOf s c o r := by
  simp only [Machine.scaleOf, h.taskBytes]

theorem SameView.srcBytes {s u : State} (h : SameView s u) (c : Ctx) (g : Geom) (b : Nat) (q : TapSrc) :
    srcBytes u c g b q = srcBytes s c g b q := by
  cases q with
  | mem a => exact h.loadBytes c a b
  | const => rfl
  | zero => rfl

theorem SameView.tapElem {s u : State} (h : SameView s u) (c : Ctx) (g : Geom) (o : Operand) (b : Nat) (df : Fmt) (m : Nat) :
    tapElem u c g o b df m = tapElem s c g o b df m := by
  funext srcs
  simp only [Machine.tapElem, h.srcBytes, h.scaleOf]

theorem SameView.tapRows {s u : State} (h : SameView s u) (c : Ctx) (g : Geom) (o : Operand) (df : Fmt) :
    tapRows u c g o df = tapRows s c g o df := by
  simp only [Machine.tapRows, h.tapElem]

variable {i : Fin 256} {s : State} {c : Ctx} (hc : ctxOf s i = some c)

/-! ### VENG -/

/-- Where an operation's result goes: a place in the scratchpad, or above 2^64 an address of operand memory. -/
def resultPlace (c : Ctx) : Nat :=
  match agOperand c c.w.ag3 with
  | none => (agAt c c.w.ag3 0).toNat
  | some _ => 2 ^ 64 + vaOf (agAt c c.w.ag3 0)

/-- The four bytes of a result lie in the task's region, or whole in an output operand (R96). -/
def resultFits (c : Ctx) : Bool :=
  match agOperand c c.w.ag3 with
  | none => inScratch c (agAt c c.w.ag3 0) 4
  | some o => o.output && decide (segs c o (agAt c c.w.ag3 0) 4 = [(0, (agAt c c.w.ag3 0).toNat, 4)])

/-- A record that VENG accepts (R93, R94, R96, R123). -/
structure RecordAccepted (c : Ctx) (r : VRec) : Prop where
  op_pos : 1 ≤ r.op
  op_le : r.op ≤ 9
  resv : r.resv = 0
  aux : auxBad r.op r.aux = false
  pack : packOk r.op r.flags = true
  count : r.op = 9 → r.count ≤ 65536
  result : resultFits c = true

/-- The ranges that an operation reads; TOKEN_COMPARE reads both operands. -/
def engineReads (r : VRec) : List (Nat × Nat) := (r.src, vSrcLen r) :: (if r.op = 8 then [(r.dst, 512)] else [])

/-- The ranges that an operation writes `n` bytes of data and its result to. -/
def engineWrites (c : Ctx) (r : VRec) (n : Nat) : List (Nat × Nat) :=
  (if r.op = 8 then [] else [(r.dst, n)]) ++ (if resultPlace c ≥ 2 ^ 64 then [(resultPlace c - 2 ^ 64, 4)] else [])

/-- The bytes of an operation's destination; those of an UNPACK follow from its source (R94). -/
def engineLen (s : State) (c : Ctx) (r : VRec) : Nat :=
  vDstLen r (if r.op = 7 then plain (taskBytes s c r.src r.count) else [])

/-- A record accepted, whose ranges lie in one vault and whose gates open, is queued at that vault (R93, R95, R96, R177). -/
theorem vengRes_queues {u v x w : State} {b : List Byte} {p : Place} {src dst : List (Nat × Nat)}
    (hread : Safety.Fetches c c.w.ag1 c.w.imm1 32 s u b) (hok : RecordAccepted c (readVRec b))
    (hplace : xlat u c.t.desc.domain (some c.t.tag) (readVRec b).dst = .ok p) (htier : p.tier = .t1)
    (hsrc : vaultRuns u c (p.addr / 2 ^ 30) (readVRec b).src (vSrcLen (readVRec b)) = .ok src)
    (hdst : vaultRuns u c (p.addr / 2 ^ 30) (readVRec b).dst (engineLen u c (readVRec b)) = .ok dst)
    (hreads : readGate u c.t c.isl false false (engineReads (readVRec b)) = .go v)
    (hgather : gatherGate v c (p.addr / 2 ^ 30) (readVRec b) = .go x)
    (hwrites : writeGate x c.t (engineWrites c (readVRec b) (engineLen u c (readVRec b))) = .go w) :
    vengRes c s = .next (issueOp c (p.addr / 2 ^ 30)
      (vopOf (readVRec b) src dst (.task c.t.tag c.t.attempt) c.isl (resultPlace c)) w) := by
  obtain ⟨hpos, hle, hresv, haux, hpack, hcount, hresult⟩ := hok
  rw [vengRes, withBytesAt_of hread]
  generalize readVRec b = r at *
  refine (if_neg (by simp [haux, hresv]; omega)).trans ((if_neg (by simp [hpack])).trans ((if_neg ?_).trans ?_))
  · change ¬ (!resultFits c) = true
    simp [hresult]
  rw [hplace]
  refine (if_neg (by simp only [htier, ne_eq, not_true_eq_false, false_or]; omega)).trans ?_
  rw [hsrc, orFault]
  change orFault u (vaultRuns u c _ r.dst (engineLen u c r)) _ = _
  rw [hdst, orFault]
  change pastEngine (readGate u c.t c.isl false false (engineReads r)) _ = _
  rw [hreads, pastEngine, hgather, pastEngine]
  change pastEngine (writeGate x c.t (engineWrites c r (engineLen u c r))) _ = _
  rw [hwrites]
  rfl

/-! ### LOAD with TAPS -/

/-- A convolution load whose geometry is well formed and whose reads go through puts its rows into the scratchpad (R293). -/
theorem tapsRes_puts {u v : State} {o : Operand} {df : Fmt} {b : List Byte} {g : Geom} {rows : List (List MByte)}
    (hag : agOperand c c.w.ag1 = some o) (hf : fmtOf (c.w.flags % 16) = some df) (hsrc : isNarrow o.fmt = false)
    (hdst : isNarrow df = false) (hgeom : readGeom b (elemBytes o.fmt) = some g) (hconv : g.mode = 0 → df = o.fmt ∧ df ≠ .fp32)
    (hwhole : c.w.imm2 % elemBytes df = 0) (hread : Safety.Fetches c c.w.ag2 0 64 s u b)
    (hstage : u.mig.stagings.all (fun g => !(g.members.contains c.t.tag)) = true)
    (hgate : readGate u c.t c.isl false true (tapReads c g o df) = .go v) (hrows : tapRows v c g o df = .ok rows) :
    let puts := (List.range rows.length).map (fun (r : Nat) => (agAt c c.w.ag3 0 + (r * c.w.imm2 : Nat), rows.getD r []))
    puts.all (fun w => inScratch c w.1 w.2.length) = true →
    tapsRes c s = .next (modIsland v c.isl (fun x => puts.foldl (fun x w => putScratch x w.1.toNat w.2) x)) := by
  intro puts hfit
  have hform : ¬ ((g.mode = 0 ∧ (df ≠ o.fmt ∨ df = .fp32)) ∨ c.w.imm2 % elemBytes df ≠ 0) := by
    rintro (⟨hmode, h⟩ | h)
    · obtain ⟨hsame, hwide⟩ := hconv hmode
      exact h.elim (· hsame) hwide
    · exact h hwhole
  simp only [tapsRes, hag, hf, hsrc, hdst, Bool.false_eq_true, or_self, if_false]
  rw [withBytesAt_of hread]
  simp only [hgeom]
  rw [if_neg hform, withLoad_unstaged hstage, withRead_go hgate, hrows, orFault]
  exact putRanges_fit hfit v

include hc

theorem loadTaps_completes {t : State} (hop : c.w.op = .load) (htaps : bit c.w.flags 5 = true) (hres : tapsRes c s = .next t) :
    exec (.loadTaps i) s = .next (Safety.advanced c t) := by
  change runInsn "LOAD_TAPS" (fun w => isOp .load w && bit w.flags 5) i s tapsRes = _
  exact runInsn_next hc (by simp [isOp, hop, htaps]) hres

omit hc

/-- Settles O31: the group block, the end of a task, the vault engine, the convolution loads and the end of a program; what a
clean read changes, no later step of its instruction sees. -/
theorem programsEndByCommit : Obligations.ProgramsEndByCommit := by
  refine ⟨fun i s c hc => ⟨gbegin_empty hc, ?gbeginClean, ?gbegin, gend_outside hc, fun g => gend_last hc,
    fun g r => gend_next hc, ?commit, ?veng, ?taps⟩, ?noCommit⟩
  case gbeginClean =>
    intro hop hsome hlatent o hfree hmark b recs hfits
    obtain ⟨u, hgate, hview⟩ := readGate_freely c.isl false true hlatent hfree
    have hbytes := hview.taskBytes c o.base (16 * c.t.desc.g)
    refine ⟨u, ?_, hview.mem, hview.tasks⟩
    have hruns := gbegin_runs hc hop hsome hgate (by rw [hbytes]; exact hmark)
    rw [hbytes] at hruns
    exact hruns hfits
  case gbegin =>
    rintro u _ hop hsome hgate hmark rfl
    exact gbegin_runs hc hop hsome hgate hmark
  case commit =>
    refine fun hop => ⟨commit_overruns hc hop, commit_stands hc hop, fun htime hquiet hnone => ?_⟩
    exact ⟨_, commit_commits hc hop htime hquiet hnone, rfl, commitTask_mem s c.t,
      fun hkills u hu => (commitTask_gone hkills c.t u hu).2⟩
  case veng =>
    intro u v x w b p src dst hop r va ra result hpos hle hresv haux hpack hcount hresult reads writes o
    have hok : RecordAccepted c r := ⟨hpos, hle, hresv, haux, hpack, hcount, hresult⟩
    constructor
    · intro hpad hlatent hplace htier n hsrc hdst hreads hwrites hgather
      obtain ⟨v, hgate, hview⟩ := readGate_freely c.isl false false hlatent hreads
      exact ⟨v, runInsn_next hc (isOp_of hop) (vengRes_queues (fetches_pad hpad s) hok hplace htier hsrc hdst hgate
        (hview.gatherGate hgather) (writeGate_freely (by rw [hview.writesFreely]; exact hwrites))), hview.mem, hview.tasks⟩
    · intro hread hplace htier n hsrc hdst hreads hgather hwrites
      exact runInsn_next hc (isOp_of hop) (vengRes_queues hread hok hplace htier hsrc hdst hreads hgather hwrites)
  case taps =>
    intro o df b g hop htaps hag hf hsrc hdst hgeom hconv hwhole rows puts hfit
    constructor
    · intro hpad hstage hlatent hfree hrows
      obtain ⟨v, hgate, hview⟩ := readGate_freely c.isl false true hlatent hfree
      exact ⟨v, loadTaps_completes hc hop htaps (tapsRes_puts hag hf hsrc hdst hgeom hconv hwhole (fetches_pad hpad s) hstage
        hgate ((hview.tapRows c g o df).trans hrows) hfit), hview.mem, hview.tasks⟩
    · exact fun u v hread hstage hgate hrows =>
        loadTaps_completes hc hop htaps (tapsRes_puts hag hf hsrc hdst hgeom hconv hwhole hread hstage hgate hrows hfit)
  case noCommit =>
    exact fun i s t ht hend => ⟨_, noCommit_ends ht hend, rfl, fun hkills v hv => (endTask_gone hkills t _ _ v hv).2⟩

end Sys2Proof.Machine
end

section
/-!
Staging tiles: STAGE attaches, places or falls back, RELEASE detaches, lines arrive or are dropped, LAG_STAGE_CLEAR clears
FALLBACKS (R217 to R221, R229).
-/
namespace Sys2Proof.Machine

/-! ### STAGE -/

section Stage
variable {s : State} {m : Mig} {c : Ctx} {o : Operand} (hag : agOperand c c.w.ag1 = some o) (hin : o.output = false)
include hag hin

/-- Of an input operand STAGE goes on at once, and changes the tiles' bookkeeping alone (R217, R218). -/
theorem stageRes_frame (s : State) : ∃ m, stageRes c s = .next { s with mig := m } := by
  simp only [stageRes, hag, hin, Bool.false_eq_true, if_false]
  split
  · exact ⟨_, rfl⟩
  · split <;> exact ⟨_, rfl⟩

/-- Where a tile with the range's identity exists, the task is a member of every such tile afterwards (R218). -/
theorem stageRes_attaches (hsame : ∃ g ∈ s.mig.stagings, g.id = stageId c o)
    (hres : stageRes c s = .next { s with mig := m }) :
    ∀ g ∈ m.stagings, g.id = stageId c o → c.t.tag ∈ g.members := by
  have hany : s.mig.stagings.any (fun g => decide (g.id = stageId c o)) = true := by simpa using hsame
  simp only [stageRes, hag, hin, hany, Bool.false_eq_true, if_false, if_true] at hres
  cases hres
  intro g hg hid
  obtain ⟨g', -, rfl⟩ := List.mem_map.1 hg
  by_cases hjoins : g'.id = stageId c o ∧ ¬ g'.members.contains c.t.tag
  · rw [if_pos hjoins]
    exact List.mem_append_right _ (List.mem_singleton.2 rfl)
  · rw [if_neg hjoins] at hid ⊢
    simpa [hid] using hjoins

/-- Without one, and where the lines fit the domain's ways, a new tile holds them for the task, unfilled (R217, R218). -/
theorem stageRes_places (hnew : ∀ g ∈ s.mig.stagings, g.id ≠ stageId c o)
    (hfit : stagedBytes s (stageId c o).dom (stageId c o).atoll + 128 * (stageLines c o).length ≤
      (memRec s (stageId c o).dom).stageWays * 4 * 2 ^ 20) (hres : stageRes c s = .next { s with mig := m }) :
    m.stagings = s.mig.stagings ++ [⟨stageId c o, [c.t.tag], stageLines c o, 0, [], []⟩] := by
  have hany : s.mig.stagings.any (fun g => decide (g.id = stageId c o)) = false := by simpa using hnew
  simp only [stageRes, hag, hin, hany, hfit, Bool.false_eq_true, if_false, if_true] at hres
  cases hres
  rfl

/-- Where they do not fit, the tiles stay, the task is marked and FALLBACKS of the atoll counts one more (R218). -/
theorem stageRes_fallsBack (hnew : ∀ g ∈ s.mig.stagings, g.id ≠ stageId c o)
    (hfull : (memRec s (stageId c o).dom).stageWays * 4 * 2 ^ 20 <
      stagedBytes s (stageId c o).dom (stageId c o).atoll + 128 * (stageLines c o).length)
    (hres : stageRes c s = .next { s with mig := m }) :
    m.stagings = s.mig.stagings ∧ (c.t.tag, stageId c o) ∈ m.fallbacks ∧
      m.fallCount = modAt s.mig.fallCount (stageId c o).atoll (satAdd 32767 1) := by
  have hany : s.mig.stagings.any (fun g => decide (g.id = stageId c o)) = false := by simpa using hnew
  simp only [stageRes, hag, hin, hany, Nat.not_le.2 hfull, Bool.false_eq_true, if_false] at hres
  cases hres
  exact ⟨rfl, List.mem_append_right _ (List.mem_singleton.2 rfl), rfl⟩

/-- RELEASE takes the task out of the tile's members, and no tile is left without members (R221). -/
theorem releaseRes_detaches (s : State) : ∃ m, releaseRes c s = .next { s with mig := m } ∧
    ∀ g ∈ m.stagings, g.members ≠ [] ∧ (g.id = stageId c o → c.t.tag ∉ g.members) := by
  simp only [releaseRes, hag, hin, Bool.false_eq_true, if_false]
  refine ⟨_, rfl, fun g hg => ?_⟩
  obtain ⟨hmap, hkept⟩ := List.mem_filter.1 hg
  refine ⟨by simpa using hkept, fun hid => ?_⟩
  obtain ⟨g', -, rfl⟩ := List.mem_map.1 hmap
  by_cases htile : g'.id = stageId c o
  · simp [if_pos htile]
  · rw [if_neg htile] at hid
    exact absurd hid htile

end Stage

section AtPc
variable {i : Fin 256} {s u : State} {c : Ctx} (hc : ctxOf s i = some c) (hop : c.w.op = .stage)
include hc hop

/-- A STAGE without RELEASE that goes on leaves its effect, and the island moves on (R217). -/
theorem stage_runs (hflag : bit c.w.flags 0 = false) (hres : stageRes c s = .next u) :
    exec (.stage i) s = .next (Safety.advanced c u) := by
  show execStage i s = _
  refine runInsn_next hc ?_ hres
  simp [isOp_of hop, hflag]

/-- So does one with RELEASE (R221). -/
theorem stageRelease_runs (hflag : bit c.w.flags 0 = true) (hres : releaseRes c s = .next u) :
    exec (.stageRelease i) s = .next (Safety.advanced c u) := by
  show execStageRelease i s = _
  refine runInsn_next hc ?_ hres
  simp [isOp_of hop, hflag]

end AtPc

/-! ### The lines of a tile -/

/-- Tile `n` of the staging tiles is `g`. -/
def putStaging (n : Nat) (g : Staging) (s : State) : State :=
  { s with mig := { s.mig with stagings := setAt s.mig.stagings n g } }

/-- A tile that was there is read back as it was put. -/
theorem putStaging_getD {s : State} {n : Nat} {g : Staging} (h : s.mig.stagings[n]? = some g) (g' d : Staging) :
    (putStaging n g' s).mig.stagings.getD n d = g' := by
  obtain ⟨hn, -⟩ := List.getElem?_eq_some_iff.1 h
  simp [putStaging, setAt, List.getD_eq_getElem?_getD, hn]

/-- Errors that a read finds are counted, logged and raised: the migration engine is as it was (R68 to R71). -/
theorem eccCorrect_mig (s : State) (b : Nat) (scrub : Bool) : (eccCorrect s b scrub).mig = s.mig := by
  simp only [eccCorrect]
  split
  · split <;> simp [modVault]
  · rfl

theorem eccPoison_mig (s : State) (b : Nat) : (eccPoison s b).mig = s.mig := by
  simp only [eccPoison]
  split <;> simp [modVault]

theorem touchBeat_mig (scrub : Bool) (s : State) (b : Nat) : (touchBeat scrub s b).mig = s.mig := by
  simp only [touchBeat]
  split
  · rfl
  · exact eccCorrect_mig s b scrub
  · exact eccPoison_mig s b
  · split
    · exact eccPoison_mig _ b
    · split
      · exact (eccCorrect_mig _ b scrub).trans (foldl_keep State.mig _ (fun _ _ => by rfl) _ _)
      · rfl

@[simp] theorem touch_mig (s : State) (pa n : Nat) : (touch s pa n).mig = s.mig := by
  refine (foldl_keep State.mig (touchBeat false) (touchBeat_mig false) _ _).trans ?_
  split <;> rfl

section Line
variable {n : BitVec 16} {s : State} {g : Staging} {l : Nat} (hg : s.mig.stagings[n.toNat]? = some g)
  (hl : g.lines[g.filled]? = some l)
include hg hl

/-- A line whose page can be read and that nothing pending covers arrives: its beats are read, but for T3, and it counts as
filled (R218, R219). -/
theorem stageLineFill_arrives {p : Place} (hp : xlat s g.id.dom g.members.head? (l * 128) = .ok p)
    (hfree : pendingIn s g.id.dom (l * 128, 128) = false) : exec (.stageLineFill n true) s =
      .next (putStaging n.toNat { g with filled := g.filled + 1 } (if p.tier = .t3 then s else touch s p.addr 128)) := by
  show execStageLineFill n true s = _
  simp [execStageLineFill, hg, hl, hp, hfree, putStaging]

/-- A line whose fill failed counts as filled and is among the dropped ones (R220). -/
theorem stageLineFill_drops : exec (.stageLineFill n false) s = .next (putStaging n.toNat { g with
    filled := g.filled + 1
    dropped := if g.dropped.contains l then g.dropped else g.dropped ++ [l] } s) := by
  show execStageLineFill n false s = _
  simp [execStageLineFill, hg, hl, putStaging]

end Line

theorem mem_dropped (l : Nat) (ls : List Nat) : l ∈ (if ls.contains l then ls else ls ++ [l]) := by
  split
  · exact List.contains_iff_mem.1 ‹_›
  · exact List.mem_append_right _ (List.mem_singleton.2 rfl)

theorem wakeS2_mig (s : State) : (wakeS2 s).mig = s.mig := by simp only [wakeS2]; split <;> simp

/-- Settles O25: STAGE goes one of three ways, RELEASE detaches, and a tile's next line arrives or is dropped. -/
theorem lagoonStagingCompletes : Obligations.LagoonStagingCompletes := by
  refine ⟨fun i s c o hc hop hag hin => ⟨?stage, ?release⟩, fun n s g l hg hl => ⟨?arrives, ?drops⟩, ?clear⟩
  case stage =>
    intro hflag
    obtain ⟨m, hres⟩ := stageRes_frame hag hin s
    exact ⟨_, stage_runs hc hop hflag hres, rfl, rfl,
      fun hsame => stageRes_attaches hag hin hsame hres,
      fun hnew hfit => stageRes_places hag hin hnew hfit hres,
      fun hnew hfull => stageRes_fallsBack hag hin hnew hfull hres⟩
  case release =>
    intro hflag
    obtain ⟨m, hres, htiles⟩ := releaseRes_detaches hag hin s
    exact ⟨_, stageRelease_runs hc hop hflag hres, rfl, rfl, htiles⟩
  case arrives =>
    intro p hp hfree
    have hread : (if p.tier = .t3 then s else touch s p.addr 128).mig = s.mig := by split <;> simp
    exact ⟨_, stageLineFill_arrives hg hl hp hfree, by rw [putStaging_getD (g := g) (by rw [hread]; exact hg)]⟩
  case drops =>
    refine ⟨_, stageLineFill_drops hg hl, rfl, ?_⟩
    rw [putStaging_getD hg]
    exact ⟨rfl, mem_dropped l g.dropped⟩
  case clear =>
    intro a s hup
    refine ⟨_, congrArg Host.Outcome.next (viaHost_up hup _), ?_, wakeS2_mem s⟩
    simp only [wakeS2_mig]

end Sys2Proof.Machine
end

section
/-! What the lens unit reads: the entries of a walk, their tokens, the scores, the next block of a backward walk (R260 to R262,
R267, R270, R280). -/
namespace Sys2Proof.Machine

variable {s u : State} {c : Ctx}

/-! ### A state that shows the same view reads the same -/

theorem SameView.walkWords (h : SameView s u) (c : Ctx) (k n : Nat) : Safety.walkWords u c k n = Safety.walkWords s c k n := by
  simp only [Safety.walkWords, h.taskBytes]

theorem SameView.tokensOf (h : SameView s u) (c : Ctx) (val : Bool) (ks : List Key) :
    Safety.tokensOf u c val ks = Safety.tokensOf s c val ks := by
  simp only [Safety.tokensOf, h.taskBytes]

/-- A read that nothing holds goes on, also after other such reads, and the state still shows the same view. -/
theorem withRead_freely (hview : SameView s u) (hlatent : s.latent = []) {rs : List (Nat × Nat)}
    (hfree : Safety.readsFreely s c.t rs = true) (own : Bool) :
    ∃ v, (∀ k, withRead c own rs u k = k v) ∧ SameView s v := by
  obtain ⟨v, hgate, hnext⟩ := readGate_freely c.isl own true (hview.latent.trans hlatent)
    ((hview.readsFreely c.t rs).trans hfree)
  exact ⟨v, withRead_go hgate, hview.trans hnext⟩

/-! ### Entries, tokens and scores -/

/-- The walk's entries give its keys. -/
theorem withKeys_reads (hlatent : s.latent = []) (h : Safety.WalkReads s c 0 c.x.lens.count) :
    ∃ u, Safety.Gives (withKeys c s) u ((Safety.walkWords s c 0 c.x.lens.count).flatMap entryKeys) ∧ SameView s u := by
  obtain ⟨hfree, hmark, hagree⟩ := h
  obtain ⟨u, hread, hview⟩ := withRead_freely (.refl s) hlatent hfree false
  refine ⟨u, fun next => (hread _).trans ?_, hview⟩
  rw [← hview.walkWords] at hagree ⊢
  rw [← hview.taskBytes] at hmark
  exact (if_neg (ne_true_of_eq_false hmark)).trans (if_neg (ne_true_of_eq_false hagree))

/-- Tokens that read clean in `s` give their elements in every state that shows its view. -/
theorem withTokens_reads (hview : SameView s u) (hlatent : s.latent = []) {val : Bool} {ks : List Key}
    (h : Safety.TokensRead s c val ks) :
    ∃ v, Safety.Gives (withTokens c val ks u) v (Safety.tokensOf s c val ks) ∧ SameView s v := by
  obtain ⟨hfree, hmark⟩ := h
  obtain ⟨v, hread, hnext⟩ := withRead_freely hview hlatent hfree false
  refine ⟨v, fun next => (hread _).trans ?_, hnext⟩
  simp only [hnext.taskBytes, Safety.tokensOf, List.map_map]
  simp only [List.map_map] at hmark
  rw [if_neg (ne_true_of_eq_false hmark)]
  rfl

/-- Keys whose tokens read clean give the scores of the query rows. -/
theorem withScores_reads (hview : SameView s u) (hlatent : s.latent = []) {ks : List Key} {qs : List (List Val)}
    (h : Safety.TokensRead s c false ks)
    (hrows : lensRows c c.x.lens.lcb.qOff ((kvFmt c.x.lens.lcb.qFormat).getD .bf16) = .ok qs) :
    ∃ v, Safety.Gives (withScores c true ks u) v (Safety.scoresOf s c qs ks) ∧ SameView s v := by
  obtain ⟨v, hread, hnext⟩ := withTokens_reads hview hlatent h
  refine ⟨v, fun next => ?_, hnext⟩
  rw [withScores, hread, hrows]
  rfl

/-! ### The next block of a backward walk -/

/-- The entries of a backward walk that no block has reached. -/
def entriesLeft (s : State) (c : Ctx) : List Nat :=
  Safety.walkWords s c c.x.lens.next (c.x.lens.count - c.x.lens.next)

/-- How many of them the next block reaches (R280). -/
def blockEntries (s : State) (c : Ctx) : Nat := entriesFor (512 - c.x.lens.rest.length) (entriesLeft s c)

/-- The keys at hand for the next block: those left over, then those of the entries that it reaches. -/
def keysAtHand (s : State) (c : Ctx) : List Key :=
  c.x.lens.rest ++ (Safety.walkWords s c c.x.lens.next (blockEntries s c)).flatMap entryKeys

/-- The lens once the next block is read from keys `ks` at hand; after the last key it is closed (R272, R280). -/
def lensBehind (s : State) (c : Ctx) (ks : List Key) : Lens :=
  { c.x.lens with
    next := c.x.lens.next + blockEntries s c
    rest := ks.drop 512
    keys := c.x.lens.keys + min 512 ks.length
    block := c.x.lens.block + 1
    phase := if decide (512 < ks.length) || ((entriesLeft s c).drop (blockEntries s c)).any (fun e => bit e 0)
      then .back else .closed }

/-- Entries that read clean and agree with the walk's generation give the next block and the lens behind it. -/
theorem withBlock_reads (hlatent : s.latent = []) (h : Safety.WalkReads s c c.x.lens.next (blockEntries s c)) :
    ∃ u, (∀ next, withBlock c s next = next u ((keysAtHand s c).take 512) (lensBehind s c (keysAtHand s c))) ∧ SameView s u := by
  obtain ⟨hfree, hmark, hagree⟩ := h
  obtain ⟨u, hread, hview⟩ := withRead_freely (.refl s) hlatent hfree false
  refine ⟨u, fun next => (hread _).trans ?_, hview⟩
  have hkeys : keysAtHand s c = c.x.lens.rest ++ (Safety.walkWords u c c.x.lens.next (blockEntries s c)).flatMap entryKeys := by
    rw [hview.walkWords, keysAtHand]
  rw [hkeys]
  rw [← hview.walkWords] at hagree
  rw [← hview.taskBytes] at hmark
  exact (if_neg (ne_true_of_eq_false hmark)).trans (if_neg (ne_true_of_eq_false hagree))

end Sys2Proof.Machine
end

section
/-! LOPEN, LSCORE, LPV, LSTATS, LSTATS with COMBINE and LBACK in their sequence (R265, R271 to R274, R278 to R280). -/
namespace Sys2Proof.Machine

variable {i : Fin 256} {s u v w : State} {c : Ctx}

/-- The instruction stands in the sequence (R272). -/
theorem inSequence_of {ok : Lens → Bool} (h : ok c.x.lens = true) (s : State) (k : Res) : inSequence c ok s k = k := if_pos h

/-- A lens whose walk is not closed stands on the island that has moved on. -/
theorem lens_advanced {l : Lens} (h : l.phase ≠ .closed) {j : Nat} (hisl : c.isl = j) (s : State) :
    (islandAt (Safety.advanced c (setLens c l s)) j).lens = l := by
  subst hisl
  obtain ⟨p, loops, trips, hmoved⟩ := advancePc_frame c.t
    { islandAt (setLens c l s) c.isl with firstAt := (islandAt (setLens c l s) c.isl).firstAt <|> some (setLens c l s).now }
  have hput : islandAt (setLens c l s) c.isl = { islandAt s c.isl with lens := l } :=
    islandAt_modIsland fun hreset => h (congrArg (fun x : Island => x.lens.phase) hreset)
  rw [islandAt_advanced, hmoved, hput]

/-! ### LOPEN -/

/-- The lens that an LOPEN opens on a generation of its list (R265, R269, R271). -/
def openedLens (s : State) (c : Ctx) (l : Lcb) (g : ListGen) : Lens :=
  let room := leAt (plain (taskBytes s c g.body 64)) 8 4 - l.firstEntry
  { c.x.lens with
    phase := if lcbBackward l then .back else .opened
    lcb := l, gen := g.gen, body := g.body, first := l.firstEntry
    count := if l.entryCount = 0 then room else min l.entryCount room
    opa := c.w.opa, opb := c.w.opb
    asStream := lcbStream l && decide ((numRec s c.t.desc.domain).det ≠ 2) && !(lcbBackward l)
    spillFp := lcbSpillFp l, block := 0, next := 0, rest := [], keys := 0, stats := [] }

section Opening
variable {b : List Byte} {l : Lcb} {g : ListGen} (hphase : c.x.lens.phase = .closed ∨ c.x.lens.phase = .done)
  (hread : Safety.Fetches c c.w.ag1 c.w.imm1 64 s u b) (hlcb : readLcb b c.w.opa = some l)
  (hlist : resolveList u c.t l.listId = some g) (hgate : readGate u c.t c.isl false true [(g.body, 64)] = .go v)
  (hmark : anyMark (taskBytes v c g.body 64) = false) (hid : leAt (plain (taskBytes v c g.body 64)) 0 4 = g.id)
  (hgen : leAt (plain (taskBytes v c g.body 64)) 4 4 = g.gen)
include hphase hread hlcb hlist hgate hmark hid hgen

/-- Behind an agreeing header LOPEN takes statistics where its mode brings them, and else has opened the walk. -/
theorem lopenRes_header : lopenRes c s =
    if lcbStatsIn l || lcbBackward l then
      withLinear c false (operandOf c c.w.opb) 0 statsSize v (fun w r =>
        if statsKey r ≠ (l.listId, g.gen, l.c, b2n (!(lcbSpillFp l)), l.rows) ∨ (lcbStatsIn l && streamRecord r) then
          .fault w .statsMismatch
        else .next (setLens c { openedLens v c l g with stats := (List.range 256).map (readRow r) } w))
    else .next (setLens c (openedLens v c l g) v) := by
  rw [lopenRes, inSequence_of (by simpa using hphase), withBytesAt_of hread]
  simp only [hlcb, hlist]
  rw [withRead_go hgate, if_neg (ne_true_of_eq_false hmark), if_neg (by simp [hid, hgen])]
  rfl

theorem lopenRes_opens (hstats : lcbStatsIn l = false) (hback : lcbBackward l = false) :
    lopenRes c s = .next (setLens c (openedLens v c l g) v) := by
  rw [lopenRes_header hphase hread hlcb hlist hgate hmark hid hgen, hstats, hback]
  rfl

theorem lopenRes_takesStats {r : List Byte} (hmode : lcbStatsIn l = true ∨ lcbBackward l = true)
    (hrecord : Safety.Gives (withLinear c false (operandOf c c.w.opb) 0 statsSize v) w r)
    (hkey : statsKey r = (l.listId, g.gen, l.c, b2n (!(lcbSpillFp l)), l.rows))
    (hstream : (lcbStatsIn l && streamRecord r) = false) :
    lopenRes c s = .next (setLens c { openedLens v c l g with stats := (List.range 256).map (readRow r) } w) := by
  rw [lopenRes_header hphase hread hlcb hlist hgate hmark hid hgen, if_pos (by simpa using hmode), hrecord,
    if_neg (by simp [hkey, hstream])]

end Opening

/-- An LOPEN without statistics leaves the walk opened, over the list's generation, and DRAM as it was. -/
theorem lopen_completes (hc : ctxOf s i = some c) (hop : c.w.op = .lopen) {l : Lcb} {g : ListGen} (hback : lcbBackward l = false)
    (hres : lopenRes c s = .next (setLens c (openedLens v c l g) v)) :
    ∃ t, exec (.lopen i) s = .next t ∧ t.mem = v.mem ∧ (islandAt t i).lens.phase = .opened ∧ (islandAt t i).lens.lcb = l ∧
      (islandAt t i).lens.gen = g.gen ∧ (islandAt t i).lens.body = g.body := by
  have hphase : (openedLens v c l g).phase = .opened := by simp [openedLens, hback]
  refine ⟨_, runInsn_next hc (isOp_of hop) hres, rfl, ?_⟩
  rw [lens_advanced (by simp [hphase]) (ctxOf_some hc).1]
  exact ⟨hphase, rfl, rfl, rfl⟩

/-- One with statistics leaves them in the lens, a backward walk in its phase. -/
theorem lopen_completes_withStats (hc : ctxOf s i = some c) (hop : c.w.op = .lopen) {l : Lcb} {g : ListGen}
    {stats : List RowStat} (hres : lopenRes c s = .next (setLens c { openedLens v c l g with stats := stats } w)) :
    ∃ t, exec (.lopen i) s = .next t ∧ (islandAt t i).lens.phase = (if lcbBackward l then .back else .opened) ∧
      (islandAt t i).lens.stats = stats := by
  refine ⟨_, runInsn_next hc (isOp_of hop) hres, ?_⟩
  rw [lens_advanced (by simp only [openedLens]; split <;> nofun) (ctxOf_some hc).1]
  exact ⟨rfl, rfl⟩

/-! ### LSCORE -/

/-- The lens that pass 1 leaves over `n` keys (R249). -/
def scoredLens (c : Ctx) (p : TableSet × TabEntry) (n : Nat) (us : List (List Val)) : Lens :=
  { c.x.lens with phase := .scored, keys := n, stats := us.map (pass1Row p) }

section Scoring
variable {p r : TableSet × TabEntry} {ks : List Key} {us : List (List Val)}
  (hphase : c.x.lens.phase = .opened) (hstream : lcbStream c.x.lens.lcb = false) (hstats : lcbStatsIn c.x.lens.lcb = false)
  (hsoft : softTables s c = .ok (p, r)) (hkeys : Safety.Gives (withKeys c s) u ks)
  (hscores : Safety.Gives (withScores c true ks u) v us)
include hphase hstream hstats hsoft hkeys hscores

theorem lscoreRes_recompute (hre : lcbRecompute c.x.lens.lcb = true) :
    lscoreRes c s = .next (setLens c (scoredLens c p ks.length us) v) := by
  rw [lscoreRes, inSequence_of (by simp [hphase, hstream, hstats]), hsoft, orFault]
  dsimp only
  rw [hkeys, hscores]
  exact if_pos hre

/-- Without RECOMPUTE the blocks of scores are spilled to an output operand that holds them (R273). -/
theorem lscoreRes_spills (hre : lcbRecompute c.x.lens.lcb = false) :
    let o := operandOf c c.x.lens.opa
    let bs := spillBlocks c.x.lens.spillFp us ks.length
    let n := 131072 * spillBytes c.x.lens.spillFp
    let ws := ((List.range bs.length).zip bs).map (fun e => (o.base + e.1 * n, clean e.2))
    o.output = true → bs.length * n ≤ (outRange c.ext o).2 → writeGate v c.t (ws.map (fun x => (x.1, x.2.length))) = .go w →
    lscoreRes c s = .next (setLens c (scoredLens c p ks.length us) (taskWrite v c.t c.isl ws)) := by
  intro o bs n ws hout hfit hgate
  rw [lscoreRes, inSequence_of (by simp [hphase, hstream, hstats]), hsoft, orFault]
  dsimp only
  rw [hkeys, hscores]
  refine (if_neg (ne_true_of_eq_false hre)).trans ((if_neg ?_).trans (withWrite_go hgate _))
  simpa [o, hout] using hfit

end Scoring

/-! ### LPV -/

/-- The state that a second pass leaves: its tile, and the lens done over `n` keys with these statistics (R274, R275). -/
def lpvDone (c : Ctx) (n : Nat) (t : AccTile) (stats : List RowStat) (s : State) : State :=
  setLens c { c.x.lens with phase := .done, keys := n, stats := stats } (putTile c t s)

/-- What a second pass that is not streamed takes after `u`: the scores `us`, and the statistics of its rows (R249, R273 to R275). -/
inductive PassTakes (c : Ctx) (p : TableSet × TabEntry) (ks : List Key) (u v : State) (us : List (List Val)) :
    List RowStat → Prop
  /-- A STREAM walk that takes both passes at once computes the scores and their statistics. -/
  | both (hphase : c.x.lens.phase = .opened) (hmode : lcbStream c.x.lens.lcb = true)
      (hscores : Safety.Gives (withScores c true ks u) v us) : PassTakes c p ks u v us (us.map (pass1Row p))
  /-- With RECOMPUTE the scores are computed again. -/
  | again (hphase : c.x.lens.phase = .scored ∨ (c.x.lens.phase = .opened ∧ lcbStatsIn c.x.lens.lcb = true))
      (hmode : lcbStream c.x.lens.lcb = false) (hre : lcbRecompute c.x.lens.lcb = true)
      (hscores : Safety.Gives (withScores c true ks u) v us) : PassTakes c p ks u v us c.x.lens.stats
  /-- Without it they are read from the spill, the walk's own where it has scored. -/
  | spilled (hphase : c.x.lens.phase = .scored ∨ (c.x.lens.phase = .opened ∧ lcbStatsIn c.x.lens.lcb = true))
      (hmode : lcbStream c.x.lens.lcb = false) (hre : lcbRecompute c.x.lens.lcb = false)
      (hscores : Safety.Gives (withSpill c (decide (c.x.lens.phase = .scored)) 0 (ceilDiv ks.length 512) u) v us) :
      PassTakes c p ks u v us c.x.lens.stats

/-- Such a pass stands in the sequence. -/
theorem PassTakes.stands {p : TableSet × TabEntry} {ks : List Key} {us : List (List Val)} {stats : List RowStat}
    (h : PassTakes c p ks u v us stats) : c.x.lens.phase = .scored ∨
      (c.x.lens.phase = .opened ∧ (lcbStream c.x.lens.lcb = true ∨ lcbStatsIn c.x.lens.lcb = true)) := by
  cases h with
  | both hphase hmode => exact .inr ⟨hphase, .inl hmode⟩
  | again hphase | spilled hphase => exact hphase.imp_right (And.imp_right .inr)

section SecondPass
variable {t : AccTile} {p r : TableSet × TabEntry} {ks : List Key} {us vals : List (List Val)}
  (ht : c.x.tiles[c.w.x]? = some t) (hshape : t.shape = 5) (hsoft : softTables s c = .ok (p, r))
  (hkeys : Safety.Gives (withKeys c s) u ks) (hvals : Safety.Gives (withTokens c true ks v) w vals)
include ht hshape hsoft hkeys hvals

/-- The streamed pass takes unrounded scores and its own statistics (R253, R275). -/
theorem lpvRes_stream (hphase : c.x.lens.phase = .opened) (hmode : lcbStream c.x.lens.lcb = true)
    (hstream : c.x.lens.asStream = true) (hfp : t.fp = true) (hscores : Safety.Gives (withScores c false ks u) v us) :
    lpvRes c s = .next (lpvDone c ks.length (streamTile p r t us vals).1 (streamTile p r t us vals).2 w) := by
  rw [lpvRes, inSequence_of (by simp [hphase, hmode]), withTile_given ht, if_neg (by simp [hshape, hfp]), hsoft, orFault]
  dsimp only
  rw [hkeys, if_pos hstream, hscores, hvals]
  rfl

/-- Any other second pass adds P × V, with P from the scores and statistics that it takes (R250, R274). -/
theorem lpvRes_pass2 {stats : List RowStat} (hstream : c.x.lens.asStream = false) (htakes : PassTakes c p ks u v us stats) :
    lpvRes c s = .next (lpvDone c ks.length (pass2Tile p r c.x.lens.lcb t stats us vals) stats w) := by
  rw [lpvRes, inSequence_of (by simpa using htakes.stands), withTile_given ht, if_neg (by simp [hshape, hstream]), hsoft, orFault]
  dsimp only
  rw [hkeys, if_neg (ne_true_of_eq_false hstream)]
  cases htakes with
  | both hphase hmode hscores =>
    rw [if_pos hmode, hscores, hvals]
    rfl
  | again hphase hmode hre hscores =>
    rw [if_neg (ne_true_of_eq_false hmode), if_pos hre, hscores, hvals]
    rfl
  | spilled hphase hmode hre hscores =>
    rw [if_neg (ne_true_of_eq_false hmode), if_neg (ne_true_of_eq_false hre), hscores, hvals]
    rfl

end SecondPass

/-! ### LSTATS, and with COMBINE -/

theorem lstats_completes (hc : ctxOf s i = some c) (hop : c.w.op = .lstats) (hflag : bit c.w.flags 0 = false)
    (hphase : c.x.lens.phase = .scored ∨ c.x.lens.phase = .done)
    (hstore : Safety.Stores c c.w.ag3 0 (statsRecord c.x.lens.lcb.listId c.x.lens.gen c.x.lens.first c.x.lens.count c.x.lens.keys
      c.x.lens.lcb.c c.x.lens.spillFp c.x.lens.lcb.rows c.x.lens.stats) s u) :
    exec (.lstats i) s = .next (Safety.advanced c (setLens c { c.x.lens with phase := .closed } u)) := by
  change runInsn "LSTATS" (fun w => isOp .lstats w && !(bit w.flags 0)) i s lstatsRes = _
  refine runInsn_next hc (by simp [isOp, hop, hflag]) ?_
  rw [lstatsRes, inSequence_of (by simpa using hphase), putAt_of hstore, andThen]

/-- The statistics records that COMBINE reads. -/
def recordsOf (c : Ctx) (b : List Byte) : List (List Byte) :=
  (List.range c.w.count).map (fun k => slice b (k * statsSize) statsSize)

/-- The record that combines others: the identity of the first, the sums of their counts, their rows combined (R279). -/
def combinedRecord (recs : List (List Byte)) : List Byte :=
  let h := recs.headD []
  statsRecord (leAt h 0 4) (leAt h 4 4) (leAt h 8 4)
    ((recs.map (fun r => leAt r 0xC 4)).sum) ((recs.map (fun r => leAt r 0x10 4)).sum) (leAt h 0x14 4)
    (leAt h 0x18 1 == 0) (leAt h 0x1A 2) ((List.range 256).map (fun k => combineRows (recs.map (fun r => readRow r k))))

theorem lstatsCombine_completes (hc : ctxOf s i = some c) (hop : c.w.op = .lstats) (hflag : bit c.w.flags 0 = true)
    (hphase : c.x.lens.phase = .closed) {b : List Byte}
    (hmatch : ∀ r ∈ recordsOf c b, statsKey r = statsKey ((recordsOf c b).headD []) ∧ streamRecord r = false)
    (hread : Safety.Fetches c c.w.ag1 c.w.imm1 (c.w.count * statsSize) s u b)
    (hstore : Safety.Stores c c.w.ag3 0 (combinedRecord (recordsOf c b)) u v) :
    exec (.lstatsCombine i) s = .next (Safety.advanced c v) := by
  change runInsn "LSTATS_COMBINE" (fun w => isOp .lstats w && bit w.flags 0) i s lcombineRes = _
  refine runInsn_next hc (by simp [isOp, hop, hflag]) ?_
  have hsame : ¬ (recordsOf c b).any (fun r =>
      decide (statsKey r ≠ statsKey ((recordsOf c b).headD [])) || streamRecord r) = true := by
    simpa using hmatch
  rw [lcombineRes, inSequence_of (by simpa using hphase), withBytesAt_of hread]
  exact (if_neg hsame).trans (putAt_of hstore)

/-! ### LBACK -/

section Backward
variable {p r : TableSet × TabEntry} {mine : List Key} {q : Lens} (hphase : c.x.lens.phase = .back)
  (hsoft : softTables s c = .ok (p, r)) (hblock : ∀ next, withBlock c s next = next u mine q)
include hphase hsoft hblock

/-- A block without keys is passed. -/
theorem lbackRes_empty (hnone : mine = []) : lbackRes c s = .next (setLens c q u) := by
  rw [lbackRes, inSequence_of (by simpa using hphase), hsoft, orFault]
  dsimp only
  rw [hblock, hnone]
  rfl

/-- A block's P, dS and page addresses are written, from scores computed again or read from the spill (R280). -/
theorem lbackRes_stores {x : State} {vals dos us : List (List Val)} {ds : List Val} (hsome : mine ≠ [])
    (hvals : Safety.Gives (withTokens c true mine u) v vals) (hdos : lensRows c c.x.lens.lcb.doOff .bf16 = .ok dos)
    (hds : scratchF32 c c.x.lens.lcb.dOff c.x.lens.lcb.rows = .ok ds)
    (hscores : (c.x.lens.opa = 0 ∧ Safety.Gives (withScores c true mine v) w us) ∨
      (c.x.lens.opa ≠ 0 ∧ Safety.Gives (withSpill c false c.x.lens.block 1 v) w us))
    (hput : putPieces c c.w.ag3 (backBlock p r c.x.lens us dos vals ds mine) w = .next x) :
    lbackRes c s = .next (setLens c q x) := by
  rw [lbackRes, inSequence_of (by simpa using hphase), hsoft, orFault]
  dsimp only
  rw [hblock, if_neg (by simpa using hsome), hvals, hdos, orFault, hds, orFault]
  rcases hscores with ⟨hopa, hscores⟩ | ⟨hopa, hscores⟩
  · rw [if_pos hopa, hscores, hput, andThen]
  · rw [if_neg hopa, hscores, hput, andThen]

end Backward

/-- Pieces that the scratchpad takes stand there afterwards. -/
theorem putPieces_pad {ag : Nat} {l : List (Nat × List Byte)} (hag : agOperand c ag = none) :
    let puts := l.map (fun b => (agAt c ag 0 + (b.1 : Nat), clean b.2))
    puts.all (fun x => inScratch c x.1 x.2.length) = true →
    putPieces c ag l s = .next (modIsland s c.isl (fun x => puts.foldl (fun x w => putScratch x w.1.toNat w.2) x)) := by
  intro puts hfit
  simp only [putPieces, hag]
  exact putRanges_fit hfit s

/-- Those of an output operand are written within its extents. -/
theorem putPieces_operand {ag : Nat} {l : List (Nat × List Byte)} {o : Operand} (hag : agOperand c ag = some o)
    (hout : o.output = true) :
    let ws := l.flatMap (fun b => (segs c o (agAt c ag 0 + (b.1 : Nat)) b.2.length).map (fun g =>
      (g.2.1, clean ((b.2.drop g.1).take g.2.2))))
    writeGate s c.t (ws.map (fun x => (x.1, x.2.length))) = .go w → putPieces c ag l s = .next (taskWrite s c.t c.isl ws) := by
  intro ws hgate
  simp only [putPieces, hag, hout, if_true]
  exact withWrite_go hgate _

/-! ### The obligation -/

/-- Settles O29: each instruction's general form by what its function answers, the forms on the state alone as special cases. -/
theorem lensInstructionsComplete : Obligations.LensInstructionsComplete := by
  intro i s c hc q fmtQ
  refine ⟨?lopenPad, ?lopen, ?passesClean, ?lscore, ?lpv, ?lstats, ?combine, ?lbackClean, ?lback⟩
  case lopenPad =>
    intro b l g hop hphase hpad hlcb hlist hlatent hfree hmark hid hgen hstats hback
    obtain ⟨v, hgate, hview⟩ := readGate_freely c.isl false true hlatent hfree
    rw [← hview.taskBytes] at hmark hid hgen
    rw [← hview.mem]
    exact lopen_completes hc hop hback
      (lopenRes_opens hphase (fetches_pad hpad s) hlcb hlist hgate hmark hid hgen hstats hback)
  case lopen =>
    intro u v w b r l g hop hphase hread hlcb hlist hgate hmark hid hgen
    exact ⟨fun hstats hback => lopen_completes hc hop hback
        (lopenRes_opens hphase hread hlcb hlist hgate hmark hid hgen hstats hback),
      fun hmode hrecord hkey hstream => lopen_completes_withStats hc hop
        (lopenRes_takesStats hphase hread hlcb hlist hgate hmark hid hgen hmode hrecord hkey hstream)⟩
  case passesClean =>
    intro p r qs hsoft hlatent hwalk hrows ks us htokens
    obtain ⟨u, hkeys, hviewU⟩ := withKeys_reads hlatent hwalk
    obtain ⟨v, hscores, hviewV⟩ := withScores_reads hviewU hlatent htokens hrows
    refine ⟨fun hop hphase hstream hstats => ⟨fun hre => ?_, fun hre hout hfit hfree => ?_⟩,
      fun t hop hphase hnot hstream hre ht hshape hvalues => ?_⟩
    · exact ⟨v, runInsn_next hc (isOp_of hop) (lscoreRes_recompute hphase hstream hstats hsoft hkeys hscores hre),
        hviewV.mem, hviewV.tasks⟩
    · refine ⟨_, runInsn_next hc (isOp_of hop) (lscoreRes_spills (w := v) hphase hstream hstats hsoft hkeys hscores hre hout hfit
        (writeGate_freely ?_)), ?_⟩
      · simpa only [hviewV.writesFreely, List.map_map, Function.comp_def, clean_length] using hfree
      · obtain ⟨-, -, htasks⟩ := taskWrite_frame v c.t c.isl _
        exact htasks.trans hviewV.tasks
    · obtain ⟨w, hvals, hviewW⟩ := withTokens_reads hviewV hlatent hvalues
      exact ⟨w, runInsn_useTile hc hop (lpvRes_pass2 ht hshape hsoft hkeys hvals hnot (.again (.inl hphase) hstream hre hscores)),
        hviewW.mem, hviewW.tasks⟩
  case lscore =>
    intro p r u v ks us hop hphase hstream hstats hsoft hkeys hscores
    exact ⟨fun hre => runInsn_next hc (isOp_of hop) (lscoreRes_recompute hphase hstream hstats hsoft hkeys hscores hre),
      fun w hre hout hfit hgate => runInsn_next hc (isOp_of hop)
        (lscoreRes_spills hphase hstream hstats hsoft hkeys hscores hre hout hfit hgate)⟩
  case lpv =>
    intro t p r u v w ks us vals hop ht hshape hsoft hkeys hvals
    refine ⟨fun hphase hnot hmode => ⟨fun hre hscores => ?_, fun hre hscores => ?_⟩, fun hphase hmode hnot hscores => ?_,
      fun hphase hmode hstream hfp hscores => ?_⟩
    · exact runInsn_useTile hc hop (lpvRes_pass2 ht hshape hsoft hkeys hvals hnot (.spilled hphase hmode hre hscores))
    · exact runInsn_useTile hc hop (lpvRes_pass2 ht hshape hsoft hkeys hvals hnot (.again hphase hmode hre hscores))
    · exact runInsn_useTile hc hop (lpvRes_pass2 ht hshape hsoft hkeys hvals hnot (.both hphase hmode hscores))
    · exact runInsn_useTile hc hop (lpvRes_stream ht hshape hsoft hkeys hvals hphase hmode hstream hfp hscores)
  case lstats =>
    intro hop hflag hphase
    exact ⟨fun htakes => lstats_completes hc hop hflag hphase (stores_pad htakes s),
      fun u hstore => lstats_completes hc hop hflag hphase hstore⟩
  case combine =>
    intro b hop hflag hphase recs h out hmatch
    exact ⟨fun hpad htakes =>
        lstatsCombine_completes hc hop hflag hphase hmatch (fetches_pad hpad s) (stores_pad htakes s),
      fun u v hread hstore => lstatsCombine_completes hc hop hflag hphase hmatch hread hstore⟩
  case lbackClean =>
    intro p r hop hphase hsoft hlatent left n hwalk ks mine q'
    obtain ⟨u, hblock, hviewU⟩ := withBlock_reads hlatent hwalk
    refine ⟨fun hnone => ⟨u, runInsn_next hc (isOp_of hop) (lbackRes_empty hphase hsoft hblock hnone), hviewU.mem, hviewU.tasks⟩, ?_⟩
    intro qs dos ds hsome hopa hvalues htokens hrows hdos hds hag puts hfit
    obtain ⟨v, hvals, hviewV⟩ := withTokens_reads hviewU hlatent hvalues
    obtain ⟨w, hscores, hviewW⟩ := withScores_reads hviewV hlatent htokens hrows
    exact ⟨w, runInsn_next hc (isOp_of hop) (lbackRes_stores hphase hsoft hblock hsome hvals hdos hds (.inl ⟨hopa, hscores⟩)
      (putPieces_pad hag hfit)), hviewW.mem, hviewW.tasks⟩
  case lback =>
    intro p r u v w x mine q' vals dos us ds hop hphase hsoft hblock
    refine ⟨fun hnone => runInsn_next hc (isOp_of hop) (lbackRes_empty hphase hsoft hblock hnone), ?_⟩
    intro hsome hvals hdos hds hscores o hag hout ws hgate
    exact runInsn_next hc (isOp_of hop)
      (lbackRes_stores hphase hsoft hblock hsome hvals hdos hds hscores (putPieces_operand hag hout hgate))

end Sys2Proof.Machine
end

section
/-!
What the reads and writes of domain ranges by commands leave alone: the domains themselves (R68 to R71); and the frame of a
structure that a domain already holds (R77, R81).
-/
namespace Sys2Proof.Machine

/-! ### The domains under reads and writes of DRAM -/

theorem eccCorrect_doms (s : State) (b : Nat) (scrub : Bool) : (eccCorrect s b scrub).doms = s.doms := by
  simp only [eccCorrect]
  split
  · split <;> simp
  · rfl

theorem eccPoison_doms (s : State) (b : Nat) : (eccPoison s b).doms = s.doms := by
  simp only [eccPoison]
  split <;> simp

/-- An error that the read of a beat meets is counted, logged and raised; the domains are as before (R68, R69). -/
theorem touchBeat_doms (scrub : Bool) (s : State) (b : Nat) : (touchBeat scrub s b).doms = s.doms := by
  simp only [touchBeat]
  split
  · rfl
  · exact eccCorrect_doms s b scrub
  · exact eccPoison_doms s b
  · split
    · exact eccPoison_doms _ b
    · split
      · exact (eccCorrect_doms _ b scrub).trans (foldl_keep State.doms _ (fun _ _ => by rfl) _ _)
      · rfl

theorem touch_doms (s : State) (pa n : Nat) : (touch s pa n).doms = s.doms := by
  refine (foldl_keep State.doms (touchBeat false) (touchBeat_doms false) _ _).trans ?_
  split <;> rfl

theorem dramWrite_doms (s : State) (pa : Nat) (data : List MByte) : (dramWrite s pa data).doms = s.doms :=
  foldl_keep State.doms (touchBeat false) (touchBeat_doms false) _ s

theorem vaWrite_doms (s : State) (d : Nat) (tag : Option Nat) (va : Nat) (data : List MByte) :
    (vaWrite s d tag va data).doms = s.doms := by
  unfold vaWrite
  refine foldl_keep State.doms _ (fun s x => ?_) _ s
  dsimp only
  split
  · split
    · rfl
    · exact dramWrite_doms s _ _
  · rfl

theorem vaFetch_doms (s : State) (d va n : Nat) : (vaFetch s d va n).1.doms = s.doms := by
  unfold vaFetch
  split
  · rfl
  · extract_lets t b
    have ht : t.doms = s.doms := foldl_keep State.doms _ (fun s x => by
      dsimp only
      split
      · split
        · rfl
        · exact touch_doms s _ _
      · rfl) _ s
    split <;> exact ht

theorem domAt_vaFetch {s u : State} {d va n : Nat} {r : Except Status (List Byte)} (h : vaFetch s d va n = (u, r)) :
    domAt u d = domAt s d := by
  have hdoms := vaFetch_doms s d va n
  rw [h] at hdoms
  rw [domAt, hdoms, domAt]

@[simp] theorem domAt_complete (s : State) (src : Src) (st : Status) (r d : Nat) : domAt (complete src st r s) d = domAt s d := by
  rw [domAt, complete_doms, domAt]

/-- A domain whose update accepts setup is as the update made it, whatever the table's form. -/
theorem domAt_modDom {s : State} {d : Nat} {f : Dom → Dom} (h : (f (domAt s d)).st ∈ setupStates) :
    domAt (modDom s d f) d = f (domAt s d) := domAt_setDom s d (dom_ne_default h)

/-! ### Frames of structures -/

theorem ensureStruct_held {s : State} {d : Nat} {k : StructKind}
    (h : (domAt s d).frames.any (fun e => decide (e.2 = k)) = true) (n : Nat) : ensureStruct s d k n = some s := if_pos h

end Sys2Proof.Machine
end

section
/-! CREATE_LIST, EDIT_LIST, DESTROY_LIST and LIST_RECLAIMED (R263, R264, R266). -/
namespace Sys2Proof.Machine

/-! ### The list directory -/

/-- What supersedes the current generation of a list leaves none in force (R264, R266). -/
theorem currentList_supersede {s : State} {d : Nat} (hst : (domAt s d).st ∈ setupStates) (id : Nat) :
    currentList (supersede s d id) d id = none := by
  rw [currentList, supersede, domAt_modDom hst, List.find?_eq_none]
  intro g hg
  obtain ⟨g', -, rfl⟩ := List.mem_map.1 hg
  split
  · simp
  · rename_i hother
    simpa using hother

theorem supersede_dom {s : State} {d : Nat} (hst : (domAt s d).st ∈ setupStates) (id : Nat) :
    ∃ l, domAt (supersede s d id) d = { domAt s d with lists := l } := ⟨_, domAt_modDom hst⟩

/-- The state after the current generation of a list has ended under the next sequence number (R263, R266). -/
def listEnded (s : State) (d id : Nat) : State := modDom (supersede s d id) d (fun x => { x with listSeq := x.listSeq + 1 })

theorem listEnded_effect {s : State} {d : Nat} (hst : (domAt s d).st ∈ setupStates) (id : Nat) :
    currentList (listEnded s d id) d id = none ∧ (domAt (listEnded s d id) d).listSeq = (domAt s d).listSeq + 1 := by
  obtain ⟨l, hsuper⟩ := supersede_dom hst id
  have hends : domAt (listEnded s d id) d = { domAt (supersede s d id) d with listSeq := (domAt s d).listSeq + 1 } := by
    rw [listEnded, domAt_modDom (by rw [hsuper]; exact hst), hsuper]
  constructor
  · rw [currentList, hends]
    exact currentList_supersede hst id
  · rw [hends]

/-- A generation is published under the domain's next sequence number (R264). -/
theorem publish_listSeq {s : State} {d : Nat} (hst : (domAt s d).st ∈ setupStates) (id gen va : Nat) (es : List Nat) :
    (domAt (publish s d id gen va es) d).listSeq = (domAt s d).listSeq + 1 := by
  have hwrite : ∀ data, domAt (vaWrite s d none va data) d = domAt s d := fun data => by rw [domAt, vaWrite_doms, domAt]
  rw [publish, domAt_modDom (by rw [hwrite]; exact hst), hwrite]

/-! ### The commands -/

section Setup
variable {h : Hdr} {s : State} {d : Nat} (hdom : domOfVf s h.vf = some d) (hst : (domAt s d).st ∈ setupStates)
include hdom hst

/-- CREATE_LIST of a new id from well-formed entries into a fit body publishes generation 1 (R263). -/
theorem createList_publishes {id n : BitVec 32} {src body : BitVec 64} {u w : State} {b : List Byte}
    (hroom : listCount s d < 65536) (hn : n.toNat ≤ 16384) (hnew : currentList s d id.toNat = none)
    (hfetch : vaFetch s d src.toNat (8 * n.toNat) = (u, .ok b)) (hfine : (words8 b n.toNat).all entryFine = true)
    (hbody : bodyOk u d body.toNat n.toNat = true) (hframe : ensureStruct u d .lists 1 = some w) :
    exec (.createList h id n src body) s = .next (complete (srcOf h) .success 0
      (publish w d id.toNat 1 body.toNat (words8 b n.toNat))) := by
  change (.next (doCreateList (srcOf h) id.toNat n.toNat src.toNat body.toNat s) : Outcome) = _
  have hfree : ¬ (65536 ≤ listCount s d ∨ (currentList s d id.toNat).isSome = true) := by
    rw [hnew]
    rintro (hfull | hused)
    · omega
    · cases hused
  rw [doCreateList, ringCmd_accepted (src := srcOf h) hdom hst, if_neg hfree, if_neg (by omega)]
  simp only [hfetch, hfine, hbody, hframe, Bool.not_true, Bool.or_self, Bool.false_eq_true, if_false, succeed]

/-- EDIT_LIST of the current generation publishes the edited entries as the next one and reports it (R264). -/
theorem editList_publishes {id base n : BitVec 32} {body edit : BitVec 64} {u w : State} {g : ListGen} {old recs : List Byte}
    {es : List Nat} (hcur : currentList s d id.toNat = some g) (hgen : g.gen = base.toNat)
    (hold : vaFetch s d (g.body + 64) (8 * g.entries) = (u, .ok old))
    (hrecs : vaFetch u d edit.toNat (16 * n.toNat) = (w, .ok recs))
    (hedit : editAll ((List.range n.toNat).map (fun i => slice recs (16 * i) 16)) (words8 old g.entries) = some es)
    (hbody : bodyOk w d body.toNat es.length = true) :
    exec (.editList h id base body edit n) s = .next (complete (srcOf h) .success (wrap32 (base.toNat + 1))
      (publish (supersede w d id.toNat) d id.toNat (wrap32 (base.toNat + 1)) body.toNat es)) := by
  change (.next (doEditList (srcOf h) id.toNat base.toNat body.toNat edit.toNat n.toNat s) : Outcome) = _
  rw [doEditList, ringCmd_accepted (src := srcOf h) hdom hst]
  simp only [hcur, if_neg (not_not_intro hgen), hold, hrecs, hedit, hbody, Bool.not_true, Bool.false_eq_true, if_false]

theorem destroyList_ends {id : BitVec 32} {g : ListGen} (hcur : currentList s d id.toNat = some g) :
    exec (.destroyList h id) s = .next (succeed (srcOf h) (listEnded s d id.toNat)) := by
  change (.next (doDestroyList (srcOf h) id.toNat s) : Outcome) = _
  rw [doDestroyList, ringCmd_accepted (src := srcOf h) hdom hst]
  simp only [hcur, listEnded]

end Setup

/-- LIST_RECLAIMED takes out the generations of that body that nothing may use, and reports the body (R266). -/
theorem listReclaimed_informs {d : Fin 16} {body : BitVec 64} {s : State}
    (hdone : (domAt s d).lists.any (fun g => g.body == body.toNat && g.until_.isSome && g.tags.isEmpty) = true) :
    exec (.listReclaimed d body) s = .next (inform d .listReclaimed body.toNat (modDom s d (fun x =>
      { x with lists := x.lists.filter (fun g => !(g.body == body.toNat && g.until_.isSome && g.tags.isEmpty)) }))) := by
  change execListReclaimed d body s = _
  rw [execListReclaimed, if_pos hdone]

/-- Settles O17: each command by its own lemma, the forms on the state alone by what a clean read gives. -/
theorem listsArePublished : Obligations.ListsArePublished := by
  refine ⟨?creates, ?createsClean, ?editsClean, ?edits, ?destroys, fun _ _ _ => listReclaimed_informs⟩
  case creates =>
    intro h id n src body s u w d b hdom hst hroom hn hnew hfetch hfine hbody hframe
    exact createList_publishes hdom hst hroom hn hnew hfetch hfine hbody hframe
  case createsClean =>
    intro h id n src body s d hdom hst hroom hn hnew hclean hfine hbody hheld
    exact createList_publishes hdom hst hroom hn hnew (vaFetch_of_readsClean hclean) hfine hbody (ensureStruct_held hheld 1)
  case editsClean =>
    intro h id base n body edit s d g es hdom hst hcur hgen hold hrecs hedit hbody
    refine ⟨_, editList_publishes hdom hst hcur hgen (vaFetch_of_readsClean hold) (vaFetch_of_readsClean hrecs) hedit hbody, ?_⟩
    obtain ⟨l, hsuper⟩ := supersede_dom hst id.toNat
    rw [domAt_complete, publish_listSeq (by rw [hsuper]; exact hst), hsuper]
  case edits =>
    intro h id base n body edit s u w d g old recs es hdom hst hcur hgen hold hrecs hedit hbody
    exact editList_publishes hdom hst hcur hgen hold hrecs hedit hbody
  case destroys =>
    intro h id s d g hdom hst hcur
    obtain ⟨hnone, hseq⟩ := listEnded_effect hst id.toNat
    refine ⟨_, destroyList_ends hdom hst hcur, ?_, ?_, succeed_mem _ _⟩
    · rw [currentList, domAt_succeed]
      exact hnone
    · rw [domAt_succeed, hseq]

end Sys2Proof.Machine
end

section
/-! PREFIX_INSERT of a root block, PREFIX_LOOKUP and PREFIX_RELEASE (R282, R283, R284). -/
namespace Sys2Proof.Machine

/-! ### The lowest free number -/

/-- A search that finds nothing free has met only used numbers, up to its bound or its fuel. -/
theorem used_of_lowestFree_none {used : List Nat} {base n fuel i : Nat} (h : lowestFree used base n fuel i = none) {j : Nat}
    (hij : i ≤ j) (hn : j < n) (hj : j < i + fuel) : base + j ∈ used := by
  induction fuel generalizing i with
  | zero => omega
  | succ fuel ih =>
    rw [lowestFree, if_neg (by omega)] at h
    split at h
    · rename_i hused
      rcases Nat.eq_or_lt_of_le hij with rfl | hlt
      · exact List.contains_iff_mem.1 hused
      · exact ih h hlt (by omega)
    · cases h

/-- Of `n` numbers one is free when fewer are used. -/
theorem lowestFree_of_length_lt {used : List Nat} {n : Nat} (h : used.length < n) (base : Nat) :
    ∃ k, lowestFree used base n (used.length + 1) 0 = some k := by
  refine Option.ne_none_iff_exists'.1 fun hnone => ?_
  have hall : List.range' base (used.length + 1) ⊆ used := fun x hx => by
    obtain ⟨hlo, hhi⟩ := List.mem_range'_1.1 hx
    have hused := used_of_lowestFree_none hnone (Nat.zero_le (x - base)) (by omega) (by omega)
    rwa [Nat.add_sub_cancel' hlo] at hused
  have hle := List.Nodup.length_le_of_subset List.nodup_range' hall
  rw [List.length_range'] at hle
  omega

/-! ### Empty ranges, and a new node -/

theorem piecesOf_zero (a : Nat) : piecesOf a 0 = [] := by simp [piecesOf, pieces]

theorem vaFault_zero (s : State) (d : Nat) (tag : Option Nat) (va : Nat) : vaFault s d tag va 0 = none := by
  rw [vaFault, piecesOf_zero, List.findSome?_nil]

theorem vaWrite_nil (s : State) (d : Nat) (tag : Option Nat) (va : Nat) : vaWrite s d tag va [] = s := by
  rw [vaWrite, List.length_nil, piecesOf_zero, List.foldl_nil]

/-- The nodes with a new one at the end. -/
def addNode (s : State) (d : Nat) (n : PrefixNode) : State := modDom s d (fun x => { x with nodes := x.nodes ++ [n] })

/-- The nodes with one reference less for each number named. -/
def dropRefs (ids : List Nat) (ns : List PrefixNode) : List PrefixNode :=
  ids.foldl (fun ns id => ns.map (fun n => if n.id = id then { n with refs := n.refs - 1 } else n)) ns

/-- The nodes after a release of those named, pruned where FLAGS is 1 (R283). -/
def releasedNodes (ids : List Nat) (flags : Nat) (ns : List PrefixNode) : List PrefixNode :=
  if flags = 1 then pruneNodes ids (dropRefs ids ns).length (dropRefs ids ns) else dropRefs ids ns

section Setup
variable {h : Hdr} {s : State} {d : Nat} (hdom : domOfVf s h.vf = some d) (hst : (domAt s d).st ∈ setupStates)
include hdom hst

/-! ### PREFIX_INSERT -/

section Insert
variable {root ids table : BitVec 64} {u : State} {b : List Byte} (hids : sealedFault s d ids.toNat 512 = none)
  (htable : sealedFault s d table.toNat 1 = none) (hfetch : vaFetch s d ids.toNat 512 = (u, .ok b))
include hids htable hfetch

theorem prefixInsert_hits {n : PrefixNode} (hfind : findNode u d none (blockHash root.toNat b) b = some n) :
    exec (.prefixInsert h root 0xFFFFFFFF ids table) s = .next (complete (srcOf h) .success n.id (takeRef u d n.id)) := by
  change (.next (doPrefixInsert (srcOf h) root.toNat 0xFFFFFFFF ids.toNat table.toNat s) : Outcome) = _
  rw [doPrefixInsert, ringCmd_accepted (src := srcOf h) hdom hst]
  simp only [if_true, hids, htable, hfetch, hfind]

theorem prefixInsert_adds {id : Nat} {w : State} (hfind : findNode u d none (blockHash root.toNat b) b = none)
    (hfree : lowestFree ((domAt u d).nodes.map PrefixNode.id) 0 262144 ((domAt u d).nodes.length + 1) 0 = some id)
    (hframe : ensureStruct u d .prefixes 1 = some w) :
    exec (.prefixInsert h root 0xFFFFFFFF ids table) s = .next (complete (srcOf h) .success id
      (addNode w d ⟨id, blockHash root.toNat b, none, ids.toNat, table.toNat, 1⟩)) := by
  change (.next (doPrefixInsert (srcOf h) root.toNat 0xFFFFFFFF ids.toNat table.toNat s) : Outcome) = _
  rw [doPrefixInsert, ringCmd_accepted (src := srcOf h) hdom hst]
  simp only [if_true, hids, htable, hfetch, hfind, hfree, hframe, addNode]

end Insert

/-! ### PREFIX_LOOKUP -/

/-- The chain that a lookup hits is written at OUT, once a reference is taken on each of its nodes (R284). -/
theorem prefixLookup_writes {root ids out : BitVec 64} {n : BitVec 32} {u : State} {hits : List PrefixNode} {b : List Byte}
    (hgo : lookupGo d ids.toNat n.toNat 0 root.toNat none s = (u, .ok hits))
    (hb : hits.flatMap (fun n => leBytes 4 n.id ++ leBytes 4 0 ++ leBytes 8 n.tableVa) = b)
    (hfault : vaFault u d none out.toNat b.length = none)
    (hplace : ∀ x ∈ piecesOf out.toNat b.length, ∀ p, xlat u d none x.1 = .ok p → p.tier = .t1 ∧ p.sealed = false) :
    exec (.prefixLookup h root n ids out) s = .next (complete (srcOf h) .success hits.length
      (vaWrite (hits.foldl (fun s n => takeRef s d n.id) u) d none out.toNat (clean b))) := by
  change (.next (doPrefixLookup (srcOf h) root.toNat n.toNat ids.toNat out.toNat s) : Outcome) = _
  rw [doPrefixLookup, ringCmd_accepted (src := srcOf h) hdom hst]
  simp only [hgo, hb, hfault]
  rw [if_neg]
  · rfl
  · intro hbad
    obtain ⟨x, hx, hbad⟩ := List.any_eq_true.1 hbad
    split at hbad
    · rename_i p hp
      obtain ⟨htier, hsealed⟩ := hplace x hx p hp
      simp [htier, hsealed] at hbad
    · cases hbad

/-! ### PREFIX_RELEASE -/

theorem prefixRelease_releases {list : BitVec 64} {n : BitVec 32} {f : BitVec 8} {u : State} {b : List Byte} (hf : f.toNat < 2)
    (hfetch : vaFetch s d list.toNat (4 * n.toNat) = (u, .ok b)) :
    exec (.prefixRelease h list n f) s = .next (succeed (srcOf h) (modDom u d (fun x =>
      { x with nodes := releasedNodes ((List.range n.toNat).map (fun i => leAt b (4 * i) 4)) f.toNat x.nodes }))) := by
  change (.next (doPrefixRelease (srcOf h) list.toNat n.toNat f.toNat s) : Outcome) = _
  rw [doPrefixRelease, ringCmd_accepted (src := srcOf h) hdom hst, if_neg (by omega)]
  simp only [hfetch, releasedNodes, dropRefs]

end Setup

/-- Settles O18: each command by its own lemma; a clean insert finds a free number among fewer than 262,144 nodes. -/
theorem prefixIndexCommands : Obligations.PrefixIndexCommands := by
  intro h s d hdom hst
  refine ⟨?inserts, ?insertsClean, ?misses, ?releasesClean, ?hits, ?releases⟩
  case inserts =>
    intro root ids table u b hids htable hfetch hash
    exact ⟨fun n hfind => prefixInsert_hits hdom hst hids htable hfetch hfind,
      fun id w hfind hfree hframe => prefixInsert_adds hdom hst hids htable hfetch hfind hfree hframe⟩
  case insertsClean =>
    intro root ids table hids htable hclean hroom hheld
    have hfetch := vaFetch_of_readsClean hclean
    match hfind : findNode s d none (blockHash root.toNat (plain (Safety.rangeBytes s d ids.toNat 512)))
        (plain (Safety.rangeBytes s d ids.toNat 512)) with
    | some n => exact ⟨_, prefixInsert_hits hdom hst hids htable hfetch hfind, complete_mem .., nofun⟩
    | none =>
      obtain ⟨id, hfree⟩ := lowestFree_of_length_lt (used := (domAt s d).nodes.map PrefixNode.id) (by simpa using hroom) 0
      rw [List.length_map] at hfree
      refine ⟨_, prefixInsert_adds hdom hst hids htable hfetch hfind hfree (ensureStruct_held hheld 1), complete_mem ..,
        fun _ => ?_⟩
      rw [domAt_complete, addNode, domAt_modDom hst, List.length_append, List.length_singleton]
  case misses =>
    intro root ids out hclean hfind
    have hgo : lookupGo d ids.toNat 1 0 root.toNat none s = (s, .ok []) := by
      simp only [lookupGo, Nat.mul_zero, Nat.add_zero, vaFetch_of_readsClean hclean, hfind]
    have hrun := prefixLookup_writes (n := 1) (out := out) (b := []) hdom hst hgo rfl (vaFault_zero s d none out.toNat)
      (by rw [List.length_nil, piecesOf_zero]; nofun)
    rw [hrun, clean, List.map_nil, vaWrite_nil, List.foldl_nil, List.length_nil]
  case releasesClean =>
    intro list n f hf hclean
    exact ⟨_, prefixRelease_releases hdom hst hf (vaFetch_of_readsClean hclean), succeed_mem ..⟩
  case hits =>
    intro root ids out n u hits hgo b hfault hplace
    exact prefixLookup_writes hdom hst hgo rfl hfault hplace
  case releases =>
    intro list n f u b hf hfetch
    refine ⟨_, prefixRelease_releases hdom hst hf hfetch, succeed_mem .., ?_⟩
    rw [domAt_succeed, domAt_modDom (by rw [domAt_vaFetch hfetch]; exact hst)]
    rfl

end Sys2Proof.Machine
end

section
/-!
Codec channels under the operations that the codec's commands share: entries of the channel table, completion records, the
closing of a channel (R317, R345, R346), and what the reads and writes of domain ranges leave alone (R68 to R71).
-/
namespace Sys2Proof.Machine

/-! ### The channel table -/

/-- A channel that is not closed, or that codes a frame, is not the empty one. -/
theorem chan_ne_default {x : CodChan} (h : x.st ≠ .closed ∨ x.frame ≠ none) : x ≠ {} := by
  rintro rfl
  exact h.elim (fun hst => hst rfl) (fun hframe => hframe rfl)

/-- A channel that is not the empty one is listed as it was set, whatever the table's form. -/
theorem codAt_setCod_self (s : State) (c : Nat) {x : CodChan} (h : x ≠ {}) : codAt (setCod s c x) c = x :=
  sparseGet_set_self ({} : CodChan) s.codec.chans c h

theorem codAt_setCod_ne (s : State) {c k : Nat} (x : CodChan) (h : k ≠ c) : codAt (setCod s c x) k = codAt s k :=
  sparseGet_set_ne ({} : CodChan) s.codec.chans x h

/-- In a table in its form every channel, the empty one too, is listed as it was set. -/
theorem codAt_setCod_wf {s : State} (hwf : sparseWf {} s.codec.chans = true) (c : Nat) (x : CodChan) :
    codAt (setCod s c x) c = x := (sparseGet_set ({} : CodChan) s.codec.chans hwf c c x).trans (if_pos rfl)

theorem setCod_chans_wf {s : State} (hwf : sparseWf {} s.codec.chans = true) (c : Nat) (x : CodChan) :
    sparseWf {} (setCod s c x).codec.chans = true := sparseWf_set ({} : CodChan) s.codec.chans c x hwf

theorem codAt_of_codec {s u : State} (h : u.codec = s.codec) (c : Nat) : codAt u c = codAt s c := by rw [codAt, h, codAt]

theorem domAt_of_doms {s u : State} (h : u.doms = s.doms) (d : Nat) : domAt u d = domAt s d := by rw [domAt, h, domAt]

theorem chanOpen_iff {s : State} {d c : Nat} {enc : Bool} :
    chanOpen s d c enc = true ↔ c < 48 ∧ isEnc c = enc ∧ (codAt s c).st = .open_ ∧ (codAt s c).dom = d := by
  simp [chanOpen, and_assoc]

/-! ### Completion records -/

/-- From `s` to `u` completion records and messages went out, and nothing else changed (R435 to R437). -/
def OnlyRecords (s u : State) : Prop := ∃ f m q, u = { s with vfs := f, host := m, sent := q }

namespace OnlyRecords

theorem refl (s : State) : OnlyRecords s s := ⟨s.vfs, s.host, s.sent, rfl⟩

theorem trans {s t u : State} (h : OnlyRecords s t) (k : OnlyRecords t u) : OnlyRecords s u := by
  obtain ⟨f, m, q, rfl⟩ := h
  obtain ⟨f', m', q', rfl⟩ := k
  exact ⟨f', m', q', rfl⟩

theorem foldl {α : Type} {f : State → α → State} (hf : ∀ s a, OnlyRecords s (f s a)) (l : List α) (s : State) :
    OnlyRecords s (l.foldl f s) := by
  induction l generalizing s with
  | nil => exact refl s
  | cons a l ih => exact (hf s a).trans (ih _)

variable {s u : State} (h : OnlyRecords s u)
include h

theorem codec : u.codec = s.codec := by obtain ⟨f, m, q, rfl⟩ := h; rfl
theorem doms : u.doms = s.doms := by obtain ⟨f, m, q, rfl⟩ := h; rfl
theorem mem : u.mem = s.mem := by obtain ⟨f, m, q, rfl⟩ := h; rfl
theorem sems : u.sems = s.sems := by obtain ⟨f, m, q, rfl⟩ := h; rfl
theorem codAt (c : Nat) : codAt u c = Machine.codAt s c := codAt_of_codec h.codec c

end OnlyRecords

theorem complete_onlyRecords (src : Src) (st : Status) (r : Nat) (s : State) : OnlyRecords s (complete src st r s) :=
  complete_frame src st r s

theorem codRecords_onlyRecords (s : State) (src : Src) (c : Nat) (st : Status) (w b u q m f n : Nat) :
    OnlyRecords s (codRecords s src c st w b u q m f n) :=
  OnlyRecords.trans (cplDeliver_frame s _ _ _) (cplDeliver_frame _ _ _ _)

theorem codDiscard_onlyRecords (st : Status) (c : Nat) (s : State) (q : CodReq) : OnlyRecords s (codDiscard st c s q) := by
  unfold codDiscard
  split
  · exact codRecords_onlyRecords ..
  · exact complete_onlyRecords ..

/-! ### Closing -/

/-- A channel that closes is shut once the records of what it held are out (R317, R345). -/
theorem closeChan_shuts (s : State) (c : Nat) (st : Status) :
    ∃ t, OnlyRecords s t ∧ closeChan s c st = setCod t c (shut (codAt s c)) := by
  refine ⟨_, ?_, rfl⟩
  have hqueue := OnlyRecords.foldl (codDiscard_onlyRecords st c) (codAt s c).queue s
  have hmarks := hqueue.trans (OnlyRecords.foldl (fun s (m : MarkCmd) => complete_onlyRecords m.src .channelClosed 0 s)
    (codAt s c).marks _)
  split
  · exact hmarks.trans (complete_onlyRecords ..)
  · exact hmarks

theorem closeChan_mem (s : State) (c : Nat) (st : Status) : (closeChan s c st).mem = s.mem := by
  obtain ⟨t, ht, heq⟩ := closeChan_shuts s c st
  rw [heq, setCod_mem, ht.mem]

theorem codAt_closeChan {s : State} (hwf : sparseWf {} s.codec.chans = true) (c : Nat) (st : Status) :
    codAt (closeChan s c st) c = shut (codAt s c) := by
  obtain ⟨t, ht, heq⟩ := closeChan_shuts s c st
  rw [heq, codAt_setCod_wf (by rw [ht.codec]; exact hwf)]

section Settle
variable {s : State} {c : Nat}

/-- A closing channel with no frame in progress and nothing queued is at its boundary, and closes. -/
theorem settleChan_closes (hst : (codAt s c).st = .closing) (hframe : (codAt s c).frame = none)
    (hqueue : (codAt s c).queue = []) : settleChan s c = closeChan s c .channelClosed := by
  simp [settleChan, hst, hframe, hqueue]

/-- During a frame no channel closes. -/
theorem settleChan_of_frame (hframe : (codAt s c).frame.isSome = true) : settleChan s c = s := by
  have hsome : (codAt s c).frame ≠ none := Option.isSome_iff_ne_none.1 hframe
  simp [settleChan, hsome]

/-- A decode channel does not close before its units are done. -/
theorem settleChan_of_queue (hdec : isEnc c = false) (hqueue : (codAt s c).queue ≠ []) : settleChan s c = s := by
  simp [settleChan, hdec, hqueue]

/-- An open channel of an active domain stays open. -/
theorem settleChan_of_active (hst : (codAt s c).st = .open_) (hdom : (domAt s (codAt s c).dom).st = .active) :
    settleChan s c = s := by
  simp [settleChan, hst, hdom]

/-- A decode channel's queue is the same behind its boundary: it closes only when that is empty (R345). -/
theorem settleChan_queue (hwf : sparseWf {} s.codec.chans = true) (hdec : isEnc c = false) :
    (codAt (settleChan s c) c).queue = (codAt s c).queue := by
  by_cases hqueue : (codAt s c).queue = []
  · have hclosed : (codAt (closeChan s c .channelClosed) c).queue = (codAt s c).queue := by
      rw [codAt_closeChan hwf, hqueue]
      rfl
    simp only [settleChan]
    split
    · exact hclosed
    · split
      · exact hclosed
      · rfl
  · rw [settleChan_of_queue hdec hqueue]

end Settle

/-! ### What reads and writes of domain ranges leave alone -/

/-- A part of the state that is neither DRAM, its marks and errors, nor the count of free values, and that no error met on
the way changes (R68 to R71). -/
structure KeptByAccess {α : Type} (g : State → α) : Prop where
  correct : ∀ s b scrub, g (eccCorrect s b scrub) = g s
  poison : ∀ s b, g (eccPoison s b) = g s
  dram : ∀ (s : State) m l p n, g { s with mem := m, latent := l, poison := p, free := n } = g s

theorem codec_keptByAccess : KeptByAccess State.codec where
  correct s b scrub := by
    simp only [eccCorrect]
    split
    · split <;> simp
    · rfl
  poison s b := by
    simp only [eccPoison]
    split <;> simp
  dram _ _ _ _ _ := rfl

theorem doms_keptByAccess : KeptByAccess State.doms := ⟨eccCorrect_doms, eccPoison_doms, fun _ _ _ _ _ => rfl⟩

/-- A fold of operations on a state and a list of results that keep a part of the state keeps it. -/
theorem foldl_fst_keep {α β γ : Type} (g : State → α) (f : State × β → γ → State × β) (hf : ∀ a c, g (f a c).1 = g a.1)
    (l : List γ) (a : State × β) : g (l.foldl f a).1 = g a.1 := by
  induction l generalizing a with
  | nil => rfl
  | cons c l ih => exact (ih _).trans (hf a c)

namespace KeptByAccess
variable {α : Type} {g : State → α} (hg : KeptByAccess g)
include hg

theorem touchBeat (scrub : Bool) (s : State) (b : Nat) : g (touchBeat scrub s b) = g s := by
  have hfree : g (takeFree s) = g s := hg.dram s s.mem s.latent s.poison _
  simp only [Machine.touchBeat]
  split
  · rfl
  · exact hg.correct s b scrub
  · exact hg.poison s b
  · split
    · exact (hg.poison _ b).trans hfree
    · split
      · calc g (eccCorrect _ b scrub) = g _ := hg.correct _ b scrub
          _ = g (takeFree (takeFree s)) := foldl_keep g _ (fun s _ => hg.dram s _ s.latent s.poison s.free) _ _
          _ = g (takeFree s) := hg.dram (takeFree s) s.mem s.latent s.poison _
          _ = g s := hfree
      · exact hfree

theorem touch (s : State) (pa n : Nat) : g (touch s pa n) = g s := by
  refine (foldl_keep g (Machine.touchBeat false) (hg.touchBeat false) _ _).trans ?_
  split
  · exact hg.dram s s.mem s.latent s.poison s.free
  · rfl

theorem dramWrite (s : State) (pa : Nat) (data : List MByte) : g (dramWrite s pa data) = g s :=
  (hg.dram _ _ _ _ _).trans (foldl_keep g (Machine.touchBeat false) (hg.touchBeat false) _ s)

theorem vaWrite (s : State) (d : Nat) (tag : Option Nat) (va : Nat) (data : List MByte) : g (vaWrite s d tag va data) = g s := by
  unfold Machine.vaWrite
  refine foldl_keep g _ (fun s x => ?_) _ s
  dsimp only
  split
  · split
    · rfl
    · exact hg.dramWrite s _ _
  · rfl

theorem vaFetch (s : State) (d va n : Nat) : g (vaFetch s d va n).1 = g s := by
  unfold Machine.vaFetch
  split
  · rfl
  · extract_lets t b
    have ht : g t = g s := foldl_keep g _ (fun s x => by
      dsimp only
      split
      · split
        · rfl
        · exact hg.touch s _ _
      · rfl) _ s
    split <;> exact ht

/-- Reading the source of a unit, superblock by superblock (R320). -/
theorem fetchRows (s : State) (d : Nat) (rs : List (Nat × Nat)) : g (fetchRows s d rs).1 = g s := by
  refine foldl_fst_keep g _ (fun a r => ?_) rs (s, [])
  have hread := hg.vaFetch a.1 d r.1 r.2
  split <;> rename_i heq <;> rw [heq] at hread <;> exact hread

theorem fetchSb (s : State) (d : Nat) (c : EncCfg) (q : CodReq) (late : List Nat) (col row : Nat) :
    g (fetchSb s d c q late col row).1 = g s := (hg.fetchRows _ d _).trans (hg.fetchRows s d _)

theorem fetchUnit (s : State) (d : Nat) (c : EncCfg) (q : CodReq) (late : List Nat) (r0 r1 : Nat) :
    g (fetchUnit s d c q late r0 r1).1 = g s := by
  refine foldl_fst_keep g _ (fun a e => ?_) _ (s, ([] : List SbSource))
  exact hg.fetchSb a.1 d c q late e.1 e.2

theorem writeRows (s : State) (d : Nat) (rows : List (Nat × List Byte)) : g (writeRows s d rows) = g s := by
  unfold Machine.writeRows
  refine foldl_keep g _ (fun s r => ?_) rows s
  exact hg.vaWrite s d none r.1 _

theorem undefPicture (s : State) (x : CodChan) (q : CodReq) : g (undefPicture s x q) = g s := by
  unfold Machine.undefPicture
  generalize outRows q _ _ _ = rows
  exact (hg.dram (Machine.writeRows s x.dom rows) _ _ _ _).trans (hg.writeRows s x.dom rows)

end KeptByAccess

end Sys2Proof.Machine
end

section
/-!
ENC_OPEN, DEC_OPEN, FORCE_KEY, MARK, ACK, the closes and VIDEO_ALLOC_APPLY (R316 to R319, R338, R341, R344, R345).
-/
namespace Sys2Proof.Machine

/-- A channel as DEC_OPEN leaves it (R344). -/
def decOpened (d p std w t num den : Nat) : CodChan :=
  { st := .open_, dom := d, pipe := p, slots := slotsFor w t num den,
    cfg := { hevc := std == 1, width := w, height := t, fpsNum := num, fpsDen := den } }

section Commands
variable {h : Hdr} {s : State} {d : Nat} (hdom : domOfVf s h.vf = some d)
include hdom

/-! ### ENC_OPEN and DEC_OPEN -/

section Open
variable (hst : (domAt s d).st = .active)
include hst

/-- ACTIVE alone admits the commands that open channels and queue frames (R441). -/
theorem ringCmd_active (op : Nat) (k : Nat → State → State) : ringCmd (srcOf h) op [.active] k s = k d s :=
  ringCmd_accepted (src := srcOf h) hdom (List.mem_singleton.2 hst) op k

section EncOpen
variable {ch : BitVec 8} {va : BitVec 64} {u : State} {b : List Byte} {g : EncCfg} (hch : ch.toNat < 32 ∨ ch.toNat = 0xFF)
  (hva : va.toNat % 64 = 0) (hfetch : vaFetch s d va.toNat 64 = (u, .ok b)) (hread : readEncCfg u.conf.video d b = some g)
include hch hva hfetch hread

/-- The first ordered check that fails answers ENC_OPEN (R319). -/
theorem encOpen_refuses {e : Status} (hfault : encOpenFault u d g = some e) :
    exec (.encOpen h ch va) s = .next (refuse (srcOf h) e u) := by
  change (.next (doEncOpen (srcOf h) ch.toNat va.toNat s) : Outcome) = _
  rw [doEncOpen, ringCmd_active hdom hst]
  simp [hch, hva, hfetch, hread, hfault]

/-- With no check failing, ENC_OPEN opens the channel that it finds with the slots that it finds (R317 to R319). -/
theorem encOpen_opens {i p n : Nat} (hfault : encOpenFault u d g = none) (hfree : chanFor u ch.toNat 0 32 = some i)
    (hplace : slotPlace u d g = some (p, n)) :
    exec (.encOpen h ch va) s = .next (complete (srcOf h) .success i (setCod u i (encOpened d g p n))) := by
  change (.next (doEncOpen (srcOf h) ch.toNat va.toNat s) : Outcome) = _
  rw [doEncOpen, ringCmd_active hdom hst]
  simp [hch, hva, hfetch, hread, hfault, hfree, hplace]

end EncOpen

section DecOpen
variable {ch std : BitVec 8} {w t num den : BitVec 16}
  (hch : (32 ≤ ch.toNat ∧ ch.toNat < 48) ∨ ch.toNat = 0xFF) (hstd : std.toNat < 2) (hw : w.toNat ≠ 0) (ht : t.toNat ≠ 0)
  (hnum : num.toNat ≠ 0) (hden : den.toNat ≠ 0)
include hch hstd hw ht hnum hden

/-- A picture size and rate beyond the decoder's level (R344). -/
theorem decOpen_refuses (hlevel : Config.decLevelAdmits (std.toNat == 1) w.toNat t.toNat num.toNat den.toNat = false) :
    exec (.decOpen h ch std w t num den) s = .next (refuse (srcOf h) .levelExceeded s) := by
  change (.next (doDecOpen (srcOf h) ch.toNat std.toNat w.toNat t.toNat num.toNat den.toNat s) : Outcome) = _
  rw [doDecOpen, ringCmd_active hdom hst]
  simp [hch, Nat.not_le.2 hstd, hw, ht, hnum, hden, hlevel]

theorem decOpen_opens (hlevel : Config.decLevelAdmits (std.toNat == 1) w.toNat t.toNat num.toNat den.toNat = true)
    (hslots : slotsFor w.toNat t.toNat num.toNat den.toNat ≤ 4) {i p : Nat} (hfree : chanFor s ch.toNat 32 16 = some i)
    (hpipe : pipeFor s d (slotsFor w.toNat t.toNat num.toNat den.toNat) false = some p) :
    exec (.decOpen h ch std w t num den) s = .next (complete (srcOf h) .success i
      (setCod s i (decOpened d p std.toNat w.toNat t.toNat num.toNat den.toNat))) := by
  change (.next (doDecOpen (srcOf h) ch.toNat std.toNat w.toNat t.toNat num.toNat den.toNat s) : Outcome) = _
  rw [doDecOpen, ringCmd_active hdom hst]
  simp [hch, Nat.not_le.2 hstd, hw, ht, hnum, hden, hlevel, hslots, hfree, hpipe, decOpened]

end DecOpen
end Open

/-! ### FORCE_KEY, MARK and ACK -/

section OnChannel
variable (hst : (domAt s d).st ∈ chanStates) {ch : BitVec 8}
include hst

section Encode
variable (hopen : chanOpen s d ch.toNat true = true)
include hopen

theorem forceKey_remembers :
    exec (.forceKey h ch) s = .next (succeed (srcOf h) (modCod s ch.toNat (fun x => { x with forceKey := true }))) := by
  change (.next (doForceKey (srcOf h) ch.toNat s) : Outcome) = _
  rw [doForceKey, ringCmd_accepted (src := srcOf h) hdom hst]
  simp [hopen]

theorem mark_runs {m : BitVec 8} (hm : m.toNat = 0 ∨ m.toNat = 2) (n : BitVec 64) :
    exec (.mark h ch m n) s = .next (markOrWait s ch.toNat ⟨srcOf h, some m.toNat, n.toNat⟩) := by
  change (.next (doMark (srcOf h) ch.toNat m.toNat n.toNat s) : Outcome) = _
  rw [doMark, ringCmd_accepted (src := srcOf h) hdom hst]
  simp [hopen, hm]

theorem ack_runs (n : BitVec 64) :
    exec (.ack h ch n) s = .next (markOrWait s ch.toNat ⟨srcOf h, none, n.toNat⟩) := by
  change (.next (doAck (srcOf h) ch.toNat n.toNat s) : Outcome) = _
  rw [doAck, ringCmd_accepted (src := srcOf h) hdom hst]
  simp [hopen]

end Encode
end OnChannel
end Commands

section Mark
variable {s : State} {c : Nat}

/-- During a frame a MARK or an ACK waits (R338). -/
theorem markOrWait_waits (hframe : (codAt s c).frame.isSome = true) (m : MarkCmd) :
    markOrWait s c m = modCod s c (fun x => { x with marks := x.marks ++ [m] }) := by
  have hsome : (codAt s c).frame ≠ none := Option.isSome_iff_ne_none.1 hframe
  simp [markOrWait, hsome]

theorem markOrWait_acts (hframe : (codAt s c).frame = none) (m : MarkCmd) : markOrWait s c m = applyMark c s m := by
  simp [markOrWait, hframe]

section Held
variable {src : Src} {n k : Nat} (hheld : firstIdx (fun (b : RefBuf) => b.mark != 0 && b.frame == n) (codAt s c).bufs = some k)
include hheld

theorem applyMark_acks : applyMark c s ⟨src, none, n⟩ = succeed src (modCod s c (fun x =>
    { x with bufs := modAt x.bufs k (fun b => { b with acked := true }) })) := by
  simp [applyMark, hheld]

/-- A mark is set on the buffer that holds the frame: UNUSED always, LONG within the level's limit (R338, R339). -/
theorem applyMark_sets {m : Nat} (hm : m = 0 ∨ m = 2) (hlimit : m = 0 ∨ heldBufs (codAt s c).bufs ≤ refLimit (codAt s c).cfg) :
    applyMark c s ⟨src, some m, n⟩ = succeed src (modCod s c (fun x =>
      { x with bufs := modAt x.bufs k (fun b => { b with mark := m }) })) := by
  rcases hm with rfl | rfl
  · simp [applyMark, hheld]
  · have hle := hlimit.resolve_left (by decide)
    simp [applyMark, hheld, Nat.not_lt.2 hle]

end Held

section NotHeld
variable {src : Src} {n : Nat} (hnone : firstIdx (fun (b : RefBuf) => b.mark != 0 && b.frame == n) (codAt s c).bufs = none)
include hnone

/-- A frame that no buffer holds, and that no UNUSED mark finds as the last of an unused buffer, is MARK_BAD (R338). -/
theorem applyMark_bad {mark : Option Nat} (h : ¬ (mark = some 0 ∧ ∃ b ∈ (codAt s c).bufs, b.used = true ∧ b.frame = n)) :
    applyMark c s ⟨src, mark, n⟩ = complete src .markBad 0 s := by
  have hany : ¬ (mark = some 0 ∧ (codAt s c).bufs.any (fun (b : RefBuf) => b.used && b.frame == n) = true) := by
    simpa using h
  simp only [applyMark, hnone, if_neg hany]

/-- UNUSED on a buffer that is UNUSED already and held the frame last changes nothing (R338). -/
theorem applyMark_unused (h : ∃ b ∈ (codAt s c).bufs, b.used = true ∧ b.frame = n) :
    applyMark c s ⟨src, some 0, n⟩ = succeed src s := by
  simp only [applyMark, hnone]
  exact if_pos ⟨trivial, by simpa using h⟩

end NotHeld
end Mark

/-! ### The closes -/

section Closes
variable {h : Hdr} {s : State} {d : Nat} (hdom : domOfVf s h.vf = some d) (hst : (domAt s d).st ∈ chanStates) {ch : BitVec 8}

/-- A channel that a close has reached: closing, with what is left of its queue. -/
def closingChan (x : CodChan) (q : List CodReq) (src : Src) : CodChan := { x with queue := q, st := .closing, closeSrc := some src }

theorem closingChan_ne_default (x : CodChan) (q : List CodReq) (src : Src) : closingChan x q src ≠ {} :=
  chan_ne_default (.inl nofun)

include hdom hst

/-- ENC_CLOSE discards the queue, with records of its frames, and settles the channel (R317). -/
theorem encClose_settles (hopen : chanOpen s d ch.toNat true = true) : ∃ t, OnlyRecords s t ∧ exec (.encClose h ch) s =
    .next (settleChan (setCod t ch.toNat (closingChan (codAt s ch.toNat) [] (srcOf h))) ch.toNat) := by
  have ht := OnlyRecords.foldl (codDiscard_onlyRecords .channelClosed ch.toNat) (codAt s ch.toNat).queue s
  refine ⟨_, ht, ?_⟩
  change (.next (doEncClose (srcOf h) ch.toNat s) : Outcome) = _
  rw [doEncClose, ringCmd_accepted (src := srcOf h) hdom hst]
  simp [hopen, ht.codAt, closingChan]

/-- DEC_CLOSE discards what stands behind the units whose pictures wait, or the unit in progress, and settles the channel
(R345). -/
theorem decClose_settles (hopen : chanOpen s d ch.toNat false = true) : ∃ t, OnlyRecords s t ∧ exec (.decClose h ch) s =
    .next (settleChan (setCod t ch.toNat (closingChan (codAt s ch.toNat)
      ((codAt s ch.toNat).queue.take (max 1 (codAt s ch.toNat).ahead.length)) (srcOf h))) ch.toNat) := by
  have ht := OnlyRecords.foldl (codDiscard_onlyRecords .channelClosed ch.toNat)
    ((codAt s ch.toNat).queue.drop (max 1 (codAt s ch.toNat).ahead.length)) s
  refine ⟨_, ht, ?_⟩
  change (.next (doDecClose (srcOf h) ch.toNat s) : Outcome) = _
  rw [doDecClose, ringCmd_accepted (src := srcOf h) hdom hst]
  simp [hopen, ht.codAt, closingChan]

end Closes

/-- A channel that comes to its boundary in closing is closed there; DRAM is as it was. -/
theorem closing_closes {s t : State} (hwf : sparseWf {} s.codec.chans = true) (ht : OnlyRecords s t) (c : Nat) {x : CodChan}
    (src : Src) (hframe : x.frame = none) : let u := settleChan (setCod t c (closingChan x [] src)) c
    u.mem = s.mem ∧ codAt u c = shut (closingChan x [] src) := by
  have hx := codAt_setCod_self t c (closingChan_ne_default x [] src)
  have hwf' : sparseWf {} (setCod t c (closingChan x [] src)).codec.chans = true :=
    setCod_chans_wf (by rw [ht.codec]; exact hwf) c _
  intro u
  have hu : u = closeChan (setCod t c (closingChan x [] src)) c .channelClosed :=
    settleChan_closes (by rw [hx]; rfl) (by rw [hx]; exact hframe) (by rw [hx]; rfl)
  rw [hu, closeChan_mem, setCod_mem, ht.mem, codAt_closeChan hwf', hx]
  exact ⟨rfl, rfl⟩

/-- One that the close found in a frame, or with units whose pictures wait, stays in closing. -/
theorem closing_waits {s t : State} (ht : OnlyRecords s t) (c : Nat) {x : CodChan} {q : List CodReq} (src : Src)
    (hbusy : x.frame.isSome = true ∨ (isEnc c = false ∧ q ≠ [])) : let u := settleChan (setCod t c (closingChan x q src)) c
    u.mem = s.mem ∧ codAt u c = closingChan x q src := by
  have hx := codAt_setCod_self t c (closingChan_ne_default x q src)
  intro u
  have hu : u = setCod t c (closingChan x q src) := by
    rcases hbusy with hframe | ⟨hdec, hqueue⟩
    · exact settleChan_of_frame (by rw [hx]; exact hframe)
    · exact settleChan_of_queue hdec (by rw [hx]; exact hqueue)
  rw [hu, setCod_mem, ht.mem, hx]
  exact ⟨rfl, rfl⟩

/-! ### VIDEO_ALLOC_APPLY -/

theorem videoAllocApply_closes {ch : Fin 48} {s : State} {g : GroupState} (hcur : s.img.cur = some g) (hphase : g.phase ≠ .prepare)
    (hframe : (codAt s ch).frame = none) (hrevoked : revoked s g.target.video ch = true) :
    exec (.videoAllocApply ch) s = .next (raise (0x180 + ch.val)
      (closeChan (logE 1 .channelRevoked (some (0x180 + ch.val)) (codAt s ch).dom [] s) ch .channelRevoked)) := by
  change execVideoAllocApply ch s = _
  simp [execVideoAllocApply, leaving, hcur, hphase, hframe, hrevoked]

/-! ### The obligation -/

/-- Settles O32: each command by its own lemma; a close by whether it finds the channel at its boundary. -/
theorem channelsOpenMarkAndClose : Obligations.ChannelsOpenMarkAndClose := by
  refine ⟨fun h s d hdom hst => ⟨?encOpen, fun ch va g hch hva hclean hread => ⟨?encOpens, ?encRefuses⟩, ?decOpen⟩,
    fun h s d hdom hst => ⟨fun ch hopen => ⟨forceKey_remembers hdom hst hopen, fun m n hm => ⟨?waits, ?acts, ?bad⟩, ?encClose⟩,
      ?decClose⟩,
    fun ch s g => videoAllocApply_closes⟩
  case encOpen =>
    intro ch va u b g i p n hch hva hfetch hread hfree hplace
    cases hfault : encOpenFault u d g with
    | none => exact encOpen_opens hdom hst hch hva hfetch hread hfault hfree hplace
    | some e => exact encOpen_refuses hdom hst hch hva hfetch hread hfault
  case encOpens =>
    exact fun i p n hfree hplace hfault =>
      encOpen_opens hdom hst hch hva (vaFetch_of_readsClean hclean) hread hfault hfree hplace
  case encRefuses => exact fun e => encOpen_refuses hdom hst hch hva (vaFetch_of_readsClean hclean) hread
  case decOpen =>
    intro ch std w t num den i p hch hstd hw ht hnum hden hslots hfree hpipe
    split
    · rename_i hlevel
      have hne : decOpened d p std.toNat w.toNat t.toNat num.toNat den.toNat ≠ {} := chan_ne_default (.inl nofun)
      refine ⟨_, decOpen_opens hdom hst hch hstd hw ht hnum hden hlevel hslots hfree hpipe, complete_mem .., ?_⟩
      have hcod := (complete_onlyRecords (srcOf h) .success i
        (setCod s i (decOpened d p std.toNat w.toNat t.toNat num.toNat den.toNat))).codAt
      rw [hcod i, codAt_setCod_self s i hne]
      exact ⟨rfl, rfl, rfl, fun k hk => (hcod k).trans (codAt_setCod_ne s _ hk)⟩
    · rename_i hlevel
      exact ⟨_, decOpen_refuses hdom hst hch hstd hw ht hnum hden (eq_false_of_ne_true hlevel), refuse_mem .., rfl⟩
  case waits =>
    intro hframe
    rw [mark_runs hdom hst hopen hm, ack_runs hdom hst hopen, markOrWait_waits hframe, markOrWait_waits hframe]
    exact ⟨rfl, rfl⟩
  case acts =>
    intro k hframe hheld
    rw [mark_runs hdom hst hopen hm, ack_runs hdom hst hopen, markOrWait_acts hframe, markOrWait_acts hframe]
    exact ⟨congrArg _ (applyMark_acks hheld), fun hlimit => congrArg _ (applyMark_sets hheld hm hlimit)⟩
  case bad =>
    intro hframe hnone
    rw [mark_runs hdom hst hopen hm, ack_runs hdom hst hopen, markOrWait_acts hframe, markOrWait_acts hframe]
    refine ⟨congrArg _ (applyMark_bad hnone (by simp)), congrArg _ ?_⟩
    split
    · rename_i hunused
      rw [hunused.1]
      exact applyMark_unused hnone hunused.2
    · rename_i hbad
      exact applyMark_bad hnone (by simpa using hbad)
  case encClose =>
    intro hwf
    obtain ⟨t, ht, hexec⟩ := encClose_settles hdom hst hopen
    cases hframe : (codAt s ch.toNat).frame with
    | none =>
      obtain ⟨hmem, hcod⟩ := closing_closes hwf ht ch.toNat (srcOf h) hframe
      exact ⟨_, hexec, hmem, by rw [hcod]; rfl, fun _ => by rw [hcod]; rfl, nofun⟩
    | some f =>
      obtain ⟨hmem, hcod⟩ := closing_waits (x := codAt s ch.toNat) (q := []) ht ch.toNat (srcOf h) (.inl (by rw [hframe]; rfl))
      exact ⟨_, hexec, hmem, by rw [hcod]; rfl, nofun, fun _ => by rw [hcod]; exact ⟨rfl, rfl, hframe⟩⟩
  case decClose =>
    intro ch hopen hwf
    obtain ⟨t, ht, hexec⟩ := decClose_settles hdom hst hopen
    obtain ⟨-, hdec, -, -⟩ := chanOpen_iff.1 hopen
    refine ⟨_, hexec, ?_⟩
    by_cases hqueue : (codAt s ch.toNat).queue = []
    · rw [hqueue, List.take_nil]
      cases hframe : (codAt s ch.toNat).frame with
      | none =>
        obtain ⟨hmem, hcod⟩ := closing_closes hwf ht ch.toNat (srcOf h) hframe
        exact ⟨hmem, fun _ _ => by rw [hcod]; rfl, fun hne => absurd rfl hne⟩
      | some f =>
        obtain ⟨hmem, -⟩ := closing_waits (x := codAt s ch.toNat) (q := []) ht ch.toNat (srcOf h) (.inl (by rw [hframe]; rfl))
        exact ⟨hmem, nofun, fun hne => absurd rfl hne⟩
    · have htake : (codAt s ch.toNat).queue.take (max 1 (codAt s ch.toNat).ahead.length) ≠ [] := by
        simp [List.take_eq_nil_iff, hqueue]
      obtain ⟨hmem, hcod⟩ := closing_waits (x := codAt s ch.toNat) ht ch.toNat (srcOf h) (.inr ⟨hdec, htake⟩)
      exact ⟨hmem, fun _ hnil => absurd hnil hqueue, fun _ => by rw [hcod]; exact ⟨rfl, rfl⟩⟩

end Sys2Proof.Machine
end

section
/-!
ENC_FRAME and DEC_FRAME, then FRAME_BEGIN and EMISSION_UNIT of encode channels (R321 to R325, R333, R334, R338 to R341, R344).
-/
namespace Sys2Proof.Machine

/-! ### ENC_FRAME and DEC_FRAME -/

section Queue
variable {h : Hdr} {s : State} {d : Nat} (hdom : domOfVf s h.vf = some d) (hst : (domAt s d).st = .active)
  {ch : BitVec 8} {pitch ss inc : BitVec 16} {lu cr : BitVec 64} (hroom : (codAt s ch.toNat).queue.length < 8)
  (hpitch : pitch.toNat % 64 = 0) (hsignal : semFine s d ss.toNat = true)
  (hinc : (semOf ss.toNat).isSome = true → inc.toNat ≠ 0)
include hdom hst hroom hpitch hsignal hinc

/-- A well-formed frame is queued under the channel's next number (R321). -/
theorem encFrame_queues {fl : BitVec 8} {ws : BitVec 16} {roi hint : BitVec 64} {tg : BitVec 32} (hfl : fl.toNat < 2)
    (hopen : chanOpen s d ch.toNat true = true) (hwait : semFine s d ws.toNat = true) :
    exec (.encFrame h ch fl pitch ws ss lu cr roi hint tg inc) s = .next (modCod s ch.toNat (fun x => { x with
      queue := x.queue ++ [⟨srcOf h, x.next, bit fl.toNat 0, pitch.toNat, lu.toNat, cr.toNat, roi.toNat, hint.toNat,
        semOf ws.toNat, tg.toNat, semOf ss.toNat, inc.toNat, 0, 0⟩]
      next := x.next + 1 })) := by
  change (.next (doEncFrame (srcOf h) ch.toNat fl.toNat pitch.toNat ws.toNat ss.toNat lu.toNat cr.toNat roi.toNat hint.toNat
    tg.toNat inc.toNat s) : Outcome) = _
  rw [doEncFrame, ringCmd_active hdom hst]
  simpa [Nat.not_le.2 hfl, hopen, Nat.not_le.2 hroom, hpitch, hwait, hsignal] using fun hsome hzero => absurd hzero (hinc hsome)

/-- A unit whose output buffers lie in unsealed T1 pages is queued under the channel's next number (R344). -/
theorem decFrame_queues {va : BitVec 64} {n : BitVec 32} (hopen : chanOpen s d ch.toNat false = true)
    (hout : decOutOk s d (codAt s ch.toNat) pitch.toNat lu.toNat cr.toNat = true) :
    exec (.decFrame h ch pitch ss inc va n lu cr) s = .next (modCod s ch.toNat (fun x => { x with
      queue := x.queue ++ [⟨srcOf h, x.next, false, pitch.toNat, lu.toNat, cr.toNat, 0, 0, none, 0, semOf ss.toNat,
        inc.toNat, va.toNat, n.toNat⟩]
      next := x.next + 1 })) := by
  change (.next (doDecFrame (srcOf h) ch.toNat pitch.toNat ss.toNat inc.toNat va.toNat n.toNat lu.toNat cr.toNat s) : Outcome) = _
  rw [doDecFrame, ringCmd_active hdom hst]
  simpa [hopen, Nat.not_le.2 hroom, hpitch, hsignal, hout] using fun hsome hzero => absurd hzero (hinc hsome)

end Queue

/-! ### FRAME_BEGIN -/

section Begin
variable {ch : Fin 32} {s : State} {q : CodReq} {l : List CodReq}

/-- The frame at the head of the queue begins: what it is to be coded from is fixed here, and the channel's marks with it
(R321, R338 to R341). -/
theorem frameBegin_begins (hqueue : (codAt s ch).queue = q :: l) (hst : (codAt s ch).st = .open_)
    (hframe : (codAt s ch).frame = none) (hwait : waitMet s q 0 = true) (hstay : leaving s ch = false) (a b : Bool) :
    ∃ f bufs, exec (.frameBegin ch a b) s = .next (setCod s ch { codAt s ch with
        queue := l, frame := some f, forceKey := false, bufs := bufs }) ∧ f.req = q ∧ f.unit = 0 ∧
      f.key = ((codAt s ch).forceKey || (refsFor (codAt s ch).cfg (codAt s ch).bufs).isEmpty) ∧
      f.fallback = (refsFor (codAt s ch).cfg (codAt s ch).bufs).isEmpty ∧
      f.refs = (if f.key then [] else refsFor (codAt s ch).cfg (codAt s ch).bufs) := by
  change ∃ f bufs, execFrameBegin ch a b s = _ ∧ _
  unfold execFrameBegin
  simp only [hqueue]
  rw [if_pos ⟨hst, by rw [hframe]; rfl, hwait, by rw [hstay]; rfl⟩]
  exact ⟨_, _, rfl, rfl, rfl, rfl, rfl, rfl⟩

end Begin

/-! ### EMISSION_UNIT -/

/-- A channel that is not closed, or that codes a frame, moves its write pointer by the bytes it emits (R323). -/
theorem codAt_emitBytes {s : State} {c : Nat} (h : (codAt s c).st ≠ .closed ∨ (codAt s c).frame ≠ none) (b : List Byte) :
    codAt (emitBytes s c b) c = { codAt s c with wptr := wrap32 ((codAt s c).wptr + b.length) } :=
  codAt_setCod_self _ c (chan_ne_default h)

/-- A unit fits its ceiling, or the bound of forced minimal coding (R333, R334). -/
theorem unitChoice_fits (past : List UnitIn) (ceil minU : Nat) (at_ : SbMode → UnitIn) (least : SbMode) :
    8 * (unitChoice past ceil minU at_ least).bytes.length ≤ max ceil minU := by
  simp only [unitChoice]
  split
  · exact Nat.le_trans ‹_› (Nat.le_max_left ..)
  · split
    · exact Nat.le_trans ‹_› (Nat.le_max_left ..)
    · have hcut := List.length_take_le (minU / 8) (Config.unitBytes past (at_ least))
      calc 8 * ((Config.unitBytes past (at_ least)).take (minU / 8)).length ≤ 8 * (minU / 8) := Nat.mul_le_mul_left 8 hcut
        _ ≤ minU := Nat.mul_div_le minU 8
        _ ≤ max ceil minU := Nat.le_max_right ..

section Unit
variable {ch : Fin 32} {s : State} {f : FrameRun}

/-- Pipelines that code a channel's units (R324). -/
def codingPipes (s : State) (x : CodChan) : Nat := gangWidth s.conf.video x.dom x.cfg

/-- The row of superblocks behind the frame's next unit (R324). -/
def unitEnd (s : State) (x : CodChan) (f : FrameRun) : Nat := min ((f.unit + 1) * unitRows x.cfg (codingPipes s x)) (sbRows x.cfg)

/-- The source ranges of the frame's next unit (R320). -/
def unitRanges (s : State) (x : CodChan) (f : FrameRun) : List (Nat × Nat) :=
  unitSource x.cfg f.req (f.unit * unitRows x.cfg (codingPipes s x)) (unitEnd s x f)

/-- The room in bits that the frame's next unit needs: its ceiling or its bound of forced minimal coding (R323, R333). -/
def unitBits (s : State) (x : CodChan) (f : FrameRun) : Nat :=
  max (ceilingOf x f (unitCount x.cfg (codingPipes s x)) (minUnit x.cfg (codingPipes s x) f.key)) (minUnit x.cfg (codingPipes s x) f.key)

/-- The frame's next unit can be coded: its rows are there, nothing pending covers them, and the beats that come late are its
own, from T2 or T3 (R196, R321, R322). -/
structure UnitReady (s : State) (x : CodChan) (f : FrameRun) (late : List Nat) : Prop where
  more : f.unit < unitCount x.cfg (codingPipes s x)
  rows : waitMet s f.req (unitEnd s x f - 1) = true
  free : (unitRanges s x f).any (rangePending s x.dom) = false
  late : late.all (fun a => lateIn [a] (unitRanges s x f) && lowerTier s x.dom [(a, 1)]) = true

/-- What a unit puts into the output ring: behind the opening of its frame where it is the first (R323). -/
def unitStream (f : FrameRun) (k : UnitCode) : List Byte := (if f.unit = 0 then f.head else []) ++ k.bytes

theorem unitStream_length (f : FrameRun) (k : UnitCode) :
    (unitStream f k).length = (if f.unit = 0 then f.head.length else 0) + k.bytes.length := by
  rw [unitStream, List.length_append]
  split <;> rfl

/-- The channel once a unit of its frame is coded. -/
def afterCode (f : FrameRun) (sbs : List SbSource) (k : UnitCode) (x : CodChan) : CodChan :=
  { x with frame := some (afterUnit f sbs k), minimal := wrap32 (x.minimal + b2n k.minimal), past := k.unit :: x.past }

theorem codeUnit_codec (s : State) (x : CodChan) (f : FrameRun) (late : List Nat) :
    (codeUnit s x f late).1.codec = s.codec := codec_keptByAccess.fetchUnit ..

theorem codeUnit_fits (s : State) (x : CodChan) (f : FrameRun) (late : List Nat) :
    8 * (codeUnit s x f late).2.2.bytes.length ≤ unitBits s x f := unitChoice_fits ..

/-- A unit that is ready and finds room for its bytes is coded and emitted (R321 to R323, R333). -/
theorem emissionUnit_emits {late : List (BitVec 64)} {r : State × List SbSource × UnitCode}
    (hframe : (codAt s ch).frame = some f) (hready : UnitReady s (codAt s ch) f (late.map (·.toNat)))
    (hcode : codeUnit s (codAt s ch) f (late.map (·.toNat)) = r)
    (hroom : (unitStream f r.2.2).length ≤ ringRoom (codAt s ch)) (hnotify : (codAt s ch).cfg.rowNotify = false) :
    exec (.emissionUnit ch late) s =
      .next (modCod (emitBytes r.1 ch (unitStream f r.2.2)) ch (afterCode f r.2.1 r.2.2)) := by
  obtain ⟨t, sbs, k⟩ := r
  obtain ⟨hmore, hrows, hfree, hlate⟩ := hready
  change execEmissionUnit ch late s = _
  simp only [execEmissionUnit, hframe, hcode, hnotify, Bool.false_eq_true, if_false]
  rw [if_neg]
  · exact if_neg (Nat.not_lt.2 hroom)
  · rintro (hdone | hcount | hpending | hbeyond)
    · exact Nat.not_le.2 hmore hdone
    · exact absurd (hcount.symm.trans (congrArg (!·) hrows)) (by decide)
    · exact absurd (hpending.symm.trans hfree) (by decide)
    · obtain ⟨a, ha, hnot⟩ := List.any_eq_true.1 hbeyond
      exact absurd (hnot.symm.trans (congrArg (!·) (List.all_eq_true.1 hlate a ha))) (by decide)

/-- The channel behind a unit: its frame is one unit on, and the write pointer stands behind the bytes. -/
theorem codAt_emitted {t : State} (hcodec : t.codec = s.codec) (hframe : (codAt s ch).frame = some f) (sbs : List SbSource)
    (k : UnitCode) : codAt (modCod (emitBytes t ch (unitStream f k)) ch (afterCode f sbs k)) ch =
      afterCode f sbs k { codAt s ch with wptr := wrap32 ((codAt s ch).wptr + (unitStream f k).length) } := by
  have hcod := codAt_of_codec hcodec ch
  have hsome : (codAt t ch).frame ≠ none := by rw [hcod, hframe]; nofun
  rw [modCod, codAt_emitBytes (.inr hsome), hcod]
  exact codAt_setCod_self _ ch (chan_ne_default (.inr nofun))

/-- In a ring with room for the most that the next unit can take it is coded within that, and the write pointer moves by it. -/
theorem emissionUnit_codes {late : List (BitVec 64)} {k : List SbSource × UnitCode} (hframe : (codAt s ch).frame = some f)
    (hready : UnitReady s (codAt s ch) f (late.map (·.toNat)))
    (hk : (codeUnit s (codAt s ch) f (late.map (·.toNat))).2 = k)
    (hroom : unitBits s (codAt s ch) f / 8 + (if f.unit = 0 then f.head.length else 0) ≤ ringRoom (codAt s ch))
    (hnotify : (codAt s ch).cfg.rowNotify = false) :
    ∃ u, exec (.emissionUnit ch late) s = .next u ∧ (codAt u ch).frame = some (afterUnit f k.1 k.2) ∧
      8 * k.2.bytes.length ≤ unitBits s (codAt s ch) f ∧
      (codAt u ch).wptr = wrap32 ((codAt s ch).wptr + ((if f.unit = 0 then f.head.length else 0) + k.2.bytes.length)) := by
  subst hk
  have hfits := codeUnit_fits s (codAt s ch) f (late.map (·.toNat))
  have hcodec := codeUnit_codec s (codAt s ch) f (late.map (·.toNat))
  generalize hcode : codeUnit s (codAt s ch) f (late.map (·.toNat)) = r at hfits hcodec ⊢
  have hbytes : (unitStream f r.2.2).length ≤ ringRoom (codAt s ch) := by rw [unitStream_length]; omega
  refine ⟨_, emissionUnit_emits hframe hready hcode hbytes hnotify, ?_⟩
  rw [codAt_emitted hcodec hframe, unitStream_length]
  exact ⟨rfl, hfits, rfl⟩

end Unit

end Sys2Proof.Machine
end

section
/-!
FRAME_END with its SIGNAL (R321, R332, R336, R342), DEC_PICTURE_OUT (R344, R345) and VCC_CH_RPTR (R323).
-/
namespace Sys2Proof.Machine

/-! ### FRAME_END -/

/-- The state behind the records of a frame: its SIGNAL applied, or kept until they are in place (R321, R437). -/
def afterSignal (s : State) (q : CodReq) : State :=
  match q.signal with
  | some n => codSignal s q.src n q.inc
  | none => s

/-- A SIGNAL changes the reef, or the signals that wait for their records. -/
theorem afterSignal_frame (s : State) (q : CodReq) :
    ∃ m g, afterSignal s q = { s with sems := m, codec := { s.codec with sigs := g } } := by
  unfold afterSignal
  split
  · simp only [codSignal]
    split
    · exact ⟨_, s.codec.sigs, rfl⟩
    · exact ⟨s.sems, _, rfl⟩
  · exact ⟨s.sems, s.codec.sigs, rfl⟩

@[simp] theorem afterSignal_mem (s : State) (q : CodReq) : (afterSignal s q).mem = s.mem := by
  obtain ⟨_, _, h⟩ := afterSignal_frame s q; rw [h]

@[simp] theorem afterSignal_doms (s : State) (q : CodReq) : (afterSignal s q).doms = s.doms := by
  obtain ⟨_, _, h⟩ := afterSignal_frame s q; rw [h]

@[simp] theorem vfAt_afterSignal (s : State) (q : CodReq) (v : Nat) : vfAt (afterSignal s q) v = vfAt s v := by
  obtain ⟨_, _, h⟩ := afterSignal_frame s q; rw [h]; rfl

@[simp] theorem cqOf_afterSignal (s : State) (q : CodReq) (src : Src) : cqOf (afterSignal s q) src = cqOf s src := by
  rw [cqOf, vfAt_afterSignal, cqOf]

@[simp] theorem codAt_afterSignal (s : State) (q : CodReq) (c : Nat) : codAt (afterSignal s q) c = codAt s c := by
  obtain ⟨_, _, h⟩ := afterSignal_frame s q; rw [h]; rfl

/-- A SIGNAL adds to its semaphore at once when no record waits for room in the frame's CQ, and to no other (R192, R437). -/
theorem semAt_codSignal {s : State} (hwf : sparseWf 0 s.sems = true) (src : Src) (m inc n : Nat) :
    semAt (codSignal s src m inc) n = if n = m ∧ (vfAt s src.vf).waitCpl.all (fun w => w.1 != cqOf s src) = true
      then min (2 ^ 32 - 1) (semAt s m + inc) else semAt s n := by
  have hnone : ((vfAt s src.vf).waitCpl.filter (fun w => w.1 == cqOf s src)).length = 0 ↔
      (vfAt s src.vf).waitCpl.all (fun w => w.1 != cqOf s src) = true := by
    simp [List.filter_eq_nil_iff]
  simp only [codSignal, hnone]
  split
  · rename_i hall
    rw [semAt_semAdd hwf]
    simp only [hall, and_true]
  · rename_i hwaits
    rw [if_neg (fun h => hwaits h.2)]
    rfl

/-- The channel behind the last unit of its frame, with its fullness before the next removal (R332, R338). -/
def afterFrame (full : Nat) (x : CodChan) : CodChan :=
  { x with frame := none, frames := wrap32 (x.frames + 1), full := full, marks := [] }

/-- Bits of a frame, its filler among them (R336). -/
def frameBits (x : CodChan) (f : FrameRun) : Nat := f.bits + fillerBits x f.bits

/-- The state once a frame's filler is out (R336). -/
def withFiller (s : State) (c : Nat) (f : FrameRun) : State :=
  let n := fillerBits (codAt s c) f.bits
  if n = 0 then s
  else emitBytes s c ((List.range (n / 8)).map (Config.fillerByte (codAt s c).cfg.hevc (n / 8)))

/-- The state once the records of a frame that has ended are out; `x` is its channel before (R342, R435). -/
def withFrameRecords (s : State) (c : Nat) (x : CodChan) (f : FrameRun) : State :=
  codRecords s f.req.src c .success (codAt s c).wptr (frameBits x f / 8) 0xFFFF f.maxQp f.minimal
    (codFlags f (fillerBits x f.bits != 0)) f.req.number

theorem withFrameRecords_onlyRecords (s : State) (c : Nat) (x : CodChan) (f : FrameRun) :
    OnlyRecords s (withFrameRecords s c x f) := codRecords_onlyRecords ..

/-- The state at the end of a frame, before its SIGNAL. -/
def frameEnded (s : State) (c : Nat) (f : FrameRun) : State :=
  withFrameRecords (modCod (withFiller s c f) c (afterFrame (nextFull (codAt s c) (frameBits (codAt s c) f)))) c (codAt s c) f

section End
variable {ch : Fin 32} {s : State} {f : FrameRun}

/-- A frame that is not stored, with all its units coded and room for its filler, ends: its records go out, then its SIGNAL,
and the channel stands at a boundary (R332, R336, R338, R342). -/
theorem frameEnd_settles (hframe : (codAt s ch).frame = some f)
    (hdone : unitCount (codAt s ch).cfg (codingPipes s (codAt s ch)) ≤ f.unit)
    (hroom : fillerBits (codAt s ch) f.bits / 8 ≤ ringRoom (codAt s ch)) (hmarks : (codAt s ch).marks = [])
    (hstore : f.store = none) :
    exec (.frameEnd ch) s = .next (settleChan (afterSignal (frameEnded s ch f) f.req) ch) := by
  change execFrameEnd ch s = _
  simp only [execFrameEnd, hframe, hmarks, List.foldl_nil, storeRecon, hstore]
  exact if_neg (not_or.2 ⟨Nat.not_lt.2 hdone, Nat.not_lt.2 hroom⟩)

/-- The filler of a frame moves its channel's write pointer, and fills host memory alone (R323, R336). -/
theorem withFiller_frame (hst : (codAt s ch).st = .open_) (f : FrameRun) :
    (withFiller s ch f).mem = s.mem ∧ (withFiller s ch f).doms = s.doms ∧ (withFiller s ch f).sems = s.sems ∧
      ∃ w, codAt (withFiller s ch f) ch = { codAt s ch with wptr := w } := by
  unfold withFiller
  extract_lets n
  split
  · exact ⟨rfl, rfl, rfl, _, rfl⟩
  · exact ⟨rfl, rfl, rfl, _, codAt_emitBytes (.inl (by rw [hst]; nofun)) _⟩

/-- The end of a frame moves its channel on; DRAM, the domains and the reef are as before (R332, R338). -/
theorem frameEnded_frame (hst : (codAt s ch).st = .open_) (f : FrameRun) :
    (frameEnded s ch f).mem = s.mem ∧ (frameEnded s ch f).doms = s.doms ∧ (frameEnded s ch f).sems = s.sems ∧
      ∃ w, codAt (frameEnded s ch f) ch =
        afterFrame (nextFull (codAt s ch) (frameBits (codAt s ch) f)) { codAt s ch with wptr := w } := by
  obtain ⟨hmem, hdoms, hsems, w, hcod⟩ := withFiller_frame hst f
  unfold frameEnded
  generalize nextFull (codAt s ch) (frameBits (codAt s ch) f) = full
  have hrec := withFrameRecords_onlyRecords (modCod (withFiller s ch f) ch (afterFrame full)) ch (codAt s ch) f
  have hne : afterFrame full { codAt s ch with wptr := w } ≠ {} :=
    chan_ne_default (.inl (fun hclosed => nomatch hst.symm.trans hclosed))
  refine ⟨hrec.mem.trans hmem, hrec.doms.trans hdoms, hrec.sems.trans hsems, w, (hrec.codAt ch).trans ?_⟩
  rw [modCod, hcod]
  exact codAt_setCod_self _ ch hne

end End

/-! ### DEC_PICTURE_OUT -/

section Decode
variable {s : State} {c : Nat} {q : CodReq} {l : List CodReq}

namespace KeptByAccess

theorem writePicture {α : Type} {g : State → α} (hg : KeptByAccess g) (s : State) (x : CodChan) (q : CodReq) (n : Nat) :
    g (writePicture s x q n) = g s := by
  unfold Machine.writePicture
  split
  exact hg.writeRows s x.dom _

end KeptByAccess

/-- The picture that is due is written for the oldest DEC_FRAME, which completes and signals; the channel then settles without
both (R344). -/
theorem putPicture_writes {i : Nat} (hwf : sparseWf {} s.codec.chans = true) (hnext : nextOut (codAt s c) = some i)
    (hqueue : (codAt s c).queue = q :: l) : ∃ t, putPicture s c = some (settleChan t c) ∧
      sparseWf {} t.codec.chans = true ∧ t.doms = s.doms ∧ codAt t c = outDone (codAt s c) i := by
  generalize hn : (codAt s c).ahead.getD i 0 = n
  generalize hw : setCod (writePicture s (codAt s c) q n) c (outDone (codAt s c) i) = w
  have hwritten : sparseWf {} (writePicture s (codAt s c) q n).codec.chans = true := by
    rw [codec_keptByAccess.writePicture]
    exact hwf
  have hafter (v : State) (hcodec : v.codec = w.codec) (hdoms : v.doms = w.doms) :
      sparseWf {} (complete q.src .success n v).codec.chans = true ∧ (complete q.src .success n v).doms = s.doms ∧
        codAt (complete q.src .success n v) c = outDone (codAt s c) i := by
    rw [complete_codec, complete_doms, codAt_of_codec ((complete_codec ..).trans hcodec), hcodec, hdoms, ← hw]
    exact ⟨setCod_chans_wf hwritten c _, doms_keptByAccess.writePicture .., codAt_setCod_wf hwritten c _⟩
  cases hsignal : q.signal with
  | none => exact ⟨complete q.src .success n w, by simp only [putPicture, hnext, hqueue, hn, hw, hsignal], hafter w rfl rfl⟩
  | some k =>
    exact ⟨complete q.src .success n (semAdd w k q.inc), by simp only [putPicture, hnext, hqueue, hn, hw, hsignal],
      hafter (semAdd w k q.inc) rfl rfl⟩

theorem putPicture_none (hnext : nextOut (codAt s c) = none) : putPicture s c = none := by
  simp [putPicture, hnext]

/-- On an open channel of an active domain a picture that is written leaves the units read as they were (R343). -/
theorem putPicture_coded (hwf : sparseWf {} s.codec.chans = true) (hst : (codAt s c).st = .open_)
    (hdom : (domAt s (codAt s c).dom).st = .active) {u : State} (h : putPicture s c = some u) :
    (codAt u c).coded = (codAt s c).coded := by
  cases hnext : nextOut (codAt s c) with
  | none => rw [putPicture_none hnext] at h; cases h
  | some i =>
    cases hqueue : (codAt s c).queue with
    | nil => simp [putPicture, hnext, hqueue] at h
    | cons q l =>
      obtain ⟨t, ht, -, hdoms, hcod⟩ := putPicture_writes hwf hnext hqueue
      have hstays : settleChan t c = t :=
        settleChan_of_active (by rw [hcod]; exact hst) (by rw [hcod, domAt_of_doms hdoms]; exact hdom)
      rw [ht, hstays] at h
      obtain rfl := Option.some.inj h
      rw [hcod]
      rfl

/-- A unit that is read joins the units read, whether it decodes or not; the channel stays open for its domain (R345). -/
theorem readUnit_frame (x : CodChan) (q : CodReq) (input : Option (List Byte)) :
    (readUnit x q input).1.coded.length = x.coded.length + 1 ∧ (readUnit x q input).1.st = x.st ∧
      (readUnit x q input).1.dom = x.dom := ⟨List.length_append, rfl, rfl⟩

variable {ch : Fin 16}

theorem decPictureOut_writes {t : State} (h : putPicture s (32 + ch.val) = some t) :
    exec (.decPictureOut ch false) s = .next t := by
  change execDecPictureOut ch false s = _
  simp [execDecPictureOut, h]

/-- The state once a unit is read, from the state behind the read and `readUnit`'s answer: the picture that it makes due is
written; one that fails completes with BITSTREAM_ERROR and an event, its output undefined (R344, R345). -/
def afterRead (t : State) (c : Nat) (x : CodChan) (q : CodReq) (y : CodChan × Bool) : State :=
  let u := setCod t c y.1
  if y.2 then (putPicture u c).getD u
  else settleChan (complete q.src .bitstreamError 0 (raise (0x180 + c) (undefPicture u x q))) c

theorem decPictureOut_reads {t : State} {r : Except Status (List Byte)} (hnext : nextOut (codAt s (32 + ch.val)) = none)
    (hqueue : (codAt s (32 + ch.val)).queue[(codAt s (32 + ch.val)).ahead.length]? = some q)
    (hfetch : vaFetch s (codAt s (32 + ch.val)).dom q.unitVa q.unitBytes = (t, r)) : exec (.decPictureOut ch false) s =
      .next (afterRead t (32 + ch.val) (codAt s (32 + ch.val)) q (readUnit (codAt s (32 + ch.val)) q r.toOption)) := by
  change execDecPictureOut ch false s = _
  cases r <;> simp [execDecPictureOut, putPicture_none hnext, hqueue, hnext, hfetch, Except.toOption] <;> rfl

/-- A channel left open in an active domain stays open behind the unit, with the units read as they were. -/
theorem afterRead_coded {t : State} {x : CodChan} {y : CodChan × Bool} (hwf : sparseWf {} t.codec.chans = true)
    (hst : y.1.st = .open_) (hdom : (domAt t y.1.dom).st = .active) : (codAt (afterRead t c x q y) c).coded = y.1.coded := by
  have hx : codAt (setCod t c y.1) c = y.1 := codAt_setCod_wf hwf c y.1
  simp only [afterRead]
  split
  · cases hput : putPicture (setCod t c y.1) c with
    | none => rw [Option.getD_none, hx]
    | some u =>
      have hu := putPicture_coded (setCod_chans_wf hwf c y.1) (by rw [hx]; exact hst) (by rw [hx]; exact hdom) hput
      rw [Option.getD_some, hu, hx]
  · generalize hv : complete q.src .bitstreamError 0 _ = v
    have hcodec : v.codec = (setCod t c y.1).codec := by
      rw [← hv, complete_codec, raise_codec, codec_keptByAccess.undefPicture]
    have hdoms : v.doms = t.doms := by
      rw [← hv, complete_doms, raise_doms, doms_keptByAccess.undefPicture, setCod_doms]
    have hvx : codAt v c = y.1 := (codAt_of_codec hcodec c).trans hx
    rw [settleChan_of_active (by rw [hvx]; exact hst) (by rw [hvx, domAt_of_doms hdoms]; exact hdom), hvx]

/-- With no picture due the next unit of an open channel in an active domain is read (R344, R345). -/
theorem decPictureOut_decodes (hwf : sparseWf {} s.codec.chans = true) (hnext : nextOut (codAt s (32 + ch.val)) = none)
    (hqueue : (codAt s (32 + ch.val)).queue[(codAt s (32 + ch.val)).ahead.length]? = some q)
    (hst : (codAt s (32 + ch.val)).st = .open_) (hdom : (domAt s (codAt s (32 + ch.val)).dom).st = .active) :
    ∃ u, exec (.decPictureOut ch false) s = .next u ∧
      (codAt u (32 + ch.val)).coded.length = (codAt s (32 + ch.val)).coded.length + 1 := by
  rcases hfetch : vaFetch s (codAt s (32 + ch.val)).dom q.unitVa q.unitBytes with ⟨t, r⟩
  have hcodec : t.codec = s.codec := by rw [← codec_keptByAccess.vaFetch s _ _ _, hfetch]
  have hdoms : t.doms = s.doms := by rw [← vaFetch_doms s _ _ _, hfetch]
  refine ⟨_, decPictureOut_reads hnext hqueue hfetch, ?_⟩
  generalize Except.toOption _ = input
  obtain ⟨hcoded, hyst, hydom⟩ := readUnit_frame (codAt s (32 + ch.val)) q input
  rw [afterRead_coded (by rw [hcodec]; exact hwf) (hyst.trans hst) (by rw [hydom, domAt_of_doms hdoms]; exact hdom), hcoded]

end Decode

/-! ### VCC_CH_RPTR -/

theorem wakeS2_codec (s : State) : (wakeS2 s).codec = s.codec := by simp only [wakeS2]; split <;> simp

/-- A read pointer further back than the ring's size sets the error flag, any other is taken (R323). -/
theorem vccChRptrWrite_takes {s : State} (hup : hostUp s = true) (ch : Fin 48) (v : Word) :
    exec (.vccChRptrWrite ch v) s = .next (setCod (wakeS2 s) ch
      (if (codAt s ch).cfg.ringSize < ((codAt s ch).wptr + 2 ^ 32 - v.toNat) % 2 ^ 32 then { codAt s ch with rptrErr := true }
        else { codAt s ch with rptr := v.toNat })) := by
  change execVccChRptrWrite ch v s = _
  rw [execVccChRptrWrite, viaHost_up hup, codAt_of_codec (wakeS2_codec s)]

/-! ### The obligation -/

/-- Settles O33: each command by its own lemma, on the channel that it leaves. -/
theorem framesAreCoded : Obligations.FramesAreCoded := by
  refine ⟨fun h s d hdom hst => ⟨?encFrame, ?decFrame⟩, fun ch s => ⟨?begin, fun f hframe => ⟨?unit, ?frameEnd⟩⟩,
    fun ch s q hwf => ⟨?writes, ?decodes⟩, fun ch v s hup => ⟨?taken, ?error⟩⟩
  case encFrame =>
    intro ch fl pitch ws ss lu cr roi hint tg inc x hfl hopen hroom hpitch hwait hsignal hinc
    exact encFrame_queues hdom hst hroom hpitch hsignal hinc hfl hopen hwait
  case decFrame =>
    intro ch pitch ss inc va n lu cr x hopen hroom hpitch hsignal hinc hout
    exact decFrame_queues hdom hst hroom hpitch hsignal hinc hopen hout
  case begin =>
    intro q l a b hqueue hst hframe hwait hstay
    obtain ⟨f, bufs, hexec, hreq, hunit, hkey, hfallback, hrefs⟩ := frameBegin_begins hqueue hst hframe hwait hstay a b
    have hx := codAt_setCod_self s ch (x := { codAt s ch with queue := l, frame := some f, forceKey := false, bufs := bufs })
      (chan_ne_default (.inr nofun))
    refine ⟨_, f, hexec, ?_⟩
    rw [hx]
    exact ⟨rfl, rfl, hreq, hunit, hkey, hfallback, hrefs, rfl, rfl, rfl⟩
  case unit =>
    intro late r1 src k room hmore hrows hfree hlate hroom hnotify
    exact emissionUnit_codes hframe ⟨hmore, hrows, hfree, hlate⟩ rfl hroom hnotify
  case frameEnd =>
    intro hdone hroom hst hdom hmarks hstore hsems
    have hexec := frameEnd_settles hframe hdone hroom hmarks hstore
    obtain ⟨hmem, hdoms, hsame, w, hcod⟩ := frameEnded_frame hst f
    generalize frameEnded s ch f = t at hexec hmem hdoms hsame hcod
    have hx : codAt (afterSignal t f.req) ch = _ := (codAt_afterSignal t f.req ch).trans hcod
    have hactive : (domAt (afterSignal t f.req) (codAt s ch).dom).st = .active := by
      rw [domAt_of_doms ((afterSignal_doms t f.req).trans hdoms)]
      exact hdom
    rw [settleChan_of_active (by rw [hx]; exact hst) (by rw [hx]; exact hactive)] at hexec
    refine ⟨_, hexec, by rw [hx]; rfl, by rw [hx]; rfl, by rw [hx]; rfl, (afterSignal_mem t f.req).trans hmem, fun n => ?_⟩
    have hsem : semAt t = semAt s := funext fun n => by rw [semAt, hsame, semAt]
    rw [vfAt_afterSignal, cqOf_afterSignal]
    cases hsignal : f.req.signal with
    | none => simp only [afterSignal, hsignal, hsem]
    | some k => simp only [afterSignal, hsignal, semAt_codSignal (hsame.symm ▸ hsems), hsem]
  case writes =>
    intro i l hnext hqueue
    obtain ⟨t, hput, htwf, -, hcod⟩ := putPicture_writes hwf hnext hqueue
    refine ⟨_, decPictureOut_writes hput, ?_⟩
    rw [settleChan_queue htwf (decide_eq_false (by omega)), hcod, outDone, hqueue, List.drop_one, List.tail_cons]
  case decodes => exact decPictureOut_decodes hwf
  case taken =>
    intro hle
    rw [vccChRptrWrite_takes hup, if_neg (Nat.not_lt.2 hle)]
  case error =>
    intro hlt
    rw [vccChRptrWrite_takes hup, if_pos hlt]

end Sys2Proof.Machine
end

section
/-!
The front of the queue, and commands of the host whose link is down (R426, R432, R487).
-/
namespace Sys2Proof.Machine

/-- Settles O1: a step runs the first command with the others left in the queue, and idles without one. -/
theorem frontCommandRuns : Obligations.FrontCommandRuns := by
  refine ⟨fun c rest s h => ?_, fun s h => ?_⟩
  · simp only [step, h]
  · simp only [step, h]

/-- An access over a link that is up acts on the woken module. -/
theorem next_viaHost {s : State} (h : hostUp s = true) (k : State → State) :
    (.next (viaHost s k) : Outcome) = .next (k (wakeS2 s)) := congrArg _ (viaHost_up h k)

/-- Over a link that is down no access of the host arrives. -/
theorem next_viaHost_down {s : State} (h : hostUp s = false) (k : State → State) :
    (.next (viaHost s k) : Outcome) = .next s := congrArg _ (viaHost_down h k)

/-- The host is agent 8 of the event controller. -/
theorem next_byHost_down {s : State} (h : hostUp s = false) (k : State → State) :
    (.next (byAgent 8 s k) : Outcome) = .next s := next_viaHost_down h k

/-- Settles O2: each of these commands goes through the host's link, and what goes through it never arrives. -/
theorem linkDownTurnsHostAway : Obligations.LinkDownTurnsHostAway := by
  intro s hdown
  have away := fun k => next_viaHost_down hdown k
  have awayEvc := fun k => next_byHost_down hdown k
  refine ⟨fun n => ⟨away _, away _, away _⟩, fun v q w => ⟨away _, away _⟩, fun v c w => ⟨away _, away _⟩,
    fun fn off len => away _, fun fn off data => away _, fun fn off v => ?register, fun n v => ⟨awayEvc _, awayEvc _⟩,
    fun t src => ⟨awayEvc _, awayEvc _⟩, fun v => awayEvc _, fun v c => ⟨away _, away _⟩⟩
  case register =>
    show execRegisterWrite fn off v s = .next s
    simp only [execRegisterWrite, hdown, Bool.not_false, if_true]

end Sys2Proof.Machine
end

section
/-!
The trouble log and the measurement registers: what an entry and an extension leave (R473, R507, R510).
-/
namespace Sys2Proof.Machine

/-! ### The trouble log -/

/-- An entry that LEVEL withholds is counted and nothing else. -/
theorem logE_withheld {sev : Nat} {s : State} (h : sev < s.log.level) (hfatal : sev < 3) (code : Status) (src : Option Nat)
    (d : Nat) (data : List Byte) :
    logE sev code src d data s = { s with log := { s.log with dropped := wrap32 (s.log.dropped + 1) } } := if_pos ⟨h, hfatal⟩

/-- An entry that LEVEL lets pass, or a fatal one, takes the next slot. -/
theorem logE_takes_slot {sev : Nat} {s : State} (h : s.log.level ≤ sev ∨ 3 ≤ sev) (code : Status) (src : Option Nat) (d : Nat)
    (data : List Byte) : (logE sev code src d data s).log = { s.log with
      slots := sparseSet none s.log.slots (s.log.written % 2048)
        (some ⟨s.now, shoalTime s, statusCode code, src, sev, d, slice data 0 10⟩)
      written := wrap32 (s.log.written + 1) } := by
  simp only [logE]
  rw [if_neg (by omega)]
  split <;> split <;> simp only [raise_log]

/-- Settles O45: an entry is withheld or takes its slot, and LEVEL is a register like any other. -/
theorem logKeepsItsLevel : Obligations.LogKeepsItsLevel := by
  intro sev code src d data s
  refine ⟨fun v hup hst => (exec_registerWrite_pf hup hst _ v).trans (writePf_logCtrl v s),
    fun hlow hfatal hsev => logE_withheld hlow (by omega) code src d data, fun h => ?_⟩
  have hlog := logE_takes_slot (s := s) (h.imp_right (fun h => by omega)) code src d data
  refine ⟨by rw [hlog], by rw [hlog], fun hwf => ⟨?_, fun k hk => ?_⟩⟩
  · simp only [hlog]
    exact sparseGet_set_self none s.log.slots _ (Option.some_ne_none _)
  · simp only [hlog]
    exact sparseGet_set_ne none s.log.slots _ hk

/-! ### Measurement -/

theorem slice_all {b : List Byte} {n : Nat} (h : b.length = n) : slice b 0 n = b := by
  simp [slice, ← h]

/-- A part of a list of bytes stands behind what is in front of it. -/
theorem slice_middle (a b c : List Byte) : slice (a ++ b ++ c) a.length b.length = b := by
  simp [slice, List.append_assoc]

/-- Bytes 16 to 47 of a measurement entry are its digest (R510). -/
theorem measureEntry_digest (m kind core version : Nat) {d : List Byte} (h : d.length = 32) :
    slice (measureEntry m kind core version d) 16 32 = d := by
  have hmid := slice_middle (leBytes 1 m ++ leBytes 1 kind ++ leBytes 2 core ++ leBytes 8 version ++ leBytes 4 0)
    (slice d 0 32) (leBytes 16 0)
  simp only [List.length_append, leBytes_length, slice_length] at hmid
  exact hmid.trans (slice_all h)

section Extend
variable (m kind core version : Nat) (d : List Byte) (s : State)

/-- The register takes its hash with the digest, whether or not the log has room. -/
theorem extendMr_mrs : (extendMr m kind core version d s).sec.mrs =
    modAt s.sec.mrs m (fun r => sha3 (r ++ slice d 0 32)) := by
  simp only [extendMr]
  split <;> simp only [raise_sec]

theorem extendMr_doms : (extendMr m kind core version d s).doms = s.doms := by
  simp only [extendMr]
  split <;> simp only [raise_doms]

theorem extendMr_host : (extendMr m kind core version d s).host = s.host := by
  simp only [extendMr]
  split <;> simp only [raise_host]

/-- With room the log takes an entry and nothing overflows. -/
theorem extendMr_logs (hroom : s.sec.log.length < 512) :
    (extendMr m kind core version d s).sec.log = s.sec.log ++ [measureEntry m kind core version d] ∧
      (extendMr m kind core version d s).sec.overflow = s.sec.overflow := by
  simp only [extendMr, if_pos hroom, and_self]

theorem extendMr_overflows (hfull : 512 ≤ s.sec.log.length) :
    (extendMr m kind core version d s).sec.log = s.sec.log ∧ (extendMr m kind core version d s).sec.overflow = true := by
  simp only [extendMr, if_neg (Nat.not_lt.2 hfull), raise_sec, and_self]

end Extend

/-- Settles O54: the register by `List.modify` at its place, the log by its room. -/
theorem extensionHashesTheRegister : Obligations.ExtensionHashesTheRegister := by
  intro m kind core version d s hm hlen hd
  have hmrs := extendMr_mrs m kind core version d s
  rw [slice_all hd] at hmrs
  refine ⟨?_, ?_, fun k hk => ?_, extendMr_mem m kind core version d s, extendMr_host m kind core version d s,
    extendMr_doms m kind core version d s, fun hroom => ?_, extendMr_overflows m kind core version d s⟩
  · rw [hmrs, modAt, List.length_modify, hlen]
  · rw [hmrs, modAt, List.getElem?_modify]
    simp
  · rw [hmrs, modAt, List.getElem?_modify]
    simp [Ne.symm hk]
  · obtain ⟨hlog, hover⟩ := extendMr_logs m kind core version d s hroom
    exact ⟨hlog, hover, measureEntry_digest m kind core version hd⟩

end Sys2Proof.Machine
end

section
/-!
The event controller: its words and their hold, its settings, and the claims of its targets (R456, R458, R461, R462, R464,
R467 to R470).
-/
namespace Sys2Proof.Machine

/-! ### What delivery leaves alone -/

/-- Delivery notes which targets are up and nothing else of the controller (R457). -/
theorem evRefresh_evc (s : State) : ∃ u, (evRefresh s).evc = { s.evc with up := u } := by
  obtain ⟨u, p, q, h⟩ := evRefresh_frame s
  exact ⟨u, by rw [h]⟩

section Refresh
variable (s : State)

@[simp] theorem evRefresh_evcPend : (evRefresh s).evc.pend = s.evc.pend := by obtain ⟨u, h⟩ := evRefresh_evc s; rw [h]
@[simp] theorem evRefresh_evcMask : (evRefresh s).evc.mask = s.evc.mask := by obtain ⟨u, h⟩ := evRefresh_evc s; rw [h]
@[simp] theorem evRefresh_evcPrio : (evRefresh s).evc.prio = s.evc.prio := by obtain ⟨u, h⟩ := evRefresh_evc s; rw [h]
@[simp] theorem evRefresh_evcRoute : (evRefresh s).evc.route = s.evc.route := by obtain ⟨u, h⟩ := evRefresh_evc s; rw [h]
@[simp] theorem evRefresh_evcTargets : (evRefresh s).evc.targets = s.evc.targets := by
  obtain ⟨u, h⟩ := evRefresh_evc s; rw [h]
@[simp] theorem evRefresh_evcHeld : (evRefresh s).evc.held = s.evc.held := by obtain ⟨u, h⟩ := evRefresh_evc s; rw [h]
@[simp] theorem evRefresh_evcLatched : (evRefresh s).evc.latched = s.evc.latched := by
  obtain ⟨u, h⟩ := evRefresh_evc s; rw [h]

end Refresh

/-! ### Words and the hold -/

/-- A control core, or the host with its link up and the module awake, has its effect at once. -/
theorem next_byAgent {a : Fin 9} {s : State} (h : a.val < 8 ∨ (hostUp s = true ∧ s.pow.st ≠ 2)) (k : State → State) :
    (.next (byAgent a s k) : Outcome) = .next (k s) := congrArg _ (byAgent_reaches h k)

/-- In canonical tables the word written reads back and every other is as before. -/
theorem evPend_setPend {s : State} (hwf : sparseWf 0 s.evc.pend = true) (n : Nat) (v : Word) (k : Nat) :
    evPend (setPend n v s).evc k = if k = n then v else evPend s.evc k := by
  simp only [evPend, setPend, evRefresh_evcPend]
  exact sparseGet_set 0 s.evc.pend hwf n k v

theorem evMask_setMask {s : State} (hwf : sparseWf (BitVec.allOnes 32) s.evc.mask = true) (n : Nat) (v : Word) (k : Nat) :
    evMask (setMask n v s).evc k = if k = n then v else evMask s.evc k := by
  simp only [evMask, setMask, evRefresh_evcMask]
  exact sparseGet_set (BitVec.allOnes 32) s.evc.mask hwf n k v

theorem setPend_mem (n : Nat) (v : Word) (s : State) : (setPend n v s).mem = s.mem := by simp only [setPend, evRefresh_mem]
theorem setMask_mem (n : Nat) (v : Word) (s : State) : (setMask n v s).mem = s.mem := by simp only [setMask, evRefresh_mem]

theorem lapseHold_free {s : State} (h : s.evc.held = none) : lapseHold s = s := by simp [lapseHold, h]

theorem lapseHold_early {s : State} (h : s.now < s.evc.holdAt + 1000) : lapseHold s = s :=
  if_neg fun hl => absurd hl.2 (Nat.not_le.2 h)

theorem releaseHold_free {s : State} (h : s.evc.held = none) : releaseHold s = s := by simp only [releaseHold, h]

/-- Where no word is held a write is made at once. -/
theorem evWrite_free {s : State} (h : s.evc.held = none) (a : Nat) (mask : Bool) (n : Nat) (v : Word) :
    evWrite a mask n v s = if mask then setMask n v s else setPend n v s := by
  simp [evWrite, wordHeld, h]

/-- A write to a word that another agent holds waits. -/
theorem evWrite_waits {s : State} {a n : Nat} (hheld : s.evc.held = some n) (howner : s.evc.owner ≠ a)
    (htime : s.now < s.evc.holdAt + 1000) (mask : Bool) (v : Word) :
    evWrite a mask n v s = { s with evc := { s.evc with waits := s.evc.waits ++ [⟨mask, n, v⟩] } } := by
  simp [evWrite, wordHeld, hheld, howner, htime]

/-- After 1 µs a hold ends: without waiting writes, what was latched merges into its word (R462). -/
theorem lapseHold_expires {s : State} {n : Nat} (hheld : s.evc.held = some n) (htime : s.evc.holdAt + 1000 ≤ s.now)
    (hwaits : s.evc.waits = []) (hwf : sparseWf 0 s.evc.pend = true) :
    (lapseHold s).evc.held = none ∧ (lapseHold s).evc.expired = true ∧ (lapseHold s).evc.latched = 0 ∧
      ∀ k, evPend (lapseHold s).evc k = if k = n then evPend s.evc n ||| s.evc.latched else evPend s.evc k := by
  have hlapse : lapseHold s = { releaseHold s with evc := { (releaseHold s).evc with expired := true } } :=
    if_pos ⟨by rw [hheld]; rfl, htime⟩
  have hrel : releaseHold s = setPend n (evPend s.evc n ||| s.evc.latched)
      { s with evc := { s.evc with held := none, owner := 15, latched := 0, waits := [] } } := by
    simp only [releaseHold, hheld, hwaits, List.foldl_nil, evPend]
  rw [hlapse]
  refine ⟨by simp [hrel, setPend], rfl, by simp [hrel, setPend], fun k => ?_⟩
  simp only [hrel]
  exact evPend_setPend (s := { s with evc := { s.evc with held := none, owner := 15, latched := 0, waits := [] } }) hwf n _ k

/-! ### Priorities, routes and thresholds -/

/-- A block of `n` entries from key `a` on, set one after another: each entry of the block reads its value, every other as before. -/
theorem sparseGet_foldl_set {m : Sparse Nat} (hwf : sparseWf 0 m = true) (a : Nat) (f : Nat → Nat) (n k : Nat) :
    sparseWf 0 ((List.range n).foldl (fun m b => sparseSet 0 m (a + b) (f b)) m) = true ∧
    sparseGet 0 ((List.range n).foldl (fun m b => sparseSet 0 m (a + b) (f b)) m) k =
      if a ≤ k ∧ k < a + n then f (k - a) else sparseGet 0 m k := by
  induction n with
  | zero => exact ⟨hwf, by rw [if_neg (by omega)]; rfl⟩
  | succ n ih =>
    obtain ⟨hw, hg⟩ := ih
    rw [List.range_succ, List.foldl_append]
    refine ⟨sparseWf_set 0 _ _ _ hw, ?_⟩
    simp only [List.foldl_cons, List.foldl_nil]
    rw [sparseGet_set 0 _ hw, hg]
    by_cases hk : k = a + n
    · rw [if_pos hk, if_pos (by omega), hk, Nat.add_sub_cancel_left]
    · rw [if_neg hk]
      exact ite_congr (by simp only [eq_iff_iff]; omega) (fun _ => rfl) (fun _ => rfl)

/-- A field of `w` bits from bit `b` on, as a quotient and a remainder. -/
theorem bits_field (v b : Nat) {w : Nat} (hw : 0 < w) : bits v (b + (w - 1)) b = v / 2 ^ b % 2 ^ w := by
  rw [bits, Nat.shiftRight_eq_div_pow, show b + (w - 1) + 1 - b = w by omega]

theorem evPrio_block {s : State} (hwf : sparseWf 0 s.evc.prio = true) (n : Nat) (v : Word) (k : Nat) :
    sparseGet 0 ((List.range 8).foldl (fun m b => sparseSet 0 m (8 * n + b) (bits v.toNat (4 * b + 3) (4 * b))) s.evc.prio) k =
      if k / 8 = n then v.toNat / 2 ^ (4 * (k % 8)) % 16 else evPrio s.evc k := by
  rw [(sparseGet_foldl_set hwf (8 * n) _ 8 k).2]
  refine ite_congr (by simp only [eq_iff_iff]; omega) (fun h => ?_) (fun _ => rfl)
  rw [show k - 8 * n = k % 8 by omega]
  exact bits_field v.toNat (4 * (k % 8)) (w := 4) (by decide)

theorem evRoute_block {s : State} (hwf : sparseWf 0 s.evc.route = true) (n : Nat) (v : Word) (k : Nat) :
    sparseGet 0 ((List.range 4).foldl (fun m b => sparseSet 0 m (4 * n + b) (bits v.toNat (8 * b + 6) (8 * b))) s.evc.route) k =
      if k / 4 = n then v.toNat / 2 ^ (8 * (k % 4)) % 128 else evRoute s.evc k := by
  rw [(sparseGet_foldl_set hwf (4 * n) _ 4 k).2]
  refine ite_congr (by simp only [eq_iff_iff]; omega) (fun h => ?_) (fun _ => rfl)
  rw [show k - 4 * n = k % 4 by omega]
  exact bits_field v.toNat (8 * (k % 4)) (w := 7) (by decide)

/-- In a canonical table the target set reads back after delivery and every other is as before. -/
theorem evTarget_refreshed {s : State} (hwf : sparseWf {} s.evc.targets = true) (t : Nat) (y : EvTarget) (k : Nat) :
    evTarget (evRefresh { s with evc := { s.evc with targets := sparseSet {} s.evc.targets t y } }).evc k =
      if k = t then y else evTarget s.evc k := by
  rw [evTarget, evRefresh_evcTargets]
  exact sparseGet_set ({} : EvTarget) s.evc.targets hwf t k y

/-- Settles O43: each write by whether a word is held, the settings block by block. -/
theorem eventWordsAndHold : Obligations.EventWordsAndHold := by
  intro a s hagent
  have reaches := fun k => next_byAgent hagent k
  refine ⟨fun n v hfree hwf => ⟨?pend, fun hmask => ?mask⟩, fun n v hheld howner htime => ⟨?pendWaits, ?maskWaits⟩,
    fun v hfree hhold hkeep => ?hold, fun n hheld htime hwaits hwf => ?expiry, fun n v hwf => ?prio, fun n v hwf => ?route,
    fun n v hwf => ?thresh⟩
  case pend =>
    refine ⟨_, reaches _, ?_⟩
    rw [lapseHold_free hfree, evWrite_free hfree]
    have hget := evPend_setPend hwf n v
    exact ⟨(hget n).trans (if_pos rfl), setPend_mem n v s, fun k hk => (hget k).trans (if_neg hk)⟩
  case mask =>
    refine ⟨_, reaches _, ?_⟩
    rw [lapseHold_free hfree, evWrite_free hfree]
    have hget := evMask_setMask hmask n v
    exact ⟨(hget n).trans (if_pos rfl), setMask_mem n v s, fun k hk => (hget k).trans (if_neg hk)⟩
  case pendWaits =>
    refine (reaches _).trans ?_
    rw [lapseHold_early htime, evWrite_waits hheld howner htime]
  case maskWaits =>
    refine (reaches _).trans ?_
    rw [lapseHold_early htime, evWrite_waits hheld howner htime]
  case hold =>
    refine (reaches _).trans ?_
    simp only [lapseHold_free hfree, releaseHold_free hfree, hfree, hhold, hkeep, Option.isSome_none, Bool.false_and,
      Bool.false_eq_true, if_false, if_true]
  case expiry =>
    obtain ⟨hnone, hexp, hlatch, hget⟩ := lapseHold_expires hheld htime hwaits hwf
    have hexec : exec .evcHoldExpiry s = .next (lapseHold s) := if_pos ⟨by rw [hheld]; rfl, htime⟩
    exact ⟨_, hexec, hnone, hexp, hlatch, (hget n).trans (if_pos rfl), fun k hk => (hget k).trans (if_neg hk)⟩
  case prio =>
    refine ⟨_, reaches _, by simp, by simp, fun k => ?_⟩
    rw [evPrio, evRefresh_evcPrio]
    exact evPrio_block hwf n v k
  case route =>
    refine ⟨_, reaches _, by simp, by simp, fun k => ?_⟩
    rw [evRoute, evRefresh_evcRoute]
    exact evRoute_block hwf n v k
  case thresh =>
    have hthresh : bits v.toNat 3 0 = v.toNat % 16 := by simp only [bits, Nat.shiftRight_zero, Nat.reduceAdd, Nat.reduceSub, Nat.reducePow]
    refine ⟨_, reaches _, ?_, ?_, evRefresh_mem _, fun k hk => (evTarget_refreshed hwf n _ k).trans (if_neg hk)⟩
    · exact (congrArg EvTarget.thresh ((evTarget_refreshed hwf n _ n).trans (if_pos rfl))).trans hthresh
    · exact (congrArg EvTarget.claims ((evTarget_refreshed hwf n _ n).trans (if_pos rfl))).trans rfl

/-! ### Claims -/

/-- The choice among sources that follow one already chosen: it stays or is replaced by a better one (R458). -/
theorem bestSource_from (e : Evc) (l : List Nat) (b : Nat) : ∃ k,
    l.foldl (fun acc k => match acc with
      | none => some k
      | some b => if evPrio e b < evPrio e k then some k else some b) (some b) = some k ∧
    (k = b ∨ k ∈ l) ∧ evPrio e b ≤ evPrio e k ∧ ∀ j ∈ l, evPrio e j ≤ evPrio e k := by
  induction l generalizing b with
  | nil => exact ⟨b, rfl, .inl rfl, Nat.le_refl _, fun j hj => absurd hj (List.not_mem_nil)⟩
  | cons x l ih =>
    simp only [List.foldl_cons]
    split
    case isTrue hlt =>
      obtain ⟨k, hk, hmem, hle, hall⟩ := ih x
      refine ⟨k, hk, .inr ?_, Nat.le_trans (Nat.le_of_lt hlt) hle, List.forall_mem_cons.2 ⟨hle, hall⟩⟩
      exact hmem.elim (fun h => h ▸ List.mem_cons_self) (List.mem_cons_of_mem x)
    case isFalse hge =>
      obtain ⟨k, hk, hmem, hle, hall⟩ := ih b
      refine ⟨k, hk, hmem.imp_right (List.mem_cons_of_mem x), hle, List.forall_mem_cons.2 ⟨?_, hall⟩⟩
      exact Nat.le_trans (Nat.le_of_not_lt hge) hle

/-- Of some sources the one chosen is among them, and none has a higher priority (R458). -/
theorem bestSource_some (e : Evc) {l : List Nat} (h : l ≠ []) :
    ∃ k, bestSource e l = some k ∧ k ∈ l ∧ ∀ j ∈ l, evPrio e j ≤ evPrio e k := by
  obtain ⟨x, l, rfl⟩ := List.exists_cons_of_ne_nil h
  obtain ⟨k, hk, hmem, hle, hall⟩ := bestSource_from e l x
  exact ⟨k, hk, hmem.elim (fun h => h ▸ List.mem_cons_self) (List.mem_cons_of_mem x), List.forall_mem_cons.2 ⟨hle, hall⟩⟩

section Claim
variable {a : Fin 9} {t : Fin 72} {s : State}

/-- The pending sources that a target is the target of. -/
def sourcesOf (s : State) (t : Nat) : List Nat := (pendingSources s.evc).filter (fun k => evRoute s.evc k == t)

/-- The state after a claim of source `k` (R458). -/
def claimedBy (s : State) (t k : Nat) : State :=
  evRefresh { s with
    reply := leBytes 4 (k + evPrio s.evc k * 2 ^ 12)
    evc := { s.evc with
      pend := sparseSet 0 s.evc.pend (k / 32) (evPend s.evc (k / 32) &&& ~~~(BitVec.ofNat 32 (2 ^ (k % 32))))
      maskedAt := sparseSet 0 s.evc.maskedAt k 0
      targets := sparseSet {} s.evc.targets t
        { evTarget s.evc t with claims := (k, evPrio s.evc k) :: (evTarget s.evc t).claims } } }

/-- A target after DONE names a source: its innermost claim, or any other (R458). -/
def doneWith (x : EvTarget) (src : Nat) : EvTarget :=
  match x.claims with
  | [] => { x with doneErr := true }
  | (k, _) :: rest => if k = src then { x with claims := rest } else { x with doneErr := true }

variable (hagent : a.val < 8 ∨ (hostUp s = true ∧ s.pow.st ≠ 2))
include hagent

/-- Outside the window of R464 a claim takes the best deliverable source. -/
theorem evcClaim_takes (hlate : (sourcesOf s t).filter (lateSource s) = []) :
    exec (.evcClaim a t) s = .next (match bestSource s.evc ((sourcesOf s t).filter (deliverable s.evc)) with
      | none => { s with reply := leBytes 4 (2 ^ 31) }
      | some k => claimedBy s t k) := by
  refine (next_byAgent hagent _).trans ?_
  unfold sourcesOf at hlate
  simp only [hlate, List.isEmpty_nil, Bool.not_true, Bool.false_and, Bool.or_false, if_true]
  rfl

/-- DONE acts on the target alone. -/
theorem evcDone_sets (src : BitVec 10) : exec (.evcDone a t src) s =
    .next (evRefresh { s with evc := { s.evc with
      targets := sparseSet {} s.evc.targets t (doneWith (evTarget s.evc t) src.toNat) } }) := by
  refine (next_byAgent hagent _).trans ?_
  simp only [doneWith]
  cases (evTarget s.evc t).claims with
  | nil => rfl
  | cons x rest => dsimp only; split <;> rfl

end Claim

/-- Settles O44: CLAIM by the best source, DONE by the innermost claim, SYNC at once. -/
theorem claimsNest : Obligations.ClaimsNest := by
  intro a t s hagent
  refine ⟨fun hlate => ?claim, fun src hwf => ⟨fun p l hclaims => ?pops, fun hother => ?doneErr⟩, fun hwaits => ?sync⟩
  case claim =>
    have hexec := evcClaim_takes hagent (t := t) hlate
    refine ⟨fun hnone => ?_, fun hsome hwf hpend => ?_⟩
    · simp only [hexec, sourcesOf, hnone]; rfl
    · obtain ⟨k, hbest, hmem, hall⟩ := bestSource_some s.evc hsome
      obtain ⟨hmine, hdel⟩ := List.mem_filter.1 hmem
      simp only [sourcesOf, hbest] at hexec
      refine ⟨k, _, hexec, hmine, hdel, fun j hj hd => hall j (List.mem_filter.2 ⟨hj, hd⟩), by simp [claimedBy], ?_, ?_,
        by simp [claimedBy]⟩
      · rw [evPend, claimedBy, evRefresh_evcPend]
        exact (sparseGet_set 0 s.evc.pend hpend _ _ _).trans (if_pos rfl)
      · rw [evTarget, claimedBy, evRefresh_evcTargets]
        exact congrArg EvTarget.claims ((sparseGet_set _ s.evc.targets hwf t t _).trans (if_pos rfl))
  case pops =>
    refine ⟨_, evcDone_sets hagent src, ((evTarget_refreshed hwf t _ t).trans (if_pos rfl)).trans ?_, evRefresh_mem _⟩
    simp only [doneWith, hclaims, if_true]
  case doneErr =>
    refine ⟨_, evcDone_sets hagent src, ((evTarget_refreshed hwf t _ t).trans (if_pos rfl)).trans ?_, evRefresh_mem _⟩
    simp only [doneWith]
    cases h : (evTarget s.evc t).claims with
    | nil => rfl
    | cons x rest => exact if_neg fun hk => hother x.2 rest (by rw [h, ← hk])
  case sync =>
    have hexec : exec (.evcSync a) s = .next (byAgent a s fun s =>
        { s with reply := leBytes 4 0, evc := { s.evc with maskedAt := [] } }) := if_pos (by rw [hwaits]; rfl)
    exact hexec.trans (next_byAgent hagent _)

end Sys2Proof.Machine
end

section
/-!
Identity, reports and the reads of the keeper region: the lengths of digests and signatures, the DOE's answers and the SMBus
blocks (R475, R508, R510, R515, R516, R521, R525, R538, R539).
-/
namespace Sys2Proof.Machine

/-! ### Lengths of digests -/

theorem flatMap_length_const {α β : Type} {f : α → List β} {n : Nat} (l : List α) (h : ∀ a ∈ l, (f a).length = n) :
    (l.flatMap f).length = l.length * n := by
  induction l with
  | nil => simp
  | cons a l ih =>
    rw [List.flatMap_cons, List.length_append, h a List.mem_cons_self, ih fun b hb => h b (List.mem_cons_of_mem a hb),
      List.length_cons, Nat.succ_mul, Nat.add_comm]

theorem keccakRound_length (a : List (BitVec 64)) (rc : BitVec 64) : (keccakRound a rc).length = 25 := by
  simp [keccakRound]

/-- The permutation keeps the 25 lanes. -/
theorem keccakF_length {a : List (BitVec 64)} (h : a.length = 25) : (keccakF a).length = 25 :=
  List.foldlRecOn (motive := fun b => b.length = 25) keccakRc keccakRound h fun b _ rc _ => keccakRound_length b rc

theorem keccakAbsorb_length (lanes : Nat) (a : List (BitVec 64)) (block : List Byte) :
    (keccakAbsorb lanes a block).length = 25 := keccakF_length (by simp)

theorem keccakSponge_length (lanes : Nat) (dom : Byte) (bs : List Byte) : (keccakSponge lanes dom bs).length = 25 :=
  List.foldlRecOn (motive := fun b => b.length = 25) _ (keccakAbsorb lanes) List.length_replicate fun b _ block _ => keccakAbsorb_length lanes b block

theorem keccakSqueeze_length {lanes : Nat} (hl : lanes ≤ 25) (n : Nat) {a : List (BitVec 64)} (h : a.length = 25) :
    (keccakSqueeze lanes n a).length = n * (lanes * 8) := by
  induction n generalizing a with
  | zero => simp [keccakSqueeze]
  | succ n ih =>
    rw [keccakSqueeze, List.length_append, ih (keccakF_length h), flatMap_length_const _ fun l _ => leBytes_length 8 l.toNat,
      List.length_take, h, Nat.min_eq_left hl, Nat.succ_mul, Nat.add_comm]

theorem sha3_length (bs : List Byte) : (sha3 bs).length = 32 := by
  rw [sha3, flatMap_length_const _ fun l _ => leBytes_length 8 l.toNat, List.length_take, keccakSponge_length]
  rfl

theorem shake256_length (bs : List Byte) (n : Nat) : (shake256 bs n).length = n := by
  rw [shake256, List.length_take, keccakSqueeze_length (by decide) _ (keccakSponge_length _ _ _), Nat.min_eq_left]
  simp only [ceilDiv, Nat.reduceEqDiff, if_false]
  omega

/-! ### The length of a signature (R516) -/

theorem packBits_length (w : Nat) (l : List Nat) : (packBits w l).length = 32 * w := leBytes_length _ _

theorem writeHints_length (h : List (List Nat)) : (writeHints h).length = 84 := by
  simp [writeHints, slice_length]

/-- A round that is accepted gives a challenge, four polynomials and the hints. -/
theorem signRound_length {k : DsaKey} (hk : k.s1.length = 4) {mu mask b : List Byte} {kappa : Nat}
    (h : signRound k mu mask kappa = some b) : b.length = 2420 := by
  simp only [signRound] at h
  split at h
  · cases h
  · split at h
    · cases h
    · cases h
      rw [List.length_append, List.length_append, shake256_length, writeHints_length,
        flatMap_length_const _ fun p _ => packBits_length 18 _]
      simp [hk]

theorem signLoop_length {k : DsaKey} (hk : k.s1.length = 4) {mu mask b : List Byte} {fuel kappa : Nat}
    (h : signLoop k mu mask fuel kappa = some b) : b.length = 2420 := by
  induction fuel generalizing kappa with
  | zero => cases h
  | succ fuel ih =>
    simp only [signLoop] at h
    split at h
    · rename_i hround
      cases h
      exact signRound_length hk hround
    · exact ih h

theorem mldsaKey_s1_length (seed : List Byte) : (mldsaKey seed).s1.length = 4 := by simp [mldsaKey]

/-- What stands behind the signed bytes of a report: their signature, or free bytes where signing gives up (R516). -/
def reportSignature (s : State) (b : List Byte) : List Byte :=
  (mldsaSign deviceKey b ((List.range 32).map (Config.signRandom s.free))).getD
    ((List.range 2420).map (fun i => Config.signRandom s.free (32 + i)))

theorem reportSignature_length (s : State) (b : List Byte) : (reportSignature s b).length = 2420 := by
  unfold reportSignature
  cases h : mldsaSign deviceKey b ((List.range 32).map (Config.signRandom s.free)) with
  | none => simp
  | some sig => exact signLoop_length (mldsaKey_s1_length _) h

/-- The signed bytes of a report are 512 (R517). -/
theorem reportBytes_length (s : State) (nonce : List Byte) : (reportBytes s nonce).length = 512 := by
  simp [reportBytes, leBytes_length, slice_length, identityHash, sha3_length]

/-! ### The DOE's answers -/

section Doe
variable {s : State} (hup : hostUp s = true)
include hup

/-- A request with a reserved byte set is answered DOE_REQUEST_BAD. -/
theorem doe_reserved {r : BitVec 24} (hr : r ≠ 0) (n : BitVec 256) (f : BitVec 32) (k : BitVec 16) :
    exec (.getIdentity r) s = .next (doe .doeRequestBad [] (wakeS2 s)) ∧
    exec (.getReport r n) s = .next (doe .doeRequestBad [] (wakeS2 s)) ∧
    exec (.getLog r f k) s = .next (doe .doeRequestBad [] (wakeS2 s)) :=
  ⟨(next_viaHost hup _).trans (congrArg _ (if_pos hr)), (next_viaHost hup _).trans (congrArg _ (if_pos hr)),
    (next_viaHost hup _).trans (congrArg _ (if_pos (.inl hr)))⟩

/-- Without an identity GET_IDENTITY and GET_REPORT fail. -/
theorem doe_without_identity (hid : s.sec.idOk = false) (n : BitVec 256) :
    exec (.getIdentity 0) s = .next (doe .identityFailed [] (wakeS2 s)) ∧
    exec (.getReport 0 n) s = .next (doe .identityFailed [] (wakeS2 s)) := by
  have hnot : (!(wakeS2 s).sec.idOk) = true := by rw [wakeS2_sec, hid]; rfl
  exact ⟨(next_viaHost hup _).trans (congrArg _ ((if_neg (fun h => h rfl)).trans (if_pos hnot))),
    (next_viaHost hup _).trans (congrArg _ ((if_neg (fun h => h rfl)).trans (if_pos hnot)))⟩

theorem getIdentity_answers (hid : s.sec.idOk = true) : exec (.getIdentity 0) s = .next (doe .success
    (deviceKey.pub ++ leBytes 8 Config.bootRomVersion.toNat ++ rootHash) (wakeS2 s)) := by
  have hnot : ¬ (!(wakeS2 s).sec.idOk) = true := by rw [wakeS2_sec, hid]; simp
  exact (next_viaHost hup _).trans (congrArg _ ((if_neg (fun h => h rfl)).trans (if_neg hnot)))

/-- With an identity GET_REPORT answers the signed bytes and what stands behind them. -/
theorem getReport_answers (hid : s.sec.idOk = true) (n : BitVec 256) : let b := reportBytes (wakeS2 s) (leBytes 32 n.toNat)
    exec (.getReport 0 n) s = .next (doe .success (b ++ reportSignature (wakeS2 s) b) (takeFree (wakeS2 s))) := by
  have hnot : ¬ (!(wakeS2 s).sec.idOk) = true := by rw [wakeS2_sec, hid]; simp
  exact (next_viaHost hup _).trans (congrArg _ ((if_neg (fun h => h rfl)).trans (if_neg hnot)))

end Doe

/-- A successful answer begins with four zero bytes (R515). -/
theorem doe_success_reply (b : List Byte) (s : State) : (doe .success b s).reply = [0, 0, 0, 0] ++ b := rfl

theorem closeDebug_closes (s : State) : (closeDebug s).sec.dbg = none ∧ (closeDebug s).mem = s.mem := by
  simp only [closeDebug, raise_sec, raise_mem, extendMr_mem, and_self]

/-- The keeper region answers while auxiliary is present, and with nothing otherwise (R539). -/
theorem smbReply_aux {s : State} (h : s.pow.auxOk = true) (b : List Byte) : smbReply s b = { s with reply := b } := by
  rw [smbReply, h, if_pos rfl]

theorem smbReply_dark {s : State} (h : s.pow.auxOk = false) (b : List Byte) : smbReply s b = { s with reply := [] } := by
  rw [smbReply, h, if_neg Bool.false_ne_true]

/-- Settles O53: each request by its checks, the SMBus reads by whether auxiliary is present. -/
theorem requestsAndReportsAnswer : Obligations.RequestsAndReportsAnswer := by
  refine ⟨fun m s hup => ⟨fun hm => ?extend, fun hm => ?extendBad⟩, fun r n f k s hup =>
      ⟨fun hr => doe_reserved hup hr n f k, fun hk => ?badCount, fun hr hk hk' => ?log, fun hr hid => ?_, fun hr hid => ⟨?_, ?report⟩⟩,
    fun s hover => ⟨_, if_pos hover, closeDebug_closes s⟩,
    fun s haux => ⟨?_, fun n hn => ?_, fun n hn => ?_, ?_⟩, fun s haux => ⟨?_, fun n => ?_, ?_⟩⟩
  case extend => exact (next_viaHost hup _).trans (congrArg _ (if_pos hm))
  case extendBad => exact (next_viaHost hup _).trans (congrArg _ (if_neg (Nat.not_le.2 hm)))
  case badCount => exact (next_viaHost hup _).trans (congrArg _ (if_pos (.inr hk)))
  case log =>
    have hfine : ¬ (r ≠ 0 ∨ k.toNat = 0 ∨ 64 < k.toNat) := by
      rintro (h | h | h)
      · exact h hr
      · omega
      · omega
    exact (next_viaHost hup _).trans (congrArg _ (if_neg hfine))
  case report =>
    subst hr
    have hsig := reportSignature_length (wakeS2 s) (reportBytes (wakeS2 s) (leBytes 32 n.toNat))
    have hrep := reportBytes_length (wakeS2 s) (leBytes 32 n.toNat)
    refine ⟨_, getReport_answers hup hid n, wakeS2_mem s, wakeS2_sec s, rfl, ?_, ?_⟩
    · rw [doe_success_reply, List.length_append, List.length_append, hrep, hsig]; rfl
    · rw [doe_success_reply, ← hrep]
      exact List.take_left
  · subst hr; exact doe_without_identity hup hid n
  · subst hr; exact getIdentity_answers hup hid
  · exact congrArg _ (smbReply_aux haux _)
  · exact congrArg _ ((smbReply_aux haux _).trans (by rw [if_neg (Nat.not_lt.2 hn)]))
  · exact congrArg _ ((smbReply_aux haux _).trans (by rw [if_pos hn]))
  · exact congrArg _ (smbReply_aux haux _)
  · exact congrArg _ (smbReply_dark haux _)
  · exact congrArg _ (smbReply_dark haux _)
  · exact congrArg _ (smbReply_dark haux _)

end Sys2Proof.Machine
end

section
/-!
TASK records, starts, kills and the overrun of pinned tasks (R356, R360, R363, R365, R367, R376).
-/
namespace Sys2Proof.Machine

section Tasks
variable {s : State} {tag : BitVec 16} {t : Task}

/-- A well-formed TASK record waits behind those of its domain, and descriptors go out as slots allow (R356, R439). -/
theorem task_taken {h : Hdr} {d : Nat} (hdom : domOfVf s h.vf = some d) (hst : (domAt s d).st = .active) {a : BitVec 64}
    {n : BitVec 16} (hlow : 1 ≤ n.toNat) (hhigh : n.toNat ≤ 256) (hal : a.toNat % 128 = 0) :
    exec (.task h a n) s = .next (dispatchDom (modDom s d (fun x =>
      { x with tasking := x.tasking ++ [(srcOf h, a.toNat, n.toNat)] })) d) := by
  show Host.Outcome.next (doTask (srcOf h) a.toNat n.toNat s) = _
  rw [doTask, ringCmd_accepted hdom (by rw [hst]; exact List.mem_singleton.2 rfl), if_neg (by omega)]

theorem taskStart_legal (ht : taskOf s tag.toNat = some t) {isls : List (Fin 256)}
    (hlegal : startLegal s t (isls.map (·.val)) = true) :
    exec (.taskStart tag isls) s = .next (startGang s t (isls.map (·.val))) := by
  show execTaskStart tag isls s = _
  simp only [execTaskStart, ht]
  exact if_pos hlegal

/-- A task is killed when the victim that a Ready LC task needs is of its gang (R362, R368). -/
theorem taskKill_for {i : Fin 256} {v : Task} (hv : taskAt s i = some v)
    (hneed : ∃ t ∈ s.tasks, t.desc.lc = true ∧ t.phase ≠ .running ∧ isReady s t = true ∧
      ∃ w, nextVictim s t = some w ∧ ∃ u ∈ gangOf s w, u.tag = v.tag) :
    exec (.taskKill i) s = .next (killGang s v) := by
  show execTaskKill i s = _
  simp only [execTaskKill, hv]
  obtain ⟨t, hmem, hlc, hph, hready, w, hw, u, hu, htag⟩ := hneed
  refine if_pos (List.any_eq_true.2 ⟨t, hmem, ?_⟩)
  simp only [hlc, hph, hready, hw, ne_eq, not_false_eq_true, decide_true, Bool.and_true, Bool.true_and]
  exact List.any_eq_true.2 ⟨u, hu, beq_iff_eq.2 htag⟩

theorem killWritesDrained_due (ht : taskOf s tag.toNat = some t) (hph : t.phase = .killed) (hdr : t.drained = false)
    (hold : oldVengs s t = false) : exec (.killWritesDrained tag) s = .next (setTask s { t with drained := true }) := by
  show execKillWritesDrained tag s = _
  simp only [execKillWritesDrained, ht]
  exact if_pos ⟨hph, by rw [hdr]; rfl, by rw [hold]; rfl⟩

/-- 20 µs after its first instruction issued a pinned task that runs ends (R367). -/
theorem pinOverrun_due {i t0 : Nat} (ht : taskOf s tag.toNat = some t) (hisl : t.island = some i)
    (hfirst : (islandAt s i).firstAt = some t0) (hpin : t.desc.pinned = true) (hph : t.phase = .running)
    (htime : t0 + 20000 ≤ s.now) : exec (.pinOverrun tag) s = .next (overrun s t) := by
  show execPinOverrun tag s = _
  simp only [execPinOverrun, ht, hisl, Option.map_some, Option.bind_some, hfirst]
  exact if_pos ⟨hpin, hph, htime⟩

end Tasks

/-- Settles O19: each command when it is due. -/
theorem tasksDispatchStartAndEnd : Obligations.TasksDispatchStartAndEnd :=
  ⟨fun _ _ _ _ _ hdom hst hlow hhigh hal => task_taken hdom hst hlow hhigh hal,
    fun _ _ _ _ ht hlegal => taskStart_legal ht hlegal,
    fun _ _ _ hv hneed => taskKill_for hv hneed,
    fun _ _ _ ht hph hdr hold => killWritesDrained_due ht hph hdr hold,
    fun _ _ _ _ _ ht hisl hfirst hpin hph htime => pinOverrun_due ht hisl hfirst hpin hph htime⟩

end Sys2Proof.Machine
end

section
/-!
Sound ports: training, link loss, retraining, cable faults and the three flits (R382 to R384, R391, R418, R540).
-/
namespace Sys2Proof.Machine

/-! ### The port table -/

theorem port_ne_default {x : Port} (h : x.st ≠ 0 ∨ x.cableOff = true) : x ≠ {} := by
  rintro rfl
  exact h.elim (fun h => h rfl) Bool.false_ne_true

/-- A port that is not the empty one is listed as it was set, whatever the table's form. -/
theorem portAt_setPort_self (s : State) (p : Nat) {x : Port} (h : x.st ≠ 0 ∨ x.cableOff = true) :
    portAt (setPort s p x) p = x := sparseGet_set_self ({} : Port) s.net.ports p (port_ne_default h)

theorem portAt_setPort_ne (s : State) {p q : Nat} (x : Port) (h : q ≠ p) : portAt (setPort s p x) q = portAt s q :=
  sparseGet_set_ne ({} : Port) s.net.ports x h

theorem portAt_of_ports {s t : State} (h : t.net.ports = s.net.ports) (p : Nat) : portAt t p = portAt s p := by
  rw [portAt, h, portAt]

theorem settleRole_ports (s : State) : (settleRole s).net.ports = s.net.ports := by
  simp only [settleRole]
  split <;> rfl

theorem settleRole_mem (s : State) : (settleRole s).mem = s.mem := by
  simp only [settleRole]
  split <;> rfl

theorem wakeS2_net (s : State) : (wakeS2 s).net = s.net := by simp only [wakeS2]; split <;> simp
theorem wakeS2_now (s : State) : (wakeS2 s).now = s.now := by simp only [wakeS2]; split <;> simp

/-! ### Training and link loss -/

/-- What the end of a port's training records: up with the peer that its entry expects, else MISWIRED (R391). -/
def trainedPort (s : State) (p : Nat) (half : Bool) (id role : Nat) : Port :=
  { portAt s p with
    st := if peerFits s.conf.link (portRole s p) (portEntry s p).2.2 id role then 3 else 5, half := half, peer := id }

theorem portTrained_ports (s : State) (p : Nat) (half : Bool) (id role : Nat) :
    (portTrained s p half id role).net.ports = (setPort s p (trainedPort s p half id role)).net.ports := by
  unfold portTrained trainedPort
  split
  case isTrue =>
    rw [settleRole_ports]
    dsimp only
    split
    · show (raise (0x160 + p) _).net.ports = _
      rw [raise_net]
    · rw [raise_net]
  case isFalse =>
    simp only [raise_net, logE_net]

theorem portTrained_mem (s : State) (p : Nat) (half : Bool) (id role : Nat) :
    (portTrained s p half id role).mem = s.mem := by
  unfold portTrained
  split
  · exact (settleRole_mem _).trans (raise_mem _ _)
  · rw [raise_mem, logE_mem, setPort_mem]

/-- The end of a port's training sets that port alone. -/
theorem portTrained_port (s : State) (p : Nat) (half : Bool) (id role : Nat) :
    portAt (portTrained s p half id role) p = trainedPort s p half id role ∧
    ∀ q, q ≠ p → portAt (portTrained s p half id role) q = portAt s q := by
  have hports := portTrained_ports s p half id role
  have hst : (trainedPort s p half id role).st ≠ 0 := by
    unfold trainedPort
    dsimp only
    split <;> decide
  exact ⟨(portAt_of_ports hports p).trans (portAt_setPort_self s p (.inl hst)),
    fun q hq => (portAt_of_ports hports q).trans (portAt_setPort_ne s _ hq)⟩

/-- A link that goes down begins anew in retraining, with its buffers discarded; no other port changes (R384). -/
theorem linkDown_port (s : State) (p : Nat) :
    (linkDown s p).mem = s.mem ∧
    portAt (linkDown s p) p = { freshLink (portAt s p) with st := 4, half := false, downAt := s.now } ∧
    ∀ q, q ≠ p → portAt (linkDown s p) q = portAt s q := by
  have hports : (linkDown s p).net.ports =
      (setPort s p { freshLink (portAt s p) with st := 4, half := false, downAt := s.now }).net.ports := by
    simp only [linkDown, raise_net, logE_net]
  refine ⟨by simp only [linkDown, raise_mem, logE_mem, setPort_mem], ?_, fun q hq => ?_⟩
  · exact (portAt_of_ports hports p).trans (portAt_setPort_self s p (.inl (by simp)))
  · exact (portAt_of_ports hports q).trans (portAt_setPort_ne s _ hq)

section Links
variable {p : Fin 18} {s : State}

theorem portTrained_due (hrun : running s = true) (hrole : portRole s p ≠ 0) (hdis : (portAt s p).disable = false)
    (hcab : (portAt s p).cableOff = false) (hst : (portAt s p).st ∈ [1, 2, 4, 5]) (half : Bool) (id : BitVec 10) (role : BitVec 4) :
    exec (.portTrained p half id role) s = .next (portTrained s p half id.toNat role.toNat) := by
  refine if_pos ?_
  simp only [hrun, hdis, hcab, List.contains_iff_mem.2 hst, bne_iff_ne.2 hrole, Bool.not_false, Bool.and_self]

theorem portRetrain_due (hup : hostUp s = true) (hrole : portRole s p ≠ 0) (hdis : (portAt s p).disable = false) :
    exec (.portRetrain p) s = .next (setPort (wakeS2 s) p
      { freshLink (portAt s p) with st := 4, half := false, downAt := s.now }) := by
  refine (next_viaHost hup _).trans ?_
  have hport : portAt (wakeS2 s) p = portAt s p := portAt_of_ports (by rw [wakeS2_net]) p
  have hrole' : portRole (wakeS2 s) p = portRole s p := by rw [portRole, portEntry, wakeS2_conf, portRole, portEntry]
  simp only [hport, hrole', hrole, hdis, wakeS2_now, Bool.false_eq_true, or_self, if_false]

/-- A cable fault takes an up port down first, and then turns its cable supply off (R540). -/
theorem cbl3v3Short_port : ∃ t, exec (.cbl3v3Short p) s = .next t ∧ (portAt t p).cableOff = true ∧ portUp t p = false ∧
    t.mem = s.mem ∧ ∀ q, q ≠ p.val → portAt t q = portAt s q := by
  have key : ∀ u : State, portUp u p = false → u.mem = s.mem → (∀ q, q ≠ p.val → portAt u q = portAt s q) →
      ∃ t, (.next (setPort u p { portAt u p with cableOff := true }) : Outcome) = .next t ∧ (portAt t p).cableOff = true ∧
        portUp t p = false ∧ t.mem = s.mem ∧ ∀ q, q ≠ p.val → portAt t q = portAt s q := by
    intro u hdown hmem hother
    have hself := portAt_setPort_self u p (x := { portAt u p with cableOff := true }) (.inr rfl)
    exact ⟨_, rfl, by rw [hself], by rw [portUp, hself]; exact hdown, hmem,
      fun q hq => (portAt_setPort_ne u _ hq).trans (hother q hq)⟩
  show ∃ t, execCbl3v3Short p s = .next t ∧ _
  simp only [execCbl3v3Short]
  split
  case isTrue hup =>
    obtain ⟨hmem, hself, hother⟩ := linkDown_port s p
    exact key _ (by rw [portUp, hself]; rfl) hmem hother
  case isFalse hdown => exact key s (Bool.eq_false_iff.2 hdown) rfl fun _ _ => rfl

end Links

/-! ### Flits -/

/-- The flit lies in no uncorrectable codeword and its CRC holds (R382). -/
def flitGood (b : BitVec 2048) (bad : Bool) : Bool :=
  !bad && leAt (leBytes 256 b.toNat) 0xFC 4 == crc32c ((leBytes 256 b.toNat).take 252)

/-- The port has counted a flit's corrected symbols, and an uncorrectable one. -/
def flitCounted (s : State) (p k : Nat) (bad : Bool) : State :=
  setPort s p { portAt s p with
    corr := wrap32 ((portAt s p).corr + k)
    uncorr := wrap32 ((portAt s p).uncorr + b2n bad) }

section Flits
variable {p : Fin 18} {b : BitVec 2048} {bad : Bool} {s : State} (hup : portUp s p = true)
include hup

/-- A flit that is not good is discarded with NAK, whatever its type (R383). -/
theorem recvFlit_bad (hbad : flitGood b bad = false) (name : String) (type k : Nat) :
    recvFlit name type p b k bad s = .next (sendCtl (flitCounted s p k bad) p 2 0 0 true) := by
  unfold flitGood at hbad
  simp only [recvFlit, hup, hbad]
  rfl

/-- A good flit of its type acts by its control fields; a PAYLOAD flit in order is then accepted (R383). -/
theorem recvFlit_good (hgood : flitGood b bad = true) {type : Nat} (htype : leAt (leBytes 256 b.toNat) 0 1 = type) (name : String)
    (k : Nat) (hseq : type = 1 → portUp (flitControl (flitCounted s p k bad) p (leBytes 256 b.toNat)) p = true ∧
      leAt (leBytes 256 b.toNat) 2 2 = (portAt (flitControl (flitCounted s p k bad) p (leBytes 256 b.toNat)) p).rx) :
    let u := flitControl (flitCounted s p k bad) p (leBytes 256 b.toNat)
    recvFlit name type p b k bad s = .next (if type = 1 then acceptFlit (wakeS2 u) p (leBytes 256 b.toNat) else u) := by
  unfold flitGood at hgood
  unfold flitCounted at hseq ⊢
  simp only [recvFlit, hup, hgood, htype, Bool.not_true, Bool.false_or, bne_self_eq_false, Bool.and_false, Bool.false_eq_true,
    if_false, ne_eq]
  by_cases h1 : type = 1
  · obtain ⟨hstill, hrx⟩ := hseq h1
    have hrx' : ∀ u : State, (portAt (wakeS2 u) p).rx = (portAt u p).rx := fun u =>
      congrArg Port.rx (portAt_of_ports (congrArg Net.ports (wakeS2_net u)) p)
    simp only [h1, hstill, hrx, hrx', not_true_eq_false, decide_false, Bool.not_true, Bool.or_self, Bool.false_eq_true, if_false,
      if_true]
  · simp only [h1, not_false_eq_true, decide_true, Bool.true_or, if_true, if_false]

end Flits

/-- Settles O34: the ports by what each event sets, the flits by whether they are good. -/
theorem portsTrainAndCarryFlits : Obligations.PortsTrainAndCarryFlits := by
  refine ⟨fun p half id role s hrun hrole hdis hcab hst => ?trained, fun p s hup => ?down,
    fun p s hup hrole hdis => portRetrain_due hup hrole hdis, fun p s => cbl3v3Short_port, fun p b k bad s hup => ?flits⟩
  case trained =>
    obtain ⟨hself, hother⟩ := portTrained_port s p half id.toNat role.toNat
    exact ⟨_, portTrained_due hrun hrole hdis hcab hst half id role, portTrained_mem _ _ _ _ _, by rw [hself, trainedPort],
      by rw [hself, trainedPort], hother⟩
  case down =>
    obtain ⟨hmem, hself, hother⟩ := linkDown_port s p
    exact ⟨_, if_pos hup, hself, hmem, hother⟩
  case flits =>
    refine ⟨fun hbad => ⟨?_, ?_, ?_⟩, fun hgood htype => ?_, fun hgood htype => ?_, fun hgood htype hstill hseq => ?_⟩
    · exact recvFlit_bad hup hbad _ 1 _
    · exact recvFlit_bad hup hbad _ 2 _
    · exact recvFlit_bad hup hbad _ 0 _
    · exact recvFlit_good hup hgood htype _ _ (fun h => absurd h (by decide))
    · exact recvFlit_good hup hgood htype _ _ (fun h => absurd h (by decide))
    · exact recvFlit_good hup hgood htype _ _ (fun _ => ⟨hstill, hseq⟩)

end Sys2Proof.Machine
end

section
/-!
Shoal time: beacons and pulses (R402, R536).
-/
namespace Sys2Proof.Machine

/-- Shoal time that follows another module is local time with the offset, once a beacon has set it. -/
theorem shoalTime_follower {s : State} (hrole : s.net.role.role ≠ 0) (hsrc : timeSource s.net = false) (hlock : s.net.locked = true) :
    shoalTime s = ((s.now : Int) + s.net.offset).toNat := by
  simp only [shoalTime, hrole, hsrc, hlock, if_false, Bool.false_eq_true, if_true]

/-- What a beacon sets. -/
structure Corrected (s t : State) (new : Int) : Prop where
  mem : t.mem = s.mem
  now : t.now = s.now
  role : t.net.role = s.net.role
  locked : t.net.locked = true
  offset : t.net.offset = new
  corrAt : t.net.corrAt = s.now
  last : s.net.locked = true → t.net.lastCorr = new - s.net.offset
  drift : s.net.locked = true → 1000 < (new - s.net.offset).natAbs → t.net.drift = true

theorem timeBeacon_corrected (s : State) (time rtt : Nat) :
    Corrected s (timeBeacon s time rtt) ((time : Int) + (rtt / 2 : Nat) - (s.now : Int)) := by
  simp only [timeBeacon]
  split
  case isTrue hlock =>
    split
    case isTrue hfar =>
      exact ⟨by simp only [raise_mem, logE_mem], by simp only [raise_now, logE_now], by simp only [raise_net, logE_net],
        by simpa only [raise_net, logE_net] using hlock, by simp only [raise_net, logE_net], by simp only [raise_net, logE_net],
        fun _ => by simp only [raise_net, logE_net], fun _ _ => by simp only [raise_net, logE_net]⟩
    case isFalse hnear => exact ⟨rfl, rfl, rfl, hlock, rfl, rfl, fun _ => rfl, fun _ h => absurd h hnear⟩
  case isFalse hlock => exact ⟨rfl, rfl, rfl, rfl, rfl, rfl, fun h => absurd h hlock, fun h => absurd h hlock⟩

/-- Messages sent in turn stand in turn behind what was sent before; nothing else changes. -/
theorem foldl_sendMsg (f : State → Msg) (hf : ∀ (s : State) (l : List Out), f { s with sent := l } = f s) (ms : List Nat) (s : State) :
    ms.foldl (fun s m => sendMsg s m (f s)) s = { s with sent := s.sent ++ ms.map (fun m => .ctl m (f s)) } := by
  induction ms generalizing s with
  | nil => rw [List.foldl_nil, List.map_nil, List.append_nil]
  | cons m ms ih =>
    have hkeep : f (sendMsg s m (f s)) = f s := hf s _
    rw [List.foldl_cons, ih, hkeep, sendMsg, List.map_cons, List.append_assoc, List.singleton_append]

/-- A manager's beacons all carry the shoal time at which they are sent. -/
theorem timeBeaconSend_due {s : State} (hrole : 2 ≤ s.net.role.role) (hbeat : s.net.beatAt + 100000 ≤ s.now) :
    exec .timeBeaconSend s = .next { s with
      net := { s.net with beatAt := s.now }
      sent := s.sent ++ (beaconPeers s).map (fun m => .ctl m (.beacon (shoalTime s))) } :=
  (if_pos ⟨hrole, hbeat⟩).trans (congrArg _
    (foldl_sendMsg (fun s => .beacon (shoalTime s)) (fun _ _ => rfl) (beaconPeers s) { s with net := { s.net with beatAt := s.now } }))

/-- Settles O38: a beacon by what it sets, a manager's beacons and pulses by when they are due. -/
theorem shoalTimeKept : Obligations.ShoalTimeKept := by
  refine ⟨fun time rtt s hrole hsrc => ?beacon, fun s hrole hbeat => ⟨_, timeBeaconSend_due hrole hbeat, rfl, rfl, rfl⟩,
    fun s hrole hout hst hnew => if_pos ⟨hrole, hout, hst, hnew⟩⟩
  have hdue : exec (.timeBeacon time rtt) s = .next (timeBeacon s time.toNat rtt.toNat) :=
    if_neg (by simp only [hrole, hsrc, Bool.false_eq_true, or_self, not_false_eq_true])
  have ht := timeBeacon_corrected s time.toNat rtt.toNat
  refine ⟨_, hdue, ht.mem, ht.locked, ?_, ht.corrAt, ht.last, ht.drift⟩
  have hsrc' : timeSource (timeBeacon s time.toNat rtt.toNat).net = false := by
    rw [timeSource, ht.role]
    exact hsrc
  rw [shoalTime_follower (by rwa [ht.role]) hsrc' ht.locked, ht.offset, ht.now]
  omega

end Sys2Proof.Machine
end

section
/-!
Sound groups and collectives on the member and on the authority (R393 to R413).
-/
namespace Sys2Proof.Machine

/-! ### Groups -/

/-- A member list that reads well asks the authority, and the join waits for its answer (R393). -/
theorem groupJoin_asks {h : Hdr} {s u : State} {d : Nat} {key list : BitVec 64} {n : BitVec 16} {b : List Byte}
    {ms : List (Nat × Nat)} {r : Nat} (hdom : domOfVf s h.vf = some d) (hst : (domAt s d).st = .active)
    (hhead : s.net.headless = false) (hlo : 2 ≤ n.toNat) (hhi : n.toNat ≤ 256)
    (hread : vaFetch s d list.toNat (4 * n.toNat) = (u, .ok b)) (hms : readMembers b n.toNat = some ms)
    (hok : membersOk ms = true) (hrole : u.net.role.role = 1)
    (hrank : firstIdx (fun (m : Nat × Nat) => m == (ownId u, d)) ms = some r) :
    exec (.groupJoin h key list n) s = .next (sendMsg { u with net := { u.net with
      joins := u.net.joins ++ [⟨srcOf h, d, key.toNat, ms, u.now⟩] } } (authorityId u ms) (.join key.toNat ms r)) := by
  refine congrArg _ ((ringCmd_accepted (src := srcOf h) hdom (List.mem_singleton.2 hst) 0x50 _).trans ?_)
  have hn : ¬(n.toNat < 2 ∨ 256 < n.toNat) := by omega
  simp only [hhead, hn, hread, hms, hok, hrole, hrank, Bool.false_eq_true, if_false, Bool.not_true, bne_self_eq_false, Bool.or_self]

theorem groupLeave_leaves {h : Hdr} {s : State} {d : Nat} {gid : BitVec 16} {g : Group} (hdom : domOfVf s h.vf = some d)
    (hst : (domAt s d).st = .active) (hg : s.net.groups.find? (fun g => g.id == gid.toNat && g.dom == d) = some g) :
    exec (.groupLeave h gid) s = .next (succeed (srcOf h)
      (leaveGroup (sendMsg s (authorityId s g.members) (.leave gid.toNat d)) g)) := by
  refine congrArg _ ((ringCmd_accepted (src := srcOf h) hdom (List.mem_singleton.2 hst) 0x51 _).trans ?_)
  simp only [hg]

theorem tellAll_mem (s : State) (ms : List (Nat × Nat)) (m : Msg) : (tellAll s ms m).mem = s.mem :=
  foldl_keep State.mem (fun s (x : Nat × Nat) => sendMsg s x.1 m) (fun _ _ => rfl) ms s

theorem tellAll_net (s : State) (ms : List (Nat × Nat)) (m : Msg) : (tellAll s ms m).net = s.net :=
  foldl_keep State.net (fun s (x : Nat × Nat) => sendMsg s x.1 m) (fun _ _ => rfl) ms s

/-- An authority whose unformed join is due tells all that joined, and forgets every unformed join of the key (R393). -/
theorem joinTimeout_authority {key : BitVec 64} {s : State} {a : AuthGroup}
    (ha : s.net.auth.find? (fun a => a.key == key.toNat && !a.formed && decide (a.t0 + ticketTimeout s ≤ s.now)) = some a) :
    exec (.joinTimeout key) s = .next (tellAll
      { s with net := { s.net with auth := s.net.auth.filter (fun x => !(x.key == key.toNat && !x.formed)) } }
      (a.joined.map (fun r => a.members.getD r (0, 0))) (.joinEnded key.toNat .ticketTimeout)) := by
  show execJoinTimeout key s = _
  simp only [execJoinTimeout, ha]

theorem joinTimeout_member {key : BitVec 64} {s : State}
    (hnone : s.net.auth.find? (fun a => a.key == key.toNat && !a.formed && decide (a.t0 + ticketTimeout s ≤ s.now)) = none)
    (hdue : s.net.joins.any (fun j => j.key == key.toNat && decide (j.t0 + ticketTimeout s ≤ s.now)) = true) :
    exec (.joinTimeout key) s = .next (joinDone s key.toNat (.error .ticketTimeout)) := by
  show execJoinTimeout key s = _
  simp only [execJoinTimeout, hnone, hdue, if_true]

/-- A worker that loses its manager with no join and no collective open becomes headless, and no more (R413). -/
theorem managerLost_headless {s : State} {p : Nat} (hp : managerPort s = some p) (hrole : s.net.role.role = 1)
    (hhead : s.net.headless = false) (hup : portUp s p = false) (hdown : (portAt s p).downAt + 10000 ≤ s.now)
    (hjoins : s.net.joins = []) (hcolls : s.net.colls = []) :
    exec .managerLost s = .next (raise 0x174 (logE 1 .headless (some 0x174) 0xFF []
      { s with net := { s.net with headless := true, headlessAt := s.now } })) := by
  show execManagerLost s = _
  simp only [execManagerLost, hp, hrole, hhead, hup, hdown, Bool.false_eq_true, not_false_eq_true, and_self, if_true, raise_net,
    logE_net, hjoins, hcolls, List.foldl_nil, List.filter_nil]

/-- Settles O35: joins by the reading of their list, losses by the ports that went down. -/
theorem groupsFormAndLoseMembers : Obligations.GroupsFormAndLoseMembers := by
  refine ⟨fun h s d hdom hst => ⟨?joins, ?clean, ?leaves⟩, fun key s => ⟨fun a ha => ?fails, joinTimeout_member⟩,
    fun m s p hrole hm hp hup hdown => ?member, fun s p hp hrole hhead hup hdown hj hc =>
      managerLost_headless hp hrole hhead hup hdown hj hc⟩
  case joins => exact fun key list n u b ms r hhead hlo hhi hread hms hok hrole hrank =>
    groupJoin_asks hdom hst hhead hlo hhi hread hms hok hrole hrank
  case clean => exact fun key list n ms r hhead hlo hhi hrole hread hms hok hrank =>
    groupJoin_asks hdom hst hhead hlo hhi (vaFetch_of_readsClean hread) hms hok hrole hrank
  case leaves => exact fun gid g hg => groupLeave_leaves hdom hst hg
  case fails =>
    refine ⟨_, joinTimeout_authority ha, tellAll_mem _ _ _, fun x hx hkey => ?_⟩
    rw [tellAll_net] at hx
    have hkept := (List.mem_filter.1 hx).2
    simpa only [hkey, beq_self_eq_true, Bool.true_and, Bool.not_not] using hkept
  case member =>
    show execMemberUnreachable m s = _
    simp only [execMemberUnreachable, hp]
    exact if_pos ⟨hrole, hm, Bool.eq_false_iff.1 hup, hdown⟩

/-! ### Collectives on a member -/

/-- What a member reads of itself around a write of its memory: the time, the sound fabric and the configuration. -/
def ownView (s : State) : Nat × Net × Conf := (s.now, s.net, s.conf)

theorem ownView_keptByAccess : KeptByAccess ownView where
  correct s b scrub := by
    simp only [eccCorrect]
    split
    · split <;> simp [ownView]
    · rfl
  poison s b := by
    simp only [eccPoison]
    split <;> simp [ownView]
  dram _ _ _ _ _ := rfl

theorem authorityId_of_ownView {s t : State} (h : ownView t = ownView s) (ms : List (Nat × Nat)) :
    authorityId t ms = authorityId s ms := by
  obtain ⟨-, -, hconf⟩ : t.now = s.now ∧ t.net = s.net ∧ t.conf = s.conf := by simpa only [ownView, Prod.mk.injEq] using h
  have hentry : portEntry t = portEntry s := by
    funext p
    rw [portEntry, hconf, portEntry]
  have hrole : portRole t = portRole s := by
    funext p
    rw [portRole, hentry, portRole]
  rw [authorityId, managerPort, hrole, hentry, authorityId, managerPort]

section Members
variable {gid : BitVec 16} {seq : BitVec 32} {s : State} {c : Coll} {g : Group} (hc : collOf s gid.toNat seq.toNat = some c)
  (hg : groupOf s gid.toNat = some g)
include hc hg

theorem collWaitMet_asks {tab : List Byte} (hph : c.ph = .posted) (hwait : waitHolds s c.o.wait c.o.target = true)
    (hrun : s.net.runs.any (fun r => r.1 == g.id && decide (r.2.2.1 ≤ c.o.seq) && decide (c.o.seq ≤ r.2.2.2)) = false)
    (htab : tablesDigest s g.dom = some tab) :
    exec (.collWaitMet gid seq) s = .next (sendMsg (setColl s { c with ph := .requested }) (authorityId s g.members)
      (.request g.id g.gen c.o.seq g.rank (groupDigest s g tab) (opDigest c.o) (max c.o.run 1) c.o.count (howOf c.o))) := by
  show execCollWaitMet gid seq s = _
  simp only [execCollWaitMet, hc, hg, hph, hwait, hrun, htab, ne_eq, not_true_eq_false, decide_false, Bool.not_true, Bool.or_self,
    Bool.false_eq_true, if_false]

theorem collWaitMet_runs (hph : c.ph = .posted) (hwait : waitHolds s c.o.wait c.o.target = true)
    (hrun : s.net.runs.any (fun r => r.1 == g.id && decide (r.2.2.1 ≤ c.o.seq) && decide (c.o.seq ≤ r.2.2.2)) = true) :
    exec (.collWaitMet gid seq) s = .next (startRun (setColl s { c with ph := .queued }) g.id) := by
  show execCollWaitMet gid seq s = _
  simp only [execCollWaitMet, hc, hg, hph, hwait, hrun, ne_eq, not_true_eq_false, decide_false, Bool.not_true, Bool.or_self,
    Bool.false_eq_true, if_false, if_true]

theorem collReserve_queues (hph : c.ph = .requested) :
    exec (.collReserve gid seq) s = .next (grant { s with net := { s.net with
      resvs := s.net.resvs ++ [⟨crossShoal g.members, g.id, c.o.seq⟩] } }) := by
  show execCollReserve gid seq s = _
  simp only [execCollReserve, hc, hg, hph, if_true]

theorem collTicket_moves {ns : List (BitVec 32)} (hph : c.ph = .reserved) (hlen : ns.length = g.members.length) :
    let r := resultOf c.o g.members g.rank (ns.map BitVec.toNat)
    exec (.collTicket gid seq ns) s = .next (advance (setColl (dropStagedIn { s with net := { s.net with
        runs := if 2 ≤ c.o.run then s.net.runs ++ [(g.id, c.ctx.getD 0, c.o.seq, c.o.seq + c.o.run - 1)] else s.net.runs } }
          c.dom [(c.o.dstVa, r.2)])
      { c with ph := .moving, counts := ns.map BitVec.toNat, outAt := c.o.dstVa, outLen := r.2 }) g.id c.o.seq) := by
  show execCollTicket gid seq ns s = _
  simp only [execCollTicket, hc, hg, hph, hlen, and_self, if_true]

theorem collWritesDone_writes (hph : c.ph = .moving) (hloaded : c.loaded = true) (hsched : c.sched.all List.isEmpty = true)
    (hfault : getRangeFault s c.dom c.o.dstVa (resultOf c.o g.members g.rank c.counts).2 = none) :
    let r := resultOf c.o g.members g.rank c.counts
    exec (.collWritesDone gid seq) s = .next (sendMsg (setColl
      (vaWrite s c.dom none c.o.dstVa ((slice c.vec r.1 r.2).map (fun b => (b, false))))
      { c with ph := .written, doneAt := some s.now }) (authorityId s g.members) (.done g.id c.o.seq g.rank)) := by
  show execCollWritesDone gid seq s = _
  simp only [execCollWritesDone, hc, hg, hph, hloaded, hsched, decide_true, Bool.and_self, if_true, hfault]
  generalize hw : vaWrite s c.dom none c.o.dstVa _ = w
  have hview : ownView w = ownView s := hw ▸ ownView_keptByAccess.vaWrite s _ _ _ _
  rw [authorityId_of_ownView hview, show w.now = s.now from congrArg Prod.fst hview]

/-- A COMMIT in time goes on to the members of the shoal that mesh ports reach, before it ends the collective (R404, R413). -/
theorem collCommit_forwards (hph : c.ph = .written) (hlate : commitLate s g c = false) :
    ∃ u, exec (.collCommit gid seq) s = .next (startRun (commitColl u c) g.id) ∧ u.mem = s.mem ∧ u.net = s.net ∧ u.sems = s.sems := by
  show ∃ u, execCollCommit gid seq s = _ ∧ _
  simp only [execCollCommit, hc, hg, hph, hlate, Bool.not_false, and_self, if_true]
  rw [foldl_sendMsg (fun _ => .commit g.id c.o.seq) (fun _ _ => rfl)]
  exact ⟨_, rfl, rfl, rfl, rfl⟩

theorem headlessCommitTimeout_ends {t : Nat} (hhead : s.net.headless = true) (hcross : crossShoal g.members = false)
    (hph : c.ph = .written) (hdone : c.doneAt = some t) (hdue : max t s.net.headlessAt + 20000 ≤ s.now) :
    exec (.headlessCommitTimeout gid seq) s = .next (endColl s c .headless) := by
  show execHeadlessCommitTimeout gid seq s = _
  simp only [execHeadlessCommitTimeout, hc, hg]
  refine if_pos ⟨hph, ?_⟩
  simp only [commitLate, hhead, hcross, hdone, hdue, Bool.not_false, Bool.and_self, decide_true]

end Members

/-- A COLL that is posted: the group's next SEQ advances, and the collective waits for its WAIT. -/
def postColl (src : Src) (d : Nat) (o : CollOp) (g : Group) (s : State) : State :=
  { s with net := { s.net with
      groups := s.net.groups.map (fun x => if x.id = g.id then { x with next := x.next + 1 } else x)
      timed := s.net.timed.filter (fun t => !(t == (o.group, o.gen, o.seq)))
      colls := s.net.colls ++ [{ src := src, dom := d, o := o, counts := [] }] } }

/-- A COLL that needs no counts and passes every check, in the order of the checks, is posted (R394). -/
theorem doColl_posts {src : Src} {flags wait signal d : Nat} {o : CollOp} {s : State} {g : Group}
    (hdom : domOfVf s src.vf = some d) (hst : (domAt s d).st = .active) (hflags : flags < 16)
    (hg : s.net.groups.find? (fun g => g.id == o.group && g.dom == d) = some g) (hgen : g.gen = o.gen)
    (hfine : collFine o g.members.length = true) (hws : semFine s d wait = true) (hss : semFine s d signal = true)
    (hroom : s.net.colls.length < 256) (hquota : postedOf s d < 4 * ctxQuota s d) (hhead : s.net.headless = false)
    (hcounts : ¬(o.kind = 3 ∨ o.kind = 4)) (hplace : collInPlace o g [] = false) (hdet : (numRec s d).det ≠ 2)
    (hseq : o.seq = g.next) (hswitch : ¬(o.inSwitch = true ∧ crossShoal g.members = true))
    (htab : (tablesDigest s d).isSome = true) (htimed : s.net.timed.contains (o.group, o.gen, o.seq) = false) :
    doColl src flags wait signal o s = postColl src d o g s := by
  refine (ringCmd_accepted hdom (List.mem_singleton.2 hst) 0x52 _).trans ?_
  have htab' : (tablesDigest s d).isNone = false := by rw [← Option.not_isSome, htab, Bool.not_true]
  simp only [Nat.not_le.2 hflags, hg, hgen, hfine, hws, hss, Nat.not_le.2 hroom, Nat.not_le.2 hquota, hhead, hcounts, hplace, hdet,
    hseq, hswitch, htab', hseq ▸ htimed, ne_eq, not_true_eq_false, Bool.not_true, Bool.or_self, or_self, false_and,
    Bool.false_eq_true, if_false, postColl]

/-- Settles O36: a COLL by the checks in order, each event by the phase of its collective. -/
theorem collectivesOnMembers : Obligations.CollectivesOnMembers := by
  refine ⟨fun h s d group root gen seq kind op fmt flags src dst counts count target ws ss inc run g hdom hst hflags => ?posted,
    fun gid seq s c g hc hg => ⟨fun tab hph hwait hrun htab => collWaitMet_asks hc hg hph hwait hrun htab,
      fun hph hwait hrun => collWaitMet_runs hc hg hph hwait hrun, fun hph => collReserve_queues hc hg hph,
      fun ns hph hlen => collTicket_moves hc hg hph hlen, fun hph hl hsched => collWritesDone_writes hc hg hph hl hsched,
      fun hph hlate => collCommit_forwards hc hg hph hlate,
      fun t hhead hcross hph hdone hdue => headlessCommitTimeout_ends hc hg hhead hcross hph hdone hdue⟩⟩
  intro o hgroup hgen hfine hws hss hroom hquota hhead hk3 hk4 hplace hdet hseq hswitch htab htimed
  have hposts : doColl (srcOf h) flags.toNat ws.toNat ss.toNat o s = postColl (srcOf h) d o g s :=
    doColl_posts hdom hst hflags hgroup hgen hfine hws hss hroom hquota hhead (not_or.2 ⟨hk3, hk4⟩) hplace hdet hseq
      (by simpa only [Bool.and_eq_true, ← Bool.not_eq_true] using hswitch) htab htimed
  exact ⟨postColl (srcOf h) d o g s, congrArg Host.Outcome.next hposts, rfl, rfl, rfl, rfl, rfl⟩

/-! ### Collectives on the authority -/

theorem orderOf_some {s : State} {g seq : Nat} {o : Order} (h : orderOf s g seq = some o) : o.group = g ∧ o.seq = seq := by
  simpa only [Bool.and_eq_true, beq_iff_eq] using List.find?_some h

/-- The record set is the one found, where the collective had one. -/
theorem orderOf_setOrder {s : State} {o x : Order} (h : orderOf s o.group o.seq = some x) :
    orderOf (setOrder s o) o.group o.seq = some o := by
  obtain ⟨hgroup, hseq⟩ := orderOf_some h
  have hsame : ∀ y : Order, ((fun z : Order => z.group == o.group && z.seq == o.seq) ∘
      (fun y => if y.group = o.group ∧ y.seq = o.seq then o else y)) y = (y.group == o.group && y.seq == o.seq) := fun y => by
    dsimp only [Function.comp]
    split
    case isTrue hy => rw [hy.1, hy.2]
    case isFalse => rfl
  rw [orderOf, setOrder, List.find?_map, funext hsame, show List.find? _ s.net.orders = _ from h, Option.map_some,
    if_pos ⟨hgroup, hseq⟩]

/-- The first request of a collective in a group of two or more opens its record, and waits for the others (R396). -/
theorem takeRequest_first {s : State} {a : AuthGroup} {o : Order} {r : Request} (hreqs : o.reqs = [])
    (hlen : 2 ≤ a.members.length) : takeRequest s a o r = setOrder s { o with reqs := [r] } := by
  have hmore : ¬ a.members.length ≤ 1 := by omega
  simp only [takeRequest, hreqs, List.nil_append, List.any_cons, List.any_nil, List.headD_cons, bne_self_eq_false, Bool.or_self,
    List.length_singleton, hmore, Bool.false_eq_true, if_false]

theorem authOf_id {s : State} {g : Nat} {a : AuthGroup} (h : authOf s g = some a) : a.id = g := by
  have := List.find?_some h
  simp only [Bool.and_eq_true, beq_iff_eq] at this
  exact this.1

section Authority
variable {gid : BitVec 16} {seq : BitVec 32} {rank : BitVec 8} {s : State}

section Requests
variable {gen count : BitVec 32} {how : BitVec 8} {gd od : BitVec 256} {run : BitVec 16} {a : AuthGroup}
  (ha : authOf s gid.toNat = some a) (hrank : rank.toNat < a.members.length)
include ha hrank

theorem collRequest_stale (hgen : a.gen ≠ gen.toNat) : exec (.collRequest gid gen seq rank gd od run count how) s =
    .next (sendMsg s ((a.members.getD rank.toNat (0, 0)).1) (.ended a.id seq.toNat .groupMismatch)) := by
  show execCollRequest gid gen seq rank gd od run count how s = _
  simp only [execCollRequest, ha, Nat.not_le.2 hrank, hgen, ne_eq, not_false_eq_true, if_false, if_true]

theorem collRequest_opens (hgen : a.gen = gen.toNat) (hnew : orderOf s a.id seq.toNat = none) (hlen : 2 ≤ a.members.length) :
    ∃ t o, exec (.collRequest gid gen seq rank gd od run count how) s = .next t ∧ t.mem = s.mem ∧
      orderOf t a.id seq.toNat = some o ∧ o.ph = .collecting ∧ o.t0 = s.now ∧
      o.reqs = [⟨rank.toNat, leBytes 32 gd.toNat, leBytes 32 od.toNat, run.toNat, count.toNat, how.toNat⟩] := by
  show ∃ t o, execCollRequest gid gen seq rank gd od run count how s = .next t ∧ _
  simp only [execCollRequest, ha, Nat.not_le.2 hrank, hgen, hnew, ne_eq, not_true_eq_false, if_false]
  rw [takeRequest_first rfl hlen]
  have hopened : orderOf { s with net := { s.net with orders := s.net.orders ++
      [{ group := a.id, gen := gen.toNat, seq := seq.toNat, t0 := s.now, reqs := [] }] } } a.id seq.toNat =
      some { group := a.id, gen := gen.toNat, seq := seq.toNat, t0 := s.now, reqs := [] } := by
    rw [orderOf, List.find?_append, show List.find? _ s.net.orders = none from hnew, Option.none_or, List.find?_cons_of_pos]
    simp only [beq_self_eq_true, Bool.and_self]
  exact ⟨_, _, rfl, rfl, orderOf_setOrder (o := { group := a.id, gen := gen.toNat, seq := seq.toNat, t0 := s.now, reqs := [_] })
    hopened, rfl, rfl, rfl⟩

end Requests

section Records
variable {o : Order} (ho : orderOf s gid.toNat seq.toNat = some o)
include ho

theorem collReserved_notes (hph : o.ph = .reserving) (hnew : o.reserved.contains rank.toNat = false)
    (hreq : o.reqs.any (fun q => q.rank == rank.toNat) = true) :
    exec (.collReserved gid seq rank) s = .next (tickets (setOrder s { o with reserved := o.reserved ++ [rank.toNat] })) := by
  show execCollReserved gid seq rank s = _
  simp only [execCollReserved, ho]
  exact if_pos ⟨hph, by rw [hnew]; exact Bool.false_ne_true, hreq⟩

theorem ticketTimeout_ends (hph : o.ph = .collecting ∨ o.ph = .reserving) (hdue : o.t0 + ticketTimeout s ≤ s.now) :
    exec (.ticketTimeout gid seq) s = .next (tickets (endOrder s o .ticketTimeout)) := by
  show execTicketTimeout gid seq s = _
  simp only [execTicketTimeout, ho]
  exact if_pos ⟨hph, hdue⟩

section Dones
variable {a : AuthGroup} (ha : authOf s gid.toNat = some a) (hph : o.ph = .ticketed) (hrank : rank.toNat < a.members.length)
  (hnew : o.dones.contains rank.toNat = false)
include ha hph hrank hnew

theorem collDone_notes (hmore : o.dones.length + 1 < a.members.length) :
    exec (.collDone gid seq rank) s = .next (setOrder s { o with dones := o.dones ++ [rank.toNat] }) := by
  show execCollDone gid seq rank s = _
  simp only [execCollDone, ha, authOf_id ha, ho, hph, hrank, hnew, Bool.false_eq_true, not_false_eq_true, and_self, if_true,
    List.length_append, List.length_singleton, hmore]

/-- With the last DONE the collective commits at every member (R404). -/
theorem collDone_commits (hlast : a.members.length ≤ o.dones.length + 1) :
    ∃ u, exec (.collDone gid seq rank) s = .next (tickets (tellAll u a.members (.commit a.id seq.toNat))) ∧
      u.mem = s.mem ∧ u.sent = s.sent := by
  show ∃ u, execCollDone gid seq rank s = .next _ ∧ _
  simp only [execCollDone, ha, authOf_id ha, ho, hph, hrank, hnew, Bool.false_eq_true, not_false_eq_true, and_self, if_true,
    List.length_append, List.length_singleton, Nat.not_lt.2 hlast, if_false]
  exact ⟨_, rfl, rfl, rfl⟩

end Dones
end Records
end Authority

/-- Settles O37: what each message does to the collective's record. -/
theorem collectivesOnTheAuthority : Obligations.CollectivesOnTheAuthority := by
  refine ⟨fun gid gen seq rank how gd od run count s a ha hrank =>
    ⟨fun hgen => collRequest_stale ha hrank hgen, fun hgen hnew hlen => collRequest_opens ha hrank hgen hnew hlen⟩,
    fun gid seq s o ho => ⟨fun rank hph hnew hreq => collReserved_notes ho hph hnew hreq, fun rank a ha hph hrank hnew => ?_,
      fun hph hdue => ticketTimeout_ends ho hph hdue⟩⟩
  exact ⟨collDone_notes ho ha hph hrank hnew, collDone_commits ho ha hph hrank hnew⟩

end Sys2Proof.Machine
end

section
/-!
Remote memory: windows and transfers (R415, R416).
-/
namespace Sys2Proof.Machine

/-- A range that translates has an address for each of its pieces. -/
theorem xlat_of_vaFault_none {s : State} {d va n : Nat} {tag : Option Nat} (h : vaFault s d tag va n = none)
    {x : Nat × Nat} (hx : x ∈ piecesOf va n) : ∃ p, xlat s d tag x.1 = .ok p := by
  have hpiece := List.findSome?_eq_none_iff.1 h x hx
  dsimp only at hpiece
  split at hpiece
  case h_1 p hp => exact ⟨p, hp⟩
  case h_2 => cases hpiece

section Ring
variable {h : Hdr} {s : State} {d : Nat} (hdom : domOfVf s h.vf = some d) (hst : (domAt s d).st = .active)
include hdom hst

/-- A window over mapped memory opens; one for writing has no sealed page under it (R415). -/
theorem rmemExpose_opens {w pm : BitVec 8} {gid sem inc : BitVec 16} {va len : BitVec 64} (hw : w.toNat < 64)
    (hpm : pm.toNat < 4) (hlen : len.toNat ≠ 0) (hinc : (semOf sem.toNat).isSome = true → inc.toNat ≠ 0)
    (hsem : semFine s d sem.toNat = true) (hgroup : s.net.groups.any (fun g => g.id == gid.toNat && g.dom == d) = true)
    (hclosed : windowAt s d w.toNat = none) (hmap : vaFault s d none va.toNat len.toNat = none)
    (hplain : bit pm.toNat 1 = true → ∀ x ∈ piecesOf va.toNat len.toNat, ∀ p, xlat s d none x.1 = .ok p → p.sealed = false) :
    exec (.rmemExpose h w pm gid sem inc va len) s = .next (succeed (srcOf h) (setWindow s d w.toNat (some
      ⟨va.toNat, len.toNat, bit pm.toNat 0, bit pm.toNat 1, gid.toNat, semOf sem.toNat, inc.toNat, false, none⟩))) := by
  refine congrArg Host.Outcome.next ((ringCmd_accepted (src := srcOf h) hdom (List.mem_singleton.2 hst) 0x58 _).trans ?_)
  have hform : ¬(64 ≤ w.toNat ∨ 4 ≤ pm.toNat ∨ len.toNat = 0 ∨ ((semOf sem.toNat).isSome ∧ inc.toNat = 0)) := by
    rintro (h | h | h | ⟨h, h'⟩)
    · omega
    · omega
    · exact hlen h
    · exact hinc h h'
  rw [if_neg hform]
  simp only [hsem, hgroup, hclosed, hmap, Bool.not_true, Bool.false_eq_true, if_false, Option.isSome_none, Bool.or_self, Bool.false_or]
  refine if_neg (Bool.eq_false_iff.1 (Bool.and_eq_false_imp.2 fun hwrite => List.any_eq_false.2 fun x hx => ?_))
  obtain ⟨p, hp⟩ := xlat_of_vaFault_none hmap hx
  simp only [hp, hplain hwrite x hx p hp, Bool.false_eq_true, not_false_eq_true]

/-- GET and PUT share their checks and differ in what their local range must allow (R416). -/
theorem doRmem_begins {put : Bool} {w : BitVec 8} {gid rank ws ss inc : BitVec 16} {va off len : BitVec 64} {tg : BitVec 32}
    {g : Group} (hlen : len.toNat ≠ 0) (hinc : (semOf ss.toNat).isSome = true → inc.toNat ≠ 0)
    (hws : semFine s d ws.toNat = true) (hss : semFine s d ss.toNat = true)
    (hg : s.net.groups.find? (fun g => g.id == gid.toNat && g.dom == d) = some g) (hw : w.toNat < 64)
    (hpath : rmemPath s g rank.toNat = true)
    (hrange : (if put then vaFault s d none va.toNat len.toNat else getRangeFault s d va.toNat len.toNat) = none) :
    let n := (lowestFree ((s.net.xfers.filter (fun x => !x.owner)).map (·.num)) 0 65536 (s.net.xfers.length + 1) 0).getD 0
    let x : RmemXfer := ⟨n, some (srcOf h), d, put, false, gid.toNat, rank.toNat, moduleOf g rank.toNat, w.toNat, va.toNat,
      off.toNat, len.toNat, semOf ws.toNat, tg.toNat, semOf ss.toNat, inc.toNat, 0, false, s.now⟩
    doRmem put (srcOf h) w.toNat gid.toNat rank.toNat ws.toNat va.toNat off.toNat len.toNat tg.toNat ss.toNat inc.toNat s =
      beginXfer { s with net := { s.net with xfers := s.net.xfers ++ [x] } } x := by
  refine (ringCmd_accepted (src := srcOf h) hdom (List.mem_singleton.2 hst) _ _).trans ?_
  have hform : ¬(len.toNat = 0 ∨ ((semOf ss.toNat).isSome ∧ inc.toNat = 0)) := by
    rintro (h | ⟨h, h'⟩)
    · exact hlen h
    · exact hinc h h'
  rw [if_neg hform]
  simp only [hws, hss, hg, Nat.not_le.2 hw, hpath, hrange, Bool.not_true, Bool.or_self, Bool.false_eq_true, or_self, if_false]

end Ring

/-! ### Closing a window -/

/-- A window set in a domain in a setup state stands there, and the domain stays as it was otherwise. -/
theorem domAt_setWindow {s : State} {d : Nat} (hst : (domAt s d).st ∈ setupStates) (w : Nat) (x : Option Window) :
    domAt (setWindow s d w x) d = { domAt s d with windows := sparseSet none (domAt s d).windows w x } := domAt_modDom hst

theorem windowAt_setWindow {s : State} {d : Nat} (hst : (domAt s d).st ∈ setupStates)
    (hwf : sparseWf none (domAt s d).windows = true) (w : Nat) (x : Option Window) : windowAt (setWindow s d w x) d w = x := by
  rw [windowAt, domAt_setWindow hst, sparseGet_set none _ hwf, if_pos rfl]

/-- A window without accepted transfers closes at once (R415). -/
theorem rmemUnexpose_closes {h : Hdr} {s : State} {d : Nat} {w : BitVec 8} {x : Window} (hdom : domOfVf s h.vf = some d)
    (hst : (domAt s d).st = .active) (hw : w.toNat < 64) (hx : windowAt s d w.toNat = some x) (hshut : x.shut = false)
    (hnone : s.net.xfers.any (fun y => y.owner && y.dom == d && y.window == w.toNat) = false)
    (hwf : sparseWf none (domAt s d).windows = true) :
    exec (.rmemUnexpose h w) s = .next (succeed (srcOf h) (setWindow
      (setWindow s d w.toNat (some { x with shut := true, closing := some (srcOf h) })) d w.toNat none)) := by
  refine congrArg Host.Outcome.next ((ringCmd_accepted (src := srcOf h) hdom (List.mem_singleton.2 hst) 0x59 _).trans ?_)
  have hsetup : (domAt s d).st ∈ setupStates := by rw [hst]; decide
  simp only [hw, if_true, hx, hshut, Bool.false_eq_true, if_false, settleWindow, windowAt_setWindow hsetup hwf]
  exact if_pos ⟨True.intro, Bool.eq_false_iff.1 hnone⟩

theorem windowAt_closed {s : State} {d : Nat} (hst : (domAt s d).st ∈ setupStates)
    (hwf : sparseWf none (domAt s d).windows = true) (src : Src) (w : Nat) (x : Option Window) :
    windowAt (succeed src (setWindow (setWindow s d w x) d w none)) d w = none := by
  have hshut := domAt_setWindow hst w x
  have hst' : (domAt (setWindow s d w x) d).st ∈ setupStates := by rw [hshut]; exact hst
  have hwf' : sparseWf none (domAt (setWindow s d w x) d).windows = true := by rw [hshut]; exact sparseWf_set none _ w x hwf
  rw [windowAt, domAt_succeed]
  exact windowAt_setWindow hst' hwf' w none

/-! ### The end of a transfer -/

section Transfers
variable {num : BitVec 16} {s : State} {x : RmemXfer}

theorem rmemTransferDone_requester
    (hx : s.net.xfers.find? (fun x => x.num == num.toNat && x.owner == false && decide (0 < x.got)) = some x) :
    exec (.rmemTransferDone num false) s = .next (endXfer s x .success) := by
  show execRmemTransferDone num false s = _
  simp only [execRmemTransferDone, hx, Bool.false_eq_true, if_false]

theorem rmemTransferDone_owner
    (hx : s.net.xfers.find? (fun x => x.num == num.toNat && x.owner == true && decide (0 < x.got)) = some x) (hsig : x.signal = none) :
    exec (.rmemTransferDone num true) s = .next (settleWindow
      (dropXfer (sendMsg s x.peer (.rmemEnded x.num .success)) x) x.dom x.window) := by
  show execRmemTransferDone num true s = _
  simp only [execRmemTransferDone, hx, hsig, if_true]

theorem rmemTimeout_ends (hx : s.net.xfers.find? (fun x => x.num == num.toNat && !x.owner && x.begun && x.got == 0) = some x)
    (hdue : x.t0 + 1000000 ≤ s.now) : exec (.rmemTimeout num) s = .next (endXfer s x .memberLost) := by
  show execRmemTimeout num s = _
  simp only [execRmemTimeout, hx]
  exact if_pos (.inr hdue)

end Transfers

/-- Settles O39: the ring's commands by their checks in order, the events by the transfer they name. -/
theorem remoteMemoryCompletes : Obligations.RemoteMemoryCompletes := by
  refine ⟨fun h s d hdom hst => ⟨?expose, ?unexpose, ?begins⟩, fun num s x =>
    ⟨rmemTransferDone_requester, rmemTransferDone_owner, rmemTimeout_ends⟩⟩
  case expose => exact fun w pm gid sem inc va len hw hpm hlen hinc hsem hgroup hclosed hmap hplain =>
    rmemExpose_opens hdom hst hw hpm hlen hinc hsem hgroup hclosed hmap hplain
  case unexpose =>
    intro w x hw hx hshut hnone hwf
    have hsetup : (domAt s d).st ∈ setupStates := by rw [hst]; decide
    exact ⟨_, rmemUnexpose_closes hdom hst hw hx hshut hnone hwf, windowAt_closed hsetup hwf _ _ _, complete_mem _ _ _ _⟩
  case begins =>
    intro put w gid rank ws ss inc va off len tg g hlen hinc hws hss hg hw hpath hrange n x
    have hbegins := doRmem_begins (put := put) (off := off) (tg := tg) hdom hst hlen hinc hws hss hg hw hpath hrange
    cases put
    · exact congrArg Host.Outcome.next hbegins
    · exact congrArg Host.Outcome.next hbegins

end Sys2Proof.Machine
end

section
/-!
Ring commands that their domain's state refuses (R440 to R442).
-/
namespace Sys2Proof.Machine

/-- A domain in a state outside those that accept a ring command refuses it (R441). -/
theorem ringCmd_refused {src : Src} {op : Nat} {ok : List DomState} {s : State} {d : Nat} (hdom : domOfVf s src.vf = some d)
    (hst : (domAt s d).st ∉ ok) (k : Nat → State → State) : ringCmd src op ok k s = refuseState src op (some d) s := by
  unfold ringCmd
  rw [hdom]
  exact if_neg fun h => hst (List.contains_iff_mem.1 h)

/-- A ring command that runs for the domain of its VF, in the states that accept it (R441). -/
def RingGated (h : Hdr) (s : State) (c : Instr) (op : Nat) (ok : List DomState) : Prop :=
  ∃ k, exec c s = .next (ringCmd (srcOf h) op ok k s)

theorem RingGated.refuses {h : Hdr} {s : State} {d : Nat} {c : Instr} {op : Nat} {ok : List DomState}
    (hgated : RingGated h s c op ok) (hdom : domOfVf s h.vf = some d) (hst : (domAt s d).st ∉ ok) :
    exec c s = .next (refuseState (srcOf h) op (some d) s) := by
  obtain ⟨k, hk⟩ := hgated
  exact hk.trans (congrArg _ (ringCmd_refused (src := srcOf h) hdom hst k))

theorem doRmem_gate (put : Bool) (src : Src) (window gid rank wait va off len target signal inc : Nat) (s : State) :
    ∃ k, doRmem put src window gid rank wait va off len target signal inc s =
      ringCmd src (if put then 0x5B else 0x5A) [.active] k s := by
  unfold doRmem
  exact ⟨_, rfl⟩

theorem rmemGet_gated (h : Hdr) (s : State) (w : BitVec 8) (gid rank ws ss inc : BitVec 16) (va off len : BitVec 64) (tg : BitVec 32) :
    RingGated h s (.rmemGet h w gid rank ws va off len tg ss inc) 0x5A [.active] :=
  (doRmem_gate false ..).imp fun _ hk => congrArg Host.Outcome.next hk

theorem rmemPut_gated (h : Hdr) (s : State) (w : BitVec 8) (gid rank ws ss inc : BitVec 16) (va off len : BitVec 64) (tg : BitVec 32) :
    RingGated h s (.rmemPut h w gid rank ws va off len tg ss inc) 0x5B [.active] :=
  (doRmem_gate true ..).imp fun _ hk => congrArg Host.Outcome.next hk

/-- BIND has a gate of its own: it is taken in EMPTY alone (R440). -/
theorem bind_refused {h : Hdr} {s : State} {d : Nat} (hdom : domOfVf s h.vf = some d) (hst : (domAt s d).st ∉ [DomState.empty]) :
    exec (.bind h) s = .next (refuseState (srcOf h) 0x10 (some d) s) := by
  show Host.Outcome.next (doBind (srcOf h) s) = _
  simp only [doBind, srcOf, hdom]
  exact congrArg _ (if_pos fun hempty => hst (List.mem_singleton.2 hempty))

/-- The refusal's entry stands in the next slot where LEVEL lets informational entries pass (R442). -/
theorem refuseState_slot {s : State} (hlevel : s.log.level = 0) (src : Src) (op d : Nat) :
    sparseGet none (refuseState src op (some d) s).log.slots (s.log.written % 2048) =
      some ⟨s.now, shoalTime s, statusCode .stateRefused, none, 0, d,
        slice (leBytes 1 op ++ leBytes 1 (stateCode (domAt s d).st) ++ leBytes 4 src.cmd) 0 10⟩ := by
  simp only [refuseState, complete_log, logRefused, Option.getD_some]
  rw [logE_takes_slot (.inl (Nat.le_of_eq hlevel))]
  exact sparseGet_set_self none s.log.slots _ (Option.some_ne_none _)

/-- Settles O7: every ring command passes the same gate, and a refusal leaves no trace but its completion and its entry. -/
theorem refusedInStateChangesNothing : Obligations.RefusedInStateChangesNothing := by
  refine ⟨fun h s d a b c e i j k l m n p q w hdom => ?gate, fun src op d s => ?frame⟩
  case gate =>
    simp only [List.forall_mem_cons, List.not_mem_nil, false_implies, implies_true, and_true]
    and_intros
    any_goals exact RingGated.refuses ⟨_, rfl⟩ hdom
    · exact bind_refused hdom
    · exact (rmemGet_gated ..).refuses hdom
    · exact (rmemPut_gated ..).refuses hdom
  case frame =>
    obtain ⟨l, e, p, f, m, q, hframe⟩ := refuseState_frame src op (some d) s
    refine ⟨?_, ?_, ?_, ?_, ?_, ?_, ?_, ?_, ?_, ?_, ?_, fun hlevel => refuseState_slot hlevel src op d⟩ <;> rw [hframe]

end Sys2Proof.Machine
end

section
/-!
Completion records: where they are placed, and what waits (R435 to R437).
-/
namespace Sys2Proof.Machine

/-! ### The VF table around an enabled completion ring -/

/-- A VF with an enabled completion ring is not the empty one. -/
theorem vf_ne_default_of_ring {x : Vf} {c : Nat} (h : bit (x.cqs.getD c {}).ctrl 0 = true) : x ≠ {} := by
  rintro rfl
  have hempty : (({} : Vf).cqs.getD c {}).ctrl = 0 := by
    simp only [List.getD_eq_getElem?_getD, List.getElem?_replicate]
    split <;> rfl
  rw [hempty] at h
  exact absurd h (by decide)

theorem vfAt_setVf_of_ne (s : State) (v : Nat) {x : Vf} (h : x ≠ {}) : vfAt (setVf s v x) v = x :=
  sparseGet_set_self ({} : Vf) s.vfs v h

theorem getD_setAt {α : Type} {l : List α} {c : Nat} (h : c < l.length) (x d : α) : (setAt l c x).getD c d = x := by
  rw [setAt, List.getD_eq_getElem?_getD, List.getElem?_set_self h, Option.getD_some]

/-- An enabled ring that is set stands in its VF, and reads back. -/
theorem vfAt_setCq {s : State} {v c : Nat} (hc : c < (vfAt s v).cqs.length) {r : CplRing} (hr : bit r.ctrl 0 = true) :
    vfAt (setCq s v c r) v = { vfAt s v with cqs := setAt (vfAt s v).cqs c r } := by
  refine vfAt_setVf_of_ne s v (vf_ne_default_of_ring (c := c) ?_)
  rw [getD_setAt hc]
  exact hr

theorem cqAt_setCq {s : State} {v c : Nat} (hc : c < (vfAt s v).cqs.length) {r : CplRing} (hr : bit r.ctrl 0 = true) :
    cqAt (setCq s v c r) v c = r := by
  rw [cqAt, vfAt_setCq hc hr]
  exact getD_setAt hc r {}

theorem cqAt_setVf_of_cqs {s : State} {v c : Nat} {x : Vf} (hcqs : x.cqs = (vfAt s v).cqs) (hr : bit (cqAt s v c).ctrl 0 = true) :
    cqAt (setVf s v x) v c = cqAt s v c := by
  have hx : x ≠ {} := vf_ne_default_of_ring (c := c) (by rw [hcqs]; exact hr)
  rw [cqAt, vfAt_setVf_of_ne s v hx, hcqs, cqAt]

/-- A vector's message or its pending bit leaves the rings alone. -/
theorem cqAt_sendVfVector {s : State} {v c : Nat} (hr : bit (cqAt s v c).ctrl 0 = true) (vec : Nat) :
    cqAt (sendVfVector s v vec) v c = cqAt s v c := by
  simp only [sendVfVector]
  split
  case isTrue => exact cqAt_setVf_of_cqs rfl hr
  case isFalse => rfl

/-- The notice of a new record is a message at once, a message that is due, or none (R452). -/
theorem cqNotify_cases (s : State) (v c : Nat) : cqNotify s v c = s ∨ cqNotify s v c = setCq s v c { cqAt s v c with due := true } ∨
    ∃ vec, cqNotify s v c = sendVfVector (setCq s v c { cqAt s v c with lastMsg := some s.now, due := false }) v vec := by
  unfold cqNotify
  extract_lets f r ready
  split
  · split
    · exact .inr (.inr ⟨_, rfl⟩)
    · exact .inr (.inl rfl)
  · exact .inl rfl

/-- It changes neither the tail nor the phase of its ring. -/
theorem cqNotify_ring {s : State} {v c : Nat} (hc : c < (vfAt s v).cqs.length) (hr : bit (cqAt s v c).ctrl 0 = true) :
    (cqAt (cqNotify s v c) v c).tail = (cqAt s v c).tail ∧ (cqAt (cqNotify s v c) v c).phase = (cqAt s v c).phase := by
  rcases cqNotify_cases s v c with h | h | ⟨vec, h⟩
  · rw [h]
    exact ⟨rfl, rfl⟩
  · rw [h, cqAt_setCq hc (r := { cqAt s v c with due := true }) hr]
    exact ⟨rfl, rfl⟩
  · have hset := cqAt_setCq hc (r := { cqAt s v c with lastMsg := some s.now, due := false }) hr
    rw [h, cqAt_sendVfVector (by rw [hset]; exact hr), hset]
    exact ⟨rfl, rfl⟩

/-! ### Where a record goes -/

/-- A record with PHASE as the ring has it (R435). -/
def phased (r : CplRing) (rec : List Byte) : List Byte :=
  rec.take 6 ++ [rec.getD 6 0 ||| (if r.phase then 0x80 else 0)] ++ rec.drop 7

theorem phased_length {rec : List Byte} (h : rec.length = 16) (r : CplRing) : (phased r rec).length = 16 := by
  simp only [phased, List.length_append, List.length_take, List.length_drop, List.length_singleton, h]
  omega

theorem phased_getD {rec : List Byte} (h : rec.length = 16) (r : CplRing) (i : Nat) :
    (phased r rec).getD i 0 = if i = 6 then rec.getD 6 0 ||| (if r.phase then 0x80 else 0) else rec.getD i 0 := by
  have htake : (rec.take 6).length = 6 := by rw [List.length_take, h]; rfl
  simp only [phased, List.append_assoc, List.getD_eq_getElem?_getD]
  rcases Nat.lt_trichotomy i 6 with hlt | rfl | hgt
  · rw [List.getElem?_append_left (by omega), List.getElem?_take_of_lt hlt, if_neg (by omega)]
  · rw [List.getElem?_append_right (by omega), htake]
    rfl
  · have hone : [rec[6]?.getD 0 ||| if r.phase = true then 0x80 else 0].length ≤ i - 6 := by
      rw [List.length_singleton]
      omega
    have hplace : 7 + (i - 6 - 1) = i := by omega
    rw [List.getElem?_append_right (by omega), htake, List.getElem?_append_right hone, List.getElem?_drop, List.length_singleton,
      hplace, if_neg (by omega)]

theorem cplRecord_length (id : Nat) (st : Status) (sq kind aux result : Nat) :
    (cplRecord id st sq kind aux result).length = 16 := by
  simp only [cplRecord, List.length_append, leBytes_length]

theorem cqNotify_host (s : State) (v c : Nat) : (cqNotify s v c).host = s.host := by
  obtain ⟨f, q, h⟩ := cqNotify_frame s v c
  rw [h]

/-- A ring after one record more: the next tail, PHASE turned where that wraps. -/
def advanced (r : CplRing) : CplRing :=
  { r with tail := (r.tail + 1) % ringSize r.ctrl, phase := if (r.tail + 1) % ringSize r.ctrl = 0 then !r.phase else r.phase }

/-- A state whose host memory holds the record at the ring's tail. -/
def recorded (s : State) (v c : Nat) (rec : List Byte) : State :=
  { s with host := hostWrite s.host ((cqAt s v c).base + 16 * (cqAt s v c).tail) (phased (cqAt s v c) rec) }

/-- A record is put by its bytes, then by its ring's tail, then by the notice (R435). -/
theorem cqPut_eq (s : State) (v c : Nat) (rec : List Byte) :
    cqPut s v c rec = cqNotify (setCq (recorded s v c rec) v c (advanced (cqAt s v c))) v c := rfl

theorem cqPut_host (s : State) (v c : Nat) (rec : List Byte) : (cqPut s v c rec).host =
    hostWrite s.host ((cqAt s v c).base + 16 * (cqAt s v c).tail) (phased (cqAt s v c) rec) := cqNotify_host _ _ _

theorem cqPut_ring {s : State} {v c : Nat} (hc : c < (vfAt s v).cqs.length) (hr : bit (cqAt s v c).ctrl 0 = true) (rec : List Byte) :
    (cqAt (cqPut s v c rec) v c).tail = (advanced (cqAt s v c)).tail ∧
    (cqAt (cqPut s v c rec) v c).phase = (advanced (cqAt s v c)).phase := by
  have hset : cqAt (setCq (recorded s v c rec) v c (advanced (cqAt s v c))) v c = advanced (cqAt s v c) := cqAt_setCq hc hr
  have hlen : c < (vfAt (setCq (recorded s v c rec) v c (advanced (cqAt s v c))) v).cqs.length := by
    rw [vfAt_setCq (s := recorded s v c rec) hc (r := advanced (cqAt s v c)) hr]
    exact lt_of_lt_of_eq hc (List.length_set ..).symm
  have hnotify := cqNotify_ring hlen (by rw [hset]; exact hr)
  rw [hset] at hnotify
  rwa [cqPut_eq]

/-- Settles O8: a completion is put where its ring has room and nothing waits, and else waits itself. -/
theorem completionRecordPlaced : Obligations.CompletionRecordPlaced := by
  intro src st result s c r rc t hwf
  refine ⟨complete_mem .., complete_doms .., complete_islands .., complete_tasks .., fun hwait hroom hc => ?put, fun hroom => ?waits⟩
  case put =>
    have ht : t = cqPut s src.vf c rc := if_pos (by rw [hwait, Bool.true_and]; exact hroom)
    have hr : bit r.ctrl 0 = true := (Bool.and_eq_true_iff.1 hroom).1
    have hlen : rc.length = 16 := cplRecord_length ..
    have hhost : t.host = hostWrite s.host (r.base + 16 * r.tail) (phased r rc) := ht ▸ cqPut_host s src.vf c rc
    obtain ⟨htail, hphase⟩ := cqPut_ring hc hr rc
    refine ⟨fun i hi => ?_, fun a ha => ?_, ht ▸ htail, ht ▸ hphase⟩
    · rw [hhost, hostWrite_get _ _ _ _ hwf, phased_length hlen, if_pos (by omega), Nat.add_sub_cancel_left, phased_getD hlen]
    · rw [hhost, hostWrite_get _ _ _ _ hwf, phased_length hlen, if_neg (by omega)]
  case waits =>
    have ht : t = setVf s src.vf { vfAt s src.vf with waitCpl := (vfAt s src.vf).waitCpl ++ [(c, rc)] } :=
      if_neg (by rw [Bool.and_eq_true_iff]; exact fun h => Bool.eq_false_iff.1 hroom h.2)
    have hne : ({ vfAt s src.vf with waitCpl := (vfAt s src.vf).waitCpl ++ [(c, rc)] } : Vf) ≠ {} := fun h =>
      List.append_ne_nil_of_right_ne_nil _ (List.cons_ne_nil _ _) (congrArg Vf.waitCpl h)
    rw [ht, vfAt_setVf_of_ne s src.vf hne]
    exact ⟨rfl, rfl⟩

end Sys2Proof.Machine
end

section
/-!
The life of a domain from BIND to UNBIND, and its zeroisation (R77, R105, R440, R441, R443).
-/
namespace Sys2Proof.Machine

/-! ### What an update of one domain leaves -/

theorem domAt_setDom_ne (s : State) {d e : Nat} (x : Dom) (h : e ≠ d) : domAt (setDom s d x) e = domAt s e :=
  sparseGet_set_ne ({} : Dom) s.doms x h

theorem setupStates_of_mem {st : DomState} (h : st = .bound ∨ st = .loaded ∨ st = .active ∨ st = .draining ∨ st = .quiesced) :
    st ∈ setupStates := by
  rcases h with rfl | rfl | rfl | rfl | rfl <;> decide

/-- A domain moved into another state, its command answered: that domain alone changes. -/
theorem succeed_modDom {s : State} {d : Nat} {f : Dom → Dom} (h : (f (domAt s d)).st ∈ setupStates) (src : Src) :
    domAt (succeed src (modDom s d f)) d = f (domAt s d) ∧ (succeed src (modDom s d f)).mem = s.mem ∧
      ∀ e, e ≠ d → domAt (succeed src (modDom s d f)) e = domAt s e := by
  refine ⟨?_, complete_mem .., fun e he => ?_⟩
  · rw [domAt_succeed, domAt_modDom h]
  · rw [domAt_succeed]
    exact domAt_setDom_ne s _ he

/-! ### BIND -/

theorem allocFrames_mem {place : State → Option Nat} {d : Nat} {k : StructKind} {n : Nat} {s u : State}
    (h : allocFrames place d k n s = some u) : u.mem = s.mem := by
  induction n generalizing s with
  | zero => cases h; rfl
  | succ n ih =>
    rw [allocFrames] at h
    split at h
    · cases h
    · exact (ih h).trans rfl

theorem ensureStruct_directory_mem {s u : State} {d n : Nat} (h : ensureStruct s d .directory n = some u) : u.mem = s.mem := by
  unfold ensureStruct at h
  split at h
  · cases h; rfl
  · exact allocFrames_mem h

/-- A domain that becomes BOUND answers its number. -/
def boundDomain (src : Src) (d : Nat) (s : State) : State :=
  complete src .success d (modDom s d (fun x => { x with st := .bound }))

theorem boundDomain_dom (src : Src) (d : Nat) (s : State) : domAt (boundDomain src d s) d = { domAt s d with st := .bound } := by
  rw [boundDomain, domAt_complete, domAt_modDom (setupStates_of_mem (.inl rfl))]

theorem boundDomain_mem (src : Src) (d : Nat) (s : State) : (boundDomain src d s).mem = s.mem := complete_mem ..

section Bind
variable {h : Hdr} {s : State} {d : Nat} (hdom : domOfVf s h.vf = some d) (hempty : (domAt s d).st = .empty)
include hdom hempty

theorem bind_waits (hwait : (domAt s d).zeroising = true ∨ initWait s = true) :
    exec (.bind h) s = .next (modDom s d (fun x => { x with waitBind := x.waitBind ++ [srcOf h] })) := by
  show Host.Outcome.next (doBind (srcOf h) s) = _
  simp only [doBind, srcOf, hdom, hempty, ne_eq, not_true_eq_false, if_false]
  exact congrArg _ (if_pos (Bool.or_eq_true_iff.2 hwait))

variable (hzero : (domAt s d).zeroising = false) (hinit : initWait s = false)
include hzero hinit

theorem bind_now : exec (.bind h) s = .next (bindNow (srcOf h) d s) := by
  show Host.Outcome.next (doBind (srcOf h) s) = _
  simp only [doBind, srcOf, hdom, hempty, hzero, hinit, ne_eq, not_true_eq_false, if_false, Bool.or_self, Bool.false_eq_true]

theorem bind_split (hsplit : (memRec s d).split = true) : exec (.bind h) s = .next (boundDomain (srcOf h) d s) :=
  (bind_now hdom hempty hzero hinit).trans (congrArg _ (if_pos hsplit))

/-- A unified domain takes its directory first (R77). -/
theorem bind_unified {u : State} (hsplit : (memRec s d).split = false) (hdir : ensureStruct s d .directory 8 = some u) :
    exec (.bind h) s = .next (boundDomain (srcOf h) d u) := by
  rw [bind_now hdom hempty hzero hinit]
  simp only [bindNow, hsplit, hdir, Bool.false_eq_true, if_false]
  rfl

end Bind

/-! ### ARM to UNBIND -/

theorem storeEverywhere_doms (s : State) (d n b : Nat) : (storeEverywhere s d n b).doms = s.doms := by
  unfold storeEverywhere
  exact foldl_keep State.doms _ (fun _ _ => by rfl) _ s

theorem storeEverywhere_mem (s : State) (d n b : Nat) : (storeEverywhere s d n b).mem = s.mem := by
  unfold storeEverywhere
  exact foldl_keep State.mem _ (fun _ _ => by rfl) _ s

section Ring
variable {h : Hdr} {s : State} {d : Nat} (hdom : domOfVf s h.vf = some d)
include hdom

theorem arm_loads (hst : (domAt s d).st = .bound) (hres : residents (domAt s d) = []) :
    exec (.arm h) s = .next (succeed (srcOf h) (modDom s d (fun x => { x with st := .loaded }))) := by
  refine congrArg Host.Outcome.next ((ringCmd_accepted (src := srcOf h) hdom (List.mem_singleton.2 hst) 0x11 _).trans ?_)
  simp only [hres, List.isEmpty_nil, if_true]

theorem arm_waits (hst : (domAt s d).st = .bound) (hres : residents (domAt s d) ≠ []) :
    exec (.arm h) s = .next (modDom s d (fun x => { x with waitArm := x.waitArm ++ [srcOf h] })) := by
  refine congrArg Host.Outcome.next ((ringCmd_accepted (src := srcOf h) hdom (List.mem_singleton.2 hst) 0x11 _).trans ?_)
  exact if_neg fun hnil => hres (List.isEmpty_iff.1 hnil)

theorem start_activates (hst : (domAt s d).st = .loaded) :
    exec (.start h) s = .next (succeed (srcOf h) (modDom s d (fun x => { x with st := .active }))) :=
  congrArg Host.Outcome.next (ringCmd_accepted (src := srcOf h) hdom (List.mem_singleton.2 hst) 0x12 _)

/-- RESUME answers the DRAIN that it ends, if one waits, and then itself. -/
theorem resume_activates (hst : (domAt s d).st = .draining) :
    ∃ t, exec (.resume h) s = .next t ∧ domAt t d = { domAt s d with st := .active, waitDrain := none } ∧ t.mem = s.mem ∧
      ∀ e, e ≠ d → domAt t e = domAt s e := by
  refine ⟨_, congrArg Host.Outcome.next (ringCmd_accepted (src := srcOf h) hdom (List.mem_singleton.2 hst) 0x14 _), ?_⟩
  have hactive : domAt (modDom s d (fun x => { x with st := .active, waitDrain := none })) d =
    { domAt s d with st := .active, waitDrain := none } := domAt_modDom (setupStates_of_mem (.inr (.inr (.inl rfl))))
  dsimp only
  split
  · exact ⟨by rw [domAt_succeed, domAt_complete, hactive], (complete_mem ..).trans (complete_mem ..), fun e he => by
      rw [domAt_succeed, domAt_complete]
      exact domAt_setDom_ne s _ he⟩
  · exact ⟨by rw [domAt_succeed, hactive], complete_mem .., fun e he => by
      rw [domAt_succeed]
      exact domAt_setDom_ne s _ he⟩

end Ring

theorem foldl_succeed_doms (l : List Src) (s : State) : (l.foldl (fun s src => succeed src s) s).doms = s.doms :=
  foldl_keep State.doms (fun s src => succeed src s) (fun _ _ => succeed_doms ..) l s

theorem foldl_succeed_mem (l : List Src) (s : State) : (l.foldl (fun s src => succeed src s) s).mem = s.mem :=
  foldl_keep State.mem (fun s src => succeed src s) (fun _ _ => complete_mem ..) l s

/-- Once the resident programs are in every island's store, the domain is LOADED and the ARMs that waited are answered. -/
theorem armComplete_loads {e : Fin 16} {s : State} (hst : (domAt s e).st = .bound) (hwait : (domAt s e).waitArm ≠ []) :
    ∃ t, exec (.armComplete e) s = .next t ∧ domAt t e = { domAt s e with st := .loaded, waitArm := [] } ∧ t.mem = s.mem := by
  have hdue : ¬((domAt s e).waitArm.isEmpty = true ∨ (domAt s e).st ≠ .bound) := by
    rw [List.isEmpty_iff, hst]
    exact not_or.2 ⟨hwait, fun hne => hne rfl⟩
  refine ⟨_, if_neg hdue, ?_⟩
  generalize hw : (residents (domAt s e)).foldl (fun s x => storeEverywhere s e x.1 x.2) s = w
  have hdoms : w.doms = s.doms := hw ▸ foldl_keep State.doms _ (fun s _ => storeEverywhere_doms s e _ _) _ s
  have hmem : w.mem = s.mem := hw ▸ foldl_keep State.mem _ (fun s _ => storeEverywhere_mem s e _ _) _ s
  have hset : domAt (modDom w e (fun x => { x with st := .loaded, waitArm := [] })) e =
      { domAt w e with st := .loaded, waitArm := [] } := domAt_modDom (setupStates_of_mem (.inr (.inl rfl)))
  exact ⟨by rw [domAt_of_doms (foldl_succeed_doms _ _), hset, domAt_of_doms hdoms], (foldl_succeed_mem _ _).trans hmem⟩

theorem emptyDomain_dom (s : State) (d : Nat) : domAt (emptyDomain s d) d = { zeroising := true } :=
  domAt_setDom _ d fun h => Bool.false_ne_true (congrArg Dom.zeroising h).symm

theorem emptyDomain_mem (s : State) (d : Nat) : (emptyDomain s d).mem = s.mem := by
  unfold emptyDomain
  exact (foldl_keep State.mem _ (fun _ _ => by rfl) _ _).trans (foldl_keep State.mem _ (fun _ _ => by rfl) _ _)

theorem unbind_empties {h : Hdr} {s : State} {d : Nat} (hdom : domOfVf s h.vf = some d)
    (hst : (domAt s d).st = .bound ∨ (domAt s d).st = .loaded ∨ (domAt s d).st = .quiesced) :
    ∃ t, exec (.unbind h) s = .next t ∧ domAt t d = { zeroising := true } ∧ t.mem = s.mem := by
  have hok : (domAt s d).st ∈ [DomState.bound, .loaded, .quiesced] := by
    simpa only [List.mem_cons, List.not_mem_nil, or_false] using hst
  refine ⟨_, congrArg Host.Outcome.next (ringCmd_accepted (src := srcOf h) hdom hok 0x15 _), ?_, ?_⟩
  · rw [domAt_succeed, emptyDomain_dom]
  · exact (complete_mem ..).trans ((emptyDomain_mem _ d).trans ((foldl_succeed_mem _ _).trans rfl))

/-- Settles O9: each command by the state from which it starts. -/
theorem domainStatesFollowCommands : Obligations.DomainStatesFollowCommands := by
  intro h s d hdom
  refine ⟨fun hempty hzero hinit hsplit => ?split, fun u hempty hzero hinit hsplit hdir => ?unified,
    fun hempty hwait => bind_waits hdom hempty hwait, fun hst hres => ?arm, fun hst hres => arm_waits hdom hst hres,
    fun e he hst hwait => ?armComplete, fun hst => ?start, fun hst => ?resume, fun hst => unbind_empties hdom hst⟩
  case split => exact ⟨_, bind_split hdom hempty hzero hinit hsplit, by rw [boundDomain_dom], boundDomain_mem _ d s⟩
  case unified =>
    exact ⟨_, bind_unified hdom hempty hzero hinit hsplit hdir, by rw [boundDomain_dom], by rw [boundDomain_dom],
      (boundDomain_mem _ d u).trans (ensureStruct_directory_mem hdir)⟩
  case arm =>
    obtain ⟨hself, hmem, hother⟩ := succeed_modDom (f := fun x => { x with st := .loaded }) (s := s) (d := d)
      (setupStates_of_mem (.inr (.inl rfl))) (srcOf h)
    exact ⟨_, arm_loads hdom hst hres, by rw [hself], hmem, hother⟩
  case armComplete =>
    subst he
    obtain ⟨t, ht, hself, hmem⟩ := armComplete_loads hst hwait
    exact ⟨t, ht, by rw [hself], by rw [hself], hmem⟩
  case start =>
    obtain ⟨hself, hmem, hother⟩ := succeed_modDom (f := fun x => { x with st := .active }) (s := s) (d := d)
      (setupStates_of_mem (.inr (.inr (.inl rfl)))) (srcOf h)
    exact ⟨_, start_activates hdom hst, by rw [hself], hmem, hother⟩
  case resume =>
    obtain ⟨t, ht, hself, hmem, hother⟩ := resume_activates hdom hst
    exact ⟨t, ht, by rw [hself], by rw [hself], hmem, hother⟩

end Sys2Proof.Machine
end

section
/-!
DRAIN, its end, and the end of a domain's zeroisation (R105, R443).
-/
namespace Sys2Proof.Machine

/-! ### Draining -/

theorem drain_winds_down {h : Hdr} {s : State} {d : Nat} (hdom : domOfVf s h.vf = some d) (hst : (domAt s d).st = .active) :
    exec (.drain h) s = .next (settleChansOf (shutWindows (leaveGroups
      (modDom s d (fun x => { x with st := .draining, waitDrain := some (srcOf h) })) d) d) d) :=
  congrArg Host.Outcome.next (ringCmd_accepted (src := srcOf h) hdom (List.mem_singleton.2 hst) 0x13 _)

theorem drainQuiesced_quiesces {d : Fin 16} {s : State} {src : Src} (hst : (domAt s d).st = .draining)
    (hnone : nothingLeft s d = true) (hwait : (domAt s d).waitDrain = some src) :
    exec (.drainQuiesced d) s = .next (complete src .success 1
      (modDom s d (fun x => { x with st := .quiesced, waitDrain := none }))) := by
  show execDrainQuiesced d s = _
  simp only [execDrainQuiesced, hst, hnone, hwait, and_self, if_true]

/-! ### Zeroing memory -/

/-- Zeroing one range after another: an address in any of them reads zero, every other as before. -/
theorem foldl_dramZero_get (f : Nat → Nat) (n a : Nat) (l : List Nat) (s : State) :
    sparseGet 0 (l.foldl (fun s v => dramZero s (f v) n) s).mem a =
      if ∃ v ∈ l, f v ≤ a ∧ a < f v + n then 0 else sparseGet 0 s.mem a := by
  induction l generalizing s with
  | nil => simp
  | cons v l ih =>
    rw [List.foldl_cons, ih, show (dramZero s (f v) n).mem = sparseClear s.mem (f v) n from rfl, sparseGet_clear]
    simp only [List.mem_cons, or_and_right, exists_or, exists_eq_left]
    by_cases hv : f v ≤ a ∧ a < f v + n
    · rw [if_pos hv, ite_self, if_pos (Or.inl hv)]
    · simp only [hv, if_false, false_or]

theorem foldl_dramZero_conf (f : Nat → Nat) (n : Nat) (l : List Nat) (s : State) :
    (l.foldl (fun s v => dramZero s (f v) n) s).conf = s.conf := foldl_keep State.conf _ (fun _ _ => by rfl) l s

theorem foldl_dramZero_doms (f : Nat → Nat) (n : Nat) (l : List Nat) (s : State) :
    (l.foldl (fun s v => dramZero s (f v) n) s).doms = s.doms := foldl_keep State.doms _ (fun _ _ => by rfl) l s

/-- A domain's memory: the vaults of its islands and its channels (R105). -/
theorem zeroDomain_get (s : State) (d a : Nat) : sparseGet 0 (zeroDomain s d).mem a =
    if (∃ c ∈ chanList (memRec s d), 2 ^ 40 + c * 2 ^ 36 ≤ a ∧ a < 2 ^ 40 + c * 2 ^ 36 + 2 ^ 36) then 0
    else if (∃ v ∈ ownedIslands s d, v * 2 ^ 30 ≤ a ∧ a < v * 2 ^ 30 + 2 ^ 30) then 0 else sparseGet 0 s.mem a := by
  simp only [zeroDomain, memRec]
  rw [foldl_dramZero_get (fun c => 2 ^ 40 + c * 2 ^ 36), foldl_dramZero_get (fun v => v * 2 ^ 30),
    foldl_dramZero_conf (fun v => v * 2 ^ 30)]
  rfl

theorem zeroDomain_doms (s : State) (d : Nat) : (zeroDomain s d).doms = s.doms :=
  (foldl_dramZero_doms _ _ _ _).trans (foldl_dramZero_doms _ _ _ _)

/-! ### The end of zeroisation -/

theorem releaseBinds_none {s : State} {d : Nat} (h : (domAt s d).waitBind = []) : releaseBinds s d = s := by
  refine if_pos ?_
  rw [h, List.isEmpty_nil, Bool.or_true]

theorem foldl_releaseBinds_none {s : State} {l : List Nat} (h : ∀ e ∈ l, (domAt s e).waitBind = []) :
    l.foldl releaseBinds s = s := by
  induction l with
  | nil => rfl
  | cons e l ih =>
    rw [List.foldl_cons, releaseBinds_none (h e (List.mem_cons_self ..))]
    exact ih fun e' he' => h e' (List.mem_cons_of_mem e he')

/-- A domain whose memory has been zeroed is ready for a BIND. -/
def zeroised (s : State) (d : Fin 16) : State :=
  raise (0x120 + d.val) (modDom (zeroDomain s d) d (fun x => { x with zeroising := false }))

theorem zeroised_mem (s : State) (d : Fin 16) : (zeroised s d).mem = (zeroDomain s d).mem := raise_mem ..

theorem zeroised_dom {s : State} {d : Fin 16} (hwf : sparseWf {} s.doms = true) (e : Nat) :
    domAt (zeroised s d) e = if e = d then { domAt s d with zeroising := false } else domAt s e := by
  have hdom : domAt (zeroised s d) e = domAt (modDom (zeroDomain s d) d (fun x => { x with zeroising := false })) e :=
    domAt_of_doms (raise_doms ..) e
  rw [hdom, modDom, domAt, setDom, sparseGet_set _ _ (by rw [zeroDomain_doms]; exact hwf), domAt_of_doms (zeroDomain_doms s d),
    zeroDomain_doms]
  rfl

/-- With no BIND waiting, the end of a zeroisation changes that domain and its memory alone, whether or not it is the last. -/
theorem zeroisationDone_ends {d : Fin 16} {s : State} (hzero : (domAt s d).zeroising = true) (hst : (domAt s d).st = .empty)
    (hrestore : s.pow.restore = none) (hwait : ∀ e, e < 16 → (domAt s e).waitBind = []) (hwf : sparseWf {} s.doms = true) :
    ∃ t, exec (.zeroisationDone d) s = .next t ∧ t.doms = (zeroised s d).doms ∧ t.mem = (zeroised s d).mem := by
  have hnone : ∀ e ∈ List.range 16, (domAt (zeroised s d) e).waitBind = [] := fun e he => by
    rw [zeroised_dom hwf]
    split
    · exact hwait d d.isLt
    · exact hwait e (List.mem_range.1 he)
  have hexec : exec (.zeroisationDone d) s = .next (if initWait (zeroised s d) then zeroised s d
      else (List.range 16).foldl releaseBinds { zeroised s d with pow := { (zeroised s d).pow with initing := false } }) :=
    if_pos ⟨hzero, hst, by rw [hrestore]; rfl⟩
  rw [foldl_releaseBinds_none (s := { zeroised s d with pow := { (zeroised s d).pow with initing := false } }) hnone] at hexec
  refine ⟨_, hexec, ?_⟩
  split <;> exact ⟨rfl, rfl⟩

/-- Settles O10: draining by its states, zeroised memory by the ranges it takes. -/
theorem drainAndZeroiseComplete : Obligations.DrainAndZeroiseComplete := by
  refine ⟨fun h s d hdom hst => drain_winds_down hdom hst, fun d s src hst hnone hwait => ?quiesced,
    fun d s hzero hst hrestore hwait hwf => ?zeroised⟩
  case quiesced =>
    have hset : domAt (modDom s d (fun x => { x with st := .quiesced, waitDrain := none })) d =
      { domAt s d with st := .quiesced, waitDrain := none } := domAt_modDom (show DomState.quiesced ∈ setupStates by decide)
    exact ⟨_, drainQuiesced_quiesces hst hnone hwait, by rw [domAt_complete, hset], by rw [domAt_complete, hset], complete_mem ..,
      rfl⟩
  case zeroised =>
    obtain ⟨t, ht, hdoms, hmem⟩ := zeroisationDone_ends hzero hst hrestore hwait hwf
    have hdom : domAt t d = { domAt s d with zeroising := false } := by
      rw [domAt_of_doms hdoms, zeroised_dom hwf, if_pos rfl]
    have hget : ∀ a, sparseGet 0 t.mem a = sparseGet 0 (zeroDomain s d).mem a := fun a => by rw [hmem, zeroised_mem]
    refine ⟨t, ht, by rw [hdom], by rw [hdom]; exact hst, fun v hv o ho => ?_, fun c hc o ho => ?_, fun a hv hc => ?_⟩
    · rw [hget, zeroDomain_get, if_pos (c := ∃ v ∈ ownedIslands s d, _) ⟨v, hv, by omega, by omega⟩, ite_self]
    · rw [hget, zeroDomain_get, if_pos ⟨c, hc, by omega, by omega⟩]
    · rw [hget, zeroDomain_get, if_neg, if_neg]
      · rintro ⟨v, hv', hlo, hhi⟩
        exact hv v hv' (by omega)
      · rintro ⟨c, hc', hlo, hhi⟩
        exact hc c hc' (by omega)

end Sys2Proof.Machine
end

section
/-!
The windows of the VFs and of the PF (R431, R521).
-/
namespace Sys2Proof.Machine

/-! ### One byte through a window -/

/-- A single byte is one piece of one beat. -/
theorem beatPieces_one (a : Nat) : beatPieces a 1 = [(a, 1)] := by
  have hunits : unitsOf 64 a 1 = [a / 64] := by
    have hone : (a + 1 - 1) / 64 - a / 64 + 1 = 1 := by omega
    rw [unitsOf, if_neg Nat.one_ne_zero, hone, List.range_one, List.map_singleton, Nat.add_zero]
  have hlo : max a (64 * (a / 64)) = a := by omega
  have hhi : min (a + 1) (64 * (a / 64) + 64) - a = 1 := by omega
  rw [beatPieces, hunits, List.map_singleton, hlo, hhi]

/-- A byte that reaches DRAM on which no engine operation waits is written there. -/
theorem windowWrite_one {m : WinMap} {s : State} {a pa : Nat} (hm : m s a = some pa) (hbusy : engineBusy s pa 1 = false)
    (miss : State → State) (b : Byte) : windowWrite m miss a [b] s = dramWrite s pa (clean [b]) := by
  have hpieces : beatPieces a [b].length = [(a, 1)] := beatPieces_one a
  simp only [windowWrite, hpieces, List.foldl_cons, List.foldl_nil, hm, waitEngine, hbusy, Bool.false_eq_true, if_false,
    Nat.sub_self, List.drop_zero, List.take_succ_cons, List.take_zero]

/-- A write that reaches nothing is dropped. -/
theorem windowWrite_misses {m : WinMap} {s : State} (hm : ∀ a, m s a = none) (a : Nat) (data : List Byte) :
    windowWrite m id a data s = s := by
  have hfold : ∀ (l : List (Nat × Nat)) (c : Bool), (l.foldl (fun (acc : State × Bool) (e : Nat × Nat) =>
      match m acc.1 e.1 with
      | none => (acc.1, true)
      | some pa => (dramWrite (waitEngine acc.1 pa e.2) pa (clean ((data.drop (e.1 - a)).take e.2)), acc.2)) (s, c)).1 = s := by
    intro l
    induction l with
    | nil => exact fun _ => rfl
    | cons e l ih =>
      intro c
      rw [List.foldl_cons, hm]
      exact ih true
  have hsame := hfold (beatPieces a data.length) false
  unfold windowWrite
  dsimp only
  split <;> exact hsame

/-! ### What a host's access sees of a module that it wakes -/

theorem wakeS2_vfs (s : State) : (wakeS2 s).vfs = s.vfs := by simp only [wakeS2]; split <;> simp

theorem wakeS2_sameView (s : State) : SameView s (wakeS2 s) := by
  have hdom := domAt_of_doms (wakeS2_doms s)
  refine ⟨wakeS2_mem s, ?_, ?_, ?_, wakeS2_conf s, ?_, wakeS2_net s, ?_, by rw [wakeS2_mig], by rw [wakeS2_mig], by rw [wakeS2_mig],
    fun d => by rw [hdom], fun d _ _ => by rw [hdom]⟩ <;> (simp only [wakeS2]; split <;> simp)

theorem keepStaged_sameView {s : State} (h : s.mig.stagings = []) (d va n : Nat) : SameView s (keepStaged s d va n) := by
  refine ⟨rfl, rfl, rfl, rfl, rfl, rfl, rfl, rfl, rfl, rfl, ?_, fun _ => rfl, fun _ _ _ => rfl⟩
  simp only [keepStaged, h, List.map_nil]

theorem vfWindow_wakeS2 (s : State) (v off : Nat) : vfWindow (wakeS2 s) v off = vfWindow s v off := by
  have hdom := domAt_of_doms (wakeS2_doms s)
  have hvf : vfAt (wakeS2 s) v = vfAt s v := by rw [vfAt, wakeS2_vfs, vfAt]
  have hof : domOfVf (wakeS2 s) v = domOfVf s v := by
    simp only [domOfVf, domRec, wakeS2_conf]
  simp only [vfWindow, hvf, hof, hdom]

theorem engineBusy_of_vaults {s u : State} (h : u.vaults = s.vaults) (pa n : Nat) : engineBusy u pa n = engineBusy s pa n := by
  simp only [engineBusy, vaultAt, h]

/-! ### The obligation -/

/-- A byte written through an open window to T1 is stored at the place of its address, and nowhere else (R431). -/
theorem windowWrite_stores {fn : Fin 17} {off : BitVec 36} {b : Byte} {s : State} {d a : Nat} {p : Place} (hup : hostUp s = true)
    (hfn : fn.val ≠ 0) (hwin : vfWindow s (fn.val - 1) off.toNat = some (d, a)) (hp : xlat s d none a = .ok p) (ht1 : p.tier = .t1)
    (hst : s.mig.stagings = []) (hlat : s.latent = []) (hbusy : engineBusy s p.addr 1 = false) :
    ∃ t, exec (.windowWrite fn off [b]) s = .next t ∧ t.mem = memPut s.mem p.addr [b] := by
  have hview : SameView s (keepStaged (wakeS2 s) d a 1) :=
    (wakeS2_sameView s).trans (keepStaged_sameView (by rw [wakeS2_mig]; exact hst) d a 1)
  have hplace : winPlace d (keepStaged (wakeS2 s) d a 1) a = some p.addr := by
    rw [winPlace, hview.xlat, hp]
    exact if_neg (by rw [ht1]; decide)
  have hwrite : exec (.windowWrite fn off [b]) s =
      .next (windowWrite (winPlace d) (raise 0x204) a [b] (keepStaged (wakeS2 s) d a 1)) := by
    refine (next_viaHost hup _).trans ?_
    simp only [hfn, if_false, vfWindow_wakeS2, hwin, List.length_singleton]
  refine ⟨_, hwrite, ?_⟩
  rw [windowWrite_one hplace (by rw [engineBusy_of_vaults hview.vaults]; exact hbusy),
    dramWrite_mem_clean (hview.latent.trans hlat), hview.mem]
  rfl

section Closed
variable {s : State} (hup : hostUp s = true)
include hup

theorem window_closed {fn : Fin 17} {off : BitVec 36} (hfn : fn.val ≠ 0) (hwin : vfWindow (wakeS2 s) (fn.val - 1) off.toNat = none)
    (n : Fin 4097) (data : List Byte) :
    exec (.windowRead fn off n) s = .next { wakeS2 s with reply := List.replicate n 0xFF } ∧
    exec (.windowWrite fn off data) s = .next (wakeS2 s) := by
  refine ⟨(next_viaHost hup _).trans ?_, (next_viaHost hup _).trans ?_⟩ <;> simp only [hfn, if_false, hwin]

/-- With debug closed the window of the PF reads zero and drops writes (R521). -/
theorem debugWindow_closed (hdbg : s.sec.dbg = none) (off : BitVec 36) (n : Fin 4097) (data : List Byte) :
    exec (.windowRead 0 off n) s = .next { wakeS2 s with reply := List.replicate n 0 } ∧
    exec (.windowWrite 0 off data) s = .next (wakeS2 s) := by
  have hclosed : debugOpen (wakeS2 s) = none := by
    unfold debugOpen
    rw [wakeS2_sec, hdbg, ite_self]
  refine ⟨(next_viaHost hup _).trans ?_, (next_viaHost hup _).trans ?_⟩
  · simp only [Fin.val_zero, if_true, hclosed]
  · refine congrArg _ (windowWrite_misses (fun a => ?_) _ data)
    simp only [debugPlace, hclosed]

end Closed

/-- Settles O41: a byte by the place that its address translates to, the rest by the window that is closed. -/
theorem windowsReachMemory : Obligations.WindowsReachMemory := by
  refine ⟨fun fn off b s d a p hup hfn hwin hp ht1 _ hst hlat hbusy hwf => ?stores,
    fun fn off n data s hup hfn hwin => window_closed hup hfn hwin n data, fun off n data s hup hdbg => ?debug⟩
  case stores =>
    obtain ⟨t, ht, hmem⟩ := windowWrite_stores (b := b) hup hfn hwin hp ht1 hst hlat hbusy
    have hget : ∀ x, sparseGet 0 t.mem x = if x = p.addr then b else sparseGet 0 s.mem x := fun x => by
      have hput : memPut s.mem p.addr [b] = sparseSet 0 s.mem p.addr b := rfl
      rw [hmem, hput, sparseGet_set 0 s.mem hwf]
    exact ⟨t, ht, by rw [hget, if_pos rfl], fun x hx => by rw [hget, if_neg hx]⟩
  case debug =>
    obtain ⟨hread, hwrite⟩ := debugWindow_closed hup hdbg off n data
    exact ⟨hread, _, hwrite, wakeS2_mem s, (wakeS2_sameView s).poison, wakeS2_doms s⟩

end Sys2Proof.Machine
end

section
/-!
Function resets (R445, R446): a join that another VF's command began is answered after that VF's own reset.
-/
namespace Sys2Proof.Machine

/-- The link is up, domain 0 belongs to VF 0 and domain 1 to VF 1, and a GROUP_JOIN that came over VF 0 waits in domain 1. -/
def strayJoin : State :=
  { State.reset with
    pow := { State.reset.pow with link := .up }
    conf := { State.reset.conf with doms := [(0, some { vf := 1 }), (1, some { vf := 2 })] }
    net := { State.reset.net with joins := [⟨⟨0, 0, 7⟩, 1, 5, [], 0⟩] } }

/-- The outcome's state, if there is one, has VF 0 at its Cold values. -/
def leavesVfCold : Outcome → Bool
  | .next t => decide (vfAt t 0 = {})
  | _ => true

/-- PF_FLR resets VF 0 first. Domain 1 ends after it, and the record of its join then waits in VF 0 again, whose completion
ring is off. -/
theorem pfFlr_strayJoin : leavesVfCold (exec .pfFlr strayJoin) = false := by decide +kernel

/-- Refutes O49: a join whose command came over a VF other than its domain's leaves a record in that VF after its reset. -/
theorem not_functionResetsEndDomains : ¬ Obligations.FunctionResetsEndDomains := by
  rintro ⟨-, -, hpf⟩
  obtain ⟨t, ht, -, -, -, -, -, hvf⟩ := hpf strayJoin rfl rfl rfl
  have hwarm := pfFlr_strayJoin
  rw [ht] at hwarm
  exact of_decide_eq_false hwarm (hvf 0 0 (by decide) (by decide +kernel)).2

end Sys2Proof.Machine
end

section
/-!
The ring registers (R432, R436, R450 to R455).
-/
namespace Sys2Proof.Machine

/-! ### Rings of a module that an access wakes -/

theorem vfAt_wakeS2 (s : State) (v : Nat) : vfAt (wakeS2 s) v = vfAt s v := by rw [vfAt, wakeS2_vfs, vfAt]

theorem sqAt_wakeS2 (s : State) (v q : Nat) : sqAt (wakeS2 s) v q = sqAt s v q := by rw [sqAt, vfAt_wakeS2, sqAt]

theorem cqAt_wakeS2 (s : State) (v c : Nat) : cqAt (wakeS2 s) v c = cqAt s v c := by rw [cqAt, vfAt_wakeS2, cqAt]

/-- A mask that keeps bit 0 keeps ENABLE as it was written. -/
theorem bit_land_enable {w m : Nat} (hm : m.testBit 0 = true) : bit (Nat.land w m) 0 = bit w 0 := by
  show (w &&& m).testBit 0 = w.testBit 0
  rw [Nat.testBit_and, hm, Bool.and_true]

section Submission
variable {v : Fin 16} {q : Fin 8} {w : Word} {s : State} (hup : hostUp s = true)
include hup

theorem sqDoorbell_serves (hen : bit (sqAt s v q).ctrl 0 = true) (hin : w.toNat < ringSize (sqAt s v q).ctrl) :
    exec (.sqDoorbell v q w) s = .next (serveVf (setSq (wakeS2 s) v q { sqAt s v q with tail := w.toNat }) v) := by
  refine (next_viaHost hup _).trans ?_
  simp only [sqAt_wakeS2, hen, Nat.not_le.2 hin, decide_false, Bool.and_false, Bool.false_eq_true, if_false]

theorem sqDoorbell_beyond (hen : bit (sqAt s v q).ctrl 0 = true) (hout : ringSize (sqAt s v q).ctrl ≤ w.toNat) :
    exec (.sqDoorbell v q w) s = .next (sqError (wakeS2 s) v q .ringBad) := by
  refine (next_viaHost hup _).trans ?_
  simp only [sqAt_wakeS2, hen, hout, decide_true, Bool.and_self, if_true]

section Enable
variable (hoff : bit (sqAt s v q).ctrl 0 = false) (hon : bit w.toNat 0 = true)
include hoff hon

theorem sqEnable_checks : exec (.sqEnable v q w) s = .next (
    let c := Nat.land w.toNat 0x00031F01
    if sizeOk c && bit (cqAt s v (bits c 17 16)).ctrl 0 then
      setSq (wakeS2 s) v q { sqAt s v q with ctrl := c, head := 0, tail := 0 }
    else sqError (setSq (wakeS2 s) v q { sqAt s v q with ctrl := c }) v q .ringBad) := by
  have hbit : bit (Nat.land w.toNat 0x00031F01) 0 = true := (bit_land_enable (by decide)).trans hon
  refine (next_viaHost hup _).trans ?_
  simp only [sqAt_wakeS2, cqAt_wakeS2, hoff, hbit, Bool.not_true, Bool.false_eq_true, if_false]

end Enable
end Submission

section Completion
variable {v : Fin 16} {c : Fin 4} {w : Word} {s : State}

section Host
variable (hup : hostUp s = true)
include hup

theorem cqHeadWrite_checks (hen : bit (cqAt s v c).ctrl 0 = true) : exec (.cqHeadWrite v c w) s = .next (
    let x := cqAt s v c
    let n := ringSize x.ctrl
    if n ≤ w.toNat ∨ cqHeld x < (w.toNat + n - x.head) % n then cqError (wakeS2 s) v c .ringBad
    else serveVf (setCq (wakeS2 s) v c { x with head := w.toNat }) v) := by
  refine (next_viaHost hup _).trans ?_
  simp only [cqAt_wakeS2, hen, Bool.not_true, Bool.false_eq_true, if_false]

theorem cqEnable_checks (hoff : bit (cqAt s v c).ctrl 0 = false) (hon : bit w.toNat 0 = true) :
    exec (.cqEnable v c w) s = .next (
      let d := Nat.land w.toNat 0xFFFFDF03
      if sizeOk d then serveVf (setCq (wakeS2 s) v c { cqAt s v c with ctrl := d, head := 0, tail := 0, phase := true }) v
      else cqError (setCq (wakeS2 s) v c { cqAt s v c with ctrl := d }) v c .ringBad) := by
  have hbit : bit (Nat.land w.toNat 0xFFFFDF03) 0 = true := (bit_land_enable (by decide)).trans hon
  refine (next_viaHost hup _).trans ?_
  simp only [cqAt_wakeS2, hoff, hbit, Bool.not_true, Bool.false_eq_true, if_false]

end Host

/-- A due message goes out once HOLDOFF has passed since the last (R436). -/
theorem cqHoldoffExpiry_sends (hdue : (cqAt s v c).due = true)
    (hpassed : ∀ t, (cqAt s v c).lastMsg = some t → t + 1000 * bits (cqAt s v c).ctrl 31 20 ≤ s.now) :
    exec (.cqHoldoffExpiry v c) s = .next (sendVfVector
      (setCq s v c { cqAt s v c with lastMsg := some s.now, due := false }) v (bits (cqAt s v c).ctrl 19 14)) := by
  show execCqHoldoffExpiry v c s = _
  unfold execCqHoldoffExpiry
  extract_lets x passed
  have hp : passed = true := by
    unfold passed
    split
    case h_1 t ht => exact decide_eq_true (hpassed t ht)
    case h_2 => rfl
  exact if_pos (Bool.and_eq_true_iff.2 ⟨hdue, hp⟩)

end Completion

/-- Settles O40: each register by the checks of its write. -/
theorem ringRegistersComplete : Obligations.RingRegistersComplete := by
  refine ⟨fun v q w s hup => ⟨sqDoorbell_serves hup, sqDoorbell_beyond hup, fun hoff hon => ?sqEnable⟩,
    fun v c w s => ⟨fun hup hen => ?head, fun hup hoff hon => ?cqEnable, cqHoldoffExpiry_sends⟩⟩
  case sqEnable =>
    intro c
    rw [sqEnable_checks hup hoff hon]
    exact ⟨fun hsize hcq => congrArg _ (if_pos (Bool.and_eq_true_iff.2 ⟨hsize, hcq⟩)),
      fun hbad => congrArg _ (if_neg (Bool.eq_false_iff.1 (Bool.and_eq_false_iff.2 hbad)))⟩
  case head =>
    rw [cqHeadWrite_checks hup hen]
    exact ⟨fun hin hheld => congrArg _ (if_neg (not_or.2 ⟨Nat.not_le.2 hin, Nat.not_lt.2 hheld⟩)), fun hbad => congrArg _ (if_pos hbad)⟩
  case cqEnable =>
    intro d
    rw [cqEnable_checks hup hoff hon]
    exact ⟨fun hsize => congrArg _ (if_pos hsize), fun hbad => congrArg _ (if_neg (Bool.eq_false_iff.1 hbad))⟩

end Sys2Proof.Machine
end

section
/-!
Reads of host memory that fail (R85, R178, R439, R444, R448).
-/
namespace Sys2Proof.Machine

/-! ### Rings -/

/-- The read of a ring's record that fails disables the ring, and faults the domain of a VF that has one (R444). -/
theorem ringReadFails_free {s : State} {v q : Nat} (h : domOfVf (sqError (raise 0x207 s) v q .hostReadFault) v = none) :
    ringReadFails s v q = sqError (raise 0x207 s) v q .hostReadFault := by
  unfold ringReadFails readFailed
  dsimp only
  rw [h]

theorem ringReadFails_faults {s : State} {v q d : Nat} (h : domOfVf (sqError (raise 0x207 s) v q .hostReadFault) v = some d) :
    ringReadFails s v q = faultDomain (sqError (raise 0x207 s) v q .hostReadFault) d .hostReadFault := by
  unfold ringReadFails readFailed
  dsimp only
  rw [h]

theorem sqError_conf (s : State) (v q : Nat) (st : Status) : (sqError s v q st).conf = s.conf := by
  unfold sqError ringEvent
  dsimp only
  split
  · rw [raise_conf]
    rfl
  · rfl

theorem domOfVf_of_conf {s t : State} (h : t.conf = s.conf) (v : Nat) : domOfVf t v = domOfVf s v := by
  simp only [domOfVf, domRec, h]

theorem hostRead_ring {v : Fin 16} {q : Fin 8} {s : State} (h : ringReads s v q = true) :
    exec (.hostReadTimeout (.ring v q)) s = .next (ringReadFails s v q) := if_pos h

theorem hostRead_doorbell {v : Fin 16} {q : Fin 8} {tail : Word} {s : State} (hup : hostUp s = true) (hawake : s.pow.st ≠ 2)
    (hin : tail.toNat < ringSize (sqAt s v q).ctrl) (h : ringReads (setSq s v q { sqAt s v q with tail := tail.toNat }) v q = true) :
    exec (.hostReadTimeout (.doorbell v q tail)) s =
      .next (ringReadFails (setSq s v q { sqAt s v q with tail := tail.toNat }) v q) := by
  show execHostReadTimeout (.doorbell v q tail) s = _
  simp only [execHostReadTimeout, wakeS2_awake hawake, hup, hin, h, decide_true, Bool.and_self, if_true]

/-! ### Lists, descriptors and argument blocks -/

section Tasks
variable {s : State} {d : Nat}

theorem hostRead_list {h : Hdr} (hdom : domOfVf s h.vf = some d) (hst : (domAt s d).st ∈ setupStates) :
    exec (.hostReadTimeout (.list h)) s = .next (refuse (srcOf h) .hostReadFault (raise 0x207 s)) :=
  congrArg Host.Outcome.next (ringCmd_accepted (src := srcOf h) hdom hst 0x20 _)

theorem hostRead_descriptor {h : Hdr} (hdom : domOfVf s h.vf = some d) (hst : (domAt s d).st = .active) :
    exec (.hostReadTimeout (.descriptor h)) s = .next (refuseTask (raise 0x207 s) (srcOf h) d 0 .hostReadFault) :=
  congrArg Host.Outcome.next (ringCmd_accepted (src := srcOf h) hdom (List.mem_singleton.2 hst) 0x01 _)

/-- The first piece of a range begins where the range does. -/
theorem piecesOf_head {a n : Nat} (hn : 0 < n) : ∃ m rest, piecesOf a n = (a, m) :: rest := by
  rw [piecesOf, pieces, if_neg (by omega)]
  exact ⟨_, _, rfl⟩

/-- An argument block begins at its address and holds at least its header (R178). -/
theorem argRange_spec (s : State) (d va : Nat) : (argRange s d va).1 = va ∧ 0 < (argRange s d va).2 := by
  unfold argRange
  split
  · exact ⟨rfl, by omega⟩
  · exact ⟨rfl, by omega⟩

/-- A task's argument block is lost where its first byte lies in a tier whose read fails, or comes late. -/
theorem argLost_of_tier {raw : List Byte} {x : Desc} {p : Place} (hx : readDesc raw d = some x) (hp : xlat s d none x.argVa = .ok p)
    {late : Bool} (htier : p.tier = .t3 ∨ late = true ∧ p.tier = .t2) (src : Src) :
    argLost s src d raw late = some (refuseTask (if late then s else raise 0x207 s) src d (leAt raw 0x60 4)
      (if late then .lowerTierTimeout else .hostReadFault)) := by
  obtain ⟨hva, hlen⟩ := argRange_spec s d x.argVa
  obtain ⟨m, rest, hpieces⟩ := piecesOf_head (a := (argRange s d x.argVa).1) hlen
  have hslow : (p.tier == .t3 || late && p.tier == .t2) = true := by
    rcases htier with h | ⟨hlate, h⟩
    · rw [h]; rfl
    · rw [h, hlate]; rfl
  unfold argLost
  rw [hx]
  refine if_pos ?_
  rw [hpieces, hva]
  simp only [List.any_cons, hp, hslow, Bool.true_or]

theorem hostRead_argument {h : Hdr} {a : DWord} {x : Desc} {p : Place} (hdom : domOfVf s h.vf = some d)
    (hst : (domAt s d).st = .active) (hx : readDesc (hostBytes s a.toNat 128) d = some x) (hp : xlat s d none x.argVa = .ok p)
    {late : Bool} (htier : p.tier = .t3 ∨ late = true ∧ p.tier = .t2) :
    exec (.hostReadTimeout (.argument h a late)) s = .next (refuseTask (if late then s else raise 0x207 s) (srcOf h) d
      (leAt (hostBytes s a.toNat 128) 0x60 4) (if late then .lowerTierTimeout else .hostReadFault)) := by
  show execHostReadTimeout (.argument h a late) s = _
  simp only [execHostReadTimeout, hdom, Option.bind_some, argLost_of_tier hx hp htier]
  exact congrArg Host.Outcome.next (ringCmd_accepted (src := srcOf h) hdom (List.mem_singleton.2 hst) 0x01 _)

section Queued
variable {v : Fin 16} {src : Src} {a n : Nat} {rest : List (Src × Nat × Nat)} (hdom : domOfVf s v = some d)
  (hq : (domAt s d).tasking = (src, a, n + 1) :: rest)
include hdom hq

theorem hostRead_queued :
    let u := modDom s d (fun x => { x with tasking := if n = 0 then rest else (src, a + 128, n) :: rest })
    exec (.hostReadTimeout (.queued v)) s = .next (dispatchDom (refuseTask (raise 0x207 u) src d 0 .hostReadFault) d) := by
  show execHostReadTimeout (.queued v) s = _
  simp only [execHostReadTimeout, hdom, hq]
  rfl

theorem hostRead_queuedArgument {x : Desc} {p : Place} (hx : readDesc (hostBytes s a 128) d = some x) :
    let u := modDom s d (fun x => { x with tasking := if n = 0 then rest else (src, a + 128, n) :: rest })
    xlat u d none x.argVa = .ok p → p.tier = .t3 → exec (.hostReadTimeout (.queuedArgument v false)) s =
      .next (dispatchDom (refuseTask (raise 0x207 u) src d (leAt (hostBytes s a 128) 0x60 4) .hostReadFault) d) := by
  intro u hp ht3
  show execHostReadTimeout (.queuedArgument v false) s = _
  have hlost := argLost_of_tier (late := false) hx hp (.inl ht3) src
  unfold u at hlost
  simp only [execHostReadTimeout, hdom, hq, hlost, Bool.false_eq_true, if_false]
  rfl

end Queued

end Tasks

/-! ### Everything else that waits for host memory -/

theorem hostRead_promotion {s : State} {q : Promo} {rest : List Promo} {p : Page} (hq : s.mig.promos = q :: rest)
    (hp : pageAt s q.dom q.page = some p) (ht1 : p.tier ≠ .t1) :
    let u := { s with mig := { s.mig with promos := rest } }
    exec (.hostReadTimeout .promotion) s = .next (if p.tier = .t3 then raise 0x207 u else u) := by
  show execHostReadTimeout .promotion s = _
  simp only [execHostReadTimeout, hq, hp, ht1, if_false]
  rfl

theorem hostRead_task {s : State} {i : Fin 256} {t : Task} (h : waitsT3 s i = some t) :
    exec (.hostReadTimeout (.task i)) s = .next (endTask (raise 0x207 s) t .hostReadFault (some (islandAt s i).pc)) := by
  show execHostReadTimeout (.task i) s = _
  simp only [execHostReadTimeout, h]
  rfl

/-- Settles O42: each reader by what waits for the data. -/
theorem hostReadsThatFail : Obligations.HostReadsThatFail := by
  intro s
  refine ⟨fun v q hreads hnone => ?free, fun v q d hreads hdom => ?faults,
    fun v q tail hup hawake hin hreads => hostRead_doorbell hup hawake hin hreads,
    fun h d hdom => ⟨hostRead_list hdom, hostRead_descriptor hdom⟩, fun h a d x p hdom hst hx hp => ⟨fun ht3 => ?argument, fun ht1 => ?late⟩,
    fun v d src a n rest hdom hq => ⟨hostRead_queued hdom hq, fun x p hx => hostRead_queuedArgument hdom hq hx⟩,
    fun q rest p hq hp ht1 => hostRead_promotion hq hp ht1, fun hidle => if_neg (Bool.eq_false_iff.1 hidle), fun i t => hostRead_task,
    fun c hlow => if_pos hlow⟩
  case free =>
    have hconf : (sqError (raise 0x207 s) v q .hostReadFault).conf = s.conf := (sqError_conf ..).trans (raise_conf ..)
    rw [hostRead_ring hreads, ringReadFails_free]
    rw [domOfVf_of_conf hconf]
    exact Option.isNone_iff_eq_none.1 hnone
  case faults => rw [hostRead_ring hreads, ringReadFails_faults hdom]
  case argument => exact hostRead_argument (late := false) hdom hst hx hp (.inl ht3)
  case late =>
    have htier : p.tier = .t3 ∨ true = true ∧ p.tier = .t2 := by
      cases h : p.tier
      · exact absurd h ht1
      · exact .inr ⟨rfl, rfl⟩
      · exact .inl rfl
    exact hostRead_argument (late := true) hdom hst hx hp htier

end Sys2Proof.Machine
end

section
/-!
Supplies, training and the host link (R106, R478, R487, R491, R493, R537).
-/
namespace Sys2Proof.Machine

/-! ### The cold power-up -/

/-- The hub of a cold power-up before its identity is known: nothing but what lies outside the module is left (R491). -/
def coldStart (s : State) : State :=
  logE 1 .success none 0xFF (leBytes 1 0) (coldSec { blank (takeFree s) with log := {} } (Config.pufOk s.free))

/-- What the parts that persist of nothing look like at a cold power-up. -/
structure Cold (s t : State) : Prop where
  pow : t.pow = (blank s).pow
  mem : t.mem = []
  doms : t.doms = []
  tasks : t.tasks = []
  img : t.img = {}
  host : t.host = s.host
  mrs : t.sec.mrs.drop 1 = List.replicate 7 (List.replicate 32 0)

/-- The security registers once the boot ROM is measured (R507, R512). -/
def bootRegisters (ok : Bool) : Sec where
  idOk := ok
  mrs := modAt (List.replicate 8 (List.replicate 32 0)) 0 (fun r => sha3 (r ++ slice ((List.range 32).map Config.bootRomDigest) 0 32))
  log := [measureEntry 0 0 0 Config.bootRomVersion.toNat ((List.range 32).map Config.bootRomDigest)]

theorem coldSec_eq (s : State) (ok : Bool) : coldSec s ok = { s with sec := bootRegisters ok } := rfl

theorem coldStart_cold (s : State) : Cold s (coldStart s) := by
  unfold coldStart
  rw [coldSec_eq]
  refine ⟨?_, ?_, ?_, ?_, ?_, ?_, ?_⟩
  · rw [logE_pow]; rfl
  · rw [logE_mem]; rfl
  · rw [logE_doms]; rfl
  · rw [logE_tasks]; rfl
  · rw [logE_img]; rfl
  · rw [logE_host]; rfl
  · rw [logE_sec]; rfl

theorem coldStart_written (s : State) : (coldStart s).log.written = 1 := by
  unfold coldStart
  rw [logE_takes_slot (.inl (Nat.zero_le 1))]
  rfl

theorem Cold.raise_logE {s t : State} (h : Cold s t) (n sev : Nat) (code : Status) (src : Option Nat) (d : Nat) (b : List Byte) :
    Cold s (raise n (logE sev code src d b t)) := by
  refine ⟨?_, ?_, ?_, ?_, ?_, ?_, ?_⟩
  · rw [raise_pow, logE_pow, h.pow]
  · rw [raise_mem, logE_mem, h.mem]
  · rw [raise_doms, logE_doms, h.doms]
  · rw [raise_tasks, logE_tasks, h.tasks]
  · rw [raise_img, logE_img, h.img]
  · rw [raise_host, logE_host, h.host]
  · rw [raise_sec, logE_sec, h.mrs]

/-- With main in range the rails follow at once (R491). -/
theorem auxPowerUp_starts {s : State} (haux : s.pow.auxOk = false) :
    let u := if Config.pufOk s.free then coldStart s else raise 0x243 (logE 3 .identityFailed (some 0x243) 0xFF [] (coldStart s))
    exec .auxPowerUp s = .next (if u.pow.mainOk then bringUp u else u) := if_neg (by rw [haux]; exact Bool.false_ne_true)

theorem auxPowerUp_cold {s : State} (haux : s.pow.auxOk = false) :
    ∃ t, exec .auxPowerUp s = .next t ∧ t.pow.auxOk = true ∧ t.pow.lastReset = 0 ∧
      t.mem = [] ∧ t.doms = [] ∧ t.tasks = [] ∧ t.img.epoch = 0 ∧ t.host = s.host ∧ t.sec.mrs.drop 1 =
        List.replicate 7 (List.replicate 32 0) ∧ (Config.pufOk s.free = true → t.log.written = 1) := by
  refine ⟨_, auxPowerUp_starts haux, ?_⟩
  generalize hu : (if Config.pufOk s.free then coldStart s else
    raise 0x243 (logE 3 .identityFailed (some 0x243) 0xFF [] (coldStart s))) = u
  have hcold : Cold s u := by
    rw [← hu]
    split
    · exact coldStart_cold s
    · exact (coldStart_cold s).raise_logE ..
  have hwritten : Config.pufOk s.free = true → u.log.written = 1 := fun hok => by
    rw [← hu, if_pos hok, coldStart_written]
  have haux' : u.pow.auxOk = true := by rw [hcold.pow]; rfl
  have hlast : u.pow.lastReset = 0 := by rw [hcold.pow]; rfl
  have hepoch : u.img.epoch = 0 := by rw [hcold.img]
  split <;> exact ⟨haux', hlast, hcold.mem, hcold.doms, hcold.tasks, hepoch, hcold.host, hcold.mrs, hwritten⟩

/-! ### Main power and training -/

theorem auxLoss_blanks {s : State} (haux : s.pow.auxOk = true) :
    exec .auxLoss s = .next { blank s with log := {}, pow := { (blank s).pow with auxOk := false } } := if_pos haux

/-- At the cold bring-up main in range starts training of DRAM and of the link (R491). -/
theorem mainInRange_trains {s : State} (hmain : s.pow.mainOk = false) (haux : s.pow.auxOk = true) (hst : s.pow.st = 0)
    (htrip : s.pow.tripped = false) (hrestore : s.pow.restore = none) :
    exec .mainInRange s = .next (bringUp { s with pow := { s.pow with mainOk := true } }) := by
  show execMainInRange s = _
  simp only [execMainInRange, hmain, haux, hst, htrip, hrestore, Bool.false_eq_true, if_false, Bool.not_true, Option.isSome_none]
  rfl

/-- A vault marked as failed is out of service until it is trained again (R493). -/
def Failed (x : Vault) : Prop := x.failed = true ∧ x.untrained = true

/-- What a failed vault adds to the log and the events at the end of training. -/
def failVault (s : State) (v : Nat) : State :=
  trainFailed v 0 (modVault s v (fun x => { x with failed := true, untrained := true }))

theorem failVault_vaults (s : State) (v : Nat) : (failVault s v).vaults =
    sparseSet {} s.vaults v { vaultAt s v with failed := true, untrained := true } := by
  rw [failVault, trainFailed, raise_vaults, logE_vaults]
  rfl

/-- The vaults named fail one after another, and none that has failed comes back. -/
theorem foldl_failVault {l : List Nat} {s : State} (hwf : sparseWf {} s.vaults = true) {k : Nat} (hk : k ∈ l ∨ Failed (vaultAt s k)) :
    Failed (vaultAt (l.foldl failVault s) k) := by
  induction l generalizing s with
  | nil => exact hk.resolve_left List.not_mem_nil
  | cons v l ih =>
    have hwf' : sparseWf {} (failVault s v).vaults = true := by
      rw [failVault_vaults]
      exact sparseWf_set _ _ _ _ hwf
    refine ih hwf' ?_
    have hget : vaultAt (failVault s v) k = if k = v then { vaultAt s v with failed := true, untrained := true } else vaultAt s k := by
      rw [vaultAt, failVault_vaults, sparseGet_set _ _ hwf, ← vaultAt]
    by_cases hkv : k = v
    · exact .inr (by rw [hget, if_pos hkv]; exact ⟨rfl, rfl⟩)
    · rw [hget, if_neg hkv]
      exact hk.imp_left fun hmem => (List.mem_cons.1 hmem).resolve_left hkv

/-- What a failed channel adds. -/
def failChan (s : State) (c : Nat) : State :=
  trainFailed c 1 (setChan s c { chanAt s c with failed := true, untrained := true })

/-- What training's failures leave alone. -/
def trainedView (s : State) : Pow × Img × Sparse Byte × Sparse Bool := (s.pow, s.img, s.mem, s.poison)

theorem trainFailed_view (i k : Nat) (s : State) : trainedView (trainFailed i k s) = trainedView s := by
  simp only [trainedView, trainFailed, raise_pow, logE_pow, raise_img, logE_img, raise_mem, logE_mem, raise_poison, logE_poison]

/-- DRAM as its training leaves it: zero, and being initialised (R106). -/
def trainedDram (s : State) : State :=
  loseDram { s with
    pow := { s.pow with trained := true, training := false, initing := true }
    mir := { s.mir with trained := true } }

/-- DRAM at the end of training, with the vaults and channels that failed (R493). -/
def trainingEnded (v : BitVec 256) (c : BitVec 16) (s : State) : State :=
  (bitsSet 16 c.toNat).foldl failChan ((bitsSet 256 v.toNat).foldl failVault (trainedDram s))

theorem trainingEnded_view (v : BitVec 256) (c : BitVec 16) (s : State) :
    trainedView (trainingEnded v c s) = trainedView (trainedDram s) :=
  (foldl_keep trainedView failChan (fun _ _ => trainFailed_view ..) _ _).trans
    (foldl_keep trainedView failVault (fun _ _ => trainFailed_view ..) _ _)

theorem trainingEnded_vaults (v : BitVec 256) (c : BitVec 16) (s : State) :
    (trainingEnded v c s).vaults = ((bitsSet 256 v.toNat).foldl failVault (trainedDram s)).vaults :=
  foldl_keep State.vaults failChan (fun s c => by rw [failChan, trainFailed, raise_vaults, logE_vaults, setChan_vaults]) _ _

theorem dramTrainingDone_ends {v : BitVec 256} {c : BitVec 16} {s : State} (htrain : s.pow.training = true)
    (hmain : s.pow.mainOk = true) (hrestore : s.pow.restore = none) (hwait : s.img.waiting = false) :
    exec (.dramTrainingDone v c) s = .next (trainingEnded v c s) := by
  have hexec : exec (.dramTrainingDone v c) s =
      .next (if (trainingEnded v c s).img.waiting then coldApply (trainingEnded v c s) else trainingEnded v c s) :=
    if_pos ⟨htrain, hmain, by rw [hrestore]; rfl⟩
  have himg : (trainingEnded v c s).img = s.img := congrArg (fun x => x.2.1) (trainingEnded_view v c s)
  rw [hexec, himg, hwait]
  rfl

/-! ### The link -/

theorem perstDeassert_trains {s : State} (hperst : s.pow.perst = true) (hfirst : s.pow.firstPerst = true) (halive : s.pow.alive = true) :
    exec .perstDeassert s = .next (trainLink { s with pow := { s.pow with perst := false, firstPerst := false } }) := by
  show execPerstDeassert s = _
  simp only [execPerstDeassert, hperst, hfirst, halive, if_true]

/-- Settles O47: each supply by the state in which it finds the module. -/
theorem suppliesAndLinkComeUp : Obligations.SuppliesAndLinkComeUp := by
  refine ⟨fun s => auxPowerUp_cold, fun s haux => ⟨_, auxLoss_blanks haux, rfl, rfl, rfl, rfl, rfl, rfl, rfl⟩,
    fun s hmain haux hst htrip hrestore => ⟨_, mainInRange_trains hmain haux hst htrip hrestore, rfl, rfl, rfl, rfl, rfl⟩,
    fun v c s htrain hmain hrestore hwait => ?trained,
    fun s hperst hfirst halive => ⟨_, perstDeassert_trains hperst hfirst halive, rfl, rfl, rfl, rfl⟩,
    fun s hlink halive => if_pos ⟨hlink, halive⟩⟩
  have hview := trainingEnded_view v c s
  have hpow : (trainingEnded v c s).pow = { s.pow with trained := true, training := false, initing := true } := congrArg Prod.fst hview
  have hmem : (trainingEnded v c s).mem = [] := congrArg (fun x => x.2.2.1) hview
  have hpoison : (trainingEnded v c s).poison = [] := congrArg (fun x => x.2.2.2) hview
  refine ⟨_, dramTrainingDone_ends htrain hmain hrestore hwait, by rw [hpow], by rw [hpow], by rw [hpow], hmem, hpoison,
    fun hwf k hk hbit => ?_⟩
  have hset : k ∈ bitsSet 256 v.toNat := List.mem_filter.2 ⟨List.mem_range.2 hk, hbit⟩
  have hfailed := foldl_failVault (s := trainedDram s) hwf (k := k) (.inl hset)
  rw [vaultAt, trainingEnded_vaults, ← vaultAt]
  exact hfailed

end Sys2Proof.Machine
end

section
/-!
Resets of kinds 1 to 3 and the warm restore (R43, R105, R106, R447, R489, R490, R497, R502).
-/
namespace Sys2Proof.Machine

/-! ### What a reset leaves -/

/-- The parts of the state that the events of a reset do not touch. -/
def besideEvents (s : State) : Pow × List Task × Sparse Nat × Sparse Byte × Sparse Bool × Mirror × Sec × Sparse Byte :=
  (s.pow, s.tasks, s.sems, s.mem, s.poison, s.mir, s.sec, s.host)

theorem raise_besideEvents (n : Nat) (s : State) : besideEvents (raise n s) = besideEvents s := by
  simp only [besideEvents, raise_pow, raise_tasks, raise_sems, raise_mem, raise_poison, raise_mir, raise_sec, raise_host]

theorem logE_besideEvents (sev : Nat) (code : Status) (src : Option Nat) (d : Nat) (b : List Byte) (s : State) :
    besideEvents (logE sev code src d b s) = besideEvents s := by
  simp only [besideEvents, logE_pow, logE_tasks, logE_sems, logE_mem, logE_poison, logE_mir, logE_sec, logE_host]

/-- What a reset of a kind makes of the module: the hub empty, the kind noted, and what outlives a reset as before (R489). -/
structure ResetOf (k : Nat) (s t : State) : Prop where
  lastReset : t.pow.lastReset = k
  restore : t.pow.restore.isSome = true
  mainOk : t.pow.mainOk = s.pow.mainOk
  tasks : t.tasks = []
  sems : t.sems = []
  mir : t.mir = s.mir
  mrs : t.sec.mrs = s.sec.mrs
  host : t.host = s.host

theorem dropHub_besideEvents (s : State) : ∃ p q, besideEvents (dropHub s) = (p, [], [], s.mem, s.poison, s.mir, q, s.host) ∧
    p.mainOk = s.pow.mainOk ∧ q.mrs = s.sec.mrs := by
  unfold dropHub
  refine ⟨_, _, (foldl_keep besideEvents _ (fun s c => raise_besideEvents (0x180 + c) s) _ _).trans rfl, rfl, rfl⟩

/-- The hub after a reset of a kind has dropped it: DRAM is lost where the kind loses main power, and the restore waits. -/
def resetHub (k : Nat) (r : Restore) (s : State) : State :=
  let d := if k = 1 ∨ k = 4 then loseDram (dropHub s) else dropHub s
  { d with pow := { d.pow with lastReset := k, restore := some r } }

theorem beginReset_eq (k : Nat) (s : State) : ∃ r, beginReset k s = logE 1 .success none 0xFF (leBytes 1 k) (resetHub k r s) :=
  ⟨_, rfl⟩

theorem resetHub_besideEvents (k : Nat) (r : Restore) (s : State) : ∃ p q, besideEvents (resetHub k r s) =
    (p, [], [], if k = 1 ∨ k = 4 then [] else s.mem, if k = 1 ∨ k = 4 then [] else s.poison, s.mir, q, s.host) ∧
    p.lastReset = k ∧ p.restore.isSome = true ∧ p.mainOk = s.pow.mainOk ∧ q.mrs = s.sec.mrs := by
  obtain ⟨p, q, hkeep, hmain, hmrs⟩ := dropHub_besideEvents s
  simp only [besideEvents, Prod.mk.injEq] at hkeep
  obtain ⟨hp, htasks, hsems, hmem, hpoison, hmir, hq, hhost⟩ := hkeep
  refine ⟨{ p with lastReset := k, restore := some r }, q, ?_, rfl, rfl, hmain, hmrs⟩
  unfold resetHub
  dsimp only
  by_cases hk : k = 1 ∨ k = 4
  · simp only [if_pos hk, besideEvents, loseDram, hp, htasks, hsems, hmir, hq, hhost]
  · simp only [if_neg hk, besideEvents, hp, htasks, hsems, hmem, hpoison, hmir, hq, hhost]

theorem beginReset_resets (k : Nat) (s : State) : ResetOf k s (beginReset k s) ∧
    (beginReset k s).mem = (if k = 1 ∨ k = 4 then [] else s.mem) ∧
    (beginReset k s).poison = (if k = 1 ∨ k = 4 then [] else s.poison) := by
  obtain ⟨r, hr⟩ := beginReset_eq k s
  obtain ⟨p, q, hkeep, hlast, hrestore, hmain, hmrs⟩ := resetHub_besideEvents k r s
  have hlog := (logE_besideEvents 1 .success none 0xFF (leBytes 1 k) (resetHub k r s)).trans hkeep
  rw [← hr] at hlog
  simp only [besideEvents, Prod.mk.injEq] at hlog
  obtain ⟨hp, htasks, hsems, hmem, hpoison, hmir, hq, hhost⟩ := hlog
  exact ⟨⟨by rw [hp, hlast], by rw [hp, hrestore], by rw [hp, hmain], htasks, hsems, hmir, by rw [hq, hmrs], hhost⟩, hmem, hpoison⟩

/-! ### Which cause is which kind -/

/-- The loss of main power is a reset of kind 1 (R478, R479). -/
theorem mainGone_resets {s : State} (haux : s.pow.auxOk = true) (hst : s.pow.st ≠ 4) :
    mainGone s = beginReset 1 { s with pow := { s.pow with mainOk := false } } := by
  simp only [mainGone, haux, hst, decide_false, Bool.not_true, Bool.or_self, Bool.false_eq_true, if_false]

/-- A command that resets without the loss of main answers the reset of a state that differs only in its power state, its
events and its link. -/
def ResetsFrom (c : Instr) (k : Nat) (s : State) : Prop :=
  ∃ u, exec c s = .next (beginReset k u) ∧ u.mem = s.mem ∧ u.poison = s.poison ∧ u.mir = s.mir ∧ u.sec = s.sec ∧ u.host = s.host

theorem hubReset_resets {s : State} (haux : s.pow.auxOk = true) :
    ResetsFrom (.hubReset 0xC0DE (some (pec (smbAddr false :: 0x51 :: leBytes 2 0xC0DE)))) 3 s := by
  refine ⟨s, congrArg _ (if_pos ?_), rfl, rfl, rfl, rfl, rfl⟩
  rw [haux]
  exact beq_self_eq_true (pec (smbAddr false :: 0x51 :: leBytes 2 0xC0DE))

theorem wakeS2_mir (s : State) : (wakeS2 s).mir = s.mir := by simp only [wakeS2]; split <;> simp

theorem pwrReset_resets {s : State} (hup : hostUp s = true) : ResetsFrom (.pwrReset 0xC0DE) 3 s :=
  ⟨wakeS2 s, (next_viaHost hup _).trans (congrArg _ (if_pos rfl)), wakeS2_mem s, (wakeS2_sameView s).poison, wakeS2_mir s,
    wakeS2_sec s, (wakeS2_sameView s).host⟩

theorem perst_resets {s : State} (hperst : s.pow.perst = false) (haux : s.pow.auxOk = true) (hst : s.pow.st < 3)
    (hseen : s.pow.seenMain = true) : ResetsFrom (.linkReset .perst) 2 s := by
  refine ⟨{ s with pow := { s.pow with perst := true, link := .down } }, ?_, rfl, rfl, rfl, rfl, rfl⟩
  show execLinkReset .perst s = _
  simp only [execLinkReset, hperst, haux, hseen, Nat.not_le.2 hst, decide_false, Bool.not_true, Bool.or_self, Bool.false_eq_true,
    if_false]

theorem hotReset_resets {s : State} (hlink : s.pow.link = .up) : ResetsFrom (.linkReset .hotReset) 2 s :=
  ⟨s, if_pos hlink, rfl, rfl, rfl, rfl, rfl⟩

theorem dataLinkDown_resets {s : State} (hlink : s.pow.link = .up) (hperst : s.pow.perst = false) :
    ResetsFrom (.linkReset .dataLinkDown) 2 s :=
  ⟨s, if_pos ⟨hlink, by rw [hperst]; rfl⟩, rfl, rfl, rfl, rfl, rfl⟩

/-! ### The warm restore -/

/-- What a restore sets first and then leaves: image, configuration, the restore that waits, the power state, DRAM and host
memory. -/
def restoreView (s : State) : Img × Conf × Option Restore × Nat × Sparse Byte × Sparse Byte :=
  (s.img, s.conf, s.pow.restore, s.pow.st, s.mem, s.host)

theorem raise_restoreView (n : Nat) (s : State) : restoreView (raise n s) = restoreView s := by
  simp only [restoreView, raise_img, raise_conf, raise_pow, raise_mem, raise_host]

theorem logE_restoreView (sev : Nat) (code : Status) (src : Option Nat) (d : Nat) (b : List Byte) (s : State) :
    restoreView (logE sev code src d b s) = restoreView s := by
  simp only [restoreView, logE_img, logE_conf, logE_pow, logE_mem, logE_host]

theorem evRefresh_restoreView (s : State) : restoreView (evRefresh s) = restoreView s := by
  simp only [restoreView, evRefresh_img, evRefresh_conf, evRefresh_pow, evRefresh_mem, evRefresh_host]

theorem extendMr_restoreView (m kind core version : Nat) (d : List Byte) (s : State) :
    restoreView (extendMr m kind core version d s) = restoreView s := by
  simp only [extendMr]
  split
  · rfl
  · exact raise_restoreView _ _

theorem applyPower_restoreView (s : State) : restoreView (applyPower s) = restoreView s := by
  refine foldl_keep restoreView _ (fun s i => ?_) _ s
  dsimp only
  split <;> rfl

theorem maskWord_restoreView (n : Nat) (v : Word) (s : State) : restoreView (maskWord n v s) = restoreView s := by
  simp only [maskWord, evWrite]
  split
  · rfl
  · split
    · exact evRefresh_restoreView _
    · exact evRefresh_restoreView _

theorem applyEvent_restoreView (b : List Byte) (s : State) : restoreView (applyEvent b s) = restoreView s := by
  unfold applyEvent
  refine (evRefresh_restoreView _).trans ((foldl_keep restoreView _ (fun s n => maskWord_restoreView n _ s) _ _).trans ?_)
  simp only [restoreView]

theorem retrainPorts_restoreView (s : State) (ps : List Nat) : restoreView (retrainPorts s ps) = restoreView s := by
  unfold retrainPorts
  exact foldl_keep restoreView _ (fun _ _ => by rfl) ps s

theorem emptyDomain_restoreView (s : State) (d : Nat) : restoreView (emptyDomain s d) = restoreView s := by
  unfold emptyDomain
  exact (foldl_keep restoreView _ (fun _ _ => by rfl) _ _).trans (foldl_keep restoreView _ (fun _ _ => by rfl) _ _)

theorem restoreDoms_restoreView (lost : Bool) (s : State) : restoreView (restoreDoms lost s) = restoreView s := by
  refine foldl_keep restoreView _ (fun s d => ?_) _ s
  dsimp only
  split
  · split
    · rfl
    · exact emptyDomain_restoreView s d
  · split
    · rfl
    · exact emptyDomain_restoreView s d

theorem recordReset_restoreView (s : State) (k : Nat) : restoreView (recordReset s k) = restoreView s := by
  unfold recordReset
  dsimp only
  have htrip : ∀ u : State, restoreView (if k = 4 then raise 0x223 (logE 2 .thermalTrip (some 0x223) 0xFF [] u) else u) =
      restoreView u := fun u => by
    split
    · exact (raise_restoreView _ _).trans (logE_restoreView ..)
    · rfl
  have hmr := (htrip _).trans (extendMr_restoreView 5 5 0 k (sha3 (leBytes 1 k ++ leBytes 7 0)) s)
  split
  · exact (raise_restoreView _ _).trans hmr
  · exact hmr

theorem closeDebug_restoreView (s : State) : restoreView (closeDebug s) = restoreView s :=
  (raise_restoreView _ _).trans (extendMr_restoreView 4 4 0 0 (List.replicate 32 0) s)

theorem restoreBank_restoreView (s : State) (i : Nat) : restoreView (restoreBank s i) = restoreView s := rfl

theorem setEpochs_restoreView (e : Nat) (s : State) : restoreView (setEpochs e s) = restoreView s := by
  unfold setEpochs
  exact foldl_keep restoreView _ (fun _ _ => by rfl) _ s

/-- The settings of the mirror store before they reach the islands, the controller and the ports (R43). -/
def storedSettings (s : State) : State :=
  { s with
    conf := confOf s.mir.firmware s.mir.segs
    img := { epoch := s.mir.epoch, digest := s.mir.digest, segs := s.mir.segs, version := s.mir.version }
    cores := coresOf (confOf s.mir.firmware s.mir.segs)
    net := { s.net with role := (confOf s.mir.firmware s.mir.segs).link }
    islands := sparseMap {} s.islands (fun x => { x with fun_ := {} }) }

/-- They are carried to the islands, the controller and the ports before the module is alive. -/
theorem restoreSettings_spreads (s : State) : ∃ w, restoreSettings s = trainLink { w with
    pow := { w.pow with alive := true, restore := none, training := !w.pow.trained } } ∧
    restoreView w = restoreView (storedSettings s) := by
  unfold restoreSettings
  extract_lets c net0 s0 s1 s2 s3 s4
  refine ⟨s4, rfl, (retrainPorts_restoreView s3 _).trans ((applyPower_restoreView _).trans ?_)⟩
  have hs2 : restoreView s2 = restoreView (storedSettings s) :=
    (setEpochs_restoreView _ _).trans (foldl_keep restoreView restoreBank restoreBank_restoreView _ _)
  split
  · exact (applyEvent_restoreView _ _).trans hs2
  · exact hs2

/-- The settings of the mirror store are in force, and nothing more waits to be restored (R43). -/
theorem restoreSettings_restoreView (s : State) : restoreView (restoreSettings s) =
    ({ epoch := s.mir.epoch, digest := s.mir.digest, segs := s.mir.segs, version := s.mir.version },
      confOf s.mir.firmware s.mir.segs, none, s.pow.st, s.mem, s.host) := by
  obtain ⟨w, hw, hview⟩ := restoreSettings_spreads s
  simp only [restoreView, Prod.mk.injEq] at hview
  obtain ⟨himg, hconf, -, hst, hmem, hhost⟩ := hview
  simp only [hw, restoreView, trainLink, himg, hconf, hst, hmem, hhost]
  rfl

/-- With a good mirror store the warm restore completes (R490). -/
theorem warmRestore_restores {s : State} {r : Restore} (hr : s.pow.restore = some r) (hmain : s.pow.mainOk = true)
    (htrip : s.pow.tripped = false) (haux : s.pow.auxOk = true) (hbad : s.mir.bad = false) :
    ∃ t, exec .warmRestore s = .next t ∧ restoreView t = restoreView (restoreSettings s) := by
  show ∃ t, execWarmRestore s = .next t ∧ _
  simp only [execWarmRestore, hr, hmain, htrip, haux, hbad, Bool.not_true, Bool.or_self, Bool.false_eq_true, if_false]
  refine ⟨_, rfl, ?_⟩
  generalize hu : (restoreDoms (r.kinds.contains 1 || r.kinds.contains 4) (restoreSettings s)) = u
  have hdoms : restoreView u = restoreView (restoreSettings s) := hu ▸ restoreDoms_restoreView _ _
  have hrec : ∀ w : State, restoreView w = restoreView u → restoreView (r.kinds.foldl recordReset w) = restoreView (restoreSettings s) :=
    fun w hw => (foldl_keep restoreView recordReset recordReset_restoreView _ _).trans (hw.trans hdoms)
  split
  · exact (closeDebug_restoreView _).trans (hrec _ rfl)
  · exact hrec _ rfl

/-- Settles O48: kind 1 by the loss of main, kinds 2 and 3 by their commands, and the restore by what it sets first. -/
theorem resetsKeepWhatTheyMust : Obligations.ResetsKeepWhatTheyMust := by
  refine ⟨fun s hmain haux hst c hc => ?kind1, fun c k s hcause => ?kinds23,
    fun w s hw hup => (next_viaHost hup _).trans (congrArg _ (if_neg hw)), fun s r hr hmain htrip haux hbad => ?restores⟩
  case kind1 =>
    have hexec : exec c s = .next (beginReset 1 { s with pow := { s.pow with mainOk := false } }) := by
      rw [← mainGone_resets haux hst]
      simp only [List.mem_cons, List.not_mem_nil, or_false] at hc
      rcases hc with rfl | rfl
      · exact if_pos hmain
      · exact if_pos hmain
    obtain ⟨hreset, hmem, hpoison⟩ := beginReset_resets 1 { s with pow := { s.pow with mainOk := false } }
    exact ⟨_, hexec, hreset.lastReset, hreset.tasks, hmem, hpoison, hreset.mir, hreset.mrs, hreset.host, hreset.restore, hreset.mainOk⟩
  case kinds23 =>
    have hk : ResetsFrom c k s ∧ ¬(k = 1 ∨ k = 4) := by
      rcases hcause with ⟨rfl, hlink, rfl⟩ | ⟨rfl, hlink, hperst, rfl⟩ | ⟨rfl, hperst, haux, hst, hseen, rfl⟩ | ⟨rfl, haux, rfl⟩ |
        ⟨rfl, hup, rfl⟩
      · exact ⟨hotReset_resets hlink, by decide⟩
      · exact ⟨dataLinkDown_resets hlink hperst, by decide⟩
      · exact ⟨perst_resets hperst haux hst hseen, by decide⟩
      · exact ⟨hubReset_resets haux, by decide⟩
      · exact ⟨pwrReset_resets hup, by decide⟩
    obtain ⟨⟨u, hexec, hum, hup, humir, husec, huhost⟩, hkind⟩ := hk
    obtain ⟨hreset, hmem, hpoison⟩ := beginReset_resets k u
    rw [if_neg hkind] at hmem hpoison
    exact ⟨_, hexec, hreset.lastReset, hreset.tasks, hmem.trans hum, hpoison.trans hup, hreset.mir.trans humir,
      hreset.mrs.trans (congrArg Sec.mrs husec), hreset.host.trans huhost, hreset.restore, hreset.sems⟩
  case restores =>
    obtain ⟨t, ht, hview⟩ := warmRestore_restores hr hmain htrip haux hbad
    rw [restoreSettings_restoreView] at hview
    simp only [restoreView, Prod.mk.injEq] at hview
    obtain ⟨himg, hconf, hrestore, -, hmem, hhost⟩ := hview
    exact ⟨t, ht, by rw [himg], by rw [himg], hconf, hrestore, hmem, hhost⟩

end Sys2Proof.Machine
end

section
/-!
The power ladder: the states of the module, its wakes, and the doze and clock of an island (R21, R484 to R488).
-/
namespace Sys2Proof.Machine

/-! ### Power requests -/

section Requests
variable {s : State}

theorem requestState_refused {k : Nat} (h : mayEnter s k = false) : requestState k s =
    logE 0 .powerStateRefused none 0xFF [] { s with pow := { s.pow with target := k, status := .powerStateRefused } } :=
  if_pos ((congrArg (!·) h).trans rfl)

theorem requestState_s2 (h : mayEnter s 2 = true) : requestState 2 s =
    raise 0x225 { s with pow := { s.pow with target := 2, st := 2, status := .success } } :=
  if_neg (Bool.eq_false_iff.1 ((congrArg (!·) h).trans rfl))

/-- S3 and S4 keep neither the hub nor DRAM (R486, R487). -/
theorem requestState_shelf {k : Nat} (hk : k ≠ 2) (h : mayEnter s k = true) : (requestState k s).pow.st = k ∧
    (requestState k s).mem = [] ∧ (requestState k s).tasks = [] ∧ (requestState k s).mir = s.mir := by
  have henters : requestState k s = { loseDram (dropHub { s with pow := { s.pow with target := k } }) with
      pow := { (dropHub { s with pow := { s.pow with target := k } }).pow with st := k } } :=
    (if_neg (Bool.eq_false_iff.1 ((congrArg (!·) h).trans rfl))).trans (if_neg hk)
  obtain ⟨p, q, hkeep, -, -⟩ := dropHub_besideEvents { s with pow := { s.pow with target := k } }
  simp only [besideEvents, Prod.mk.injEq] at hkeep
  obtain ⟨-, htasks, -, -, -, hmir, -, -⟩ := hkeep
  rw [henters]
  exact ⟨rfl, rfl, htasks, hmir⟩

end Requests

/-! ### Wakes -/

/-- A restore that falls back to a cold start leaves no segment and no DRAM, and stays in its power state (R43, R490). -/
theorem coldFallback_view (s : State) : (coldFallback s).img = {} ∧ (coldFallback s).mem = [] ∧ (coldFallback s).pow.st = s.pow.st := by
  unfold coldFallback
  extract_lets s0 s1 s2
  have himg : s2.img = {} := by
    show (raise 0x202 (logE 3 .mirrorBad (some 0x202) 0xFF [] s1)).img = {}
    rw [raise_img, logE_img]
    rfl
  have hmem : s2.mem = [] := by
    show (raise 0x202 (logE 3 .mirrorBad (some 0x202) 0xFF [] s1)).mem = []
    rw [raise_mem, logE_mem]
    rfl
  have hst : s2.pow.st = s.pow.st := by
    show (raise 0x202 (logE 3 .mirrorBad (some 0x202) 0xFF [] s1)).pow.st = s.pow.st
    rw [raise_pow, logE_pow]
    rfl
  exact ⟨himg, hmem, hst⟩

/-- The module off its shelf state, its DRAM lost, before anything is restored. -/
def offShelf (s : State) : State := loseDram { s with pow := { s.pow with st := 0, waking := false } }

theorem leaveShelf_bad {s : State} (h : s.mir.bad = true) : leaveShelf s =
    { coldFallback (offShelf s) with pow := { (coldFallback (offShelf s)).pow with wake := true } } := if_pos h

/-- With a good mirror store the settings are restored, and the domains they name are to be zeroised: their DRAM is lost. -/
theorem leaveShelf_good {s : State} (h : s.mir.bad = false) : ∃ u,
    leaveShelf s = { u with pow := { u.pow with wake := true, initing := true } } ∧
      restoreView u = restoreView (restoreSettings (offShelf s)) := by
  unfold leaveShelf
  extract_lets p s0 s1 p1 s2 s3 p3
  refine ⟨s3, if_neg (Bool.eq_false_iff.1 h), foldl_keep restoreView _ (fun s d => ?_) _ s2⟩
  split <;> rfl

/-- What a wake from S3 or S4 finds: S0, DRAM that reads zero, WAKE# asserted, the stored segments in force (R487). -/
theorem leaveShelf_wakes (s : State) : (leaveShelf s).pow.st = 0 ∧ (leaveShelf s).pow.wake = true ∧ (leaveShelf s).mem = [] ∧
    (leaveShelf s).img.segs = if s.mir.bad then [] else s.mir.segs := by
  cases hbad : s.mir.bad
  case true =>
    obtain ⟨himg, hmem, hst⟩ := coldFallback_view (offShelf s)
    rw [leaveShelf_bad hbad]
    exact ⟨hst, rfl, hmem, congrArg Img.segs himg⟩
  case false =>
    obtain ⟨u, hu, hview⟩ := leaveShelf_good hbad
    rw [restoreSettings_restoreView] at hview
    simp only [restoreView, Prod.mk.injEq] at hview
    obtain ⟨himg, -, -, hst, hmem, -⟩ := hview
    rw [hu]
    exact ⟨hst, rfl, hmem, congrArg Img.segs himg⟩

theorem moduleWake_s2 {s : State} (h : s.pow.st = 2) :
    exec .moduleWake s = .next (raise 0x225 { s with pow := { s.pow with st := 0 } }) := by
  have hwake : wakeUp s = raise 0x225 { s with pow := { s.pow with st := 0 } } := (if_pos h).trans (if_pos h)
  rw [← hwake]
  exact if_pos (by omega)

theorem moduleWake_shelf {s : State} (h : 3 ≤ s.pow.st) (hmain : s.pow.mainOk = true) : exec .moduleWake s = .next (leaveShelf s) := by
  have hwake : wakeUp s = leaveShelf s := (if_neg (by omega)).trans ((if_neg (by omega)).trans (if_pos hmain))
  rw [← hwake]
  exact if_pos (by omega)

/-- A POWER_WAKE without a PEC, or with the right one, is taken (R538). -/
theorem powerWake_taken {s : State} (haux : s.pow.auxOk = true) {p : Option Byte}
    (hp : p = none ∨ p = some (pec [smbAddr false, 0x50])) :
    exec (.powerWake p) s = .next (if s.pow.tripped then (if allCool s then clearTrip s else s) else wakeUp s) := by
  refine congrArg Host.Outcome.next (if_pos ?_)
  have hpec : pecOk false p 0x50 [] = true := by
    rcases hp with rfl | rfl
    · rfl
    · exact beq_self_eq_true (pec [smbAddr false, 0x50])
  rw [haux, hpec]
  rfl

/-! ### Islands -/

section Islands
variable {i : Fin 256} {s : State}

theorem islandDoze_dozes (hdoze : (islandAt s i).doze = true) (hidle : (islandAt s i).task = none)
    (hawake : (islandAt s i).dozing = false) (hdue : (islandAt s i).idleSince + 1000 * s.conf.power.doze ≤ s.now) :
    exec (.islandDoze i) s = .next (setIsland s i { islandAt s i with dozing := true }) :=
  if_pos ⟨hdoze, by rw [hidle]; rfl, by rw [hawake]; rfl, hdue⟩

theorem islandClockChange_takes (hclk : (islandAt s i).clkCurrent ≠ clkAllowed s (islandAt s i))
    (hbound : atBoundary (islandAt s i) = true) :
    exec (.islandClockChange i) s = .next (setIsland s i { islandAt s i with clkCurrent := clkAllowed s (islandAt s i) }) :=
  if_neg (not_or.2 ⟨hclk, fun hmid => hmid hbound⟩)

end Islands

/-- Settles O50: requests by what the domains allow, wakes by the power state they find. -/
theorem powerLadder : Obligations.PowerLadder := by
  refine ⟨fun s hup => ⟨fun hmay => ?s2, fun e he hmay => ?shelf, fun e he hmay => ?refused⟩,
    fun s => ⟨moduleWake_s2, fun hst hmain => ?wakes⟩, fun p s haux hp => ?powerWake,
    fun i s => ⟨islandDoze_dozes, islandClockChange_takes⟩⟩
  case s2 =>
    have hexec := (next_viaHost hup _).trans (congrArg Host.Outcome.next (requestState_s2 hmay))
    exact ⟨_, hexec, by rw [raise_pow], by rw [raise_pow], (raise_mem ..).trans (wakeS2_mem s), (raise_doms ..).trans (wakeS2_doms s)⟩
  case shelf =>
    have hcase : exec e.2 s = .next (requestState e.1 (wakeS2 s)) ∧ e.1 ≠ 2 := by
      simp only [List.mem_cons, List.not_mem_nil, or_false] at he
      rcases he with rfl | rfl
      · exact ⟨next_viaHost hup _, by decide⟩
      · exact ⟨next_viaHost hup _, by decide⟩
    obtain ⟨hst, hmem, htasks, hmir⟩ := requestState_shelf hcase.2 hmay
    exact ⟨_, hcase.1, hst, hmem, htasks, hmir.trans (wakeS2_mir s)⟩
  case refused =>
    have hexec : exec e.2 s = .next (requestState e.1 (wakeS2 s)) := by
      simp only [List.mem_cons, List.not_mem_nil, or_false] at he
      rcases he with rfl | rfl | rfl
      · exact next_viaHost hup _
      · exact next_viaHost hup _
      · exact next_viaHost hup _
    rw [hexec, requestState_refused hmay]
  case wakes => exact ⟨_, moduleWake_shelf hst hmain, leaveShelf_wakes s⟩
  case powerWake =>
    rw [powerWake_taken haux hp]
    exact ⟨fun htrip => congrArg _ (if_neg (Bool.eq_false_iff.1 htrip)),
      fun htrip hcool => congrArg _ ((if_pos htrip).trans (if_pos hcool)),
      fun htrip hwarm => congrArg _ ((if_pos htrip).trans (if_neg (Bool.eq_false_iff.1 hwarm)))⟩

end Sys2Proof.Machine
end

section
/-!
Throttling and temperature (R480, R481, R488).
-/
namespace Sys2Proof.Machine

/-! ### The stages of the throttle -/

/-- What the stages leave: every register of the power unit but the pace, the tasks and DRAM. -/
def stageView (s : State) : Pow × List Task × Sparse Byte := ({ s.pow with pace := 0 }, s.tasks, s.mem)

theorem foldl_modIsland_stageView (f : Island → Island) (l : List Nat) (s : State) :
    stageView (l.foldl (fun s i => modIsland s i f) s) = stageView s := foldl_keep stageView _ (fun _ _ => by rfl) l s

theorem dropClocks_stageView {s u : State} {l : List Nat} (h : dropClocks s l = some u) : stageView u = stageView s := by
  simp only [dropClocks] at h
  split at h
  · cases h
  · cases h
    exact foldl_modIsland_stageView _ _ s

theorem raiseClocks_stageView {s u : State} {l : List Nat} (h : raiseClocks s l = some u) : stageView u = stageView s := by
  simp only [raiseClocks] at h
  split at h
  · cases h
  · cases h
    exact foldl_modIsland_stageView _ _ s

theorem stageDown_stageView {s u : State} (h : stageDown s = some u) : stageView u = stageView s := by
  unfold stageDown at h
  split at h
  case h_1 hbe =>
    cases h
    exact dropClocks_stageView hbe
  case h_2 =>
    split at h
    · cases h
      rfl
    · exact dropClocks_stageView h

theorem stageUp_stageView {s u : State} (h : stageUp s = some u) : stageView u = stageView s := by
  unfold stageUp at h
  dsimp only at h
  split at h
  case h_1 hlc =>
    cases h
    exact raiseClocks_stageView hlc
  case h_2 =>
    split at h
    · cases h
      rfl
    · exact raiseClocks_stageView h

/-- Whether clocks can drop depends on the islands alone. -/
theorem dropClocks_none {s t : State} (h : t.islands = s.islands) (l : List Nat) : dropClocks t l = none ↔ dropClocks s l = none := by
  have hlimit : limitOf t = limitOf s := by
    funext i
    simp only [limitOf, islandAt, h]
  simp only [dropClocks, hlimit]
  split <;> simp

/-- Whether a stage is left depends on the islands, the tasks and the pace. -/
theorem stageDown_none {s t : State} (hisl : t.islands = s.islands) (htasks : t.tasks = s.tasks) (hpace : t.pow.pace = s.pow.pace) :
    stageDown t = none ↔ stageDown s = none := by
  have hrun : runningClass t = runningClass s := by
    funext lc
    simp only [runningClass, htasks]
  have hbe := dropClocks_none hisl (runningClass s false)
  have hlc := dropClocks_none hisl (runningClass s true)
  simp only [stageDown, hrun, hpace]
  cases ht : dropClocks t (runningClass s false) <;> cases hs : dropClocks s (runningClass s false)
  case none.none =>
    dsimp only
    split
    · exact ⟨nofun, nofun⟩
    · exact hlc
  case some.some => exact ⟨nofun, nofun⟩
  case none.some => exact absurd (hbe.1 ht) (by rw [hs]; exact nofun)
  case some.none => exact absurd (hbe.2 hs) (by rw [ht]; exact nofun)

/-! ### A throttle step -/

/-- Above the cap the throttle's event is raised once (R480). -/
def capped (above : Bool) (ms : BitVec 16) (s : State) : State :=
  let u := { s with pow := { s.pow with avgW := ms.toNat, belowSince := none } }
  if above && !s.pow.capThrottle then raise 0x220 { u with pow := { u.pow with capThrottle := true } } else u

/-- What every step does, and what it does above the cap. -/
structure Stepped (avg ms : BitVec 16) (s t : State) : Prop where
  avgW : t.pow.avgW = ms.toNat
  mem : t.mem = s.mem
  tasks : t.tasks = s.tasks
  above : s.conf.power.cap < avg.toNat → t.pow.capThrottle = true ∧
    (stageDown { s with pow := { s.pow with avgW := ms.toNat, belowSince := none } } = none → t.pow.capMiss = true)

section Step
variable {avg ms : BitVec 16} {s : State}

theorem capped_pow (above : Bool) (ms : BitVec 16) (s : State) : (capped above ms s).pow =
    { s.pow with avgW := ms.toNat, belowSince := none, capThrottle := above || s.pow.capThrottle } := by
  unfold capped
  cases above <;> cases hc : s.pow.capThrottle <;> simp [hc]

theorem capped_rest (above : Bool) (ms : BitVec 16) (s : State) : (capped above ms s).mem = s.mem ∧
    (capped above ms s).tasks = s.tasks ∧ (capped above ms s).islands = s.islands := by
  unfold capped
  dsimp only
  split
  · exact ⟨raise_mem .., raise_tasks .., raise_islands ..⟩
  · exact ⟨rfl, rfl, rfl⟩

/-- A step that must throttle goes one stage down, and above the cap misses it where no stage is left. -/
theorem throttleStep_down (h : (decide (s.conf.power.cap < avg.toNat) || s.pow.thermThrottle) = true) :
    ∃ t, exec (.throttleStep avg ms) s = .next t ∧ Stepped avg ms s t := by
  generalize habove : decide (s.conf.power.cap < avg.toNat) = above at h
  have hexec : exec (.throttleStep avg ms) s = match stageDown (capped above ms s) with
      | some u => .next u
      | none => .next (if above then raise 0x221 { capped above ms s with pow := { (capped above ms s).pow with capMiss := true } }
          else capped above ms s) := by
    subst habove
    exact if_pos h
  obtain ⟨hmem, htasks, hisl⟩ := capped_rest above ms s
  have hpow := capped_pow above ms s
  have hpace : (capped above ms s).pow.pace = s.pow.pace := by rw [hpow]
  have hleft := stageDown_none (s := { s with pow := { s.pow with avgW := ms.toNat, belowSince := none } }) hisl htasks hpace
  cases hstage : stageDown (capped above ms s)
  case some u =>
    rw [hstage] at hexec
    have hview := stageDown_stageView hstage
    have havg : u.pow.avgW = (capped above ms s).pow.avgW := congrArg (fun x => x.1.avgW) hview
    have hcap : u.pow.capThrottle = (capped above ms s).pow.capThrottle := congrArg (fun x => x.1.capThrottle) hview
    refine ⟨u, hexec, ⟨by rw [havg, hpow], (congrArg (fun x => x.2.2) hview).trans hmem, (congrArg (fun x => x.2.1) hview).trans htasks,
      fun hlt => ⟨?_, fun hnone => ?_⟩⟩⟩
    · rw [hcap, hpow, ← habove, decide_eq_true hlt, Bool.true_or]
    · rw [hleft.2 hnone] at hstage
      cases hstage
  case none =>
    rw [hstage] at hexec
    refine ⟨_, hexec, ?_⟩
    cases above
    case false => exact ⟨by rw [if_neg Bool.false_ne_true, hpow], hmem, htasks, fun hlt => absurd hlt (of_decide_eq_false habove)⟩
    case true =>
      rw [if_pos rfl]
      exact ⟨by rw [raise_pow, hpow], (raise_mem ..).trans hmem, (raise_tasks ..).trans htasks,
        fun _ => ⟨by rw [raise_pow, hpow]; rfl, fun _ => by rw [raise_pow]⟩⟩

/-- A step below the cap goes one stage up at most. -/
theorem throttleStep_up (h : (decide (s.conf.power.cap < avg.toNat) || s.pow.thermThrottle) = false) :
    ∃ t, exec (.throttleStep avg ms) s = .next t ∧ Stepped avg ms s t := by
  have hunder : ¬ s.conf.power.cap < avg.toNat := of_decide_eq_false (Bool.or_eq_false_iff.1 h).1
  have hkeep : ∀ u : State, u.pow.avgW = ms.toNat → u.mem = s.mem → u.tasks = s.tasks → Stepped avg ms s u :=
    fun u havg hmem htasks => ⟨havg, hmem, htasks, fun hlt => absurd hlt hunder⟩
  show ∃ t, execThrottleStep avg ms s = .next t ∧ _
  simp only [execThrottleStep, h, Bool.false_eq_true, if_false]
  split
  case isFalse => exact ⟨_, rfl, hkeep _ rfl rfl rfl⟩
  case isTrue =>
    split
    case isFalse => exact ⟨_, rfl, hkeep _ rfl rfl rfl⟩
    case isTrue =>
      split
      case h_1 u hstage =>
        have hview := stageUp_stageView hstage
        exact ⟨u, rfl, hkeep u (congrArg (fun x => x.1.avgW) hview) (congrArg (fun x => x.2.2) hview) (congrArg (fun x => x.2.1) hview)⟩
      case h_2 => exact ⟨_, rfl, hkeep _ rfl rfl rfl⟩

end Step

/-! ### Temperature -/

/-- A trip is a reset of kind 4 with the rails off and THERM_N low (R488). -/
theorem trip_resets (s : State) : (trip s).pow.tripped = true ∧ (trip s).pow.therm = true ∧ (trip s).pow.lastReset = 4 ∧
    (trip s).mem = [] ∧ (trip s).tasks = [] ∧ (trip s).mir = s.mir := by
  obtain ⟨hreset, hmem, -⟩ := beginReset_resets 4 s
  exact ⟨rfl, rfl, hreset.lastReset, hmem, hreset.tasks, hreset.mir⟩

/-- The registers of a die reading (R503). -/
def dieRead (c : BitVec 8) (s : State) : State := { s with pow := { s.pow with dieC := c.toNat, dieReg := c.toNat } }

section Die
variable {c : BitVec 8} {s : State} (hrails : railsOn s = true)
include hrails

/-- With the rails on a reading of 110 °C trips, and one below sets the temperature limit and the throttle. -/
theorem dieTempThrottle_reads : exec (.dieTempThrottle c) s =
    if 110 ≤ c.toNat then .next (trip (dieRead c s))
    else
      let u : State := { dieRead c s with pow := { (dieRead c s).pow with hot := decide (s.conf.power.throttle + 10 ≤ c.toNat) } }
      if s.conf.power.throttle ≤ c.toNat then
        .next (if s.pow.thermThrottle then u else raise 0x222 { u with pow := { u.pow with thermThrottle := true, therm := true } })
      else if c.toNat + 3 ≤ s.conf.power.throttle then .next { u with pow := { u.pow with thermThrottle := false, therm := false } }
      else .next u := by
  have htrip : s.pow.tripped = false := by
    simp only [railsOn, Bool.and_eq_true, Bool.not_eq_true'] at hrails
    exact hrails.1.2
  have hon : (!railsOn (dieRead c s)) = false := (congrArg (!·) hrails).trans rfl
  exact (if_neg (Bool.eq_false_iff.1 htrip)).trans (if_neg (Bool.eq_false_iff.1 hon))

theorem dieTempThrottle_throttles (hlo : c.toNat < 110) (hhot : s.conf.power.throttle ≤ c.toNat) :
    ∃ t, exec (.dieTempThrottle c) s = .next t ∧ t.pow.thermThrottle = true ∧ t.pow.dieC = c.toNat ∧
      t.pow.hot = decide (s.conf.power.throttle + 10 ≤ c.toNat) ∧ t.mem = s.mem := by
  rw [dieTempThrottle_reads hrails, if_neg (Nat.not_le.2 hlo)]
  refine ⟨_, if_pos hhot, ?_⟩
  split
  case isTrue hon => exact ⟨hon, rfl, rfl, rfl⟩
  case isFalse => exact ⟨by rw [raise_pow], by rw [raise_pow]; rfl, by rw [raise_pow], raise_mem ..⟩

theorem dieTempThrottle_ends (hlo : c.toNat < 110) (hcool : c.toNat + 3 ≤ s.conf.power.throttle) :
    ∃ t, exec (.dieTempThrottle c) s = .next t ∧ t.pow.thermThrottle = false ∧ t.pow.therm = false ∧ t.mem = s.mem := by
  rw [dieTempThrottle_reads hrails, if_neg (Nat.not_le.2 hlo)]
  exact ⟨_, (if_neg (by omega)).trans (if_pos hcool), rfl, rfl, rfl⟩

end Die

/-- The layers whose refresh is doubled, after a layer's reading. -/
theorem hotLayers_mem (s : State) (l : Nat) (c k : Nat) :
    k ∈ (if 85 < c then s.pow.hotLayers.filter (· != l) ++ [l] else s.pow.hotLayers.filter (· != l)) ↔
      if k = l then 85 < c else k ∈ s.pow.hotLayers := by
  by_cases hk : k = l <;> by_cases hc : 85 < c <;> simp [hk, hc]

/-- Settles O51: a step by whether it must throttle, a reading by the limits it passes. -/
theorem throttleAndTemperature : Obligations.ThrottleAndTemperature := by
  refine ⟨fun avg ms s => ?step, fun c s hrails => ⟨fun hhot => ?trips, fun hlo hhot => dieTempThrottle_throttles hrails hlo hhot,
    fun hlo hcool => dieTempThrottle_ends hrails hlo hcool, ?thermalTrip⟩, fun l c s => ?layers,
    fun c s => ⟨fun hwarm => congrArg _ (if_pos hwarm), fun hcool => congrArg _ (if_neg (Nat.not_lt.2 hcool))⟩⟩
  case step =>
    obtain ⟨t, ht, hstep⟩ : ∃ t, exec (.throttleStep avg ms) s = .next t ∧ Stepped avg ms s t := by
      cases h : decide (s.conf.power.cap < avg.toNat) || s.pow.thermThrottle
      · exact throttleStep_up h
      · exact throttleStep_down h
    exact ⟨t, ht, hstep.avgW, hstep.mem, hstep.tasks, hstep.above⟩
  case trips =>
    obtain ⟨htripped, htherm, hlast, hmem, htasks, -⟩ := trip_resets (dieRead c s)
    exact ⟨_, (dieTempThrottle_reads hrails).trans (if_pos hhot), htripped, htherm, hlast, hmem, htasks⟩
  case thermalTrip =>
    obtain ⟨htripped, htherm, hlast, hmem, -, hmir⟩ := trip_resets { s with pow := { s.pow with dieC := 110 } }
    exact ⟨_, if_pos hrails, htripped, htherm, hlast, hmem, hmir⟩
  case layers =>
    have hmem := hotLayers_mem s l.val c.toNat
    exact ⟨_, rfl, rfl, rfl, rfl, (hmem l.val).trans (by rw [if_pos rfl]), rfl, fun k hk => (hmem k).trans (by rw [if_neg hk])⟩

end Sys2Proof.Machine
end

section
/-!
Drift tracking, retraining, patrol scrub and the error clears (R71, R97, R494, R495, R501, R549).
-/
namespace Sys2Proof.Machine

/-! ### The vault and channel tables -/

theorem vaultAt_setVault {s : State} (hwf : sparseWf {} s.vaults = true) (v k : Nat) (x : Vault) :
    vaultAt (setVault s v x) k = if k = v then x else vaultAt s k := sparseGet_set _ s.vaults hwf v k x

theorem chanAt_setChan {s : State} (hwf : sparseWf {} s.chans = true) (c k : Nat) (x : Chan) :
    chanAt (setChan s c x) k = if k = c then x else chanAt s k := sparseGet_set _ s.chans hwf c k x

/-- A vault that is being retrained is listed, whatever the table's form. -/
theorem vaultAt_setVault_retraining (s : State) (v : Nat) {x : Vault} (h : x.retraining = true) : vaultAt (setVault s v x) v = x :=
  sparseGet_set_self ({} : Vault) s.vaults v fun hx => Bool.false_ne_true ((congrArg Vault.retraining hx).symm.trans h)

theorem chanAt_setChan_retraining (s : State) (c : Nat) {x : Chan} (h : x.retraining = true) : chanAt (setChan s c x) c = x :=
  sparseGet_set_self ({} : Chan) s.chans c fun hx => Bool.false_ne_true ((congrArg Chan.retraining hx).symm.trans h)

/-! ### Retraining -/

theorem vaultDriftTrack_tracks {v : Fin 256} {s : State} (htrained : s.pow.trained = true) (hrails : railsOn s = true)
    (hidle : (vaultAt s v).retraining = false) (hin : (vaultAt s v).untrained = false) :
    exec (.vaultDriftTrack v) s = .next (setVault s v { vaultAt s v with driftAt := s.now }) :=
  if_pos (by rw [htrained, hrails, hidle, hin]; rfl)

/-- The registers of a request to retrain are written whatever it does (R501). -/
def retrainNamed (kind index : Nat) (s : State) : State := { s with pow := { s.pow with retKind := kind, retIndex := index } }

/-- What a request to retrain names belongs to a domain, or is not there (R495). -/
def retrainTaken (s : State) (kind index : Nat) : Bool :=
  if kind = 0 then (islRec s index).owner.isSome
  else kind ≠ 1 || 15 < index || (List.range 16).any (fun d => (domRec s d).isSome && bit (memRec s d).channels index)

section Retrain
variable {kind index : Nat} {s : State}

theorem retrain_busy (h : s.pow.retBusy = true) : retrain kind index s = retrainNamed kind index s := if_pos h

theorem retrain_refused (hidle : s.pow.retBusy = false) (h : retrainTaken s kind index = true) : retrain kind index s =
    logE 0 .retrainRefused none 0xFF []
      { s with pow := { s.pow with retKind := kind, retIndex := index, retStatus := .retrainRefused } } :=
  (if_neg (Bool.eq_false_iff.1 hidle)).trans (if_pos h)

/-- The retraining that begins, before its memory is marked. -/
def retrainBegun (kind index : Nat) (s : State) : State :=
  { s with pow := { s.pow with retKind := kind, retIndex := index, retBusy := true, retOp := (kind, index) } }

theorem retrain_begins (hidle : s.pow.retBusy = false) (h : retrainTaken s kind index = false) : retrain kind index s =
    if kind = 0 then setVault (retrainBegun kind index s) index { vaultAt s index with retraining := true }
    else setChan (retrainBegun kind index s) index { chanAt s index with retraining := true } :=
  (if_neg (Bool.eq_false_iff.1 hidle)).trans (if_neg (Bool.eq_false_iff.1 h))

end Retrain

theorem next_viaHost_awake {s : State} (hup : hostUp s = true) (hawake : s.pow.st ≠ 2) (k : State → State) :
    (.next (viaHost s k) : Outcome) = .next (k s) := by
  rw [next_viaHost hup, wakeS2_awake hawake]

theorem retrainTaken_chan (s : State) (c : Fin 16) : retrainTaken s 1 c =
    (List.range 16).any (fun d => (domRec s d).isSome && bit (memRec s d).channels c) := by
  have hin : ¬ 15 < c.val := by omega
  simp only [retrainTaken, Nat.one_ne_zero, if_false, ne_eq, not_true_eq_false, hin, decide_false, Bool.false_or]

/-- The vault or channel retrained reads zero, and every other byte as before. -/
def retrainedDram (s : State) : State :=
  if s.pow.retOp.1 = 0 then dramZero s (s.pow.retOp.2 * 2 ^ 30) (2 ^ 30) else dramZero s (2 ^ 40 + s.pow.retOp.2 * 2 ^ 36) (2 ^ 36)

theorem retrainedDram_get (s : State) (a : Nat) :
    let lo := if s.pow.retOp.1 = 0 then s.pow.retOp.2 * 2 ^ 30 else 2 ^ 40 + s.pow.retOp.2 * 2 ^ 36
    let n := if s.pow.retOp.1 = 0 then 2 ^ 30 else 2 ^ 36
    sparseGet 0 (retrainedDram s).mem a = if lo ≤ a ∧ a < lo + n then 0 else sparseGet 0 s.mem a := by
  unfold retrainedDram
  by_cases hkind : s.pow.retOp.1 = 0
  · simp only [if_pos hkind]
    exact sparseGet_clear ..
  · simp only [if_neg hkind]
    exact sparseGet_clear ..

theorem trainFailed_mem (i k : Nat) (s : State) : (trainFailed i k s).mem = s.mem := by rw [trainFailed, raise_mem, logE_mem]

theorem trainFailed_pow (i k : Nat) (s : State) : (trainFailed i k s).pow = s.pow := by rw [trainFailed, raise_pow, logE_pow]

/-- The end of a retraining: its memory reads zero and its registers tell how it went (R495). -/
theorem retrainDone_ends {ok : Bool} {s : State} (hbusy : s.pow.retBusy = true) :
    ∃ t, exec (.retrainDone ok) s = .next t ∧ t.mem = (retrainedDram s).mem ∧
      t.pow = { s.pow with retBusy := false, retStatus := if ok then .success else .retrainFailed } := by
  refine ⟨_, if_pos hbusy, ?_, ?_⟩
  · rw [raise_mem]
    unfold retrainedDram
    dsimp only
    split <;> split
    · rfl
    · rfl
    · exact trainFailed_mem ..
    · exact trainFailed_mem ..
  · rw [raise_pow]
    dsimp only
    split <;> split
    · rfl
    · rfl
    · exact trainFailed_pow ..
    · exact trainFailed_pow ..

/-! ### Patrol scrub and the clears -/

/-- The scrubber of a vault goes on to the next beat, in turn (R71). -/
def scrubbed (s : State) (v : Nat) : State := modVault s v (fun x => { x with scrubAt := (x.scrubAt + 1) % 2 ^ 24 })

/-- Over DRAM without latent errors a scrub step does no more. -/
theorem patrolScrub_steps {v : Fin 256} {s : State} (hon : (vaultAt s v).scrubOn = true) (hin : (vaultAt s v).untrained = false)
    (hidle : (vaultAt s v).retraining = false) (hst : s.pow.st < 3) (hmain : s.pow.mainOk = true) (hlat : s.latent = []) :
    exec (.patrolScrub v) s = .next (scrubbed s v) := by
  have htouch : ∀ b, touchBeat true (scrubbed s v) b = scrubbed s v := fun b => by
    have hnone : (scrubbed s v).latent = [] := hlat
    rw [touchBeat, hnone]
    rfl
  have hdue : ((vaultAt s v).scrubOn && !(vaultAt s v).untrained && !(vaultAt s v).retraining && decide (s.pow.st < 3) &&
      s.pow.mainOk) = true := by
    rw [hon, hin, hidle, hmain, decide_eq_true hst]
    rfl
  refine (if_pos hdue).trans (congrArg _ ?_)
  show (if (!sparseGet false s.poison _ && sparseGet false (touchBeat true (scrubbed s v) _).poison _) = true then _
    else touchBeat true (scrubbed s v) _) = _
  rw [htouch]
  exact if_neg (Bool.eq_false_iff.1 (Bool.not_and_self (sparseGet false s.poison _)))

theorem wakeS2_chans (s : State) : (wakeS2 s).chans = s.chans := by simp only [wakeS2]; split <;> simp

/-- Settles O52: requests by who holds what they name, the rest by the vault or channel that they write. -/
theorem retrainingAndScrub : Obligations.RetrainingAndScrub := by
  refine ⟨fun v s htrained hrails hidle hin => vaultDriftTrack_tracks htrained hrails hidle hin,
    fun v s hup hidle hawake => ⟨fun hfree => ?vault, fun htaken => ?vaultRefused⟩,
    fun c s hup hidle hawake => ⟨fun hfree => ?chan, fun htaken => ?chanRefused⟩,
    fun v c s hup hbusy hawake => ⟨?vaultBusy, ?chanBusy⟩, fun ok s hbusy _ => ?done,
    fun v s hon hin hidle hst hmain hlat hwf => ?scrub, fun v c s hup => ⟨fun hwf => ?vaultClear, fun hwf => ?chanClear⟩⟩
  case vault =>
    have hfree' : retrainTaken s 0 v = false := (if_pos rfl).trans (by rw [hfree]; rfl)
    have hexec := (next_viaHost_awake hup hawake _).trans (congrArg Host.Outcome.next (retrain_begins hidle hfree'))
    exact ⟨_, hexec, rfl, rfl, vaultAt_setVault_retraining _ v rfl⟩
  case vaultRefused =>
    exact (next_viaHost_awake hup hawake _).trans (congrArg Host.Outcome.next (retrain_refused hidle ((if_pos rfl).trans htaken)))
  case chan =>
    have hexec := (next_viaHost_awake hup hawake _).trans
      (congrArg Host.Outcome.next (retrain_begins hidle ((retrainTaken_chan s c).trans hfree)))
    exact ⟨_, hexec, rfl, rfl, chanAt_setChan_retraining _ c rfl⟩
  case chanRefused =>
    exact (next_viaHost_awake hup hawake _).trans
      (congrArg Host.Outcome.next (retrain_refused hidle ((retrainTaken_chan s c).trans htaken)))
  case vaultBusy => exact (next_viaHost_awake hup hawake _).trans (congrArg Host.Outcome.next (retrain_busy hbusy))
  case chanBusy => exact (next_viaHost_awake hup hawake _).trans (congrArg Host.Outcome.next (retrain_busy hbusy))
  case done =>
    obtain ⟨t, ht, hmem, hpow⟩ := retrainDone_ends (ok := ok) hbusy
    exact ⟨t, ht, by rw [hpow], by rw [hpow], fun a => by rw [hmem]; exact retrainedDram_get s a⟩
  case scrub =>
    refine ⟨_, patrolScrub_steps hon hin hidle hst hmain hlat, ?_, rfl, rfl⟩
    rw [scrubbed, modVault, vaultAt_setVault hwf, if_pos rfl]
  case vaultClear =>
    refine ⟨_, next_viaHost hup _, wakeS2_mem s, ?_⟩
    have hvaults := (wakeS2_sameView s).vaults
    rw [modVault, vaultAt_setVault (by rw [hvaults]; exact hwf), if_pos rfl, vaultAt, hvaults, ← vaultAt]
    rfl
  case chanClear =>
    refine ⟨_, next_viaHost hup _, wakeS2_mem s, ?_⟩
    rw [chanAt_setChan (by rw [wakeS2_chans]; exact hwf), if_pos rfl, chanAt, wakeS2_chans, ← chanAt]
    rfl

end Sys2Proof.Machine
end

section
/-!
The canonical form of the sparse tables: what it asks of each field of the state, and what the writes of each field owe to keep
it. DRAM, host memory and the poison marks are one part of it, the other tables another; each operation is shown once to keep
whichever of the two is given (R64, R69, R78, R106, R184, R456).
-/
namespace Sys2Proof.Machine

/-- Where `M` holds the memories of a state are canonical, where `T` holds its other tables are. -/
structure Canon (M T : Prop) (s : State) : Prop where
  mems : M → Safety.MemCanon s
  tabs : T → Safety.TablesCanon s

/-- The fields that the canonical form speaks of. -/
abbrev tablesOf (s : State) :=
  ((s.mem, s.host, s.poison, s.sems, s.bars, s.doms, s.vfs, s.vaults, s.chans),
    (s.islands, s.fifos, s.codec.chans, s.evc.pend, s.evc.mask, s.evc.prio, s.evc.route, s.evc.targets, s.log.slots))

/-- The tables of an event controller are canonical. -/
structure EvcCanon (e : Evc) : Prop where
  pend : sparseWf 0 e.pend = true
  mask : sparseWf (BitVec.allOnes 32) e.mask = true
  prio : sparseWf 0 e.prio = true
  route : sparseWf 0 e.route = true
  targets : sparseWf {} e.targets = true

/-- An island's scratchpad is canonical. -/
abbrev PadCanon (x : Island) : Prop := sparseWf 0 x.scratch = true

/-! ### What the outcomes of operations carry -/

/-- A state that may be absent. -/
def CanonOpt (M T : Prop) (o : Option State) : Prop := ∀ t, o = some t → Canon M T t

/-- A state or the status of a failure. -/
def CanonExc {ε : Type} (M T : Prop) (o : Except ε State) : Prop := ∀ t, o = .ok t → Canon M T t

/-- The state in which a gate goes on, waits or ends the task. -/
def CanonGate (M T : Prop) : Gate → Prop
  | .go s => Canon M T s
  | .wait s _ => Canon M T s
  | .fault s _ => Canon M T s

/-- The state that an instruction hands on. -/
def CanonRes (M T : Prop) : Res → Prop
  | .next s => Canon M T s
  | .jump s _ => Canon M T s
  | .done s => Canon M T s
  | .wait s _ => Canon M T s
  | .fault s _ => Canon M T s
  | .torn s => Canon M T s

/-- The next state of a command. -/
def CanonNext (M T : Prop) : Outcome → Prop
  | .next s => Canon M T s
  | .fault _ => True
  | .refused _ => True

section
variable {M T : Prop} {s t : State}

theorem canonOpt_none : CanonOpt M T none := fun _ h => nomatch h

theorem canonOpt_some (h : Canon M T s) : CanonOpt M T (some s) := fun _ e => Option.some.inj e ▸ h

theorem canonExc_error {ε : Type} {e : ε} : CanonExc M T (.error e : Except ε State) := fun _ h => nomatch h

theorem canonExc_ok {ε : Type} (h : Canon M T s) : CanonExc M T (.ok s : Except ε State) := fun _ e => Except.ok.inj e ▸ h

theorem CanonGate.go {g : Gate} (h : CanonGate M T g) (e : g = .go t) : Canon M T t := by rw [e] at h; exact h

theorem CanonGate.wait {g : Gate} {w : Stall} (h : CanonGate M T g) (e : g = .wait t w) : Canon M T t := by rw [e] at h; exact h

theorem CanonGate.fault {g : Gate} {st : Status} (h : CanonGate M T g) (e : g = .fault t st) : Canon M T t := by
  rw [e] at h; exact h

theorem CanonNext.next {r : Outcome} (h : CanonNext M T r) (e : r = .next t) : Canon M T t := by rw [e] at h; exact h

/-- The first of a pair, where the pair is known. -/
theorem Canon.fst {α : Type} {p : State × α} {x : α} (h : Canon M T p.1) (e : p = (t, x)) : Canon M T t := by
  rw [e] at h; exact h

/-- Only the tables matter. -/
theorem canon_of_tables (h : Canon M T s) (e : tablesOf t = tablesOf s) : Canon M T t := by
  simp only [Prod.mk.injEq] at e
  obtain ⟨⟨hmem, hhost, hpoison, hsems, hbars, hdoms, hvfs, hvaults, hchans⟩,
    hislands, hfifos, hcodec, hpend, hmask, hprio, hroute, htargets, hslots⟩ := e
  refine ⟨fun hM => ?_, fun hT => ?_⟩
  · obtain ⟨a, b, c⟩ := h.mems hM
    exact ⟨by rwa [hmem], by rwa [hhost], by rwa [hpoison]⟩
  · have w := h.tabs hT
    exact ⟨by rw [hsems]; exact w.sems, by rw [hbars]; exact w.bars, by rw [hdoms]; exact w.doms, by rw [hdoms]; exact w.dom,
      by rw [hvfs]; exact w.vfs, by rw [hvaults]; exact w.vaults, by rw [hchans]; exact w.chans,
      by rw [hislands]; exact w.islands, by rw [hislands]; exact w.scratch, by rw [hfifos]; exact w.fifos,
      by rw [hcodec]; exact w.codec, by rw [hpend]; exact w.pend, by rw [hmask]; exact w.mask, by rw [hprio]; exact w.prio,
      by rw [hroute]; exact w.route, by rw [htargets]; exact w.targets, by rw [hslots]; exact w.slots⟩

/-- The fields beside the tables may change at will. -/
theorem canon_beside {pending : List Instr} {now ticks free order : Nat} {conf : Conf} {img : Img} {mir : Mirror}
    {cores : List Core} {pfMsix : Sparse MsixEntry} {tasks : List Task} {rot dspKills dspPins : List Nat}
    {flights : Sparse (List Flight)} {latent : Sparse BeatErr} {mig : Mig} {net : Net} {pow : Pow} {sec : Sec}
    {sent : List Out} {reply : List Byte} (h : Canon M T s) :
    Canon M T { s with
      pending := pending, now := now, ticks := ticks, free := free, order := order, conf := conf, img := img, mir := mir,
      cores := cores, pfMsix := pfMsix, tasks := tasks, rot := rot, dspKills := dspKills, dspPins := dspPins,
      flights := flights, latent := latent, mig := mig, net := net, pow := pow, sec := sec, sent := sent, reply := reply } :=
  canon_of_tables h rfl

theorem canon_ite {c : Prop} [Decidable c] (hs : Canon M T s) (ht : Canon M T t) : Canon M T (if c then s else t) := by
  split
  · exact hs
  · exact ht

/-- A step that is taken or left out. -/
theorem canon_when {c : Prop} [Decidable c] (h : Canon M T s) (hf : Canon M T s → Canon M T t) :
    Canon M T (if c then t else s) :=
  canon_ite (hf h) h

/-- A fold of operations that keep the form keeps it. -/
theorem canon_foldl {α : Type} {f : State → α → State} {l : List α} (h : Canon M T s)
    (hf : ∀ s x, Canon M T s → Canon M T (f s x)) : Canon M T (l.foldl f s) := by
  induction l generalizing s with
  | nil => exact h
  | cons x l ih => exact ih (hf s x h)

/-! ### One law for each field -/

theorem canon_mem {m : Sparse Byte} (h : Canon M T s) (hm : M → Memory.wf m = true) : Canon M T { s with mem := m } :=
  ⟨fun hM => { h.mems hM with mem := hm hM }, fun hT => { h.tabs hT with }⟩

theorem canon_host {m : Sparse Byte} (h : Canon M T s) (hm : M → Memory.wf m = true) : Canon M T { s with host := m } :=
  ⟨fun hM => { h.mems hM with host := hm hM }, fun hT => { h.tabs hT with }⟩

theorem canon_poison {p : Sparse Bool} (h : Canon M T s) (hp : M → sparseWf false p = true) : Canon M T { s with poison := p } :=
  ⟨fun hM => { h.mems hM with poison := hp hM }, fun hT => { h.tabs hT with }⟩

theorem canon_sems {m : Sparse Nat} (h : Canon M T s) (hm : T → sparseWf 0 m = true) : Canon M T { s with sems := m } :=
  ⟨fun hM => { h.mems hM with }, fun hT => { h.tabs hT with sems := hm hT }⟩

theorem canon_bars {m : Sparse Barrier} (h : Canon M T s) (hm : T → sparseWf {} m = true) : Canon M T { s with bars := m } :=
  ⟨fun hM => { h.mems hM with }, fun hT => { h.tabs hT with bars := hm hT }⟩

theorem canon_doms {m : Sparse Dom} (h : Canon M T s) (hm : T → sparseWf {} m = true)
    (hd : T → ∀ e ∈ m, Safety.DomCanon e.2) : Canon M T { s with doms := m } :=
  ⟨fun hM => { h.mems hM with }, fun hT => { h.tabs hT with doms := hm hT, dom := hd hT }⟩

theorem canon_vfs {m : Sparse Vf} (h : Canon M T s) (hm : T → sparseWf {} m = true) : Canon M T { s with vfs := m } :=
  ⟨fun hM => { h.mems hM with }, fun hT => { h.tabs hT with vfs := hm hT }⟩

theorem canon_vaults {m : Sparse Vault} (h : Canon M T s) (hm : T → sparseWf {} m = true) : Canon M T { s with vaults := m } :=
  ⟨fun hM => { h.mems hM with }, fun hT => { h.tabs hT with vaults := hm hT }⟩

theorem canon_chans {m : Sparse Chan} (h : Canon M T s) (hm : T → sparseWf {} m = true) : Canon M T { s with chans := m } :=
  ⟨fun hM => { h.mems hM with }, fun hT => { h.tabs hT with chans := hm hT }⟩

theorem canon_islands {m : Sparse Island} (h : Canon M T s) (hm : T → sparseWf {} m = true)
    (hs : T → ∀ e ∈ m, PadCanon e.2) : Canon M T { s with islands := m } :=
  ⟨fun hM => { h.mems hM with }, fun hT => { h.tabs hT with islands := hm hT, scratch := hs hT }⟩

theorem canon_fifos {m : Sparse (List Bundle)} (h : Canon M T s) (hm : T → sparseWf [] m = true) :
    Canon M T { s with fifos := m } :=
  ⟨fun hM => { h.mems hM with }, fun hT => { h.tabs hT with fifos := hm hT }⟩

theorem canon_codec {c : Sparse CodChan} {g : List CodSig} (h : Canon M T s) (hc : T → sparseWf {} c = true) :
    Canon M T { s with codec := { chans := c, sigs := g } } :=
  ⟨fun hM => { h.mems hM with }, fun hT => { h.tabs hT with codec := hc hT }⟩

theorem canon_evc {e : Evc} (h : Canon M T s) (he : T → EvcCanon e) : Canon M T { s with evc := e } :=
  ⟨fun hM => { h.mems hM with }, fun hT => { h.tabs hT with
    pend := (he hT).pend, mask := (he hT).mask, prio := (he hT).prio, route := (he hT).route, targets := (he hT).targets }⟩

theorem canon_log {l : Sparse (Option LogEntry)} {w d v : Nat} (h : Canon M T s) (hl : T → sparseWf none l = true) :
    Canon M T { s with log := { slots := l, written := w, dropped := d, level := v } } :=
  ⟨fun hM => { h.mems hM with }, fun hT => { h.tabs hT with slots := hl hT }⟩

/-- DRAM with its poison marks and latent errors. -/
theorem canon_dram {m : Sparse Byte} {p : Sparse Bool} {l : Sparse BeatErr} (h : Canon M T s) (hm : M → Memory.wf m = true)
    (hp : M → sparseWf false p = true) : Canon M T { s with mem := m, poison := p, latent := l } :=
  ⟨fun hM => { h.mems hM with mem := hm hM, poison := hp hM }, fun hT => { h.tabs hT with }⟩

/-- The event controller's tables of a canonical state. -/
theorem Canon.evc (h : Canon M T s) (hT : T) : EvcCanon s.evc :=
  ⟨(h.tabs hT).pend, (h.tabs hT).mask, (h.tabs hT).prio, (h.tabs hT).route, (h.tabs hT).targets⟩

end

/-! ### Tables of tables -/

section
variable {α : Type} [DecidableEq α] (d : α) {P : α → Prop}

omit [DecidableEq α] in
/-- What holds of every entry and of the default holds of what is read. -/
theorem sparseGet_all {m : Sparse α} (hd : P d) (h : ∀ e ∈ m, P e.2) (a : Nat) : P (sparseGet d m a) := by
  induction m with
  | nil => exact hd
  | cons e t ih =>
    obtain ⟨k, v⟩ := e
    simp only [sparseGet]
    split
    · exact h (k, v) List.mem_cons_self
    · exact ih fun e he => h e (List.mem_cons_of_mem _ he)

/-- What holds of every entry and of the written value holds of every entry after the write. -/
theorem sparseSet_all {m : Sparse α} {v : α} (h : ∀ e ∈ m, P e.2) (hv : P v) (a : Nat) : ∀ e ∈ sparseSet d m a v, P e.2 := by
  intro e he
  unfold sparseSet at he
  split at he
  · exact h e (mem_erase he)
  · rcases mem_insert he with rfl | he
    · exact hv
    · exact h e he

/-- What a map keeps of every entry holds after it. -/
theorem sparseMap_all {m : Sparse α} {f : α → α} (h : ∀ e ∈ m, P e.2) (hf : ∀ x, P x → P (f x)) :
    ∀ e ∈ sparseMap d m f, P e.2 := by
  intro e he
  obtain ⟨e', he', rfl⟩ := List.mem_map.1 (List.mem_filter.1 he).1
  exact hf _ (h e' he')

theorem sparseWf_mod (m : Sparse α) (a : Nat) (f : α → α) (h : sparseWf d m = true) : sparseWf d (sparseMod d m a f) = true :=
  sparseWf_set d m a _ h

end

/-! ### Domains and islands, VFs, vaults, channels -/

section
variable {M T : Prop} {s : State}

theorem domCanon_default : Safety.DomCanon {} := ⟨rfl, rfl, rfl, rfl⟩

theorem domCanon_domAt (h : Canon M T s) (hT : T) (d : Nat) : Safety.DomCanon (domAt s d) :=
  sparseGet_all _ domCanon_default (h.tabs hT).dom d

theorem padCanon_islandAt (h : Canon M T s) (hT : T) (i : Nat) : PadCanon (islandAt s i) :=
  sparseGet_all (P := PadCanon) _ rfl (h.tabs hT).scratch i

theorem canon_setIsland {i : Nat} {x : Island} (h : Canon M T s) (hx : T → PadCanon x) :
    Canon M T (setIsland s i x) :=
  canon_islands h (fun hT => sparseWf_set _ _ _ _ (h.tabs hT).islands)
    (fun hT => sparseSet_all (P := PadCanon) _ (h.tabs hT).scratch (hx hT) i)

theorem canon_modIsland {i : Nat} {f : Island → Island} (h : Canon M T s)
    (hf : ∀ x, PadCanon x → PadCanon (f x)) :
    Canon M T (modIsland s i f) :=
  canon_setIsland h (fun hT => hf _ (padCanon_islandAt h hT i))

theorem canon_mapIslands {f : Island → Island} (h : Canon M T s)
    (hf : ∀ x, PadCanon x → PadCanon (f x)) :
    Canon M T { s with islands := sparseMap {} s.islands f } :=
  canon_islands h (fun hT => sparseWf_map _ _ _ (h.tabs hT).islands)
    (fun hT => sparseMap_all (P := PadCanon) _ (h.tabs hT).scratch hf)

theorem canon_setDom {d : Nat} {x : Dom} (h : Canon M T s) (hx : T → Safety.DomCanon x) : Canon M T (setDom s d x) :=
  canon_doms h (fun hT => sparseWf_set _ _ _ _ (h.tabs hT).doms) (fun hT => sparseSet_all _ (h.tabs hT).dom (hx hT) d)

theorem canon_modDom {d : Nat} {f : Dom → Dom} (h : Canon M T s)
    (hf : ∀ x, Safety.DomCanon x → Safety.DomCanon (f x)) : Canon M T (modDom s d f) :=
  canon_setDom h (fun hT => hf _ (domCanon_domAt h hT d))

theorem canon_mapDoms {f : Dom → Dom} (h : Canon M T s)
    (hf : ∀ x, Safety.DomCanon x → Safety.DomCanon (f x)) :
    Canon M T { s with doms := sparseMap {} s.doms f } :=
  canon_doms h (fun hT => sparseWf_map _ _ _ (h.tabs hT).doms) (fun hT => sparseMap_all _ (h.tabs hT).dom hf)

theorem canon_setVf {v : Nat} {x : Vf} (h : Canon M T s) : Canon M T (setVf s v x) :=
  canon_vfs h (fun hT => sparseWf_set _ _ _ _ (h.tabs hT).vfs)

theorem canon_modVf {v : Nat} {f : Vf → Vf} (h : Canon M T s) : Canon M T (modVf s v f) := canon_setVf h

theorem canon_setVault {v : Nat} {x : Vault} (h : Canon M T s) : Canon M T (setVault s v x) :=
  canon_vaults h (fun hT => sparseWf_set _ _ _ _ (h.tabs hT).vaults)

theorem canon_modVault {v : Nat} {f : Vault → Vault} (h : Canon M T s) : Canon M T (modVault s v f) := canon_setVault h

theorem canon_mapVaults {f : Vault → Vault} (h : Canon M T s) : Canon M T { s with vaults := sparseMap {} s.vaults f } :=
  canon_vaults h (fun hT => sparseWf_map _ _ _ (h.tabs hT).vaults)

theorem canon_setChan {c : Nat} {x : Chan} (h : Canon M T s) : Canon M T (setChan s c x) :=
  canon_chans h (fun hT => sparseWf_set _ _ _ _ (h.tabs hT).chans)

end

end Sys2Proof.Machine
end

section
namespace Sys2Proof.Machine

/-! ### Parts of a domain and of the event controller -/

section
variable {x : Dom}

theorem domCanon_pages {m : Sparse (Option Page)} (h : Safety.DomCanon x) (hm : sparseWf none m = true) :
    Safety.DomCanon { x with pages := m } := ⟨hm, h.2⟩

theorem domCanon_programs {m : Sparse (Option (Nat × Program))} (h : Safety.DomCanon x) (hm : sparseWf none m = true) :
    Safety.DomCanon { x with programs := m } := ⟨h.1, hm, h.2.2⟩

theorem domCanon_shadows {m : Sparse (Option Shadow)} (h : Safety.DomCanon x) (hm : sparseWf none m = true) :
    Safety.DomCanon { x with shadows := m } := ⟨h.1, h.2.1, hm, h.2.2.2⟩

theorem domCanon_windows {m : Sparse (Option Window)} (h : Safety.DomCanon x) (hm : sparseWf none m = true) :
    Safety.DomCanon { x with windows := m } := ⟨h.1, h.2.1, h.2.2.1, hm⟩

end

section
variable {e : Evc}

/-- Beside the tables the fields may change at will. -/
theorem evcCanon_beside {owner word holdAt : Nat} {held : Option Nat} {expired : Bool} {latched : Word} {waits : List EvWait}
    {maskedAt : Sparse Nat} {up : List Nat} (h : EvcCanon e) : EvcCanon { e with
      owner := owner, word := word, holdAt := holdAt, held := held, expired := expired, latched := latched, waits := waits,
      maskedAt := maskedAt, up := up } := ⟨h.pend, h.mask, h.prio, h.route, h.targets⟩

theorem evcCanon_pend {m : Sparse Word} (h : EvcCanon e) (hm : sparseWf 0 m = true) : EvcCanon { e with pend := m } :=
  { h with pend := hm }

theorem evcCanon_mask {m : Sparse Word} (h : EvcCanon e) (hm : sparseWf (BitVec.allOnes 32) m = true) :
    EvcCanon { e with mask := m } := { h with mask := hm }

theorem evcCanon_prio {m : Sparse Nat} (h : EvcCanon e) (hm : sparseWf 0 m = true) : EvcCanon { e with prio := m } :=
  { h with prio := hm }

theorem evcCanon_route {m : Sparse Nat} (h : EvcCanon e) (hm : sparseWf 0 m = true) : EvcCanon { e with route := m } :=
  { h with route := hm }

theorem evcCanon_targets {m : Sparse EvTarget} (h : EvcCanon e) (hm : sparseWf {} m = true) :
    EvcCanon { e with targets := m } := { h with targets := hm }

end

/-- Beside its tables the event controller may change at will. -/
theorem canon_evcBeside {M T : Prop} {s : State} {owner word holdAt : Nat} {held : Option Nat} {expired : Bool} {latched : Word}
    {waits : List EvWait} {maskedAt : Sparse Nat} {up : List Nat} (h : Canon M T s) : Canon M T { s with evc := { s.evc with
      owner := owner, word := word, holdAt := holdAt, held := held, expired := expired, latched := latched, waits := waits,
      maskedAt := maskedAt, up := up } } :=
  canon_evc h (fun hT => evcCanon_beside (h.evc hT))

/-- Priorities, routes and targets change together (R466). -/
theorem canon_evcSettings {M T : Prop} {s : State} {p r : Sparse Nat} {t : Sparse EvTarget} (h : Canon M T s)
    (hp : T → sparseWf 0 p = true) (hr : T → sparseWf 0 r = true) (ht : T → sparseWf {} t = true) :
    Canon M T { s with evc := { s.evc with prio := p, route := r, targets := t } } :=
  canon_evc h (fun hT => evcCanon_targets (evcCanon_route (evcCanon_prio (h.evc hT) (hp hT)) (hr hT)) (ht hT))

end Sys2Proof.Machine
end

section
namespace Sys2Proof.Machine

section
variable {M T : Prop} {s : State} {α : Type}

theorem canonOpt_map {f : α → State} {o : Option α} (hf : ∀ x, Canon M T (f x)) : CanonOpt M T (o.map f) := by
  intro t e
  obtain ⟨x, -, rfl⟩ := Option.map_eq_some_iff.1 e
  exact hf x

theorem canonOpt_bind {f : α → Option State} {o : Option α} (hf : ∀ x, CanonOpt M T (f x)) : CanonOpt M T (o.bind f) := by
  intro t e
  obtain ⟨x, -, e⟩ := Option.bind_eq_some_iff.1 e
  exact hf x t e

theorem canonOpt_findSome {f : α → Option State} {l : List α} (hf : ∀ x, CanonOpt M T (f x)) : CanonOpt M T (l.findSome? f) := by
  intro t e
  obtain ⟨x, -, e⟩ := List.exists_of_findSome?_eq_some e
  exact hf x t e

theorem canonOpt_getD {o : Option State} (ho : CanonOpt M T o) (h : Canon M T s) : Canon M T (o.getD s) := by
  cases o with
  | none => exact h
  | some t => exact ho t rfl

theorem canonOpt_orElse {o p : Option State} (ho : CanonOpt M T o) (hp : CanonOpt M T p) : CanonOpt M T (o <|> p) := by
  cases o with
  | none => exact hp
  | some t => exact ho

/-- A fold that carries something beside the state keeps the form where each of its steps does. -/
theorem canon_foldl_fst {β : Type} {f : State × β → α → State × β} {l : List α} {p : State × β} (h : Canon M T p.1)
    (hf : ∀ p x, Canon M T p.1 → Canon M T (f p x).1) : Canon M T (l.foldl f p).1 := by
  induction l generalizing p with
  | nil => exact h
  | cons x l ih => exact ih (hf p x h)

/-- A fold that may fail on the way keeps the form where each of its steps does. -/
theorem canonOpt_foldl_bind {f : α → State → Option State} {l : List α} {o : Option State} (ho : CanonOpt M T o)
    (hf : ∀ x s, Canon M T s → CanonOpt M T (f x s)) : CanonOpt M T (l.foldl (fun acc x => acc.bind (f x)) o) := by
  induction l generalizing o with
  | nil => exact ho
  | cons x l ih =>
    refine ih fun t e => ?_
    obtain ⟨u, hu, e⟩ := Option.bind_eq_some_iff.1 e
    exact hf x u (ho u hu) t e

end

/-! ### Islands -/

section
variable {x : Island}

theorem padCanon_wipeIsland {now : Nat} : PadCanon (wipeIsland now x) := rfl

theorem padCanon_enterLoops {t : Task} {n : Nat} (h : PadCanon x) : PadCanon (enterLoops t n x) := by
  obtain ⟨_, _, _, e⟩ := enterLoops_frame t n x
  rw [e]; exact h

theorem padCanon_advancePc {t : Task} (h : PadCanon x) : PadCanon (advancePc t x) := by
  obtain ⟨_, _, _, e⟩ := advancePc_frame t x
  rw [e]; exact h

theorem padCanon_jumpTo {t : Task} {pc : Nat} (h : PadCanon x) : PadCanon (jumpTo t x pc) := padCanon_enterLoops h

theorem padCanon_putScratch {a : Nat} {d : List MByte} (h : PadCanon x) : PadCanon (putScratch x a d) := putScratch_wf x a d h

theorem padCanon_foldl {α : Type} {f : Island → α → Island} {l : List α} (h : PadCanon x)
    (hf : ∀ x a, PadCanon x → PadCanon (f x a)) : PadCanon (l.foldl f x) := by
  induction l generalizing x with
  | nil => exact h
  | cons a l ih => exact ih (hf x a h)

end

end Sys2Proof.Machine
end

section

/-!
The canonical form through the operations that instructions share: events, completions, DRAM, tasks (R64, R78, R106).
-/

namespace Sys2Proof.Machine

variable {M T : Prop} {s : State}

/-! ### The reset state -/

/-- The reset state lists no key in any table, and its log the one entry of the reset (R491). -/
theorem canon_reset : Canon M T State.reset where
  mems _ := ⟨rfl, rfl, rfl⟩
  tabs _ := {
    sems := rfl, bars := rfl, doms := rfl, dom := fun _ h => absurd h List.not_mem_nil, vfs := rfl, vaults := rfl, chans := rfl,
    islands := rfl, scratch := fun _ h => absurd h List.not_mem_nil, fifos := rfl, codec := rfl, pend := rfl, mask := rfl,
    prio := rfl, route := rfl, targets := rfl, slots := rfl }

/-! ### Events, completions, semaphores -/

theorem canon_takeFree (h : Canon M T s) : Canon M T (takeFree s) := canon_beside h

theorem canon_sendPfVector {v : Nat} (h : Canon M T s) : Canon M T (sendPfVector s v) :=
  canon_ite (canon_beside h) (canon_beside h)

theorem canon_evRefresh (h : Canon M T s) : Canon M T (evRefresh s) :=
  canon_foldl (canon_evcBeside h) (fun _ _ hu => canon_sendPfVector hu)

theorem canon_raise {src : Nat} (h : Canon M T s) : Canon M T (raise src s) :=
  canon_ite (canon_evcBeside h) (canon_evRefresh (canon_evc h
      (fun hT => evcCanon_pend (h.evc hT) (sparseWf_set _ _ _ _ (h.tabs hT).pend))))

theorem canon_logE {sev : Nat} {code : Status} {src : Option Nat} {dom : Nat} {data : List Byte} (h : Canon M T s) :
    Canon M T (logE sev code src dom data s) := by
  unfold logE
  refine canon_ite (canon_log h (fun hT => (h.tabs hT).slots)) ?_
  exact canon_when (canon_ite (canon_raise (canon_log h (fun hT => sparseWf_set _ _ _ _ (h.tabs hT).slots)))
      (canon_log h (fun hT => sparseWf_set _ _ _ _ (h.tabs hT).slots))) (fun hu => canon_raise hu)

theorem canon_sendVfVector {v vec : Nat} (h : Canon M T s) : Canon M T (sendVfVector s v vec) :=
  canon_ite (canon_setVf h) (canon_beside h)

theorem canon_cqNotify {v c : Nat} (h : Canon M T s) : Canon M T (cqNotify s v c) :=
  canon_ite (canon_ite (canon_sendVfVector (canon_setVf h)) (canon_setVf h)) h

theorem canon_cqPut {v c : Nat} {rec : List Byte} (h : Canon M T s) : Canon M T (cqPut s v c rec) :=
  canon_cqNotify (canon_setVf (canon_host h (fun hM => hostWrite_wf _ _ _ (h.mems hM).host)))

theorem canon_cplDeliver {v c : Nat} {rec : List Byte} (h : Canon M T s) : Canon M T (cplDeliver s v c rec) :=
  canon_ite (canon_cqPut h) (canon_setVf h)

theorem canon_cplDrain {n n' : Nat} (h : Canon M T s) : Canon M T (cplDrain n s n') := by
  induction n generalizing s with
  | zero =>
    rw [cplDrain]
    exact h
  | succ n ih =>
    rw [cplDrain]
    split
    · exact h
    · split
      · exact h
      · exact ih (canon_cqPut (canon_setVf h))

theorem canon_complete {src : Src} {st : Status} {result : Nat} (h : Canon M T s) : Canon M T (complete src st result s) :=
  canon_cplDeliver h

theorem canon_inform {d : Nat} {st : Status} {result : Nat} (h : Canon M T s) : Canon M T (inform d st result s) := by
  unfold inform
  split
  · exact h
  · exact canon_cplDeliver h

theorem canon_semAdd {n k : Nat} (h : Canon M T s) : Canon M T (semAdd s n k) :=
  canon_sems h (fun hT => sparseWf_set _ _ _ _ (h.tabs hT).sems)

theorem canon_applySignals {l : List SemRef} (h : Canon M T s) : Canon M T (applySignals s l) :=
  canon_foldl h (fun _ _ hu => canon_semAdd hu)

theorem canon_setTask {t : Task} (h : Canon M T s) : Canon M T (setTask s t) := canon_beside h

/-! ### DRAM, pages and accesses of tasks -/

theorem canon_eccCorrect {b : Nat} {scrub : Bool} (h : Canon M T s) : Canon M T (eccCorrect s b scrub) :=
  canon_ite (canon_when (canon_modVault (canon_beside h)) (fun hu => canon_logE hu)) (canon_setChan (canon_beside h))

theorem canon_eccPoison {b : Nat} (h : Canon M T s) : Canon M T (eccPoison s b) :=
  canon_ite (canon_raise (canon_logE (canon_modVault (canon_dram h (fun hM => (h.mems hM).mem)
      (fun hM => sparseWf_set _ _ _ _ (h.mems hM).poison)))))
      (canon_raise (canon_logE (canon_setChan (canon_dram h (fun hM => (h.mems hM).mem)
      (fun hM => sparseWf_set _ _ _ _ (h.mems hM).poison)))))

theorem canon_touchBeat {scrub : Bool} {b : Nat} (h : Canon M T s) : Canon M T (touchBeat scrub s b) := by
  unfold touchBeat
  split
  · exact h
  · exact canon_eccCorrect h
  · exact canon_eccPoison h
  · refine canon_ite (canon_eccPoison (canon_takeFree h)) ?_
    refine canon_when (canon_takeFree h) (fun hu => ?_)
    refine canon_eccCorrect ?_
    refine canon_foldl (canon_takeFree hu) (fun _ _ hu => ?_)
    exact canon_dram hu (fun hM => sparseWf_set _ _ _ _ (hu.mems hM).mem) (fun hM => (hu.mems hM).poison)

theorem canon_touch {pa n : Nat} (h : Canon M T s) : Canon M T (touch s pa n) :=
  canon_foldl (canon_ite h h) (fun _ _ hu => canon_touchBeat hu)

theorem canon_dramWrite {pa : Nat} {data : List MByte} (h : Canon M T s) : Canon M T (dramWrite s pa data) := by
  unfold dramWrite
  refine canon_dram (canon_foldl h (fun _ _ hu => canon_touchBeat hu)) (fun hM => ?_) (fun hM2 => ?_)
  · exact memPut_wf _ _ _ (((canon_foldl h (fun _ _ hu => canon_touchBeat hu)).mems hM).mem)
  · exact foldl_set_wf _ _ _ _ _ (foldl_erase_wf _ _ _ _ (((canon_foldl h (fun _ _ hu => canon_touchBeat hu)).mems
        hM2).poison))

theorem canon_dramZero {pa n : Nat} (h : Canon M T s) : Canon M T (dramZero s pa n) :=
  canon_dram h (fun hM => sparseWf_clear _ _ _ _ (h.mems hM).mem) (fun hM => sparseWf_clear _ _ _ _ (h.mems hM).poison)

theorem canon_dramCopy {src dst n : Nat} (h : Canon M T s) : Canon M T (dramCopy s src dst n) :=
  canon_dram (canon_touch h) (fun hM => sparseWf_copy _ _ _ _ _ (((canon_touch h).mems hM).mem))
      (fun hM => sparseWf_copy _ _ _ _ _ (((canon_touch h).mems hM).poison))

theorem canon_vaFetch {d va n : Nat} (h : Canon M T s) : Canon M T (vaFetch s d va n).1 := by
  unfold vaFetch
  split
  · exact h
  · dsimp only
    split
    · refine canon_foldl h (fun _ _ hu => ?_)
      split
      · exact canon_ite hu (canon_touch hu)
      · exact hu
    · refine canon_foldl h (fun _ _ hu => ?_)
      split
      · exact canon_ite hu (canon_touch hu)
      · exact hu

theorem canon_vaWrite {d : Nat} {tag : Option Nat} {va : Nat} {data : List MByte} (h : Canon M T s) :
    Canon M T (vaWrite s d tag va data) := by
  unfold vaWrite
  refine canon_foldl h (fun _ _ hu => ?_)
  split
  · split
    · exact canon_ite hu (canon_dramWrite hu)
    · exact hu

theorem canon_undefineBytes {d : Nat} {tag : Option Nat} {rs : List (Nat × Nat)} (h : Canon M T s) :
    Canon M T (undefineBytes s d tag rs) := by
  refine canon_takeFree (canon_mem h (fun hM => ?_))
  obtain ⟨hmem, hhost, hpoison⟩ := h.mems hM
  exact (undefineBytes_mem_ok s d tag rs ⟨hmem, hhost, hpoison⟩).1

theorem canon_heatUnits {d page isl k : Nat} (h : Canon M T s) : Canon M T (heatUnits s d page isl k) := by
  unfold heatUnits
  split
  · exact h
  · refine canon_ite h ?_
    refine canon_when (canon_ite (canon_modDom h (fun _ hu => domCanon_pages hu (sparseWf_set _ _ _ _ hu.1)))
        (canon_beside (canon_modDom h (fun _ hu => domCanon_pages hu (sparseWf_set _ _ _ _ hu.1))))) (fun hu => ?_)
    split
    · exact canon_beside hu
    · exact hu

theorem canon_addHeat {isl d page n : Nat} (h : Canon M T s) : Canon M T (addHeat s isl d page n) := by
  unfold addHeat
  dsimp only
  split
  · exact canon_heatUnits (canon_setIsland h (fun hT => padCanon_islandAt h hT isl))
  · refine canon_heatUnits (canon_setIsland ?_ (fun hT => padCanon_islandAt h hT isl))
    split
    · exact canon_takeFree h
    · exact h

theorem canon_fillLine {atoll d : Nat} {dirty : Bool} {line : Nat} (h : Canon M T s) :
    Canon M T (fillLine atoll d dirty s line) :=
  canon_ite (canon_beside h) (canon_ite h (canon_takeFree (canon_beside h)))

theorem canon_homeAccess {isl d : Nat} {write : Bool} {p : Place} {n : Nat} (h : Canon M T s) :
    Canon M T (homeAccess s isl d write p n) := by
  unfold homeAccess
  refine canon_ite h ?_
  refine canon_when (canon_foldl h (fun _ _ hu => canon_fillLine hu)) (fun hu => ?_)
  exact canon_foldl hu (fun _ _ hu => canon_fillLine hu)

theorem canon_dropFrame {frame : Nat} (h : Canon M T s) : Canon M T (dropFrame s frame) := canon_beside h

theorem canon_dropStagedIn {d : Nat} {l : List (Nat × Nat)} (h : Canon M T s) : Canon M T (dropStagedIn s d l) :=
  canon_beside h

theorem canon_readEffects {t : Task} {isl : Nat} {rs : List (Nat × Nat)} (h : Canon M T s) :
    Canon M T (readEffects s t isl rs) := by
  unfold readEffects
  refine canon_foldl h (fun _ _ hu => ?_)
  split
  · split
    · dsimp only
      split
      · exact canon_addHeat (canon_homeAccess (canon_ite hu (canon_touch hu)))
      · exact canon_homeAccess (canon_ite hu (canon_touch hu))
    · exact hu

theorem canon_readGate {t : Task} {isl : Nat} {own low : Bool} {rs : List (Nat × Nat)} (h : Canon M T s) :
    CanonGate M T (readGate s t isl own low rs) := by
  unfold readGate
  dsimp only
  split
  · exact h
  · split
    · exact h
    · split
      · exact h
      · split
        · split
          · exact canon_beside h
          · split
            · exact h
            · exact canon_readEffects (canon_beside h)
        · split
          · exact canon_beside h
          · split
            · exact h
            · exact canon_readEffects (canon_beside h)

theorem canon_writeGate {t : Task} {rs : List (Nat × Nat)} (h : Canon M T s) : CanonGate M T (writeGate s t rs) := by
  unfold writeGate
  dsimp only
  split
  · exact h
  · split
    · exact h
    · split
      · exact h
      · split <;> exact h

theorem canon_taskWrite {t : Task} {isl : Nat} {ws : List (Nat × List MByte)} (h : Canon M T s) :
    Canon M T (taskWrite s t isl ws) := by
  unfold taskWrite
  refine canon_foldl h (fun _ _ hu => ?_)
  dsimp only
  refine canon_foldl (canon_vaWrite hu) (fun _ _ hu => ?_)
  split
  · split
    · exact canon_addHeat (canon_homeAccess hu)
    · exact canon_homeAccess hu
  · exact hu

theorem canon_dropXlat {d page : Nat} (h : Canon M T s) : Canon M T (dropXlat s d page) := canon_mapIslands h (fun _ hx => hx)

theorem canon_movePage {d page : Nat} {p : Page} {tier : Tier} {frame : Nat} (h : Canon M T s) :
    Canon M T (movePage s d page p tier frame) :=
  canon_ite (canon_dropXlat (canon_ite (canon_modDom (canon_ite (canon_dramWrite h) (canon_dramCopy h))
      (fun _ hu => domCanon_pages hu (sparseWf_set _ _ _ _ hu.1)))
      (canon_dropFrame (canon_modDom (canon_ite (canon_dramWrite h) (canon_dramCopy h))
      (fun _ hu => domCanon_pages hu (sparseWf_set _ _ _ _ hu.1))))))
      (canon_beside (canon_dropXlat (canon_ite (canon_modDom (canon_ite (canon_dramWrite h) (canon_dramCopy h))
      (fun _ hu => domCanon_pages hu (sparseWf_set _ _ _ _ hu.1)))
      (canon_dropFrame (canon_modDom (canon_ite (canon_dramWrite h) (canon_dramCopy h))
      (fun _ hu => domCanon_pages hu (sparseWf_set _ _ _ _ hu.1)))))))

theorem canon_countMove {up : Bool} {frame : Nat} (h : Canon M T s) : Canon M T (countMove s up frame) := canon_beside h

theorem canon_demotePage {d k : Nat} {p : Page} (h : Canon M T s) : CanonOpt M T (demotePage s d k p) :=
  canonOpt_map (fun _ => canon_countMove (canon_movePage h))

theorem canon_farFull {d : Nat} (h : Canon M T s) : Canon M T (farFull s d) := by
  unfold farFull
  split
  · exact canon_ite h (canon_raise (canon_logE (canon_beside h)))
  · exact canon_raise (canon_logE (canon_beside h))

theorem canon_dropLagoon {d : Nat} {p : Page} (h : Canon M T s) : Canon M T (dropLagoon s d p) := canon_beside h

theorem canon_allocFrames {place : State → Option Nat} {d : Nat} {k : StructKind} {n : Nat} (h : Canon M T s) :
    CanonOpt M T (allocFrames place d k n s) := by
  induction n generalizing s with
  | zero =>
    rw [allocFrames]
    exact canonOpt_some h
  | succ n ih =>
    rw [allocFrames]
    split
    · exact canonOpt_none
    · exact ih (canon_modDom h (fun _ hx => hx))

theorem canon_allocStruct {d : Nat} {k : StructKind} {n : Nat} (h : Canon M T s) : CanonOpt M T (allocStruct s d k n) := by
  unfold allocStruct
  split
  · refine canonOpt_map (fun _ => ?_)
    exact canon_modDom h (fun _ hx => hx)
  · exact canon_allocFrames h
  · exact canon_allocFrames h
  · exact canon_allocFrames h
  · exact canon_allocFrames h
  · exact canon_allocFrames h

theorem canon_ensureStruct {d : Nat} {k : StructKind} {n : Nat} (h : Canon M T s) : CanonOpt M T (ensureStruct s d k n) := by
  unfold ensureStruct
  split
  · exact canonOpt_some h
  · exact canon_allocStruct h

theorem canon_freeStruct {d : Nat} {k : StructKind} (h : Canon M T s) : Canon M T (freeStruct s d k) :=
  canon_modDom h (fun _ hx => hx)

/-! ### The life of a task -/

theorem canon_freeIsland {t : Task} (h : Canon M T s) : Canon M T (freeIsland s t) := by
  unfold freeIsland
  split
  · exact h
  · exact canon_modIsland h (fun _ _ => padCanon_wipeIsland)

theorem canon_detachAll {tag : Nat} (h : Canon M T s) : Canon M T (detachAll s tag) := canon_beside h

theorem canon_dropReads {tag : Nat} (h : Canon M T s) : Canon M T (dropReads s tag) := canon_beside h

theorem canon_forgetTag {tag : Nat} (h : Canon M T s) : Canon M T (forgetTag s tag) :=
  canon_of_tables (canon_mapDoms (f := fun d => { d with
    lists := d.lists.map (fun g => { g with tags := g.tags.filter (· != tag) }) }) h (fun _ hx => hx)) rfl

theorem canon_completeTask {t : Task} {st : Status} {pc : Option Nat} (h : Canon M T s) :
    Canon M T (completeTask s t st pc) :=
  canon_cplDeliver h

theorem canon_releaseProgram {d serial : Nat} (h : Canon M T s) : Canon M T (releaseProgram s d serial) :=
  canon_ite h (canon_freeStruct h)

theorem canon_retag {old new : Nat} (h : Canon M T s) : Canon M T (retag s old new) := by
  have hdoms := canon_mapDoms (f := fun d => { d with
    lists := d.lists.map (fun g => { g with tags := g.tags.map (fun x => if x = old then new else x) }) }) h (fun _ hx => hx)
  refine canon_of_tables (canon_vaults (m := (retag s old new).vaults) hdoms (fun hT => ?_)) rfl
  unfold retag
  dsimp only
  exact sparseWf_map _ _ _ (h.tabs hT).vaults

theorem canon_moveToBe {t : Task} (h : Canon M T s) : Canon M T (moveToBe s t) := by
  unfold moveToBe
  refine canon_ite ?_ h
  split
  · exact h
  · refine canon_ite h ?_
    split
    · exact h
    · exact canon_retag h

theorem canon_lateMoves (h : Canon M T s) : Canon M T (lateMoves s) := canon_foldl h (fun _ _ hu => canon_moveToBe hu)

theorem canon_removeTask {t : Task} (h : Canon M T s) : Canon M T (removeTask s t) :=
  canon_releaseProgram (canon_forgetTag (canon_beside (canon_detachAll (canon_dropReads (canon_freeIsland h)))))

theorem canon_undefineOut {t : Task} (h : Canon M T s) : Canon M T (undefineOut s t) := canon_ite (canon_undefineBytes h) h

theorem canon_endOne {t : Task} {st : Status} {pc : Option Nat} (h : Canon M T s) : Canon M T (endOne s t st pc) :=
  canon_removeTask (canon_completeTask (canon_undefineOut (canon_logE h)))

theorem canon_endTask {t : Task} {st : Status} {pc : Option Nat} (h : Canon M T s) : Canon M T (endTask s t st pc) :=
  canon_lateMoves (canon_foldl (canon_foldl (canon_endOne h) (fun _ _ hu => canon_endOne hu))
      (fun _ _ hu => canon_removeTask (canon_undefineOut hu)))

theorem canon_overrun {t : Task} (h : Canon M T s) : Canon M T (overrun s t) := canon_raise (canon_beside (canon_endTask h))

theorem canon_noteCommit {t : Task} (h : Canon M T s) : Canon M T (noteCommit s t) := canon_ite h (canon_beside h)

theorem canon_commitTask {t : Task} (h : Canon M T s) : Canon M T (commitTask s t) :=
  canon_when (canon_when (canon_lateMoves (canon_noteCommit (canon_removeTask h))) (fun hu => canon_applySignals hu))
      (fun hu => canon_completeTask hu)

theorem canon_fenceBetween {islands : List Nat} (h : Canon M T s) : Canon M T (fenceBetween s islands) :=
  canon_beside (canon_fifos h (fun hT => foldl_erase_wf _ _ _ _ (h.tabs hT).fifos))

theorem canon_killOne {t : Task} (h : Canon M T s) : Canon M T (killOne s t) := by
  unfold killOne
  refine canon_ite ?_ h
  exact canon_moveToBe (canon_logE (canon_beside (canon_setTask (canon_detachAll (canon_dropReads (canon_freeIsland h))))))

theorem canon_killGang {t : Task} (h : Canon M T s) : Canon M T (killGang s t) :=
  canon_foldl (canon_ite (canon_fenceBetween h) h) (fun _ _ hu => canon_killOne hu)

theorem canon_tornTask {t : Task} {pc : Nat} (h : Canon M T s) : Canon M T (tornTask s t pc) := by
  unfold tornTask
  refine canon_ite ?_ ?_
  · refine canon_endTask ?_
    split
    · exact canon_modIsland h (fun _ hx => hx)
    · exact h
  · refine canon_foldl ?_ (fun _ _ hu => canon_setTask (canon_detachAll (canon_dropReads (canon_freeIsland hu))))
    refine canon_when ?_ (fun hu => canon_fenceBetween hu)
    split
    · exact canon_modIsland h (fun _ hx => hx)
    · exact h

theorem canon_dropStaged {t : Task} (h : Canon M T s) : Canon M T (dropStaged s t) := canon_dropStagedIn h

theorem canon_startOne {t : Task} {i : Nat} (h : Canon M T s) : Canon M T (startOne s t i) :=
  canon_dropStaged (canon_setTask (canon_setIsland h (fun _ => padCanon_enterLoops rfl)))

/-! ### Ring commands: refusal and success -/

theorem canon_logRefused {op st dom cmd : Nat} (h : Canon M T s) : Canon M T (logRefused s op st dom cmd) := canon_logE h

theorem canon_refuseState {src : Src} {op : Nat} {dom : Option Nat} (h : Canon M T s) :
    Canon M T (refuseState src op dom s) :=
  canon_complete (canon_logRefused h)

theorem canon_ringCmd {src : Src} {op : Nat} {ok : List DomState} {k : Nat → State → State}
    (hk : ∀ (x : Nat) (u : State), Canon M T u → Canon M T (k x u)) (h : Canon M T s) :
    Canon M T (ringCmd src op ok k s) := by
  unfold ringCmd
  split
  · exact canon_refuseState h
  · exact canon_ite (hk _ _ h) (canon_refuseState h)

theorem canon_refuse {src : Src} {st : Status} (h : Canon M T s) : Canon M T (refuse src st s) :=
  canon_complete (canon_logE h)

theorem canon_succeed {src : Src} (h : Canon M T s) : Canon M T (succeed src s) := canon_complete h

end Sys2Proof.Machine
end

section

/-!
The canonical form through the instructions of tasks and what sets them up (R184).
-/

namespace Sys2Proof.Machine

variable {M T : Prop} {s : State}

/-! ### Operands of instructions -/

theorem canon_putRanges {c : Ctx} {ws : List (Int × List MByte)} (h : Canon M T s) : CanonRes M T (putRanges c ws s) := by
  unfold putRanges
  split
  · refine canon_modIsland h (fun _ hu => ?_)
    exact padCanon_foldl hu (fun _ _ hu => padCanon_putScratch hu)
  · exact h

theorem canon_withRead {c : Ctx} {own : Bool} {rs : List (Nat × Nat)} {k : State → Res} (h : Canon M T s)
    (hk : ∀ (u : State), Canon M T u → CanonRes M T (k u)) :
    CanonRes M T (withRead c own rs s k) := by
  unfold withRead
  split
  · exact hk _ ((canon_readGate h).go ‹_›)
  · exact (canon_readGate h).wait ‹_›
  · exact (canon_readGate h).fault ‹_›

theorem canon_withWrite {c : Ctx} {ws : List (Nat × List MByte)} {k : State → Res} (h : Canon M T s)
    (hk : ∀ (u : State), Canon M T u → CanonRes M T (k u)) :
    CanonRes M T (withWrite c ws s k) := by
  unfold withWrite
  split
  · exact hk _ (canon_taskWrite ((canon_writeGate h).go ‹_›))
  · exact (canon_writeGate h).wait ‹_›
  · exact (canon_writeGate h).fault ‹_›

theorem canon_andThen {r : Res} {f : State → State} (h : CanonRes M T r)
    (hf : ∀ (u : State), Canon M T u → Canon M T (f u)) :
    CanonRes M T (andThen r f) := by
  unfold andThen
  split
  · exact hf _ h
  · exact h
  · exact h
  · exact h
  · exact h
  · exact h

theorem canon_orFault {α : Type} {e : Except Status α} {k : α → Res} (h : Canon M T s)
    (hk : ∀ (x : α), CanonRes M T (k x)) :
    CanonRes M T (orFault s e k) := by
  unfold orFault
  split
  · exact hk _
  · exact h

theorem canon_withBytesAt {c : Ctx} {ag imm n : Nat} {k : State → List Byte → Res} (h : Canon M T s)
    (hk : ∀ (u : State) (x : List Byte), Canon M T u → CanonRes M T (k u x)) :
    CanonRes M T (withBytesAt c ag imm n s k) := by
  unfold withBytesAt
  dsimp only
  split
  · exact canon_orFault h (fun _ => hk _ _ h)
  · refine canon_withRead h (fun _ hu => ?_)
    split
    · exact hu
    · exact hk _ _ hu

theorem canon_putAt {c : Ctx} {ag imm : Nat} {data : List Byte} (h : Canon M T s) : CanonRes M T (putAt c ag imm data s) := by
  unfold putAt
  dsimp only
  split
  · exact canon_putRanges h
  · split
    · exact canon_withWrite h (fun _ hu => hu)
    · exact h

/-! ### The pc, the loops and the outstanding work of an island -/

theorem canon_notNow {name : String} : CanonNext M T (notNow name) := trivial

theorem canon_holdInsn {c : Ctx} {why : Stall} (h : Canon M T s) : Canon M T (holdInsn c why s) := by
  unfold holdInsn
  refine canon_modIsland h (fun _ hu => ?_)
  split
  · exact padCanon_advancePc hu
  · exact hu

theorem canon_settle {c : Ctx} {s : Res} (h : CanonRes M T s) : Canon M T (settle c s) := by
  unfold settle
  split
  · exact canon_modIsland h (fun _ hu => padCanon_advancePc hu)
  · exact canon_modIsland h (fun _ hu => padCanon_jumpTo hu)
  · exact h
  · exact canon_holdInsn h
  · exact canon_endTask h
  · exact canon_tornTask h

theorem canon_pushBundle {x : Strait} {b : Bundle} (h : Canon M T s) : Canon M T (pushBundle s x b) := canon_beside h

theorem canon_releaseSignals {i : Nat} (h : Canon M T s) : Canon M T (releaseSignals s i) := by
  unfold releaseSignals
  dsimp only
  split
  · exact h
  · exact canon_applySignals (canon_setIsland h (fun hT => padCanon_islandAt h hT i))

theorem canon_bundleLanded {isl ch : Nat} (h : Canon M T s) : Canon M T (bundleLanded s isl ch) :=
  canon_releaseSignals (canon_modIsland h (fun _ hx => hx))

theorem canon_countSent {c : Ctx} (h : Canon M T s) : Canon M T (countSent c s) :=
  canon_ite (canon_modIsland h (fun _ hx => hx)) h

theorem canon_settleWaiter {own : Island} {c : Ctx} {s : Res} (h : CanonRes M T s) : Canon M T (settleWaiter own c s) := by
  unfold settleWaiter
  split
  · exact canon_releaseSignals (canon_countSent (canon_modIsland h (fun _ hx => hx)))
  · exact h
  · exact h
  · exact canon_modIsland h (fun _ hx => hx)
  · exact canon_endTask h
  · exact canon_tornTask h

/-- A waiting instruction runs in the state with its walk restored. -/
theorem canon_waiterAt {i : Nat} {w : Waiter} {u : State} {c : Ctx} (h : Canon M T s) (e : waiterAt s i w = some (u, c)) :
    Canon M T u := by
  unfold waiterAt at e
  split at e
  · cases e
  · dsimp only at e
    split at e
    · cases e
    · split at e
      · cases e
      · cases e
        exact canon_modIsland h (fun _ hx => hx)

theorem canon_tryWaiters {i : Nat} {ok : Insn → Bool} {f : Ctx → State → Res} {l : List Waiter} {acc : Option State}
    (h : Canon M T s) (hf : ∀ c u, Canon M T u → CanonRes M T (f c u)) (hacc : CanonOpt M T acc) :
    CanonOpt M T (tryWaiters s i ok f l acc) := by
  induction l generalizing acc with
  | nil => exact hacc
  | cons w l ih =>
    rw [tryWaiters]
    split
    · exact ih hacc
    · rename_i u c hw
      have hu := hf c u (canon_waiterAt h hw)
      split
      · dsimp only
        split
        · exact ih (canonOpt_orElse hacc (canonOpt_some (canon_settleWaiter hu)))
        · exact canonOpt_some (canon_settleWaiter hu)
      · exact ih hacc

theorem canon_runInsn {name : String} {ok : Insn → Bool} {i : Nat} {f : Ctx → State → Res} (h : Canon M T s)
    (hf : ∀ (x : Ctx) (u : State), Canon M T u → CanonRes M T (f x u)) :
    CanonNext M T (runInsn name ok i s f) := by
  unfold runInsn
  split
  · exact canon_settle (hf _ _ h)
  · split
    · exact canon_holdInsn h
    · split
      · exact (canon_tryWaiters h (fun _ _ hu => hf _ _ hu) canonOpt_none) _ ‹_›
      · exact canon_notNow

theorem canon_arriveAt {n size : Nat} (h : Canon M T s) : Canon M T (arriveAt s n size) :=
  canon_bars h (fun hT => sparseWf_set _ _ _ _ (h.tabs hT).bars)

/-! ### Ports and messages of the shoal -/

theorem canon_wakeS2 (h : Canon M T s) : Canon M T (wakeS2 s) := canon_ite (canon_raise (canon_beside h)) h

theorem canon_viaHost {k : State → State} (h : Canon M T s) (hk : ∀ (u : State), Canon M T u → Canon M T (k u)) :
    Canon M T (viaHost s k) :=
  canon_ite (hk _ (canon_wakeS2 h)) h

theorem canon_setPort {p : Nat} {x : Port} (h : Canon M T s) : Canon M T (setPort s p x) := canon_beside h

theorem canon_sendRaw {p : Nat} {b : List Byte} (h : Canon M T s) : Canon M T (sendRaw s p b) := canon_beside h

theorem canon_sendCtl {p type vc count : Nat} {nak : Bool} (h : Canon M T s) : Canon M T (sendCtl s p type vc count nak) :=
  canon_sendRaw h

theorem canon_pumpPort {p n : Nat} (h : Canon M T s) : Canon M T (pumpPort p n s) := by
  induction n generalizing s with
  | zero =>
    rw [pumpPort]
    exact h
  | succ n ih =>
    rw [pumpPort]
    refine canon_ite ?_ h
    split
    · exact h
    · split
      · exact h
      · exact ih (canon_sendRaw (canon_setPort h))

theorem canon_pump {p : Nat} (h : Canon M T s) : Canon M T (pump s p) := canon_pumpPort h

theorem canon_sendMessage {p vc stream : Nat} {bytes : List Byte} (h : Canon M T s) :
    Canon M T (sendMessage s p vc stream bytes) :=
  canon_pump (canon_setPort h)

theorem canon_sendMsg {module : Nat} {m : Msg} (h : Canon M T s) : Canon M T (sendMsg s module m) := canon_beside h

theorem canon_linkDown {p : Nat} (h : Canon M T s) : Canon M T (linkDown s p) := canon_raise (canon_logE (canon_setPort h))

theorem canon_settleRole (h : Canon M T s) : Canon M T (settleRole s) := canon_ite (canon_beside h) h

theorem canon_portTrained {p : Nat} {half : Bool} {id role : Nat} (h : Canon M T s) :
    Canon M T (portTrained s p half id role) :=
  canon_ite (canon_settleRole (canon_beside (canon_raise (canon_setPort h)))) (canon_raise (canon_logE (canon_setPort h)))

theorem canon_retrainPorts {ps : List Nat} (h : Canon M T s) : Canon M T (retrainPorts s ps) := by
  unfold retrainPorts
  refine canon_foldl h (fun _ _ hu => ?_)
  exact canon_setPort hu

theorem canon_timeBeacon {time rtt : Nat} (h : Canon M T s) : Canon M T (timeBeacon s time rtt) := by
  unfold timeBeacon
  dsimp only
  exact canon_ite (canon_ite (canon_raise (canon_logE (canon_beside h))) (canon_beside h)) (canon_beside h)

/-! ### Instructions that move data -/

theorem canon_withLoad {c : Ctx} {rs : List (Nat × Nat)} {k : State → Res} (h : Canon M T s)
    (hk : ∀ (u : State), Canon M T u → CanonRes M T (k u)) :
    CanonRes M T (withLoad c rs s k) := by
  unfold withLoad
  split
  · exact canon_withRead h (fun _ hu => hk _ hu)
  · dsimp only
    split
    · exact h
    · refine canon_withRead h (fun _ hu => ?_)
      split
      · exact hk _ ((canon_readGate hu).go ‹_›)
      · exact (canon_readGate hu).wait ‹_›
      · exact (canon_readGate hu).fault ‹_›

theorem canon_loadRes {c : Ctx} (h : Canon M T s) : CanonRes M T (loadRes c s) := by
  unfold loadRes
  split
  · dsimp only
    split
    · refine canon_withLoad h (fun _ hu => ?_)
      exact canon_orFault hu (fun _ => canon_putRanges hu)
    · exact h
  · exact h

theorem canon_execLoad {i : Fin 256} (h : Canon M T s) : CanonNext M T (execLoad i s) :=
  canon_runInsn h (fun _ _ hu => canon_loadRes hu)

theorem canon_storeRes {c : Ctx} (h : Canon M T s) : CanonRes M T (storeRes c s) := by
  unfold storeRes
  split
  · dsimp only
    split
    · exact h
    · split
      · refine canon_withRead h (fun _ hu => ?_)
        refine canon_orFault hu (fun _ => ?_)
        exact canon_withWrite hu (fun _ hu => hu)
      · exact h
  · exact h
  · exact h

theorem canon_execStore {i : Fin 256} (h : Canon M T s) : CanonNext M T (execStore i s) :=
  canon_runInsn h (fun _ _ hu => canon_storeRes hu)

theorem canon_copyRes {c : Ctx} (h : Canon M T s) : CanonRes M T (copyRes c s) := canon_orFault h (fun _ => canon_putRanges h)

theorem canon_execCopy {i : Fin 256} (h : Canon M T s) : CanonNext M T (execCopy i s) :=
  canon_runInsn h (fun _ _ hu => canon_copyRes hu)

theorem canon_zeroRes {c : Ctx} (h : Canon M T s) : CanonRes M T (zeroRes c s) := by
  unfold zeroRes
  dsimp only
  split
  · exact canon_putRanges h
  · exact h

theorem canon_execZero {i : Fin 256} (h : Canon M T s) : CanonNext M T (execZero i s) :=
  canon_runInsn h (fun _ _ hu => canon_zeroRes hu)

theorem canon_sendFrom {c : Ctx} {n n' : Nat} (h : Canon M T s) : CanonRes M T (sendFrom c n n' s) := by
  induction n generalizing n' s with
  | zero =>
    rw [sendFrom]
    exact h
  | succ n ih =>
    rw [sendFrom]
    split
    · exact canon_modIsland h (fun _ hx => hx)
    · split
      · exact h
      · split
        · exact ih (canon_pushBundle h)
        · exact canon_modIsland h (fun _ hx => hx)

theorem canon_sendRes {c : Ctx} (h : Canon M T s) : CanonRes M T (sendRes c s) := by
  unfold sendRes
  split
  · exact h
  · exact canon_sendFrom h

theorem canon_execSend {i : Fin 256} (h : Canon M T s) : CanonNext M T (execSend i s) :=
  canon_runInsn h (fun _ _ hu => canon_sendRes hu)

theorem canon_execSendResume {i : Fin 256} (h : Canon M T s) : CanonNext M T (execSendResume i s) := by
  unfold execSendResume
  split
  · exact canon_runInsn h (fun _ _ hu => canon_sendRes hu)
  · exact canon_notNow

theorem canon_recvFrom {c : Ctx} {n n' : Nat} (h : Canon M T s) : CanonRes M T (recvFrom c n n' s) := by
  induction n generalizing n' s with
  | zero =>
    rw [recvFrom]
    exact h
  | succ n ih =>
    rw [recvFrom]
    split
    · exact canon_modIsland h (fun _ hx => hx)
    · dsimp only
      split
      · exact ih (canon_modIsland (canon_fifos h (fun hT => sparseWf_set _ _ _ _ (h.tabs hT).fifos))
            (fun _ hu => padCanon_putScratch hu))
      · exact h

theorem canon_recvRes {c : Ctx} (h : Canon M T s) : CanonRes M T (recvRes c s) := canon_recvFrom h

theorem canon_execRecv {i : Fin 256} (h : Canon M T s) : CanonNext M T (execRecv i s) :=
  canon_runInsn h (fun _ _ hu => canon_recvRes hu)

theorem canon_moveBundle {isl ch : Nat} (h : Canon M T s) : CanonOpt M T (moveBundle s isl ch) := by
  unfold moveBundle
  dsimp only
  split
  · exact canonOpt_none
  · split
    · exact canonOpt_none
    · split
      · split
        · exact canonOpt_none
        · split
          · split
            · exact canonOpt_some (canon_bundleLanded (canon_modIsland
                  (canon_beside (canon_fifos h (fun hT => sparseWf_set _ _ _ _ (h.tabs hT).fifos))) (fun _ hx => hx)))
            · exact canonOpt_none
          · exact canonOpt_some (canon_bundleLanded (canon_beside h))
      · exact canonOpt_some (canon_beside h)

theorem canon_execStraitBundle {i : Fin 256} {ch : Fin 8} (h : Canon M T s) : CanonNext M T (execStraitBundle i ch s) := by
  unfold execStraitBundle
  split
  · exact (canon_moveBundle h) _ ‹_›
  · exact canon_notNow

theorem canon_stageRes {c : Ctx} (h : Canon M T s) : CanonRes M T (stageRes c s) := by
  unfold stageRes
  split
  · exact h
  · split
    · exact h
    · dsimp only
      split
      · exact canon_beside h
      · split <;> exact canon_beside h

theorem canon_execStage {i : Fin 256} (h : Canon M T s) : CanonNext M T (execStage i s) :=
  canon_runInsn h (fun _ _ hu => canon_stageRes hu)

theorem canon_releaseRes {c : Ctx} (h : Canon M T s) : CanonRes M T (releaseRes c s) := by
  unfold releaseRes
  split
  · exact h
  · split
    · exact h
    · exact canon_beside h

theorem canon_execStageRelease {i : Fin 256} (h : Canon M T s) : CanonNext M T (execStageRelease i s) :=
  canon_runInsn h (fun _ _ hu => canon_releaseRes hu)

theorem canon_execStageLineFill {tile : BitVec 16} {ok : Bool} (h : Canon M T s) :
    CanonNext M T (execStageLineFill tile ok s) := by
  unfold execStageLineFill
  split
  · exact canon_notNow
  · split
    · exact canon_notNow
    · dsimp only
      split
      · split
        · exact canon_notNow
        · split
          · exact canon_notNow
          · exact canon_beside (canon_ite h (canon_touch h))
      · exact canon_beside h

theorem canon_execLagStageClear {atoll : Fin 4} (h : Canon M T s) : CanonNext M T (execLagStageClear atoll s) :=
  canon_viaHost h (fun _ hu => canon_beside hu)

theorem canon_keepStaged {d va n : Nat} (h : Canon M T s) : Canon M T (keepStaged s d va n) := canon_beside h

/-! ### Matrix instructions -/

theorem canon_withAnchors {c : Ctx} {t : AccTile} {oa ob : Operand} {k : State → List Int → Res} (h : Canon M T s)
    (hk : ∀ (u : State) (x : List Int), Canon M T u → CanonRes M T (k u x)) :
    CanonRes M T (withAnchors c t oa ob s k) := by
  unfold withAnchors
  dsimp only
  split
  · exact canon_withBytesAt h (fun _ _ hu => hk _ _ hu)
  · refine canon_withRead h (fun _ hu => ?_)
    split
    · exact hu
    · split
      · exact hu
      · exact hk _ _ hu

theorem canon_withTile {c : Ctx} {k : AccTile → Res} (h : Canon M T s) (hk : ∀ (x : AccTile), CanonRes M T (k x)) :
    CanonRes M T (withTile c s k) := by
  unfold withTile
  split
  · exact h
  · exact hk _

theorem canon_putTile {c : Ctx} {t : AccTile} (h : Canon M T s) : Canon M T (putTile c t s) :=
  canon_modIsland h (fun _ hx => hx)

theorem canon_useTile {c : Ctx} (h : Canon M T s) : Canon M T (useTile c s) := by
  unfold useTile
  dsimp only
  split
  · exact canon_modIsland h (fun _ hx => hx)
  · exact canon_ite (canon_modIsland h (fun _ hx => hx)) (canon_modIsland
        (canon_takeFree (canon_modIsland h (fun _ hx => hx))) (fun _ hx => hx))

theorem canon_scoreboard {f : Ctx → State → Res} {c : Ctx}
    (hf : ∀ (x : Ctx) (u : State), Canon M T u → CanonRes M T (f x u)) (h : Canon M T s) :
    CanonRes M T (scoreboard f c s) :=
  canon_andThen (hf _ _ h) (fun _ hu => canon_useTile hu)

theorem canon_mmaRes {c : Ctx} (h : Canon M T s) : CanonRes M T (mmaRes c s) := by
  unfold mmaRes
  refine canon_withTile h (fun _ => ?_)
  dsimp only
  split
  · exact h
  · split
    · split
      · exact h
      · refine canon_withAnchors h (fun _ _ hu => ?_)
        exact canon_andThen (canon_putAt hu) (fun _ hu => canon_putTile hu)
    · split
      · split
        · refine canon_orFault h (fun _ => ?_)
          refine canon_orFault h (fun _ => ?_)
          exact canon_modIsland (canon_putTile h) (fun _ hx => hx)
        · refine canon_withAnchors h (fun _ _ hu => ?_)
          refine canon_orFault hu (fun _ => ?_)
          refine canon_orFault hu (fun _ => ?_)
          exact canon_modIsland (canon_putTile hu) (fun _ hx => hx)
      · split
        · refine canon_orFault h (fun _ => ?_)
          refine canon_orFault h (fun _ => ?_)
          exact canon_modIsland (canon_putTile h) (fun _ hx => hx)
        · refine canon_withAnchors h (fun _ _ hu => ?_)
          refine canon_orFault hu (fun _ => ?_)
          refine canon_orFault hu (fun _ => ?_)
          exact canon_modIsland (canon_putTile hu) (fun _ hx => hx)

theorem canon_execMma {i : Fin 256} (h : Canon M T s) : CanonNext M T (execMma i s) := by
  unfold execMma
  refine canon_runInsn h (fun _ _ hu => ?_)
  exact canon_scoreboard (fun _ _ hv => canon_mmaRes hv) hu

theorem canon_accclrRes {c : Ctx} (h : Canon M T s) : CanonRes M T (accclrRes c s) :=
  canon_withTile h (fun _ => canon_putTile h)

theorem canon_execAccclr {i : Fin 256} (h : Canon M T s) : CanonNext M T (execAccclr i s) := by
  unfold execAccclr
  refine canon_runInsn h (fun _ _ hu => ?_)
  exact canon_scoreboard (fun _ _ hv => canon_accclrRes hv) hu

theorem canon_epirawRes {c : Ctx} (h : Canon M T s) : CanonRes M T (epirawRes c s) := by
  unfold epirawRes
  refine canon_withTile h (fun _ => ?_)
  split
  · exact canon_putAt h

theorem canon_execEpiraw {i : Fin 256} (h : Canon M T s) : CanonNext M T (execEpiraw i s) := by
  unfold execEpiraw
  refine canon_runInsn h (fun _ _ hu => ?_)
  exact canon_scoreboard (fun _ _ hv => canon_epirawRes hv) hu

theorem canon_withPieces {c : Ctx} {o : Option Operand} {l : List (Int × Nat)} {k : State → List (List Byte) → Res}
    (h : Canon M T s) (hk : ∀ (u : State) (x : List (List Byte)), Canon M T u → CanonRes M T (k u x)) :
    CanonRes M T (withPieces c o l s k) := by
  unfold withPieces
  split
  · exact canon_orFault h (fun _ => hk _ _ h)
  · refine canon_withRead h (fun _ hu => ?_)
    dsimp only
    split
    · exact hu
    · exact hk _ _ hu

theorem canon_loadRecord {c : Ctx} {o : Option Operand} {a : Int} {t : AccTile} {n : Nat} {k : State → AccTile → Res}
    (h : Canon M T s) (hk : ∀ (u : State) (x : AccTile), Canon M T u → CanonRes M T (k u x)) :
    CanonRes M T (loadRecord c o a t n s k) := by
  unfold loadRecord
  refine canon_withPieces h (fun _ _ hu => ?_)
  dsimp only
  split
  · exact hu
  · split
    · exact hk _ _ hu
    · split
      · exact hu
      · split
        · exact hu
        · exact canon_withPieces hu (fun _ _ hu => hk _ _ hu)

theorem canon_accloadRes {c : Ctx} (h : Canon M T s) : CanonRes M T (accloadRes c s) := by
  unfold accloadRes
  refine canon_withTile h (fun _ => ?_)
  refine canon_loadRecord h (fun _ _ hu => ?_)
  split
  · exact canon_loadRecord hu (fun _ _ hv => canon_putTile hv)
  · exact canon_putTile hu

theorem canon_execAccload {i : Fin 256} (h : Canon M T s) : CanonNext M T (execAccload i s) := by
  unfold execAccload
  refine canon_runInsn h (fun _ _ hu => ?_)
  exact canon_scoreboard (fun _ _ hv => canon_accloadRes hv) hu

theorem canon_withVector {c : Ctx} {use : Bool} {ag imm n : Nat} {f : Fmt} {k : State → List (Option Val) → Res}
    (h : Canon M T s) (hk : ∀ (u : State) (x : List (Option Val)), Canon M T u → CanonRes M T (k u x)) :
    CanonRes M T (withVector c use ag imm n f s k) := by
  unfold withVector
  split
  · exact hk _ _ h
  · dsimp only
    split
    · split
      · exact h
      · exact canon_withBytesAt h (fun _ _ hu => hk _ _ hu)
    · split
      · exact h
      · exact canon_withBytesAt h (fun _ _ hu => hk _ _ hu)

theorem canon_withRowScales {c : Ctx} {o : Operand} {rows : Nat} {k : State → List (Option Val) → Res} (h : Canon M T s)
    (hk : ∀ (u : State) (x : List (Option Val)), Canon M T u → CanonRes M T (k u x)) :
    CanonRes M T (withRowScales c o rows s k) := by
  unfold withRowScales
  split
  · exact hk _ _ h
  · dsimp only
    refine canon_withRead h (fun _ hu => ?_)
    split
    · exact hu
    · exact hk _ _ hu

theorem canon_putRows {c : Ctx} {dst : Int} {rows : List (List Byte)} (h : Canon M T s) :
    CanonRes M T (putRows c dst rows s) := by
  unfold putRows
  split
  · exact canon_putRanges h
  · split
    · exact canon_withWrite h (fun _ hu => hu)
    · exact h

theorem canon_putNarrow {c : Ctx} {o : Operand} {opIdx : Nat} {l : Layout} {dst : Int} {rows : List (List Val)}
    (h : Canon M T s) :
    CanonRes M T (putNarrow c o opIdx l dst rows s) := by
  unfold putNarrow
  split
  · refine canon_withWrite h (fun _ hu => ?_)
    exact canon_modIsland hu (fun _ hx => hx)

theorem canon_putPacked {c : Ctx} {oc : Operand} {l : Layout} {dst : Int} {rows : List (List Val)} (h : Canon M T s) :
    CanonRes M T (putPacked c oc l dst rows s) := by
  unfold putPacked
  split
  · refine canon_andThen (canon_putRanges h) (fun _ hu => ?_)
    exact canon_modIsland hu (fun _ hx => hx)

theorem canon_putOut {c : Ctx} {oc : Operand} {rows : List (List Val)} (h : Canon M T s) :
    CanonRes M T (putOut c oc rows s) := by
  unfold putOut
  dsimp only
  split
  · exact canon_putPacked h
  · split
    · exact canon_putNarrow h
    · exact h
  · refine canon_withRead h (fun _ hu => ?_)
    exact canon_orFault hu (fun _ => canon_putRows hu)

theorem canon_epiRes {c : Ctx} (h : Canon M T s) : CanonRes M T (epiRes c s) := by
  unfold epiRes
  refine canon_withTile h (fun _ => ?_)
  refine canon_orFault h (fun _ => ?_)
  refine canon_withVector h (fun _ _ hu => ?_)
  refine canon_withVector hu (fun _ _ hu => ?_)
  exact canon_withRowScales hu (fun _ _ hu => canon_putOut hu)

theorem canon_execEpi {i : Fin 256} (h : Canon M T s) : CanonNext M T (execEpi i s) := by
  unfold execEpi
  refine canon_runInsn h (fun _ _ hu => ?_)
  exact canon_scoreboard (fun _ _ hv => canon_epiRes hv) hu

/-! ### Collectives of islands -/

theorem canon_setColl {c : Coll} (h : Canon M T s) : Canon M T (setColl s c) := canon_beside h

theorem canon_dropColl {c : Coll} (h : Canon M T s) : Canon M T (dropColl s c) := canon_beside h

theorem canon_setOrder {o : Order} (h : Canon M T s) : Canon M T (setOrder s o) := canon_beside h

theorem canon_dropOrder {o : Order} (h : Canon M T s) : Canon M T (dropOrder s o) := canon_beside h

/-! ### The dispatcher -/

theorem canon_argBlock {d va : Nat} (h : Canon M T s) : Canon M T (argBlock s d va).1 := by
  unfold argBlock
  split
  · exact (canon_vaFetch h).fst ‹_›
  · dsimp only
    split
    · exact (canon_vaFetch h).fst ‹_›
    · split
      · exact (canon_vaFetch ((canon_vaFetch h).fst ‹_›)).fst ‹_›
      · split <;> exact (canon_vaFetch ((canon_vaFetch h).fst ‹_›)).fst ‹_›

theorem canon_checkTask {src : Src} {d atoll : Nat} {raw : List Byte} {tag : Nat} (h : Canon M T s) :
    Canon M T (checkTask s src d atoll raw tag).1 := by
  unfold checkTask
  split
  · exact h
  · split
    · exact (canon_argBlock h).fst ‹_›
    · exact (canon_argBlock h).fst ‹_›

theorem canon_refuseTask {src : Src} {d tag : Nat} {st : Status} (h : Canon M T s) : Canon M T (refuseTask s src d tag st) :=
  canon_cplDeliver (canon_logE h)

theorem canon_enterTask {t : Task} {ops : List Operand} (h : Canon M T s) : Canon M T (enterTask s t ops) :=
  canon_ite (canon_raise (canon_beside h)) (canon_beside h)

theorem canon_takeDesc {src : Src} {d : Nat} {raw : List Byte} (h : Canon M T s) : Canon M T (takeDesc s src d raw) := by
  unfold takeDesc
  dsimp only
  split
  · exact canon_refuseTask ((canon_checkTask h).fst ‹_›)
  · exact canon_enterTask (canon_ite ((canon_checkTask h).fst ‹_›)
        (canon_modDom ((canon_checkTask h).fst ‹_›) (fun _ hx => hx)))

theorem canon_dispatchGo {d n : Nat} (h : Canon M T s) : Canon M T (dispatchGo d n s) := by
  induction n generalizing s with
  | zero =>
    rw [dispatchGo]
    exact h
  | succ n ih =>
    rw [dispatchGo]
    split
    · exact h
    · refine canon_ite (ih (canon_modDom h (fun _ hx => hx))) ?_
      exact canon_ite (ih (canon_takeDesc (canon_modDom h (fun _ hx => hx)))) h

theorem canon_dispatchDom {d : Nat} (h : Canon M T s) : Canon M T (dispatchDom s d) := canon_dispatchGo h

theorem canon_doTask {src : Src} {addr count : Nat} (h : Canon M T s) : Canon M T (doTask src addr count s) := by
  unfold doTask
  refine canon_ringCmd (fun _ _ hu => ?_) h
  exact canon_ite (canon_refuse hu) (canon_dispatchDom (canon_modDom hu (fun _ hx => hx)))

theorem canon_resetGang {x : Desc} (h : Canon M T s) : Canon M T (resetGang s x) := by
  unfold resetGang
  dsimp only
  split
  · exact canon_sems (canon_bars h (fun hT => sparseWf_erase _ _ _ (h.tabs hT).bars))
        (fun hT => foldl_erase_wf _ _ _ _ (h.tabs hT).sems)
  · exact canon_sems h (fun hT => foldl_erase_wf _ _ _ _ (h.tabs hT).sems)

theorem canon_trimStore {i : Nat} (h : Canon M T s) : Canon M T (trimStore s i) := by
  unfold trimStore
  dsimp only
  exact canon_modIsland h (fun _ hx => hx)

theorem canon_startGang {t : Task} {isls : List Nat} (h : Canon M T s) : Canon M T (startGang s t isls) :=
  canon_beside (canon_foldl (canon_ite (canon_resetGang h) h) (fun _ _ hu => canon_trimStore (canon_startOne hu)))

theorem canon_execTaskStart {tag : BitVec 16} {isls : List (Fin 256)} (h : Canon M T s) :
    CanonNext M T (execTaskStart tag isls s) := by
  unfold execTaskStart
  split
  · exact canon_notNow
  · dsimp only
    split
    · exact canon_startGang h
    · exact canon_notNow

theorem canon_execTaskKill {i : Fin 256} (h : Canon M T s) : CanonNext M T (execTaskKill i s) := by
  unfold execTaskKill
  split
  · exact canon_notNow
  · split
    · exact canon_killGang h
    · exact canon_notNow

theorem canon_execKillWritesDrained {tag : BitVec 16} (h : Canon M T s) : CanonNext M T (execKillWritesDrained tag s) := by
  unfold execKillWritesDrained
  split
  · exact canon_notNow
  · split
    · exact canon_setTask h
    · exact canon_notNow

theorem canon_execPinOverrun {tag : BitVec 16} (h : Canon M T s) : CanonNext M T (execPinOverrun tag s) := by
  unfold execPinOverrun
  split
  · exact canon_notNow
  · split
    · exact canon_notNow
    · split
      · exact canon_overrun h
      · exact canon_notNow

theorem canon_doResetSync {src : Src} {atoll sf sc bf bc : Nat} (h : Canon M T s) :
    Canon M T (doResetSync src atoll sf sc bf bc s) := by
  unfold doResetSync
  refine canon_ringCmd (fun _ _ hu => canon_ite (canon_refuse hu) (canon_ite (canon_refuse hu) ?_)) h
  exact canon_ite (canon_refuse hu) (canon_succeed (canon_sems
      (canon_bars hu (fun hT => sparseWf_clear _ _ _ _ (hu.tabs hT).bars))
      (fun hT => sparseWf_clear _ _ _ _ (hu.tabs hT).sems)))

/-! ### Shadows, lists and prefixes -/

theorem canon_storeEverywhere {d serial bytes : Nat} (h : Canon M T s) : Canon M T (storeEverywhere s d serial bytes) := by
  unfold storeEverywhere
  refine canon_foldl h (fun _ _ hu => ?_)
  exact canon_trimStore (canon_modIsland hu (fun _ hx => hx))

theorem canon_dropResident {d serial : Nat} (h : Canon M T s) : Canon M T (dropResident s d serial) := by
  unfold dropResident
  refine canon_foldl h (fun _ _ hu => ?_)
  exact canon_modIsland hu (fun _ hx => hx)

theorem canon_setProgram {d idx : Nat} {p : Option (Nat × Program)} (h : Canon M T s) : Canon M T (setProgram s d idx p) := by
  unfold setProgram
  dsimp only
  split
  · exact canon_modDom h (fun _ hu => domCanon_programs hu (sparseWf_set _ _ _ _ hu.2.1))
  · exact canon_releaseProgram (canon_when (canon_modDom h (fun _ hu => domCanon_programs hu (sparseWf_set _ _ _ _ hu.2.1)))
        (fun hu => canon_dropResident hu))

theorem canon_enterProgram {src : Src} {d idx : Nat} {img : List Byte} (h : Canon M T s) :
    Canon M T (enterProgram src d idx img s) := by
  unfold enterProgram
  split
  · exact canon_refuse h
  · refine canon_ite (canon_refuse h) ?_
    split
    · exact canon_refuse h
    · exact canon_succeed (canon_when (canon_setProgram (canon_beside ((canon_allocStruct h) _ ‹_›)))
          (fun hu => canon_storeEverywhere hu))

theorem canon_doLoadProgram {src : Src} {idx va : Nat} (h : Canon M T s) : Canon M T (doLoadProgram src idx va s) := by
  unfold doLoadProgram
  refine canon_ringCmd (fun _ _ hu => canon_ite (canon_refuse hu) ?_) h
  split
  · exact canon_refuse ((canon_vaFetch hu).fst ‹_›)
  · refine canon_ite (canon_refuse ((canon_vaFetch hu).fst ‹_›)) ?_
    split
    · exact canon_refuse ((canon_vaFetch ((canon_vaFetch hu).fst ‹_›)).fst ‹_›)
    · exact canon_enterProgram ((canon_vaFetch ((canon_vaFetch hu).fst ‹_›)).fst ‹_›)

theorem canon_doUnloadProgram {src : Src} {idx : Nat} (h : Canon M T s) : Canon M T (doUnloadProgram src idx s) :=
  canon_ringCmd (fun _ _ hu => canon_ite (canon_refuse hu)
      (canon_ite (canon_refuse hu) (canon_succeed (canon_setProgram hu)))) h

theorem canon_doSetShadow {src : Src} {idx : Nat} {entry : List Byte} (h : Canon M T s) :
    Canon M T (doSetShadow src idx entry s) := by
  unfold doSetShadow
  refine canon_ringCmd (fun _ _ hu => ?_) h
  split
  · exact canon_refuse hu
  · refine canon_ite (canon_refuse hu) (canon_ite (canon_refuse hu) ?_)
    split
    · exact canon_refuse hu
    · exact canon_succeed (canon_modDom ((canon_ensureStruct hu) _ ‹_›)
          (fun _ hu => domCanon_shadows hu (sparseWf_set _ _ _ _ hu.2.2.1)))

theorem canon_doClearShadow {src : Src} {idx : Nat} (h : Canon M T s) : Canon M T (doClearShadow src idx s) := by
  unfold doClearShadow
  refine canon_ringCmd (fun _ _ hu => ?_) h
  exact canon_ite (canon_refuse hu) (canon_succeed (canon_modDom hu
      (fun _ hu => domCanon_shadows hu (sparseWf_set _ _ _ _ hu.2.2.1))))

theorem canon_supersede {d id : Nat} (h : Canon M T s) : Canon M T (supersede s d id) := by
  unfold supersede
  dsimp only
  exact canon_modDom h (fun _ hx => hx)

theorem canon_publish {d id gen va : Nat} {es : List Nat} (h : Canon M T s) : Canon M T (publish s d id gen va es) := by
  unfold publish
  dsimp only
  exact canon_modDom (canon_vaWrite h) (fun _ hx => hx)

theorem canon_doCreateList {src : Src} {id n source body : Nat} (h : Canon M T s) :
    Canon M T (doCreateList src id n source body s) := by
  unfold doCreateList
  refine canon_ringCmd (fun _ _ hu => canon_ite (canon_refuse hu) (canon_ite (canon_refuse hu) ?_)) h
  split
  · exact canon_refuse ((canon_vaFetch hu).fst ‹_›)
  · dsimp only
    refine canon_ite (canon_refuse ((canon_vaFetch hu).fst ‹_›)) ?_
    split
    · exact canon_refuse ((canon_vaFetch hu).fst ‹_›)
    · exact canon_succeed (canon_publish ((canon_ensureStruct ((canon_vaFetch hu).fst ‹_›)) _ ‹_›))

theorem canon_doEditList {src : Src} {id base body edit n : Nat} (h : Canon M T s) :
    Canon M T (doEditList src id base body edit n s) := by
  unfold doEditList
  refine canon_ringCmd (fun _ _ hu => ?_) h
  split
  · exact canon_refuse hu
  · refine canon_ite (canon_refuse hu) ?_
    split
    · exact canon_refuse ((canon_vaFetch hu).fst ‹_›)
    · split
      · exact canon_refuse ((canon_vaFetch ((canon_vaFetch hu).fst ‹_›)).fst ‹_›)
      · split
        · exact canon_refuse ((canon_vaFetch ((canon_vaFetch hu).fst ‹_›)).fst ‹_›)
        · refine canon_ite (canon_refuse ((canon_vaFetch ((canon_vaFetch hu).fst ‹_›)).fst ‹_›)) ?_
          dsimp only
          exact canon_complete (canon_publish (canon_supersede ((canon_vaFetch ((canon_vaFetch hu).fst ‹_›)).fst ‹_›)))

theorem canon_doDestroyList {src : Src} {id : Nat} (h : Canon M T s) : Canon M T (doDestroyList src id s) := by
  unfold doDestroyList
  refine canon_ringCmd (fun _ _ hu => ?_) h
  split
  · exact canon_refuse hu
  · exact canon_succeed (canon_modDom (canon_supersede hu) (fun _ hx => hx))

theorem canon_execListReclaimed {dom : Fin 16} {body : BitVec 64} (h : Canon M T s) :
    CanonNext M T (execListReclaimed dom body s) := by
  unfold execListReclaimed
  dsimp only
  split
  · exact canon_inform (canon_modDom h (fun _ hx => hx))
  · exact canon_notNow

theorem canon_takeRef {d id : Nat} (h : Canon M T s) : Canon M T (takeRef s d id) := canon_modDom h (fun _ hx => hx)

theorem canon_doPrefixInsert {src : Src} {root parent ids table : Nat} (h : Canon M T s) :
    Canon M T (doPrefixInsert src root parent ids table s) := by
  unfold doPrefixInsert
  refine canon_ringCmd (fun _ _ hu => ?_) h
  dsimp only
  split
  · exact canon_refuse hu
  · split
    · exact canon_refuse hu
    · exact canon_refuse hu
    · split
      · exact canon_refuse ((canon_vaFetch hu).fst ‹_›)
      · split
        · exact canon_complete (canon_takeRef ((canon_vaFetch hu).fst ‹_›))
        · split
          · exact canon_refuse ((canon_vaFetch hu).fst ‹_›)
          · split
            · exact canon_refuse ((canon_vaFetch hu).fst ‹_›)
            · refine canon_complete (canon_modDom ?_ (fun _ hx => hx))
              exact (canon_ensureStruct ((canon_vaFetch hu).fst ‹_›)) _ ‹_›

theorem canon_lookupGo {d ids n n' m : Nat} {x : Option Nat} (h : Canon M T s) : Canon M T (lookupGo d ids n n' m x s).1 := by
  induction n generalizing n' m x s with
  | zero =>
    rw [lookupGo]
    exact h
  | succ n ih =>
    rw [lookupGo]
    split
    · exact (canon_vaFetch h).fst ‹_›
    · dsimp only
      split
      · exact (canon_vaFetch h).fst ‹_›
      · split <;> exact (ih ((canon_vaFetch h).fst ‹_›)).fst ‹_›

theorem canon_doPrefixLookup {src : Src} {root blocks ids out : Nat} (h : Canon M T s) :
    Canon M T (doPrefixLookup src root blocks ids out s) := by
  unfold doPrefixLookup
  refine canon_ringCmd (fun _ _ hu => ?_) h
  split
  · exact canon_refuse ((canon_lookupGo hu).fst ‹_›)
  · dsimp only
    split
    · exact canon_refuse ((canon_lookupGo hu).fst ‹_›)
    · exact canon_ite (canon_refuse ((canon_lookupGo hu).fst ‹_›))
          (canon_complete (canon_vaWrite (canon_foldl ((canon_lookupGo hu).fst ‹_›) (fun _ _ hu => canon_takeRef hu))))

theorem canon_doPrefixRelease {src : Src} {list count flags : Nat} (h : Canon M T s) :
    Canon M T (doPrefixRelease src list count flags s) := by
  unfold doPrefixRelease
  refine canon_ringCmd (fun _ _ hu => canon_ite (canon_refuse hu) ?_) h
  split
  · exact canon_refuse ((canon_vaFetch hu).fst ‹_›)
  · exact canon_succeed (canon_modDom ((canon_vaFetch hu).fst ‹_›) (fun _ hx => hx))

/-! ### Vector instructions -/

theorem canon_withF32At {c : Ctx} {ag imm n : Nat} {k : State → List Val → Res} (h : Canon M T s)
    (hk : ∀ (u : State) (x : List Val), Canon M T u → CanonRes M T (k u x)) :
    CanonRes M T (withF32At c ag imm n s k) :=
  canon_withBytesAt h (fun _ _ hu => hk _ _ hu)

theorem canon_binaryRes {f : Val → Val → Val} {c : Ctx} (h : Canon M T s) : CanonRes M T (binaryRes f c s) := by
  unfold binaryRes
  refine canon_withF32At h (fun _ _ hu => ?_)
  exact canon_withF32At hu (fun _ _ hu => canon_putAt hu)

theorem canon_execVadd {i : Fin 256} (h : Canon M T s) : CanonNext M T (execVadd i s) :=
  canon_runInsn h (fun _ _ hu => canon_binaryRes hu)

theorem canon_execVmul {i : Fin 256} (h : Canon M T s) : CanonNext M T (execVmul i s) :=
  canon_runInsn h (fun _ _ hu => canon_binaryRes hu)

theorem canon_execVmax {i : Fin 256} (h : Canon M T s) : CanonNext M T (execVmax i s) :=
  canon_runInsn h (fun _ _ hu => canon_binaryRes hu)

theorem canon_execVmin {i : Fin 256} (h : Canon M T s) : CanonNext M T (execVmin i s) :=
  canon_runInsn h (fun _ _ hu => canon_binaryRes hu)

theorem canon_vfmaRes {c : Ctx} (h : Canon M T s) : CanonRes M T (vfmaRes c s) := by
  unfold vfmaRes
  refine canon_withF32At h (fun _ _ hu => ?_)
  refine canon_withF32At hu (fun _ _ hu => ?_)
  exact canon_withF32At hu (fun _ _ hu => canon_putAt hu)

theorem canon_execVfma {i : Fin 256} (h : Canon M T s) : CanonNext M T (execVfma i s) :=
  canon_runInsn h (fun _ _ hu => canon_vfmaRes hu)

theorem canon_vcvtRes {c : Ctx} (h : Canon M T s) : CanonRes M T (vcvtRes c s) := by
  unfold vcvtRes
  dsimp only
  split
  · exact h
  · refine canon_withRead h (fun _ hu => ?_)
    refine canon_withBytesAt hu (fun _ _ hu => ?_)
    exact canon_orFault hu (fun _ => canon_putAt hu)

theorem canon_execVcvt {i : Fin 256} (h : Canon M T s) : CanonNext M T (execVcvt i s) :=
  canon_runInsn h (fun _ _ hu => canon_vcvtRes hu)

theorem canon_withRows {c : Ctx} {k : State → List (List Val) → Res} (h : Canon M T s)
    (hk : ∀ (u : State) (x : List (List Val)), Canon M T u → CanonRes M T (k u x)) :
    CanonRes M T (withRows c s k) := by
  unfold withRows
  dsimp only
  exact canon_withPieces h (fun _ _ hu => hk _ _ hu)

theorem canon_rowFormRes {f : Val → Val → Val} {c : Ctx} (h : Canon M T s) : CanonRes M T (rowFormRes f c s) := by
  unfold rowFormRes
  refine canon_withRows h (fun _ _ hu => ?_)
  refine canon_withF32At hu (fun _ _ hu => ?_)
  dsimp only
  split
  · exact canon_putRanges hu
  · split
    · exact canon_withWrite hu (fun _ hv => hv)
    · exact hu

theorem canon_execVrowmul {i : Fin 256} (h : Canon M T s) : CanonNext M T (execVrowmul i s) :=
  canon_runInsn h (fun _ _ hu => canon_rowFormRes hu)

theorem canon_execVrowadd {i : Fin 256} (h : Canon M T s) : CanonNext M T (execVrowadd i s) :=
  canon_runInsn h (fun _ _ hu => canon_rowFormRes hu)

theorem canon_fevalRes {c : Ctx} (h : Canon M T s) : CanonRes M T (fevalRes c s) := by
  unfold fevalRes
  refine canon_orFault h (fun _ => ?_)
  exact canon_withF32At h (fun _ _ hu => canon_putAt hu)

theorem canon_execFeval {i : Fin 256} (h : Canon M T s) : CanonNext M T (execFeval i s) :=
  canon_runInsn h (fun _ _ hu => canon_fevalRes hu)

theorem canon_reduceRes {f : State → Ctx → List Val → Val} {c : Ctx} (h : Canon M T s) : CanonRes M T (reduceRes f c s) :=
  canon_withRows h (fun _ _ hu => canon_putAt hu)

theorem canon_execRsum {i : Fin 256} (h : Canon M T s) : CanonNext M T (execRsum i s) :=
  canon_runInsn h (fun _ _ hu => canon_reduceRes hu)

theorem canon_execRsumsq {i : Fin 256} (h : Canon M T s) : CanonNext M T (execRsumsq i s) :=
  canon_runInsn h (fun _ _ hu => canon_reduceRes hu)

theorem canon_execRmax {i : Fin 256} (h : Canon M T s) : CanonNext M T (execRmax i s) :=
  canon_runInsn h (fun _ _ hu => canon_reduceRes hu)

/-! ### The lens -/

theorem canon_withKeys {c : Ctx} {k : State → List Key → Res} (h : Canon M T s)
    (hk : ∀ (u : State) (x : List Key), Canon M T u → CanonRes M T (k u x)) :
    CanonRes M T (withKeys c s k) := by
  unfold withKeys
  dsimp only
  refine canon_withRead h (fun _ hu => ?_)
  split
  · exact hu
  · split
    · exact hu
    · exact hk _ _ hu

theorem canon_withBlock {c : Ctx} {k : State → List Key → Lens → Res} (h : Canon M T s)
    (hk : ∀ (u : State) (x : List Key) (y : Lens), Canon M T u → CanonRes M T (k u x y)) :
    CanonRes M T (withBlock c s k) := by
  unfold withBlock
  dsimp only
  refine canon_withRead h (fun _ hu => ?_)
  split
  · exact hu
  · split
    · exact hu
    · exact hk _ _ _ hu

theorem canon_withTokens {c : Ctx} {val : Bool} {ks : List Key} {k : State → List (List Val) → Res} (h : Canon M T s)
    (hk : ∀ (u : State) (x : List (List Val)), Canon M T u → CanonRes M T (k u x)) :
    CanonRes M T (withTokens c val ks s k) := by
  unfold withTokens
  dsimp only
  refine canon_withRead h (fun _ hu => ?_)
  split
  · exact hu
  · exact hk _ _ hu

theorem canon_withScores {c : Ctx} {round : Bool} {ks : List Key} {k : State → List (List Val) → Res} (h : Canon M T s)
    (hk : ∀ (u : State) (x : List (List Val)), Canon M T u → CanonRes M T (k u x)) :
    CanonRes M T (withScores c round ks s k) := by
  unfold withScores
  refine canon_withTokens h (fun _ _ hu => ?_)
  exact canon_orFault hu (fun _ => hk _ _ hu)

theorem canon_withLinear {c : Ctx} {own : Bool} {o : Operand} {off n : Nat} {k : State → List Byte → Res} (h : Canon M T s)
    (hk : ∀ (u : State) (x : List Byte), Canon M T u → CanonRes M T (k u x)) :
    CanonRes M T (withLinear c own o off n s k) := by
  unfold withLinear
  dsimp only
  refine canon_withRead h (fun _ hu => ?_)
  split
  · exact hu
  · exact hk _ _ hu

theorem canon_withSpill {c : Ctx} {own : Bool} {b nb : Nat} {k : State → List (List Val) → Res} (h : Canon M T s)
    (hk : ∀ (u : State) (x : List (List Val)), Canon M T u → CanonRes M T (k u x)) :
    CanonRes M T (withSpill c own b nb s k) := by
  unfold withSpill
  dsimp only
  exact canon_withLinear h (fun _ _ hu => hk _ _ hu)

theorem canon_setLens {c : Ctx} {l : Lens} (h : Canon M T s) : Canon M T (setLens c l s) := canon_modIsland h (fun _ hx => hx)

theorem canon_inSequence {c : Ctx} {ok : Lens → Bool} {k : Res} (h : Canon M T s) (h' : CanonRes M T k) :
    CanonRes M T (inSequence c ok s k) := by
  unfold inSequence
  split
  · exact h'
  · exact h

theorem canon_lopenRes {c : Ctx} (h : Canon M T s) : CanonRes M T (lopenRes c s) := by
  unfold lopenRes
  refine canon_inSequence h ?_
  refine canon_withBytesAt h (fun _ _ hu => ?_)
  split
  · exact hu
  · split
    · exact hu
    · refine canon_withRead hu (fun _ hu => ?_)
      dsimp only
      split
      · exact hu
      · split
        · exact hu
        · split
          · refine canon_withLinear hu (fun _ _ hv => ?_)
            split
            · exact hv
            · exact canon_setLens hv
          · exact canon_setLens hu

theorem canon_execLopen {i : Fin 256} (h : Canon M T s) : CanonNext M T (execLopen i s) :=
  canon_runInsn h (fun _ _ hu => canon_lopenRes hu)

theorem canon_lscoreRes {c : Ctx} (h : Canon M T s) : CanonRes M T (lscoreRes c s) := by
  unfold lscoreRes
  dsimp only
  refine canon_inSequence h ?_
  refine canon_orFault h (fun _ => ?_)
  refine canon_withKeys h (fun _ _ hu => ?_)
  refine canon_withScores hu (fun _ _ hu => ?_)
  split
  · exact canon_setLens hu
  · split
    · exact hu
    · exact canon_withWrite hu (fun _ hu => canon_setLens hu)

theorem canon_execLscore {i : Fin 256} (h : Canon M T s) : CanonNext M T (execLscore i s) :=
  canon_runInsn h (fun _ _ hu => canon_lscoreRes hu)

theorem canon_lpvRes {c : Ctx} (h : Canon M T s) : CanonRes M T (lpvRes c s) := by
  unfold lpvRes
  dsimp only
  refine canon_inSequence h ?_
  refine canon_withTile h (fun _ => ?_)
  split
  · exact h
  · refine canon_orFault h (fun _ => ?_)
    refine canon_withKeys h (fun _ _ hu => ?_)
    split
    · refine canon_withScores hu (fun _ _ hv => ?_)
      exact canon_withTokens hv (fun _ _ hv => canon_setLens (canon_putTile hv))
    · split
      · refine canon_withScores hu (fun _ _ hv => ?_)
        exact canon_withTokens hv (fun _ _ hv => canon_setLens (canon_putTile hv))
      · split
        · refine canon_withScores hu (fun _ _ hv => ?_)
          exact canon_withTokens hv (fun _ _ hv => canon_setLens (canon_putTile hv))
        · refine canon_withSpill hu (fun _ _ hu => ?_)
          exact canon_withTokens hu (fun _ _ hu => canon_setLens (canon_putTile hu))

theorem canon_execLpv {i : Fin 256} (h : Canon M T s) : CanonNext M T (execLpv i s) := by
  unfold execLpv
  refine canon_runInsn h (fun _ _ hu => ?_)
  exact canon_scoreboard (fun _ _ hv => canon_lpvRes hv) hu

theorem canon_lstatsRes {c : Ctx} (h : Canon M T s) : CanonRes M T (lstatsRes c s) := by
  unfold lstatsRes
  dsimp only
  exact canon_inSequence h (canon_andThen (canon_putAt h) (fun _ hu => canon_setLens hu))

theorem canon_execLstats {i : Fin 256} (h : Canon M T s) : CanonNext M T (execLstats i s) :=
  canon_runInsn h (fun _ _ hu => canon_lstatsRes hu)

theorem canon_lcombineRes {c : Ctx} (h : Canon M T s) : CanonRes M T (lcombineRes c s) := by
  unfold lcombineRes
  refine canon_inSequence h ?_
  refine canon_withBytesAt h (fun _ _ hu => ?_)
  dsimp only
  split
  · exact hu
  · exact canon_putAt hu

theorem canon_execLstatsCombine {i : Fin 256} (h : Canon M T s) : CanonNext M T (execLstatsCombine i s) :=
  canon_runInsn h (fun _ _ hu => canon_lcombineRes hu)

theorem canon_putPieces {c : Ctx} {ag : Nat} {l : List (Nat × List Byte)} (h : Canon M T s) :
    CanonRes M T (putPieces c ag l s) := by
  unfold putPieces
  dsimp only
  split
  · exact canon_putRanges h
  · split
    · exact canon_withWrite h (fun _ hu => hu)
    · exact h

theorem canon_lbackRes {c : Ctx} (h : Canon M T s) : CanonRes M T (lbackRes c s) := by
  unfold lbackRes
  dsimp only
  refine canon_inSequence h ?_
  refine canon_orFault h (fun _ => ?_)
  refine canon_withBlock h (fun _ _ _ hu => ?_)
  split
  · exact canon_setLens hu
  · refine canon_withTokens hu (fun _ _ hu => ?_)
    refine canon_orFault hu (fun _ => ?_)
    refine canon_orFault hu (fun _ => ?_)
    split
    · refine canon_withScores hu (fun _ _ hv => ?_)
      exact canon_andThen (canon_putPieces hv) (fun _ hv => canon_setLens hv)
    · refine canon_withSpill hu (fun _ _ hu => ?_)
      exact canon_andThen (canon_putPieces hu) (fun _ hu => canon_setLens hu)

theorem canon_execLback {i : Fin 256} (h : Canon M T s) : CanonNext M T (execLback i s) :=
  canon_runInsn h (fun _ _ hu => canon_lbackRes hu)

/-! ### Taps -/

theorem canon_tapsRes {c : Ctx} (h : Canon M T s) : CanonRes M T (tapsRes c s) := by
  unfold tapsRes
  split
  · dsimp only
    split
    · exact h
    · refine canon_withBytesAt h (fun _ _ hu => ?_)
      split
      · exact hu
      · split
        · exact hu
        · refine canon_withLoad hu (fun _ hu => ?_)
          exact canon_orFault hu (fun _ => canon_putRanges hu)
  · exact h

theorem canon_execLoadTaps {i : Fin 256} (h : Canon M T s) : CanonNext M T (execLoadTaps i s) :=
  canon_runInsn h (fun _ _ hu => canon_tapsRes hu)

end Sys2Proof.Machine
end

section

/-!
The canonical form through the vault engines and the commands on memory (R64, R69, R78).
-/

namespace Sys2Proof.Machine

variable {M T : Prop} {s : State}

/-! ### Vault engines and ECC registers -/

theorem canon_queueOp {v : Nat} {o : VOp} (h : Canon M T s) : Canon M T (queueOp s v o) := canon_modVault h

theorem canon_pastEngine {g : Gate} {k : State → Res} (h : CanonGate M T g)
    (hk : ∀ (u : State), Canon M T u → CanonRes M T (k u)) :
    CanonRes M T (pastEngine g k) := by
  unfold pastEngine
  split
  · exact hk _ h
  · split
    · exact hk _ h
    · exact h
  · exact h

theorem canon_gatherGate {c : Ctx} {v : Nat} {r : VRec} (h : Canon M T s) : CanonGate M T (gatherGate s c v r) := by
  unfold gatherGate
  split
  · dsimp only
    split
    · exact h
    · split <;> exact h
  · exact h

theorem canon_issueOp {c : Ctx} {v : Nat} {o : VOp} (h : Canon M T s) : Canon M T (issueOp c v o s) :=
  canon_modIsland (canon_queueOp h) (fun _ hx => hx)

theorem canon_vengRes {c : Ctx} (h : Canon M T s) : CanonRes M T (vengRes c s) := by
  unfold vengRes
  refine canon_withBytesAt h (fun _ _ hu => ?_)
  dsimp only
  split
  · exact hu
  · split
    · exact hu
    · split
      · split
        · exact hu
        · split
          · exact hu
          · split
            · exact hu
            · refine canon_orFault hu (fun _ => ?_)
              refine canon_orFault hu (fun _ => ?_)
              refine canon_pastEngine (canon_readGate hu) (fun _ hv => ?_)
              refine canon_pastEngine (canon_gatherGate hv) (fun _ hv => ?_)
              exact canon_pastEngine (canon_writeGate hv) (fun _ hv => canon_issueOp hv)
      · split
        · exact hu
        · split
          · exact hu
          · split
            · exact hu
            · refine canon_orFault hu (fun _ => ?_)
              refine canon_orFault hu (fun _ => ?_)
              refine canon_pastEngine (canon_readGate hu) (fun _ hu => ?_)
              refine canon_pastEngine (canon_gatherGate hu) (fun _ hu => ?_)
              exact canon_pastEngine (canon_writeGate hu) (fun _ hu => canon_issueOp hu)

theorem canon_execVeng {i : Fin 256} (h : Canon M T s) : CanonNext M T (execVeng i s) :=
  canon_runInsn h (fun _ _ hu => canon_vengRes hu)

theorem canon_runsRead {l : List (Nat × Nat)} (h : Canon M T s) : Canon M T (runsRead s l).1 :=
  canon_foldl h (fun _ _ hu => canon_touch hu)

theorem canon_runsWrite {l : List (Nat × Nat)} {d : List MByte} (h : Canon M T s) : Canon M T (runsWrite s l d) :=
  canon_foldl_fst h (fun _ _ hu => canon_dramWrite hu)

theorem canon_runsZero {rs : List (Nat × Nat)} (h : Canon M T s) : Canon M T (runsZero s rs) := by
  unfold runsZero
  refine canon_foldl h (fun _ _ hu => ?_)
  exact canon_dramZero (canon_foldl hu (fun _ _ hu => canon_touchBeat hu))

theorem canon_gatherTouch {v : Nat} {o : VOp} {b : List Byte} (h : Canon M T s) : Canon M T (gatherTouch s v o b) :=
  canon_ite (canon_foldl h (fun _ _ hu => canon_ite hu (canon_touch hu))) h

theorem canon_runVop {name : String} {code v : Nat} (h : Canon M T s) : CanonNext M T (runVop name code v s) := by
  unfold runVop
  dsimp only
  split
  · exact canon_notNow
  · split
    · exact canon_notNow
    · split
      · exact canon_notNow
      · split
        · exact canon_modVault (canon_gatherTouch (canon_runsRead h))
        · exact canon_modVault (canon_ite (canon_runsZero (canon_gatherTouch (canon_runsRead h)))
              (canon_runsWrite (canon_gatherTouch (canon_runsRead h))))

theorem canon_execVengCopy {v : Fin 256} (h : Canon M T s) : CanonNext M T (execVengCopy v s) := canon_runVop h

theorem canon_execVengZeroFill {v : Fin 256} (h : Canon M T s) : CanonNext M T (execVengZeroFill v s) := canon_runVop h

theorem canon_execVengGather {v : Fin 256} (h : Canon M T s) : CanonNext M T (execVengGather v s) := canon_runVop h

theorem canon_execVengRowMax {v : Fin 256} (h : Canon M T s) : CanonNext M T (execVengRowMax v s) := canon_runVop h

theorem canon_execVengRowSum {v : Fin 256} (h : Canon M T s) : CanonNext M T (execVengRowSum v s) := canon_runVop h

theorem canon_execVengPack {v : Fin 256} (h : Canon M T s) : CanonNext M T (execVengPack v s) := canon_runVop h

theorem canon_execVengUnpack {v : Fin 256} (h : Canon M T s) : CanonNext M T (execVengUnpack v s) := canon_runVop h

theorem canon_execVengTokenCompare {v : Fin 256} (h : Canon M T s) : CanonNext M T (execVengTokenCompare v s) :=
  canon_runVop h

theorem canon_execVengDigest {v : Fin 256} (h : Canon M T s) : CanonNext M T (execVengDigest v s) := canon_runVop h

theorem canon_vopResult {o : VOp} (h : Canon M T s) : Canon M T (vopResult s o) := by
  unfold vopResult
  split
  · split
    · exact h
    · refine canon_ite (canon_ite (canon_endTask h) ?_) h
      exact canon_releaseSignals (canon_ite (canon_modIsland h (fun _ hu => padCanon_putScratch hu)) (canon_taskWrite h))
  · exact h
  · exact h

theorem canon_hubDone {v : Nat} {o : VOp} (h : Canon M T s) : Canon M T (hubDone v o s) := by
  unfold hubDone
  split
  · exact canon_beside h
  · exact h

theorem canon_execVaultEngineDone {v : Fin 256} (h : Canon M T s) : CanonNext M T (execVaultEngineDone v s) := by
  unfold execVaultEngineDone
  split
  · exact canon_notNow
  · split
    · exact canon_hubDone (canon_vopResult (canon_modVault h))
    · exact canon_notNow

theorem canon_vaultGo {v : Nat} (h : Canon M T s) : Canon M T (vaultGo v s) :=
  canon_ite h (canon_ite (canon_modVault h) (canon_ite (canon_modVault h)
      (canon_ite (canon_modVault h) (canon_ite (canon_modVault h)
      (canon_ite (canon_modVault h) (canon_queueOp (canon_modVault h)))))))

theorem canon_execVltEccClear {v : Fin 256} (h : Canon M T s) : CanonNext M T (execVltEccClear v s) :=
  canon_viaHost h (fun _ hu => canon_modVault hu)

theorem canon_execFarEccClear {ch : Fin 16} (h : Canon M T s) : CanonNext M T (execFarEccClear ch s) :=
  canon_viaHost h (fun _ hu => canon_setChan hu)

/-! ### MAP to DEMOTE, heat and the lower tiers -/

theorem canon_setPage {d k : Nat} {p : Option Page} (h : Canon M T s) : Canon M T (setPage s d k p) :=
  canon_modDom h (fun _ hu => domCanon_pages hu (sparseWf_set _ _ _ _ hu.1))

theorem canon_makeRoom {d : Nat} {vs own : List Nat} {need n : Nat} (h : Canon M T s) :
    CanonExc M T (makeRoom d vs own need n s) := by
  induction n generalizing s with
  | zero =>
    rw [makeRoom]
    exact canonExc_ok h
  | succ n ih =>
    rw [makeRoom]
    split
    · exact canonExc_ok h
    · split
      · exact canonExc_error
      · split
        · exact canonExc_error
        · exact ih ((canon_demotePage h) _ ‹_›)

theorem canon_roomFor {d : Nat} {vs own : List Nat} {need : Nat} (h : Canon M T s) :
    CanonExc M T (roomFor s d vs own need) := by
  unfold roomFor
  split
  · exact canonExc_error
  · exact canon_makeRoom h

theorem canon_ensureLeaves {d : Nat} {ks : List Nat} (h : Canon M T s) : CanonOpt M T (ensureLeaves s d ks) :=
  canonOpt_foldl_bind (canonOpt_some h) (fun _ _ h => canon_ensureStruct h)

theorem canon_mapFrame {d k : Nat} {t : Tier} {f : Nat} (h : Canon M T s) : Canon M T (mapFrame s d k t f) :=
  canon_setPage (canon_dramZero h)

theorem canon_mapNear {d : Nat} {a : VaultArg} {l : List Nat} (h : Canon M T s) : CanonExc M T (mapNear d a l s) := by
  induction l generalizing s with
  | nil =>
    rw [mapNear]
    exact canonExc_ok h
  | cons x l ih =>
    rw [mapNear]
    split
    · exact canonExc_error
    · exact ih (canon_mapFrame h)

theorem canon_mapFar {d : Nat} {l : List Nat} (h : Canon M T s) : CanonExc M T (mapFar d l s) := by
  induction l generalizing s with
  | nil =>
    rw [mapFar]
    exact canonExc_ok h
  | cons x l ih =>
    rw [mapFar]
    split
    · exact canonExc_error
    · exact ih (canon_mapFrame h)

theorem canon_mapHost {d : Nat} {ks l : List Nat} (h : Canon M T s) : Canon M T (mapHost s d ks l) := by
  unfold mapHost
  refine canon_foldl h (fun _ _ hu => ?_)
  split
  exact canon_setPage hu

theorem canon_mapUnified {d va n tier vault list : Nat} (h : Canon M T s) :
    CanonExc M T (mapUnified s d va n tier vault list) := by
  unfold mapUnified
  dsimp only
  split
  · exact canonExc_error
  · split
    · exact canonExc_error
    · split
      · exact canonExc_error
      · split
        · exact canonExc_error
        · split
          · exact canonExc_error
          · split
            · exact canonExc_error
            · split
              · split
                · exact canonExc_error
                · exact canon_mapNear ((canon_roomFor ((canon_ensureLeaves h) _ ‹_›)) _ ‹_›)
              · split
                · exact canon_mapFar ((canon_ensureLeaves h) _ ‹_›)
                · exact canonExc_ok (canon_mapHost ((canon_ensureLeaves h) _ ‹_›))

theorem canon_mapSplit {d va n tier vault list : Nat} (h : Canon M T s) :
    CanonExc M T (mapSplit s d va n tier vault list) := by
  unfold mapSplit
  dsimp only
  split
  · exact canonExc_error
  · split
    · exact canonExc_error
    · split
      · exact canonExc_error
      · split
        · exact canonExc_error
        · split
          · exact canonExc_error
          · exact canonExc_ok (canon_modDom h (fun _ hx => hx))

theorem canon_finish {src : Src} {s' : Except Status State} (h : Canon M T s) (h' : CanonExc M T s') :
    Canon M T (finish src s s') := by
  unfold finish
  split
  · exact canon_succeed (h' _ rfl)
  · exact canon_refuse h

theorem canon_doMap {src : Src} {va n tier vault list : Nat} (h : Canon M T s) :
    Canon M T (doMap src va n tier vault list s) := by
  unfold doMap
  refine canon_ringCmd (fun _ _ hu => canon_ite (canon_refuse hu) (canon_finish hu ?_)) h
  split
  · exact canon_mapSplit hu
  · exact canon_mapUnified hu

theorem canon_keepFor {d k : Nat} {p : Page} (h : Canon M T s) : Canon M T (keepFor s d k p) := canon_ite h (canon_beside h)

theorem canon_unmapRange {d va n : Nat} (h : Canon M T s) : CanonExc M T (unmapRange s d va n) := by
  unfold unmapRange
  split
  · exact canonExc_error
  · split
    · dsimp only
      split
      · exact canonExc_error
      · split
        · exact canonExc_error
        · refine canonExc_ok ?_
          refine canon_foldl h (fun _ _ hu => ?_)
          split
          · exact hu
          · exact canon_modDom (canon_keepFor hu) (fun _ hx => hx)
    · dsimp only
      split
      · exact canonExc_error
      · refine canonExc_ok ?_
        refine canon_foldl h (fun _ _ hu => ?_)
        split
        · exact hu
        · exact canon_dropXlat (canon_setPage (canon_keepFor hu))

theorem canon_moveStruct {d : Nat} {e : Nat × StructKind} (h : Canon M T s) : Canon M T (moveStruct s d e) := by
  unfold moveStruct
  dsimp only
  split
  · refine canon_ite ?_ h
    split
    · exact h
    · exact canon_modDom h (fun _ hx => hx)
  · split
    · exact h
    · exact canon_modDom h (fun _ hx => hx)
  · split
    · exact h
    · exact canon_modDom h (fun _ hx => hx)
  · split
    · exact h
    · exact canon_modDom h (fun _ hx => hx)
  · split
    · exact h
    · exact canon_modDom h (fun _ hx => hx)
  · split
    · exact h
    · exact canon_modDom h (fun _ hx => hx)

theorem canon_moveStructs (h : Canon M T s) : Canon M T (moveStructs s) := by
  unfold moveStructs
  refine canon_foldl h (fun _ _ hu => ?_)
  exact canon_ite hu (canon_foldl hu (fun _ _ hu => canon_moveStruct hu))

theorem canon_takeDirectory {d : Nat} (h : Canon M T s) : Canon M T (takeDirectory s d) :=
  canon_ite (canonOpt_getD (canon_allocFrames h) h) h

theorem canon_prepareTick (h : Canon M T s) : Canon M T (prepareTick s) := by
  unfold prepareTick
  split
  · exact h
  · refine canon_ite ?_ h
    exact canon_foldl (canon_moveStructs (canon_foldl h (fun _ _ hu => canon_takeDirectory hu)))
        (fun _ _ hu => canon_ite (canon_queueOp hu) hu)

theorem canon_doUnmap {src : Src} {va n : Nat} (h : Canon M T s) : Canon M T (doUnmap src va n s) :=
  canon_ringCmd (fun _ _ hu => canon_prepareTick (canon_finish hu (canon_unmapRange hu))) h

theorem canon_evacuate {d k : Nat} {p : Page} (h : Canon M T s) : CanonOpt M T (evacuate s d k p) := by
  unfold evacuate
  split
  · exact canonOpt_some (canon_movePage h)
  · split
    · exact canon_demotePage h
    · exact canonOpt_none

theorem canon_runPromotion {q : Promo} (h : Canon M T s) : Canon M T (runPromotion s q) := by
  unfold runPromotion
  dsimp only
  split
  · exact canon_beside h
  · refine canon_ite (canon_beside h) ?_
    split
    · exact canon_beside h
    · exact canon_countMove (canon_movePage (canon_beside h))

theorem canon_execPageMove {dom : Fin 16} {page : BitVec 32} (h : Canon M T s) : CanonNext M T (execPageMove dom page s) := by
  unfold execPageMove
  split
  · split
    · split
      · exact canon_prepareTick ((canon_evacuate h) _ ‹_›)
      · exact canon_notNow
    · exact canon_notNow
  · split
    · split
      · split
        · exact canon_movePage h
        · exact canon_farFull h
      · exact canon_notNow
    · split
      · exact canon_notNow
      · split
        · exact canon_runPromotion h
        · exact canon_notNow

theorem canon_execPageFrameFree {frame : BitVec 36} (h : Canon M T s) : CanonNext M T (execPageFrameFree frame s) := by
  unfold execPageFrameFree
  split
  · exact canon_prepareTick (canon_beside h)
  · exact canon_notNow

theorem canon_execUnmapFrameFree {dom : Fin 16} {page : BitVec 32} (h : Canon M T s) :
    CanonNext M T (execUnmapFrameFree dom page s) := by
  unfold execUnmapFrameFree
  dsimp only
  split
  · exact canon_prepareTick (canon_beside h)
  · exact canon_notNow

theorem canon_doSeal {src : Src} {va n : Nat} (h : Canon M T s) : Canon M T (doSeal src va n s) := by
  unfold doSeal
  refine canon_ringCmd (fun _ _ hu => canon_ite (canon_refuse hu)
      (canon_ite (canon_refuse hu) (canon_ite (canon_refuse hu) ?_))) h
  refine canon_ite ?_ ?_
  · refine canon_succeed ?_
    refine canon_foldl hu (fun _ _ hv => ?_)
    split
    · exact hv
    · exact canon_setPage hv
  · refine canon_beside ?_
    refine canon_foldl hu (fun _ _ hu => ?_)
    split
    · exact hu
    · exact canon_setPage hu

theorem canon_execSealComplete {dom : Fin 16} {page : BitVec 32} (h : Canon M T s) :
    CanonNext M T (execSealComplete dom page s) := by
  unfold execSealComplete
  dsimp only
  split
  · exact canon_notNow
  · exact canon_succeed (canon_beside h)

theorem canon_promoteOne {d k : Nat} {a : VaultArg} {p : Page} (h : Canon M T s) : CanonExc M T (promoteOne s d k a p) := by
  unfold promoteOne
  dsimp only
  split
  · split
    · exact canonExc_error
    · refine canonExc_ok ?_
      split
      · exact canon_ite (canon_movePage h) (canon_countMove (canon_movePage h))
      · exact canon_setPage (canon_dropLagoon (canon_dropLagoon
            (canon_ite (canon_movePage h) (canon_countMove (canon_movePage h)))))
  · refine canonExc_ok ?_
    split
    · exact h
    · exact canon_setPage (canon_dropLagoon (canon_dropLagoon h))

theorem canon_promoteAll {d : Nat} {a : VaultArg} {l : List Nat} (h : Canon M T s) : CanonExc M T (promoteAll d a l s) := by
  induction l generalizing s with
  | nil =>
    rw [promoteAll]
    exact canonExc_ok h
  | cons x l ih =>
    rw [promoteAll]
    split
    · exact canonExc_error
    · split
      · exact canonExc_error
      · exact ih ((canon_promoteOne h) _ ‹_›)

theorem canon_doPromote {src : Src} {va n vault : Nat} (h : Canon M T s) : Canon M T (doPromote src va n vault s) := by
  unfold doPromote
  refine canon_ringCmd (fun _ _ hu => ?_) h
  refine canon_ite (canon_refuse hu) (canon_ite (canon_refuse hu)
      (canon_ite (canon_refuse hu) (canon_ite (canon_refuse hu)
      (canon_ite (canon_refuse hu) (canon_ite (canon_refuse hu) (canon_finish hu ?_))))))
  split
  · exact canonExc_error
  · exact canon_promoteAll ((canon_roomFor hu) _ ‹_›)

theorem canon_barPage {d k : Nat} {p : Page} (h : Canon M T s) : Canon M T (barPage d k p s) := canon_ite (canon_beside h) h

theorem canon_demoteAll {d : Nat} {l : List Nat} (h : Canon M T s) : CanonExc M T (demoteAll d l s) := by
  induction l generalizing s with
  | nil =>
    rw [demoteAll]
    exact canonExc_ok h
  | cons x l ih =>
    rw [demoteAll]
    split
    · exact canonExc_error
    · split
      · split
        · exact canonExc_error
        · exact ih (canon_barPage ((canon_demotePage h) _ ‹_›))
      · exact ih h

theorem canon_doDemote {src : Src} {va n : Nat} (h : Canon M T s) : Canon M T (doDemote src va n s) := by
  unfold doDemote
  refine canon_ringCmd (fun _ _ hu => ?_) h
  exact canon_ite (canon_refuse hu) (canon_ite (canon_refuse hu)
      (canon_ite (canon_refuse hu) (canon_ite (canon_refuse hu) (canon_prepareTick (canon_finish hu (canon_demoteAll hu))))))

theorem canon_splitWrite {d va : Nat} {data : List MByte} (h : Canon M T s) : Canon M T (splitWrite s d va data) := by
  unfold splitWrite
  refine canon_foldl h (fun _ _ hu => ?_)
  split
  · dsimp only
    split
    · exact canon_ite (canon_host hu (fun hM => hostWrite_wf _ _ _ (hu.mems hM).host)) (canon_dramWrite hu)
    · exact hu

theorem canon_doCopy {src : Src} {from_ to_ n : Nat} (h : Canon M T s) : Canon M T (doCopy src from_ to_ n s) := by
  unfold doCopy
  refine canon_ringCmd (fun _ _ hu => canon_ite (canon_refuse hu) (canon_ite (canon_refuse hu) ?_)) h
  dsimp only
  refine canon_succeed ?_
  refine canon_when ?_ (fun hv => canon_takeFree hv)
  refine canon_splitWrite (canon_keepStaged ?_)
  refine canon_foldl hu (fun _ _ hu => ?_)
  split
  · exact canon_ite hu (canon_touch hu)
  · exact hu

theorem canon_execHeatHalving (h : Canon M T s) : CanonNext M T (execHeatHalving s) := by
  unfold execHeatHalving
  split
  · exact canon_beside (canon_mapDoms h (fun _ hu => domCanon_pages hu (sparseWf_map _ _ _ hu.1)))
  · exact canon_notNow

theorem canon_execOccupancyDemotion {v : Fin 256} (h : Canon M T s) : CanonNext M T (execOccupancyDemotion v s) := by
  unfold execOccupancyDemotion
  split
  · exact canon_notNow
  · split
    · split
      · exact canon_notNow
      · split
        · exact canon_farFull h
        · exact canon_prepareTick (canon_modVault ((canon_demotePage h) _ ‹_›))
    · exact canon_notNow

theorem canon_execFarFullLog {dom : Fin 16} (h : Canon M T s) : CanonNext M T (execFarFullLog dom s) := by
  unfold execFarFullLog
  dsimp only
  split
  · split
    · exact canon_farFull h
    · exact canon_notNow
  · split
    · exact canon_farFull h
    · exact canon_notNow

theorem canon_execLowerTierTimeout {i : Fin 256} (h : Canon M T s) : CanonNext M T (execLowerTierTimeout i s) := by
  unfold execLowerTierTimeout
  split
  · exact canon_notNow
  · split
    · exact canon_endTask h
    · exact canon_notNow

theorem canon_execLowerTierDataArrive {atoll : Fin 4} {line : BitVec 64} (h : Canon M T s) :
    CanonNext M T (execLowerTierDataArrive atoll line s) := by
  unfold execLowerTierDataArrive
  dsimp only
  split
  · exact canon_notNow
  · exact canon_beside (canon_foldl h (fun _ _ hu => canon_fillLine hu))

end Sys2Proof.Machine
end

section

/-!
The canonical form through the codec.
-/

namespace Sys2Proof.Machine

variable {M T : Prop} {s : State}

/-! ### The bit stream -/

theorem canon_fetchRows {d : Nat} {rs : List (Nat × Nat)} (h : Canon M T s) : Canon M T (fetchRows s d rs).1 := by
  unfold fetchRows
  refine canon_foldl_fst h (fun _ _ hu => ?_)
  split <;> exact (canon_vaFetch hu).fst ‹_›

theorem canon_fetchSb {d : Nat} {c : EncCfg} {q : CodReq} {late : List Nat} {col row : Nat} (h : Canon M T s) :
    Canon M T (fetchSb s d c q late col row).1 := by
  unfold fetchSb
  split
  · split
    · split
      · exact (canon_fetchRows ((canon_fetchRows h).fst ‹_›)).fst ‹_›

theorem canon_fetchUnit {d : Nat} {c : EncCfg} {q : CodReq} {late : List Nat} {r r' : Nat} (h : Canon M T s) :
    Canon M T (fetchUnit s d c q late r r').1 := by
  unfold fetchUnit
  refine canon_foldl_fst h (fun _ _ hu => ?_)
  split
  exact (canon_fetchSb hu).fst ‹_›

/-! ### Codec channels -/

theorem canon_setCod {c : Nat} {x : CodChan} (h : Canon M T s) : Canon M T (setCod s c x) :=
  canon_codec h (fun hT => sparseWf_set _ _ _ _ (h.tabs hT).codec)

theorem canon_modCod {c : Nat} {f : CodChan → CodChan} (h : Canon M T s) : Canon M T (modCod s c f) := canon_setCod h

theorem canon_codRecords {src : Src} {c : Nat} {st : Status} {wptr bytes unit maxQp minimal flags number : Nat}
    (h : Canon M T s) :
    Canon M T (codRecords s src c st wptr bytes unit maxQp minimal flags number) :=
  canon_cplDeliver (canon_cplDeliver h)

theorem canon_codDiscard {st : Status} {c : Nat} {q : CodReq} (h : Canon M T s) : Canon M T (codDiscard st c s q) :=
  canon_ite (canon_codRecords h) (canon_complete h)

theorem canon_closeChan {c : Nat} {st : Status} (h : Canon M T s) : Canon M T (closeChan s c st) := by
  unfold closeChan
  refine canon_setCod ?_
  split
  · exact canon_succeed (canon_foldl (canon_foldl h (fun _ _ hu => canon_codDiscard hu)) (fun _ _ hu => canon_complete hu))
  · exact canon_foldl (canon_foldl h (fun _ _ hu => canon_codDiscard hu)) (fun _ _ hu => canon_complete hu)

theorem canon_dropChan {c : Nat} (h : Canon M T s) : Canon M T (dropChan s c) := canon_ite h (canon_raise (canon_setCod h))

theorem canon_dropChansOf {d : Nat} (h : Canon M T s) : Canon M T (dropChansOf s d) :=
  canon_foldl (canon_codec h (fun hT => (h.tabs hT).codec)) (fun _ _ hu => canon_ite (canon_dropChan hu) hu)

theorem canon_settleChan {c : Nat} (h : Canon M T s) : Canon M T (settleChan s c) :=
  canon_ite (canon_closeChan h) (canon_ite (canon_closeChan h) h)

theorem canon_settleChansOf {d : Nat} (h : Canon M T s) : Canon M T (settleChansOf s d) :=
  canon_foldl h (fun _ _ hu => canon_ite (canon_settleChan hu) hu)

theorem canon_execVideoAllocApply {c : Fin 48} (h : Canon M T s) : CanonNext M T (execVideoAllocApply c s) := by
  unfold execVideoAllocApply
  split
  · exact canon_notNow
  · split
    · exact canon_raise (canon_closeChan (canon_logE h))
    · exact canon_notNow

theorem canon_doEncOpen {src : Src} {chan va : Nat} (h : Canon M T s) : Canon M T (doEncOpen src chan va s) := by
  unfold doEncOpen
  refine canon_ringCmd (fun _ _ hu => canon_ite (canon_refuse hu) ?_) h
  split
  · exact canon_refuse ((canon_vaFetch hu).fst ‹_›)
  · split
    · exact canon_refuse ((canon_vaFetch hu).fst ‹_›)
    · split
      · exact canon_refuse ((canon_vaFetch hu).fst ‹_›)
      · exact canon_complete (canon_setCod ((canon_vaFetch hu).fst ‹_›))
      · exact canon_refuse ((canon_vaFetch hu).fst ‹_›)

theorem canon_doEncFrame {src : Src} {chan flags pitch wait signal luma chroma roi hint target inc : Nat} (h : Canon M T s) :
    Canon M T (doEncFrame src chan flags pitch wait signal luma chroma roi hint target inc s) := by
  unfold doEncFrame
  refine canon_ringCmd (fun _ _ hu => ?_) h
  exact canon_ite (canon_refuse hu) (canon_ite (canon_refuse hu)
      (canon_ite (canon_refuse hu) (canon_ite (canon_refuse hu) (canon_setCod hu))))

theorem canon_doForceKey {src : Src} {chan : Nat} (h : Canon M T s) : Canon M T (doForceKey src chan s) :=
  canon_ringCmd (fun _ _ hu => canon_ite (canon_refuse hu) (canon_succeed (canon_modCod hu))) h

theorem canon_applyMark {c : Nat} {m : MarkCmd} (h : Canon M T s) : Canon M T (applyMark c s m) := by
  unfold applyMark
  dsimp only
  split
  · exact canon_ite (canon_succeed h) (canon_complete h)
  · split
    · exact canon_succeed (canon_setCod h)
    · exact canon_succeed (canon_setCod h)
    · exact canon_ite (canon_complete h) (canon_succeed (canon_setCod h))

theorem canon_markOrWait {c : Nat} {m : MarkCmd} (h : Canon M T s) : Canon M T (markOrWait s c m) :=
  canon_ite (canon_applyMark h) (canon_modCod h)

theorem canon_doMark {src : Src} {chan mark frame : Nat} (h : Canon M T s) : Canon M T (doMark src chan mark frame s) :=
  canon_ringCmd (fun _ _ hu => canon_ite (canon_refuse hu) (canon_ite (canon_refuse hu) (canon_markOrWait hu))) h

theorem canon_doAck {src : Src} {chan frame : Nat} (h : Canon M T s) : Canon M T (doAck src chan frame s) :=
  canon_ringCmd (fun _ _ hu => canon_ite (canon_refuse hu) (canon_markOrWait hu)) h

theorem canon_doEncClose {src : Src} {chan : Nat} (h : Canon M T s) : Canon M T (doEncClose src chan s) := by
  unfold doEncClose
  refine canon_ringCmd (fun _ _ hu => canon_ite (canon_refuse hu) ?_) h
  exact canon_settleChan (canon_modCod (canon_foldl hu (fun _ _ hu => canon_codDiscard hu)))

theorem canon_execFrameBegin {c : Fin 32} {roiLate hintLate : Bool} (h : Canon M T s) :
    CanonNext M T (execFrameBegin c roiLate hintLate s) := by
  unfold execFrameBegin
  dsimp only
  split
  · exact canon_notNow
  · split
    · exact canon_setCod h
    · exact canon_notNow

theorem canon_emitBytes {c : Nat} {b : List Byte} (h : Canon M T s) : Canon M T (emitBytes s c b) :=
  canon_setCod (canon_host h (fun hM => ringPut_wf _ _ _ _ _ (h.mems hM).host))

theorem canon_codeUnit {x : CodChan} {f : FrameRun} {late : List Nat} (h : Canon M T s) : Canon M T (codeUnit s x f late).1 :=
  canon_fetchUnit h

theorem canon_execEmissionUnit {c : Fin 32} {late : List (BitVec 64)} (h : Canon M T s) :
    CanonNext M T (execEmissionUnit c late s) := by
  unfold execEmissionUnit
  dsimp only
  split
  · exact canon_notNow
  · split
    · exact canon_notNow
    · split
      · split
        · exact canon_notNow
        · exact canon_when (canon_modCod (canon_emitBytes (canon_codeUnit h))) (fun hu => canon_codRecords hu)
      · split
        · exact canon_notNow
        · exact canon_when (canon_modCod (canon_emitBytes (canon_codeUnit h))) (fun hu => canon_codRecords hu)

theorem canon_storeRecon {x : CodChan} {f : FrameRun} (h : Canon M T s) : Canon M T (storeRecon s x f) := by
  unfold storeRecon
  split
  · exact h
  · exact canon_vaWrite h

theorem canon_codSignal {src : Src} {n inc : Nat} (h : Canon M T s) : Canon M T (codSignal s src n inc) :=
  canon_ite (canon_semAdd h) (canon_codec h (fun hT => (h.tabs hT).codec))

theorem canon_codPlaced {v c placed : Nat} (h : Canon M T s) : Canon M T (codPlaced s v c placed) :=
  canon_foldl (canon_codec h (fun hT => (h.tabs hT).codec)) (fun _ _ hu => canon_semAdd hu)

theorem canon_execFrameEnd {c : Fin 32} (h : Canon M T s) : CanonNext M T (execFrameEnd c s) := by
  unfold execFrameEnd
  dsimp only
  split
  · exact canon_notNow
  · split
    · exact canon_notNow
    · refine canon_settleChan ?_
      refine canon_foldl ?_ (fun _ _ hu => canon_applyMark hu)
      split
      · exact canon_codSignal (canon_codRecords (canon_modCod (canon_storeRecon (canon_ite h (canon_emitBytes h)))))
      · exact canon_codRecords (canon_modCod (canon_storeRecon (canon_ite h (canon_emitBytes h))))

theorem canon_doDecOpen {src : Src} {chan standard w n num den : Nat} (h : Canon M T s) :
    Canon M T (doDecOpen src chan standard w n num den s) := by
  unfold doDecOpen
  refine canon_ringCmd (fun _ _ hu => ?_) h
  refine canon_ite (canon_refuse hu) (canon_ite (canon_refuse hu) ?_)
  split
  · exact canon_complete (canon_setCod hu)
  · exact canon_refuse hu

theorem canon_doDecFrame {src : Src} {chan pitch signal inc va bytes luma chroma : Nat} (h : Canon M T s) :
    Canon M T (doDecFrame src chan pitch signal inc va bytes luma chroma s) := by
  unfold doDecFrame
  refine canon_ringCmd (fun _ _ hu => ?_) h
  exact canon_ite (canon_refuse hu) (canon_ite (canon_refuse hu) (canon_ite (canon_refuse hu) (canon_setCod hu)))

theorem canon_doDecClose {src : Src} {chan : Nat} (h : Canon M T s) : Canon M T (doDecClose src chan s) := by
  unfold doDecClose
  refine canon_ringCmd (fun _ _ hu => canon_ite (canon_refuse hu) ?_) h
  exact canon_settleChan (canon_modCod (canon_foldl hu (fun _ _ hu => canon_codDiscard hu)))

theorem canon_writeRows {d : Nat} {rows : List (Nat × List Byte)} (h : Canon M T s) : Canon M T (writeRows s d rows) :=
  canon_foldl h (fun _ _ hu => canon_vaWrite hu)

theorem canon_writePicture {x : CodChan} {q : CodReq} {n : Nat} (h : Canon M T s) : Canon M T (writePicture s x q n) := by
  unfold writePicture
  split
  exact canon_writeRows h

theorem canon_undefPicture {x : CodChan} {q : CodReq} (h : Canon M T s) : Canon M T (undefPicture s x q) :=
  canon_takeFree (canon_writeRows h)

theorem canon_putPicture {c : Nat} (h : Canon M T s) : CanonOpt M T (putPicture s c) := by
  unfold putPicture
  dsimp only
  split
  · refine canonOpt_some (canon_settleChan (canon_complete ?_))
    split
    · exact canon_semAdd (canon_setCod (canon_writePicture h))
    · exact canon_setCod (canon_writePicture h)
  · exact canonOpt_none

theorem canon_execDecPictureOut {ch : Fin 16} {late : Bool} (h : Canon M T s) :
    CanonNext M T (execDecPictureOut ch late s) := by
  unfold execDecPictureOut
  dsimp only
  split
  · have hput : CanonOpt M T (if late then none else putPicture s (32 + ch.val)) := by
      split
      · exact canonOpt_none
      · exact canon_putPicture h
    exact hput _ ‹_›
  · exact canon_notNow
  · split
    · exact canon_notNow
    · refine canon_ite ?_ ?_
      · exact canonOpt_getD (canon_putPicture (canon_setCod (canon_vaFetch h))) (canon_setCod (canon_vaFetch h))
      · exact canon_settleChan (canon_complete (canon_raise (canon_undefPicture (canon_setCod (canon_vaFetch h)))))

theorem canon_execVccChRptrWrite {c : Fin 48} {v : Word} (h : Canon M T s) : CanonNext M T (execVccChRptrWrite c v s) := by
  unfold execVccChRptrWrite
  refine canon_viaHost h (fun _ hu => ?_)
  exact canon_setCod hu

end Sys2Proof.Machine
end

section

/-!
The canonical form through groups, collectives and the shoal.
-/

namespace Sys2Proof.Machine

variable {M T : Prop} {s : State}

/-! ### Groups and collectives of the shoal -/

theorem canon_grantPool {arch : Bool} {n : Nat} (h : Canon M T s) : Canon M T (grantPool arch n s) := by
  induction n generalizing s with
  | zero =>
    rw [grantPool]
    exact h
  | succ n ih =>
    rw [grantPool]
    split
    · exact h
    · dsimp only
      split
      · split
        · exact h
        · exact canon_ite (ih (canon_sendMsg (canon_setColl (canon_beside h)))) h
      · exact ih (canon_beside h)

theorem canon_grant (h : Canon M T s) : Canon M T (grant s) := canon_grantPool (canon_grantPool h)

theorem canon_releaseColl {c : Coll} (h : Canon M T s) : Canon M T (releaseColl s c) :=
  canon_grant (canon_beside (canon_dropColl h))

theorem canon_quitColl {c : Coll} {st : Status} (h : Canon M T s) : Canon M T (quitColl s c st) :=
  canon_releaseColl (canon_beside (canon_complete (canon_logE h)))

theorem canon_endColl {c : Coll} {st : Status} (h : Canon M T s) : Canon M T (endColl s c st) :=
  canon_quitColl (canon_ite (canon_undefineBytes h) h)

theorem canon_commitColl {c : Coll} (h : Canon M T s) : Canon M T (commitColl s c) := by
  unfold commitColl
  refine canon_releaseColl (canon_beside (canon_complete ?_))
  split
  · exact canon_semAdd h
  · exact h

theorem canon_loadColl {g : Group} {c : Coll} (h : Canon M T s) : Canon M T (loadColl s g c) := by
  unfold loadColl
  refine canon_ite (canon_setColl h) (canon_ite h ?_)
  split
  · exact canon_setColl ((canon_vaFetch h).fst ‹_›)
  · exact canon_endColl ((canon_vaFetch h).fst ‹_›)

theorem canon_endEverywhere {g : Group} {c : Coll} {st : Status} (h : Canon M T s) : Canon M T (endEverywhere s g c st) :=
  canon_sendMsg (canon_endColl h)

theorem canon_giveCredit {g : Group} {c : Coll} {j peer : Nat} (h : Canon M T s) : Canon M T (giveCredit s g c j peer) := by
  unfold giveCredit
  split
  · exact canon_endEverywhere h
  · exact canon_sendMsg (canon_setColl h)

theorem canon_useCredit {c : Coll} {j k n : Nat} {u : State} (h : Canon M T s) (e : useCredit s c j k = some (n, u)) :
    Canon M T u := by
  unfold useCredit at e
  split at e
  · cases e
  · cases e
    exact canon_beside h

theorem canon_stripeStep {g : Group} {c : Coll} {j : Nat} (h : Canon M T s) : CanonOpt M T (stripeStep s g c j) := by
  unfold stripeStep
  split
  · exact canonOpt_none
  · split
    · exact canonOpt_some (canon_giveCredit h)
    · split
      · split
        · exact canonOpt_some (canon_sendMessage (canon_setColl (canon_useCredit h ‹_›)))
        · exact canonOpt_none
      · split
        · exact canonOpt_some (canon_setColl h)
        · split
          · exact canonOpt_none
          · dsimp only
            split
            · exact canonOpt_some (canon_endEverywhere h)
            · exact canonOpt_some (canon_setColl h)

theorem canon_advanceColl {gid seq n : Nat} (h : Canon M T s) : Canon M T (advanceColl gid seq n s) := by
  induction n generalizing s with
  | zero =>
    rw [advanceColl]
    exact h
  | succ n ih =>
    rw [advanceColl]
    split
    · refine canon_ite h (canon_ite ?_ ?_)
      · dsimp only
        split
        · exact canon_when (canon_loadColl h) (fun hu => ih hu)
        · exact canon_loadColl h
      · split
        · exact ih ((canonOpt_findSome (fun _ => canon_stripeStep h)) _ ‹_›)
        · exact h
    · exact h

theorem canon_advance {gid seq : Nat} (h : Canon M T s) : Canon M T (advance s gid seq) := canon_advanceColl h

theorem canon_takeCredit {gid seq rank stripe ctx : Nat} {dig : List Byte} (h : Canon M T s) :
    Canon M T (takeCredit s gid seq rank stripe ctx dig) := by
  unfold takeCredit
  split
  · exact h
  · dsimp only
    split
    · exact canon_beside h
    · exact canon_ite (canon_advance (canon_beside h)) (canon_endEverywhere h)

theorem canon_collData {from_ ctx stripe : Nat} {b : List Byte} (h : Canon M T s) :
    Canon M T (collData s from_ ctx stripe b) := by
  unfold collData
  split
  · exact h
  · split
    · exact h
    · exact canon_advance (canon_setColl h)

theorem canon_startRun {gid : Nat} (h : Canon M T s) : Canon M T (startRun s gid) := by
  unfold startRun
  split
  · exact h
  · split
    · refine canon_ite ?_ h
      exact canon_advance (canon_setColl (canon_dropStagedIn h))
    · exact h

theorem canon_partGroup {keep : Bool} {g : Group} (h : Canon M T s) : Canon M T (partGroup keep s g) :=
  canon_beside (canon_foldl h (fun _ _ hu => canon_ite (canon_quitColl hu) (canon_endColl hu)))

theorem canon_leaveGroup {g : Group} (h : Canon M T s) : Canon M T (leaveGroup s g) := canon_partGroup h

theorem canon_partGroups {keep : Bool} {d : Nat} (h : Canon M T s) : Canon M T (partGroups keep s d) :=
  canon_foldl (canon_foldl h (fun _ _ hu => canon_partGroup (canon_sendMsg hu)))
      (fun _ _ hu => canon_complete (canon_beside hu))

theorem canon_leaveGroups {d : Nat} (h : Canon M T s) : Canon M T (leaveGroups s d) := canon_partGroups h

theorem canon_leaveAllGroups (h : Canon M T s) : Canon M T (leaveAllGroups s) :=
  canon_foldl h (fun _ _ hu => canon_leaveGroups hu)

theorem canon_regroup {gid gen : Nat} {ms : List (Nat × Nat)} (h : Canon M T s) : Canon M T (regroup s gid gen ms) := by
  unfold regroup
  split
  · exact h
  · dsimp only
    split
    · exact canon_beside (canon_foldl h (fun _ _ hu => canon_endColl hu))
    · exact canon_inform (canon_beside (canon_foldl h (fun _ _ hu => canon_endColl hu)))

theorem canon_tellAll {ms : List (Nat × Nat)} {m : Msg} (h : Canon M T s) : Canon M T (tellAll s ms m) :=
  canon_foldl h (fun _ _ hu => canon_sendMsg hu)

theorem canon_endOrder {o : Order} {st : Status} (h : Canon M T s) : Canon M T (endOrder s o st) := by
  unfold endOrder
  split
  · exact canon_dropOrder h
  · exact canon_setOrder (canon_logE (canon_foldl h (fun _ _ hu => canon_sendMsg hu)))

theorem canon_ticketOrder {o : Order} (h : Canon M T s) : Canon M T (ticketOrder s o) := by
  unfold ticketOrder
  split
  · exact h
  · exact canon_tellAll (canon_setOrder h)

theorem canon_creditSwitch {a : AuthGroup} {o : Order} {n : Nat} (h : Canon M T s) : Canon M T (creditSwitch s a o n) :=
  canon_foldl (canon_setOrder h) (fun _ _ hu => canon_tellAll hu)

theorem canon_ticketSwitch {o : Order} {x : Nat} (h : Canon M T s) : Canon M T (ticketSwitch s o x) := by
  unfold ticketSwitch
  dsimp only
  split
  · exact h
  · exact canon_creditSwitch (canon_ticketOrder (canon_setOrder h))

theorem canon_issueTickets {n : Nat} (h : Canon M T s) : Canon M T (issueTickets n s) := by
  induction n generalizing s with
  | zero =>
    rw [issueTickets]
    exact h
  | succ n ih =>
    rw [issueTickets]
    split
    · exact ih (canon_ticketOrder h)
    · split
      · exact ih (canon_ticketSwitch h)
      · exact h
    · exact h

theorem canon_tickets (h : Canon M T s) : Canon M T (tickets s) := canon_issueTickets h

theorem canon_loseMember {which : AuthGroup → Bool} {lost : Nat × Nat → Bool} (h : Canon M T s) :
    Canon M T (loseMember s which lost) := by
  unfold loseMember
  refine canon_foldl h (fun _ _ hu => ?_)
  refine canon_tickets (canon_tellAll (canon_beside ?_))
  refine canon_foldl hu (fun _ _ hu => ?_)
  split
  · exact canon_dropOrder hu
  · exact canon_dropOrder (canon_endOrder hu)

theorem canon_authJoin {key : Nat} {ms : List (Nat × Nat)} {rank : Nat} (h : Canon M T s) :
    Canon M T (authJoin s key ms rank) := by
  unfold authJoin
  split
  · exact canon_ite (canon_beside h) (canon_tellAll h)
  · dsimp only
    exact canon_ite (canon_tellAll (canon_tellAll (canon_beside h)))
        (canon_ite (canon_tellAll (canon_tellAll (canon_beside h)))
        (canon_ite (canon_tellAll (canon_beside h)) (canon_beside h)))

theorem canon_flushSwitch {a : AuthGroup} {n : Nat} {x : Order} (h : Canon M T s) : Canon M T (flushSwitch a n s x) := by
  induction n generalizing s x with
  | zero =>
    rw [flushSwitch]
    exact canon_setOrder h
  | succ n ih =>
    rw [flushSwitch]
    split
    · exact canon_setOrder h
    · split
      · refine ih ?_
        split
        · exact canon_sendMessage h
        · exact h

theorem canon_switchData {from_ stream : Nat} {b : List Byte} (h : Canon M T s) :
    Canon M T (switchData s from_ stream b) := by
  unfold switchData
  split
  · exact h
  · split
    · exact h
    · split
      · exact h
      · dsimp only
        split
        · exact canon_setOrder h
        · split
          · exact canon_endOrder h
          · split
            · exact canon_flushSwitch (canon_creditSwitch h)
            · exact canon_creditSwitch h

theorem canon_switchCredit {gid seq rank ctx : Nat} (h : Canon M T s) : Canon M T (switchCredit s gid seq rank ctx) := by
  unfold switchCredit
  split
  · exact canon_flushSwitch h
  · exact h

/-! ### Remote memory, messages and links -/

theorem canon_setXfer {x : RmemXfer} (h : Canon M T s) : Canon M T (setXfer s x) := canon_beside h

theorem canon_dropXfer {x : RmemXfer} (h : Canon M T s) : Canon M T (dropXfer s x) := canon_beside h

theorem canon_setWindow {d w : Nat} {x : Option Window} (h : Canon M T s) : Canon M T (setWindow s d w x) :=
  canon_modDom h (fun _ hu => domCanon_windows hu (sparseWf_set _ _ _ _ hu.2.2.2))

theorem canon_settleWindow {d w : Nat} (h : Canon M T s) : Canon M T (settleWindow s d w) := by
  unfold settleWindow
  split
  · exact h
  · refine canon_ite ?_ h
    dsimp only
    split
    · exact canon_succeed (canon_setWindow h)
    · exact canon_setWindow h

theorem canon_endXfer {x : RmemXfer} {st : Status} (h : Canon M T s) : Canon M T (endXfer s x st) := by
  unfold endXfer
  dsimp only
  split
  · refine canon_complete ?_
    refine canon_when (canon_dropXfer (canon_ite (canon_undefineBytes h) h)) (fun hu => ?_)
    split
    · exact canon_semAdd hu
    · exact hu
  · refine canon_when (canon_dropXfer (canon_ite (canon_undefineBytes h) h)) (fun hu => ?_)
    split
    · exact canon_semAdd hu
    · exact hu

theorem canon_beginXfer {x : RmemXfer} (h : Canon M T s) : Canon M T (beginXfer s x) := by
  unfold beginXfer
  refine canon_ite h ?_
  split
  · exact canon_endXfer h
  · refine canon_ite (canon_sendMsg (canon_setXfer (canon_dropStagedIn h))) (canon_ite h ?_)
    split
    · exact canon_endXfer ((canon_vaFetch h).fst ‹_›)
    · split
      · exact canon_sendMessage (canon_sendMsg (canon_setXfer ((canon_vaFetch h).fst ‹_›)))
      · exact canon_sendMsg (canon_setXfer ((canon_vaFetch h).fst ‹_›))

theorem canon_serveXfer {x : RmemXfer} (h : Canon M T s) : Canon M T (serveXfer s x) := by
  unfold serveXfer
  refine canon_ite h ?_
  split
  · exact canon_settleWindow (canon_dropXfer (canon_sendMsg ((canon_vaFetch h).fst ‹_›)))
  · split
    · exact canon_settleWindow (canon_dropXfer (canon_sendMessage ((canon_vaFetch h).fst ‹_›)))
    · exact (canon_vaFetch h).fst ‹_›

theorem canon_rmemRequest {put : Bool} {num window gid rank off len : Nat} (h : Canon M T s) :
    Canon M T (rmemRequest s put num window gid rank off len) := by
  unfold rmemRequest
  split
  · exact h
  · dsimp only
    split
    · exact canon_sendMsg h
    · exact canon_ite (canon_sendMsg h) (canon_serveXfer (canon_beside (canon_ite (canon_dropStagedIn h) h)))

theorem canon_rmemData {from_ num : Nat} {b : List Byte} (h : Canon M T s) : Canon M T (rmemData s from_ num b) := by
  unfold rmemData
  dsimp only
  split
  · exact h
  · split
    · exact canon_ite (canon_settleWindow (canon_dropXfer (canon_sendMsg h))) (canon_endXfer h)
    · exact canon_setXfer (canon_vaWrite h)

theorem canon_doRmem {put : Bool} {src : Src} {window gid rank wait va off len target signal inc : Nat} (h : Canon M T s) :
    Canon M T (doRmem put src window gid rank wait va off len target signal inc s) := by
  unfold doRmem
  refine canon_ringCmd (fun _ _ hu => canon_ite (canon_refuse hu) (canon_ite (canon_refuse hu) ?_)) h
  split
  · exact canon_refuse hu
  · refine canon_ite (canon_refuse hu) ?_
    split
    · exact canon_refuse hu
    · exact canon_beginXfer (canon_beside hu)

theorem canon_doRmemGet {x : Src} {n n' m k n5 n6 n7 n8 n9 n10 : Nat} (h : Canon M T s) :
    Canon M T (doRmemGet x n n' m k n5 n6 n7 n8 n9 n10 s) :=
  canon_doRmem h

theorem canon_doRmemPut {x : Src} {n n' m k n5 n6 n7 n8 n9 n10 : Nat} (h : Canon M T s) :
    Canon M T (doRmemPut x n n' m k n5 n6 n7 n8 n9 n10 s) :=
  canon_doRmem h

theorem canon_doRmemExpose {src : Src} {window perm gid sem inc va len : Nat} (h : Canon M T s) :
    Canon M T (doRmemExpose src window perm gid sem inc va len s) :=
  canon_ringCmd (fun _ _ hu => canon_ite (canon_refuse hu)
      (canon_ite (canon_refuse hu) (canon_ite (canon_refuse hu) (canon_succeed (canon_setWindow hu))))) h

theorem canon_doRmemUnexpose {src : Src} {window : Nat} (h : Canon M T s) : Canon M T (doRmemUnexpose src window s) := by
  unfold doRmemUnexpose
  refine canon_ringCmd (fun _ _ hu => ?_) h
  split
  · exact canon_refuse hu
  · exact canon_ite (canon_refuse hu) (canon_settleWindow (canon_setWindow hu))

theorem canon_shutWindows {d : Nat} (h : Canon M T s) : Canon M T (shutWindows s d) := by
  unfold shutWindows
  refine canon_foldl h (fun _ _ hu => ?_)
  split
  · exact canon_settleWindow (canon_setWindow hu)
  · exact hu

theorem canon_endXfersOf {d : Nat} {tell : Bool} (h : Canon M T s) : Canon M T (endXfersOf s d tell) :=
  canon_foldl h (fun _ _ hu => canon_ite (canon_dropXfer (canon_sendMsg hu))
      (canon_ite (canon_endXfer hu) (canon_dropXfer hu)))

theorem canon_execRmemTransferDone {num : BitVec 16} {owner : Bool} (h : Canon M T s) :
    CanonNext M T (execRmemTransferDone num owner s) := by
  unfold execRmemTransferDone
  split
  · exact canon_notNow
  · split
    · refine canon_settleWindow (canon_dropXfer (canon_sendMsg ?_))
      split
      · exact canon_semAdd h
      · exact h
    · exact canon_endXfer h

theorem canon_execRmemTimeout {num : BitVec 16} (h : Canon M T s) : CanonNext M T (execRmemTimeout num s) := by
  unfold execRmemTimeout
  split
  · exact canon_notNow
  · dsimp only
    split
    · split
      · exact canon_endXfer h
      · exact canon_notNow
    · split
      · exact canon_endXfer h
      · exact canon_notNow

theorem canon_joinDone {key : Nat} {r : Except Status (Nat × Nat)} (h : Canon M T s) : Canon M T (joinDone s key r) := by
  unfold joinDone
  refine canon_foldl h (fun _ _ hu => ?_)
  dsimp only
  split
  · exact canon_complete (canon_logE (canon_beside hu))
  · split
    · exact canon_beside hu
    · exact canon_complete (canon_beside hu)

theorem canon_collEnded {gid seq : Nat} {st : Status} (h : Canon M T s) : Canon M T (collEnded s gid seq st) := by
  unfold collEnded
  split
  · exact canon_tickets (canon_endOrder h)
  · split
    · exact canon_endColl h
    · exact canon_ite (canon_beside h) h
    · exact h

theorem canon_ctlDeliver {b : List Byte} (h : Canon M T s) : Canon M T (ctlDeliver s b) := by
  unfold ctlDeliver
  split
  · exact canon_joinDone h
  · exact canon_joinDone h
  · exact canon_collEnded h
  · exact canon_regroup h
  · exact canon_authJoin h
  · exact canon_loseMember h
  · exact canon_rmemRequest h
  · split
    · exact h
    · exact canon_ite (canon_setXfer h) (canon_endXfer h)
  · exact canon_ite (canon_switchCredit h) (canon_takeCredit h)
  · exact h

theorem canon_deliverMessage {p vc stream : Nat} {b : List Byte} (h : Canon M T s) :
    Canon M T (deliverMessage s p vc stream b) :=
  canon_ite (canon_ite (canon_switchData h) (canon_collData h)) (canon_ite (canon_rmemData h) (canon_ctlDeliver h))

theorem canon_acceptFlit {p : Nat} {f : List Byte} (h : Canon M T s) : Canon M T (acceptFlit s p f) := by
  unfold acceptFlit
  dsimp only
  split
  · exact canon_sendCtl (canon_setPort (canon_beside h))
  · exact canon_ite (canon_deliverMessage (canon_sendCtl (canon_setPort (canon_beside h))))
        (canon_sendCtl (canon_setPort (canon_beside h)))

theorem canon_flitControl {p : Nat} {f : List Byte} (h : Canon M T s) : Canon M T (flitControl s p f) :=
  canon_ite (canon_ite (canon_linkDown (canon_setPort h))
      (canon_pump (canon_foldl (canon_setPort h) (fun _ _ hu => canon_sendRaw hu)))) (canon_pump (canon_setPort h))

theorem canon_recvFlit {name : String} {type : Nat} {p : Fin 18} {flit : BitVec 2048} {corrected : Nat} {bad : Bool}
    (h : Canon M T s) :
    CanonNext M T (recvFlit name type p flit corrected bad s) := by
  unfold recvFlit
  dsimp only
  split
  · exact canon_notNow
  · split
    · exact canon_sendCtl (canon_setPort h)
    · split
      · exact canon_flitControl (canon_setPort h)
      · split
        · exact canon_acceptFlit (canon_wakeS2 (canon_flitControl (canon_setPort h)))
        · split <;> exact canon_sendCtl (canon_wakeS2 (canon_flitControl (canon_setPort h)))

theorem canon_execPayloadFlit {p : Fin 18} {flit : BitVec 2048} {corrected : BitVec 8} {bad : Bool} (h : Canon M T s) :
    CanonNext M T (execPayloadFlit p flit corrected bad s) :=
  canon_recvFlit h

theorem canon_execLinkCtrlFlit {p : Fin 18} {flit : BitVec 2048} {corrected : BitVec 8} {bad : Bool} (h : Canon M T s) :
    CanonNext M T (execLinkCtrlFlit p flit corrected bad s) :=
  canon_recvFlit h

theorem canon_execIdleFlit {p : Fin 18} {flit : BitVec 2048} {corrected : BitVec 8} {bad : Bool} (h : Canon M T s) :
    CanonNext M T (execIdleFlit p flit corrected bad s) :=
  canon_recvFlit h

theorem canon_execPortTrained {p : Fin 18} {half : Bool} {id : BitVec 10} {role : BitVec 4} (h : Canon M T s) :
    CanonNext M T (execPortTrained p half id role s) := by
  unfold execPortTrained
  dsimp only
  split
  · exact canon_portTrained h
  · exact canon_notNow

theorem canon_execLinkDown {p : Fin 18} (h : Canon M T s) : CanonNext M T (execLinkDown p s) := by
  unfold execLinkDown
  split
  · exact canon_linkDown h
  · exact canon_notNow

theorem canon_execPortRetrain {p : Fin 18} (h : Canon M T s) : CanonNext M T (execPortRetrain p s) :=
  canon_viaHost h (fun _ hu => canon_ite hu (canon_setPort hu))

theorem canon_execCbl3v3Short {p : Fin 18} (h : Canon M T s) : CanonNext M T (execCbl3v3Short p s) :=
  canon_setPort (canon_ite (canon_linkDown h) h)

theorem canon_doGroupJoin {src : Src} {key list count : Nat} (h : Canon M T s) :
    Canon M T (doGroupJoin src key list count s) := by
  unfold doGroupJoin
  refine canon_ringCmd (fun _ _ hu => canon_ite (canon_refuse hu) (canon_ite (canon_refuse hu) ?_)) h
  split
  · exact canon_refuse ((canon_vaFetch hu).fst ‹_›)
  · split
    · exact canon_refuse ((canon_vaFetch hu).fst ‹_›)
    · refine canon_ite (canon_refuse ((canon_vaFetch hu).fst ‹_›)) ?_
      split
      · exact canon_refuse ((canon_vaFetch hu).fst ‹_›)
      · exact canon_sendMsg (canon_beside ((canon_vaFetch hu).fst ‹_›))

theorem canon_execJoinTimeout {key : BitVec 64} (h : Canon M T s) : CanonNext M T (execJoinTimeout key s) := by
  unfold execJoinTimeout
  dsimp only
  split
  · exact canon_tellAll (canon_beside h)
  · split
    · exact canon_joinDone h
    · exact canon_notNow

theorem canon_doGroupLeave {src : Src} {gid : Nat} (h : Canon M T s) : Canon M T (doGroupLeave src gid s) := by
  unfold doGroupLeave
  refine canon_ringCmd (fun _ _ hu => ?_) h
  split
  · exact canon_refuse hu
  · exact canon_succeed (canon_leaveGroup (canon_sendMsg hu))

/-- The counts of a collective, where it has some, are read through the ECC. -/
theorem canon_countsRead {c : Prop} [Decidable c] {d va n : Nat} {u : State} {r : Except Status (List Byte)} (h : Canon M T s)
    (e : (if c then vaFetch s d va n else (s, .ok [])) = (u, r)) : Canon M T u := by
  split at e
  · exact (canon_vaFetch h).fst e
  · cases e
    exact h

theorem canon_doColl {src : Src} {flags wait signal : Nat} {o : CollOp} (h : Canon M T s) :
    Canon M T (doColl src flags wait signal o s) := by
  refine canon_ringCmd (fun d u hu => ?_) h
  refine canon_ite (canon_refuse hu) ?_
  split
  · exact canon_refuse hu
  · refine canon_ite (canon_refuse hu) (canon_ite (canon_refuse hu) (canon_ite (canon_refuse hu) (canon_ite (canon_refuse hu)
      (canon_ite (canon_refuse hu) ?_))))
    dsimp only
    split
    · exact canon_refuse (canon_countsRead hu ‹_›)
    · have hread := canon_countsRead hu ‹_›
      refine canon_ite (canon_refuse hread) (canon_ite (canon_refuse hread) (canon_ite (canon_refuse hread)
        (canon_ite (canon_refuse hread) (canon_ite (canon_complete (canon_beside hread)) (canon_beside hread)))))

theorem canon_execCollWaitMet {gid : BitVec 16} {seq : BitVec 32} (h : Canon M T s) :
    CanonNext M T (execCollWaitMet gid seq s) := by
  unfold execCollWaitMet
  split
  · split
    · exact canon_notNow
    · split
      · exact canon_startRun (canon_setColl h)
      · split
        · exact canon_endColl h
        · exact canon_sendMsg (canon_setColl h)
  · exact canon_notNow

theorem canon_execCollReserve {gid : BitVec 16} {seq : BitVec 32} (h : Canon M T s) :
    CanonNext M T (execCollReserve gid seq s) := by
  unfold execCollReserve
  split
  · split
    · exact canon_grant (canon_beside h)
    · exact canon_notNow
  · exact canon_notNow

theorem canon_execCollTicket {gid : BitVec 16} {seq : BitVec 32} {counts : List (BitVec 32)} (h : Canon M T s) :
    CanonNext M T (execCollTicket gid seq counts s) := by
  unfold execCollTicket
  split
  · split
    · exact canon_advance (canon_setColl (canon_dropStagedIn (canon_beside h)))
    · exact canon_notNow
  · exact canon_notNow

theorem canon_execCollWritesDone {gid : BitVec 16} {seq : BitVec 32} (h : Canon M T s) :
    CanonNext M T (execCollWritesDone gid seq s) := by
  unfold execCollWritesDone
  split
  · split
    · dsimp only
      split
      · exact canon_sendMsg (canon_endColl h)
      · exact canon_sendMsg (canon_setColl (canon_vaWrite h))
    · exact canon_notNow
  · exact canon_notNow

theorem canon_execCollCommit {gid : BitVec 16} {seq : BitVec 32} (h : Canon M T s) :
    CanonNext M T (execCollCommit gid seq s) := by
  unfold execCollCommit
  split
  · split
    · exact canon_startRun (canon_commitColl (canon_foldl h (fun _ _ hu => canon_sendMsg hu)))
    · exact canon_notNow
  · exact canon_notNow

theorem canon_execHeadlessCommitTimeout {gid : BitVec 16} {seq : BitVec 32} (h : Canon M T s) :
    CanonNext M T (execHeadlessCommitTimeout gid seq s) := by
  unfold execHeadlessCommitTimeout
  split
  · split
    · exact canon_endColl h
    · exact canon_notNow
  · exact canon_notNow

theorem canon_endDiffering {o : Order} {st : Status} {dig : Request → List Byte} (h : Canon M T s) :
    Canon M T (endDiffering s o st dig) :=
  canon_tickets (canon_endOrder (canon_raise (canon_foldl h (fun _ _ hu => canon_logE hu))))

theorem canon_takeRequest {a : AuthGroup} {o : Order} {r : Request} (h : Canon M T s) : Canon M T (takeRequest s a o r) :=
  canon_ite (canon_endDiffering (canon_setOrder h)) (canon_ite (canon_endDiffering (canon_setOrder h))
      (canon_when (canon_setOrder h) (fun hu => canon_tellAll (canon_beside (canon_setOrder hu)))))

theorem canon_execCollRequest {gid : BitVec 16} {gen seq : BitVec 32} {rank : BitVec 8} {gdig odig : BitVec 256}
    {run : BitVec 16} {count : BitVec 32} {how : BitVec 8} (h : Canon M T s) :
    CanonNext M T (execCollRequest gid gen seq rank gdig odig run count how s) := by
  unfold execCollRequest
  split
  · exact canon_notNow
  · dsimp only
    split
    · exact canon_notNow
    · split
      · exact canon_sendMsg h
      · split
        · exact canon_takeRequest (canon_beside h)
        · split
          · exact canon_sendMsg h
          · split
            · exact canon_notNow
            · exact canon_takeRequest h
          · exact canon_notNow
          · exact canon_notNow

theorem canon_execCollReserved {gid : BitVec 16} {seq : BitVec 32} {rank : BitVec 8} (h : Canon M T s) :
    CanonNext M T (execCollReserved gid seq rank s) := by
  unfold execCollReserved
  split
  · exact canon_notNow
  · split
    · exact canon_tickets (canon_setOrder h)
    · exact canon_notNow

theorem canon_execCollDone {gid : BitVec 16} {seq : BitVec 32} {rank : BitVec 8} (h : Canon M T s) :
    CanonNext M T (execCollDone gid seq rank s) := by
  unfold execCollDone
  split
  · exact canon_notNow
  · dsimp only
    split
    · exact canon_notNow
    · split
      · split
        · refine canon_setOrder ?_
          split
          · exact h
          · exact canon_ite (canon_beside h) h
        · refine canon_tickets (canon_tellAll (canon_beside (canon_setOrder ?_)))
          split
          · exact h
          · exact canon_ite (canon_beside h) h
      · exact canon_notNow

theorem canon_execTicketTimeout {gid : BitVec 16} {seq : BitVec 32} (h : Canon M T s) :
    CanonNext M T (execTicketTimeout gid seq s) := by
  unfold execTicketTimeout
  split
  · exact canon_notNow
  · split
    · exact canon_tickets (canon_endOrder h)
    · exact canon_notNow

theorem canon_execMemberUnreachable {module : BitVec 10} (h : Canon M T s) :
    CanonNext M T (execMemberUnreachable module s) := by
  unfold execMemberUnreachable
  dsimp only
  split
  · exact canon_notNow
  · split
    · exact canon_loseMember h
    · exact canon_notNow

theorem canon_execManagerLost (h : Canon M T s) : CanonNext M T (execManagerLost s) := by
  unfold execManagerLost
  split
  · exact canon_notNow
  · split
    · exact canon_foldl (canon_foldl (canon_raise (canon_logE (canon_beside h))) (fun _ _ hu => canon_joinDone hu))
          (fun _ _ hu => canon_endColl hu)
    · exact canon_notNow

theorem canon_execTimeBeacon {time : BitVec 64} {rtt : BitVec 32} (h : Canon M T s) :
    CanonNext M T (execTimeBeacon time rtt s) := by
  unfold execTimeBeacon
  split
  · exact canon_notNow
  · exact canon_timeBeacon h

theorem canon_execTimeBeaconSend (h : Canon M T s) : CanonNext M T (execTimeBeaconSend s) := by
  unfold execTimeBeaconSend
  split
  · exact canon_foldl (canon_beside h) (fun _ _ hu => canon_sendMsg hu)
  · exact canon_notNow

theorem canon_execShoalPulse (h : Canon M T s) : CanonNext M T (execShoalPulse s) := by
  unfold execShoalPulse
  dsimp only
  split
  · exact canon_beside h
  · exact canon_notNow

theorem canon_netTick (h : Canon M T s) : Canon M T (netTick s) :=
  canon_foldl (canon_foldl (canon_foldl h (fun _ _ hu => canon_ite (canon_serveXfer hu) (canon_beginXfer hu)))
      (fun _ _ hu => canon_startRun hu)) (fun _ _ hu => canon_ite (canon_advance hu) hu)

end Sys2Proof.Machine
end

section

/-!
The canonical form through domains, events, the structure image and the rings (R456).
-/

namespace Sys2Proof.Machine

variable {M T : Prop} {s : State}

/-! ### BIND to UNBIND and the patrol scrub -/

theorem canon_endTasksOf {d : Nat} (h : Canon M T s) : Canon M T (endTasksOf s d) := by
  unfold endTasksOf
  dsimp only
  split
  · exact canon_modDom (canon_foldl (canon_fenceBetween h) (fun _ _ hu => canon_removeTask hu)) (fun _ hx => hx)
  · refine canon_foldl ?_ (fun _ _ hu => ?_)
    · refine canon_foldl (canon_modDom (canon_foldl (canon_fenceBetween h) (fun _ _ hv => canon_removeTask hv))
          (fun _ hx => hx)) (fun _ _ hv => ?_)
      exact canon_sems hv (fun hT => sparseWf_clear _ _ _ _ (hv.tabs hT).sems)
    · exact canon_bars hu (fun hT => sparseWf_clear _ _ _ _ (hu.tabs hT).bars)

theorem canon_stopDomain {d : Nat} (h : Canon M T s) : Canon M T (stopDomain s d) := by
  unfold stopDomain
  dsimp only
  exact canon_modDom (canon_partGroups (canon_endXfersOf (canon_dropChansOf (canon_endTasksOf h))))
      (fun _ hu => domCanon_windows hu rfl)

theorem canon_refuseWaiting {d : Nat} (h : Canon M T s) : Canon M T (refuseWaiting s d) :=
  canon_foldl (canon_modDom h (fun _ hx => hx)) (fun _ _ hu => canon_complete hu)

theorem canon_faultDomain {d : Nat} {cause : Status} (h : Canon M T s) : Canon M T (faultDomain s d cause) := by
  unfold faultDomain
  refine canon_ite h ?_
  dsimp only
  exact canon_raise (canon_logE (canon_modDom (canon_refuseWaiting (canon_stopDomain h)) (fun _ hx => hx)))

theorem canon_forgetDomain {d : Nat} (h : Canon M T s) : Canon M T (forgetDomain s d) :=
  canon_of_tables (canon_mapIslands (f := fun i => { i with xlat := i.xlat.filter (fun e => e.1 / 2 ^ 32 != d) })
    h (fun _ hx => hx)) rfl

theorem canon_emptyDomain {d : Nat} (h : Canon M T s) : Canon M T (emptyDomain s d) := by
  unfold emptyDomain
  refine canon_setDom ?_ (fun _ => domCanon_default)
  refine canon_foldl ?_ (fun _ _ hu => ?_)
  · refine canon_foldl (canon_mapIslands (canon_forgetDomain h) (fun _ hx => hx)) (fun _ _ hv => ?_)
    exact canon_sems hv (fun hT => sparseWf_clear _ _ _ _ (hv.tabs hT).sems)
  · exact canon_bars hu (fun hT => sparseWf_clear _ _ _ _ (hu.tabs hT).bars)

theorem canon_zeroDomain {d : Nat} (h : Canon M T s) : Canon M T (zeroDomain s d) :=
  canon_foldl (canon_foldl h (fun _ _ hu => canon_dramZero hu)) (fun _ _ hu => canon_dramZero hu)

theorem canon_bindNow {src : Src} {d : Nat} (h : Canon M T s) : Canon M T (bindNow src d s) := by
  unfold bindNow
  refine canon_ite (canon_complete (canon_modDom h (fun _ hx => hx))) ?_
  split
  · exact canon_refuse h
  · exact canon_complete (canon_modDom ((canon_ensureStruct h) _ ‹_›) (fun _ hx => hx))

theorem canon_doBind {src : Src} (h : Canon M T s) : Canon M T (doBind src s) := by
  unfold doBind
  split
  · exact canon_refuse h
  · exact canon_ite (canon_refuseState h) (canon_ite (canon_modDom h (fun _ hx => hx)) (canon_bindNow h))

theorem canon_doArm {src : Src} (h : Canon M T s) : Canon M T (doArm src s) := by
  unfold doArm
  refine canon_ringCmd (fun _ _ hu => ?_) h
  exact canon_ite (canon_succeed (canon_modDom hu (fun _ hx => hx))) (canon_modDom hu (fun _ hx => hx))

theorem canon_execArmComplete {dom : Fin 16} (h : Canon M T s) : CanonNext M T (execArmComplete dom s) := by
  unfold execArmComplete
  dsimp only
  split
  · exact canon_notNow
  · exact canon_foldl (canon_modDom (canon_foldl h (fun _ _ hu => canon_storeEverywhere hu)) (fun _ hx => hx))
        (fun _ _ hu => canon_succeed hu)

theorem canon_doStart {src : Src} (h : Canon M T s) : Canon M T (doStart src s) := by
  unfold doStart
  refine canon_ringCmd (fun _ _ hu => ?_) h
  exact canon_succeed (canon_modDom hu (fun _ hx => hx))

theorem canon_doDrain {src : Src} (h : Canon M T s) : Canon M T (doDrain src s) := by
  unfold doDrain
  refine canon_ringCmd (fun _ _ hu => ?_) h
  exact canon_settleChansOf (canon_shutWindows (canon_leaveGroups (canon_modDom hu (fun _ hx => hx))))

theorem canon_execDrainQuiesced {dom : Fin 16} (h : Canon M T s) : CanonNext M T (execDrainQuiesced dom s) := by
  unfold execDrainQuiesced
  dsimp only
  split
  · split
    · exact canon_complete (canon_modDom h (fun _ hx => hx))
    · exact canon_modDom h (fun _ hx => hx)
  · exact canon_notNow

theorem canon_doResume {src : Src} (h : Canon M T s) : Canon M T (doResume src s) := by
  unfold doResume
  refine canon_ringCmd (fun _ _ hu => ?_) h
  refine canon_succeed ?_
  split
  · exact canon_complete (canon_modDom hu (fun _ hx => hx))
  · exact canon_modDom hu (fun _ hx => hx)

theorem canon_doUnbind {src : Src} (h : Canon M T s) : Canon M T (doUnbind src s) := by
  unfold doUnbind
  refine canon_ringCmd (fun _ _ hu => ?_) h
  exact canon_succeed (canon_emptyDomain (canon_foldl (canon_modDom hu (fun _ hx => hx)) (fun _ _ hu => canon_succeed hu)))

theorem canon_releaseBinds {d : Nat} (h : Canon M T s) : Canon M T (releaseBinds s d) :=
  canon_ite h (canon_foldl (canon_modDom h (fun _ hx => hx)) (fun _ _ hu => canon_ite (canon_bindNow hu) (canon_complete hu)))

theorem canon_execZeroisationDone {dom : Fin 16} (h : Canon M T s) : CanonNext M T (execZeroisationDone dom s) := by
  unfold execZeroisationDone
  dsimp only
  split
  · exact canon_ite (canon_raise (canon_modDom (canon_zeroDomain h) (fun _ hx => hx)))
        (canon_foldl (canon_beside (canon_raise (canon_modDom (canon_zeroDomain h) (fun _ hx => hx))))
        (fun _ _ hu => canon_releaseBinds hu))
  · exact canon_notNow

theorem canon_execPatrolScrub {v : Fin 256} (h : Canon M T s) : CanonNext M T (execPatrolScrub v s) := by
  unfold execPatrolScrub
  dsimp only
  split
  · refine canon_when (canon_touchBeat (canon_modVault h)) (fun hu => ?_)
    split
    · exact canon_faultDomain hu
    · exact hu
  · exact canon_notNow

/-! ### The event controller and the log -/

theorem canon_setPend {n : Nat} {v : Word} (h : Canon M T s) : Canon M T (setPend n v s) :=
  canon_evRefresh (canon_evc h (fun hT => evcCanon_pend (h.evc hT) (sparseWf_set _ _ _ _ (h.tabs hT).pend)))

theorem canon_setMask {n : Nat} {v : Word} (h : Canon M T s) : Canon M T (setMask n v s) :=
  canon_evRefresh (canon_evc h (fun hT => ⟨(h.tabs hT).pend, sparseWf_set _ _ _ _ (h.tabs hT).mask, (h.tabs hT).prio,
      (h.tabs hT).route, (h.tabs hT).targets⟩))

theorem canon_evWrite {agent : Nat} {mask : Bool} {n : Nat} {v : Word} (h : Canon M T s) :
    Canon M T (evWrite agent mask n v s) :=
  canon_ite (canon_evcBeside h) (canon_ite (canon_setMask h) (canon_setPend h))

theorem canon_maskWord {n : Nat} {v : Word} (h : Canon M T s) : Canon M T (maskWord n v s) := canon_evWrite h

theorem canon_releaseHold (h : Canon M T s) : Canon M T (releaseHold s) := by
  unfold releaseHold
  split
  · exact h
  · exact canon_foldl (canon_setPend (canon_evcBeside h)) (fun _ _ hu => canon_ite (canon_setMask hu) (canon_setPend hu))

theorem canon_lapseHold (h : Canon M T s) : Canon M T (lapseHold s) := by
  unfold lapseHold
  refine canon_ite ?_ h
  exact canon_evcBeside (canon_releaseHold h)

theorem canon_byAgent {agent : Nat} {k : State → State} (h : Canon M T s)
    (hk : ∀ (u : State), Canon M T u → Canon M T (k u)) :
    Canon M T (byAgent agent s k) :=
  canon_ite (canon_viaHost h (fun _ hu => hk _ hu)) (hk _ h)

theorem canon_execEvcPendWrite {agent : Fin 9} {n : Fin 32} {v : Word} (h : Canon M T s) :
    CanonNext M T (execEvcPendWrite agent n v s) :=
  canon_byAgent h (fun _ hu => canon_evWrite (canon_lapseHold hu))

theorem canon_execEvcMaskWrite {agent : Fin 9} {n : Fin 32} {v : Word} (h : Canon M T s) :
    CanonNext M T (execEvcMaskWrite agent n v s) :=
  canon_byAgent h (fun _ hu => canon_evWrite (canon_lapseHold hu))

theorem canon_execEvcHold {agent : Fin 9} {v : Word} (h : Canon M T s) : CanonNext M T (execEvcHold agent v s) := by
  unfold execEvcHold
  refine canon_byAgent h (fun _ hu => ?_)
  have hv := canon_lapseHold hu
  dsimp only
  split
  · exact canon_ite (canon_evcBeside hv) (canon_ite (canon_evcBeside (canon_releaseHold (canon_evcBeside hv)))
      (canon_evcBeside (canon_releaseHold (canon_evcBeside hv))))
  · exact canon_ite hv (canon_ite (canon_evcBeside (canon_releaseHold hv)) (canon_evcBeside (canon_releaseHold hv)))

theorem canon_execEvcHoldExpiry (h : Canon M T s) : CanonNext M T (execEvcHoldExpiry s) := by
  unfold execEvcHoldExpiry
  split
  · exact canon_lapseHold h
  · exact canon_notNow

theorem canon_execEvcClaim {agent : Fin 9} {t : Fin 72} (h : Canon M T s) : CanonNext M T (execEvcClaim agent t s) := by
  refine canon_byAgent h (fun u hu => ?_)
  dsimp only
  have hlate : ∀ c : Prop, [Decidable c] → Canon M T (if c then u else takeFree u) := fun c _ => by
    split
    · exact hu
    · exact canon_takeFree hu
  split
  · exact canon_beside (hlate _)
  · refine canon_evRefresh (canon_of_tables (canon_evc (hlate _) (fun hT => ?_)) rfl)
    exact evcCanon_beside (evcCanon_targets (evcCanon_pend ((hlate _).evc hT) (sparseWf_set _ _ _ _ ((hlate _).evc hT).pend))
      (sparseWf_set _ _ _ _ ((hlate _).evc hT).targets))

theorem canon_execEvcDone {agent : Fin 9} {t : Fin 72} {src : BitVec 10} (h : Canon M T s) :
    CanonNext M T (execEvcDone agent t src s) := by
  unfold execEvcDone
  refine canon_byAgent h (fun _ hu => ?_)
  dsimp only
  split
  · exact canon_evRefresh (canon_evc hu (fun hT => evcCanon_targets (hu.evc hT) (sparseWf_set _ _ _ _ (hu.tabs hT).targets)))
  · exact canon_ite (canon_evRefresh (canon_evc hu (fun hT => evcCanon_targets (hu.evc hT)
        (sparseWf_set _ _ _ _ (hu.tabs hT).targets)))) (canon_evRefresh
        (canon_evc hu (fun hT => evcCanon_targets (hu.evc hT) (sparseWf_set _ _ _ _ (hu.tabs hT).targets))))

theorem canon_reclaim {t : Nat} (h : Canon M T s) : Canon M T (reclaim t s) :=
  canon_foldl (canon_evc h (fun hT => evcCanon_targets (h.evc hT) (sparseWf_set _ _ _ _ (h.tabs hT).targets)))
      (fun _ _ hu => canon_raise hu)

theorem canon_execEvcSync {agent : Fin 9} (h : Canon M T s) : CanonNext M T (execEvcSync agent s) := by
  unfold execEvcSync
  split
  · refine canon_byAgent h (fun _ hu => ?_)
    exact canon_beside (canon_evcBeside hu)
  · exact canon_notNow

theorem canon_execEvcPrioWrite {agent : Fin 9} {n : Fin 128} {v : Word} (h : Canon M T s) :
    CanonNext M T (execEvcPrioWrite agent n v s) := by
  unfold execEvcPrioWrite
  refine canon_byAgent h (fun _ hu => ?_)
  exact canon_evRefresh (canon_evc hu (fun hT => evcCanon_prio (hu.evc hT) (foldl_set_wf _ _ _ _ _ (hu.tabs hT).prio)))

theorem canon_execEvcRouteWrite {agent : Fin 9} {n : Fin 256} {v : Word} (h : Canon M T s) :
    CanonNext M T (execEvcRouteWrite agent n v s) := by
  unfold execEvcRouteWrite
  refine canon_byAgent h (fun _ hu => ?_)
  exact canon_evRefresh (canon_evc hu (fun hT => evcCanon_route (hu.evc hT) (foldl_set_wf _ _ _ _ _ (hu.tabs hT).route)))

theorem canon_execEvcThreshWrite {agent : Fin 9} {t : Fin 72} {v : Word} (h : Canon M T s) :
    CanonNext M T (execEvcThreshWrite agent t v s) := by
  unfold execEvcThreshWrite
  refine canon_byAgent h (fun _ hu => ?_)
  exact canon_evRefresh (canon_evc hu (fun hT => evcCanon_targets (hu.evc hT) (sparseWf_mod _ _ _ _ (hu.tabs hT).targets)))

theorem canon_smbReply {b : List Byte} (h : Canon M T s) : Canon M T (smbReply s b) := canon_beside h

theorem canon_execLogStatus (h : Canon M T s) : CanonNext M T (execLogStatus s) := canon_smbReply h

theorem canon_execLogEntry {slot : BitVec 16} (h : Canon M T s) : CanonNext M T (execLogEntry slot s) := canon_smbReply h

/-! ### Measurement registers -/

theorem canon_extendMr {m kind core version : Nat} {d : List Byte} (h : Canon M T s) :
    Canon M T (extendMr m kind core version d s) :=
  canon_ite (canon_beside h) (canon_raise (canon_beside h))

theorem canon_openDebug {g : DebugRec} (h : Canon M T s) : Canon M T (openDebug g s) :=
  canon_raise (canon_beside (canon_extendMr h))

theorem canon_closeDebug (h : Canon M T s) : Canon M T (closeDebug s) := canon_raise (canon_beside (canon_extendMr h))

theorem canon_coldSec {idOk : Bool} (h : Canon M T s) : Canon M T (coldSec s idOk) := canon_extendMr (canon_beside h)

/-! ### The structure image and its epochs -/

theorem canon_imgPhase {n : Nat} (h : Canon M T s) : Canon M T (imgPhase n s) :=
  canon_ite (canon_raise (canon_beside h)) (canon_beside h)

theorem canon_refuseImage {st : Status} (h : Canon M T s) : Canon M T (refuseImage st s) := by
  unfold refuseImage
  dsimp only
  exact canon_imgPhase (canon_when (canon_logE (canon_beside h)) (fun hu => canon_raise hu))

theorem canon_stageImage (h : Canon M T s) : Canon M T (stageImage s) := by
  unfold stageImage
  refine canon_ite (canon_beside h) (canon_ite (canon_refuseImage h) ?_)
  split
  · exact canon_refuseImage h
  · exact canon_imgPhase (canon_beside h)

theorem canon_setDrain {n : Nat} (h : Canon M T s) : Canon M T (setDrain n s) := canon_beside h

theorem canon_execImgStage {drainBe : BitVec 10} (h : Canon M T s) : CanonNext M T (execImgStage drainBe s) :=
  canon_viaHost h (fun _ hu => canon_stageImage (canon_setDrain hu))

theorem canon_applyEvent {b : List Byte} (h : Canon M T s) : Canon M T (applyEvent b s) := by
  refine canon_evRefresh (canon_foldl (canon_evcSettings h (fun hT => ?_) (fun hT => ?_) (fun hT => ?_))
    (fun _ _ h => canon_maskWord h))
  · exact foldl_set_wf 0 (fun n => n) (bodyPrio b) _ _ (h.tabs hT).prio
  · exact foldl_set_wf 0 (fun n => n) (fun n => leAt b (0x210 + n) 1) _ _ (h.tabs hT).route
  · exact List.foldlRecOn (motive := fun m : Sparse EvTarget => sparseWf {} m = true) _ _ (h.tabs hT).targets
      (fun m hm _ _ => sparseWf_mod {} m _ _ hm)

theorem canon_applyPower (h : Canon M T s) : Canon M T (applyPower s) := by
  refine canon_foldl h (fun s i h => ?_)
  dsimp only
  split
  · exact h
  · exact canon_setIsland h (fun hT => padCanon_islandAt h hT i)

theorem canon_applyLink {new : LinkRec} (h : Canon M T s) : Canon M T (applyLink new s) :=
  canon_settleRole (canon_retrainPorts (canon_beside (canon_ite h (canon_leaveAllGroups h))))

theorem canon_applyDebug {old new : Option DebugRec} (h : Canon M T s) : Canon M T (applyDebug old new s) := by
  unfold applyDebug
  refine canon_ite h ?_
  dsimp only
  split
  · exact canon_openDebug (canon_ite (canon_closeDebug h) h)
  · exact canon_ite (canon_closeDebug h) h

theorem canon_nextCore {g : GroupState} (h : Canon M T s) : Canon M T (nextCore s g) := by
  unfold nextCore
  split <;> exact canon_beside h

theorem canon_loadCore {c : Nat} {fw : Nat × List Byte} (h : Canon M T s) : Canon M T (loadCore c fw s) :=
  canon_reclaim (canon_beside h)

theorem canon_trimLagoon {t : Conf} (h : Canon M T s) : Canon M T (trimLagoon s t) := canon_beside h

theorem canon_beginGroup {full : Bool} (h : Canon M T s) : Canon M T (beginGroup full s) := by
  unfold beginGroup
  split
  · exact h
  · refine canon_prepareTick (canon_trimLagoon (canon_imgPhase (canon_beside ?_)))
    refine canon_foldl h (fun _ _ hu => ?_)
    exact canon_modIsland hu (fun _ hx => hx)

theorem canon_replaceStructs {d : Nat} (h : Canon M T s) : Canon M T (replaceStructs s d) := by
  unfold replaceStructs
  refine canon_foldl (canon_modDom h (fun _ hx => hx)) (fun _ _ hu => ?_)
  split
  · exact (canon_allocStruct hu) _ ‹_›
  · exact hu

theorem canon_changeMode {d : Nat} (h : Canon M T s) : Canon M T (changeMode s d) :=
  canon_replaceStructs (canon_modDom (canon_forgetDomain h) (fun _ hu => domCanon_pages hu rfl))

theorem canon_commitMemory {old : Conf} (h : Canon M T s) : Canon M T (commitMemory old s) := by
  unfold commitMemory
  refine canon_foldl h (fun _ _ hu => ?_)
  exact canon_ite (canon_changeMode hu) (canon_ite (canon_replaceStructs hu) hu)

theorem canon_dropFenced (h : Canon M T s) : Canon M T (dropFenced s).1 := by
  unfold dropFenced
  refine canon_foldl_fst h (fun _ _ hu => ?_)
  exact canon_foldl (canon_beside hu) (fun _ _ hu => canon_bundleLanded hu)

theorem canon_measureCommit {old : Conf} {grp : List Seg} {cores : List Nat} {version : Nat} (h : Canon M T s) :
    Canon M T (measureCommit old grp cores version s) :=
  canon_extendMr (canon_foldl (canon_foldl h (fun _ _ hu => canon_extendMr hu)) (fun _ _ hu => canon_extendMr hu))

theorem canon_recordCommit {epoch : Nat} {after : List Seg} (h : Canon M T s) : Canon M T (recordCommit epoch after s) :=
  canon_beside h

theorem canon_setEpochs {e : Nat} (h : Canon M T s) : Canon M T (setEpochs e s) := by
  unfold setEpochs
  refine canon_foldl h (fun _ _ hu => ?_)
  exact canon_modIsland hu (fun _ hx => hx)

theorem canon_settleBank {i : Nat} (h : Canon M T s) : Canon M T (settleBank s i) := by
  unfold settleBank
  refine canon_modIsland h (fun _ hu => ?_)
  dsimp only
  split
  · exact hu
  · split <;> exact hu

theorem canon_restoreBank {i : Nat} (h : Canon M T s) : Canon M T (restoreBank s i) := canon_modIsland h (fun _ hx => hx)

theorem canon_afterCommit (h : Canon M T s) : Canon M T (afterCommit s) := by
  unfold afterCommit
  dsimp only
  exact canon_ite (canon_imgPhase (canon_beside h)) (canon_beginGroup (canon_beside h))

theorem canon_takeVersion (h : Canon M T s) : Canon M T (takeVersion s) := by
  unfold takeVersion
  split
  · exact canon_ite h (canon_beside h)
  · exact h

theorem canon_markInit {old : Conf} (h : Canon M T s) : Canon M T (markInit old s) := by
  unfold markInit
  refine canon_ite ?_ h
  refine canon_foldl h (fun _ _ hu => ?_)
  exact canon_ite (canon_modDom hu (fun _ hx => hx)) hu

theorem canon_commitGroup {g : GroupState} (h : Canon M T s) : Canon M T (commitGroup g s) :=
  canon_afterCommit (canon_lateMoves (canon_measureCommit
      (canon_recordCommit (canon_applyDebug (canon_setEpochs
      (canon_when (canon_dropFenced (canon_commitMemory (canon_foldl (canon_markInit (canon_takeVersion (canon_beside h)))
      (fun _ _ hu => canon_settleBank hu)))) (fun hu => canon_logE hu)))))))

theorem canon_coldApply (h : Canon M T s) : Canon M T (coldApply s) := by
  unfold coldApply
  split
  · exact h
  · refine canon_imgPhase (canon_beside (canon_measureCommit
        (canon_recordCommit (canon_applyDebug (canon_setEpochs (canon_takeVersion (canon_applyPower ?_)))))))
    split
    · exact canon_applyEvent (canon_foldl (canon_foldl (canon_applyLink (canon_markInit (canon_beside h)))
          (fun _ _ hu => canon_settleBank hu)) (fun _ _ hu => canon_loadCore hu))
    · exact canon_foldl (canon_foldl (canon_applyLink (canon_markInit (canon_beside h))) (fun _ _ hu => canon_settleBank hu))
          (fun _ _ hu => canon_loadCore hu)

theorem canon_refuseApply (h : Canon M T s) : Canon M T (refuseApply s) := canon_imgPhase (canon_logE (canon_beside h))

theorem canon_applyImage (h : Canon M T s) : Canon M T (applyImage s) := by
  unfold applyImage
  refine canon_ite h (canon_ite (canon_refuseApply h) ?_)
  split
  · exact canon_refuseApply h
  · dsimp only
    exact canon_ite (canon_ite (canon_coldApply (canon_beside h)) (canon_imgPhase (canon_beside h)))
        (canon_beginGroup (canon_beside h))

theorem canon_execImgApply {drainBe : BitVec 10} (h : Canon M T s) : CanonNext M T (execImgApply drainBe s) :=
  canon_viaHost h (fun _ hu => canon_applyImage (canon_setDrain hu))

theorem canon_restoreCores {g : GroupState} {old : Conf} (h : Canon M T s) : Canon M T (restoreCores g old s) :=
  canon_foldl h (fun _ _ hu => canon_loadCore hu)

theorem canon_endPrepare {g : GroupState} (h : Canon M T s) : Canon M T (endPrepare g s) := by
  unfold endPrepare
  refine canon_foldl (canon_foldl h (fun _ _ hu => canon_modVault hu)) (fun _ _ hu => ?_)
  exact canon_ite (canon_modDom hu (fun _ hx => hx)) hu

theorem canon_restoreStores {g : GroupState} {t : Conf} (h : Canon M T s) : Canon M T (restoreStores g t s) := by
  unfold restoreStores
  refine canon_foldl h (fun _ _ hu => ?_)
  exact canon_modIsland hu (fun _ hx => hx)

theorem canon_restoreEvc {t : Conf} (h : Canon M T s) : Canon M T (restoreEvc t s) := by
  unfold restoreEvc
  split
  · exact canon_applyEvent h
  · exact canon_evRefresh (canon_foldl (canon_evcSettings h (fun _ => rfl) (fun _ => rfl)
      (fun hT => sparseWf_map _ _ _ (h.tabs hT).targets)) (fun _ _ h => canon_maskWord h))

theorem canon_rollbackFrom {src : Option Nat} {st : Status} (h : Canon M T s) : Canon M T (rollbackFrom src st s) := by
  unfold rollbackFrom
  split
  · exact h
  · refine canon_imgPhase ?_
    refine canon_when (canon_logE (canon_beside (canon_setEpochs
        (canon_when (canon_when (canon_foldl (canon_when (canon_restoreStores (canon_beside (canon_endPrepare h)))
        (fun hu => canon_applyLink hu)) (fun _ _ hu => canon_restoreBank hu))
        (fun hu => canon_applyPower (canon_restoreCores hu))) (fun hu => canon_restoreEvc hu))))) (fun hu => ?_)
    exact canon_foldl (canon_raise (canon_logE hu)) (fun _ _ hu => canon_faultDomain hu)

theorem canon_rollback {st : Status} (h : Canon M T s) : Canon M T (rollback st s) := canon_rollbackFrom h

theorem canon_abortImage (h : Canon M T s) : Canon M T (abortImage s) :=
  canon_ite (canon_rollback h) (canon_ite (canon_imgPhase (canon_beside h)) h)

theorem canon_execImgAbort {drainBe : BitVec 10} (h : Canon M T s) : CanonNext M T (execImgAbort drainBe s) :=
  canon_viaHost h (fun _ hu => canon_abortImage (canon_setDrain hu))

theorem canon_killAll {may : State → Task → Bool} {l : List Task} (h : Canon M T s) : Canon M T (killAll may l s) := by
  unfold killAll
  refine canon_foldl h (fun _ _ hu => ?_)
  split
  · exact canon_ite (canon_killGang hu) hu
  · exact hu

theorem canon_applySeg {t : Conf} {g : Seg} (h : Canon M T s) : Canon M T (applySeg t s g) :=
  canon_ite h (canon_ite (canon_applyLink h) (canon_ite (canon_applyPower (canon_beside h))
      (canon_ite (canon_applyEvent (canon_beside h)) h)))

theorem canon_startImmediate {g : GroupState} (h : Canon M T s) : Canon M T (startImmediate g s) :=
  canon_nextCore (canon_beside (canon_when (canon_when (canon_foldl h (fun _ _ hu => canon_applySeg hu))
      (fun hu => canon_applyLink hu)) (fun hu => canon_applyPower (canon_beside hu))))

theorem canon_fenceStraits {l : List Strait} (h : Canon M T s) : Canon M T (fenceStraits l s) := by
  unfold fenceStraits
  refine canon_foldl h (fun _ _ hu => ?_)
  exact canon_foldl (canon_modIsland (canon_beside (canon_fifos hu (fun hT => sparseWf_erase _ _ _ (hu.tabs hT).fifos)))
      (fun _ hx => hx)) (fun _ _ hu => canon_bundleLanded hu)

theorem canon_execPrepareEnd (h : Canon M T s) : CanonNext M T (execPrepareEnd s) := by
  unfold execPrepareEnd
  split
  · exact canon_notNow
  · split
    · exact canon_notNow
    · refine canon_startImmediate ?_
      refine canon_when ?_ (fun hu => canon_killAll hu)
      refine canon_foldl (canon_imgPhase (canon_beside h)) (fun _ _ hu => ?_)
      exact canon_modIsland hu (fun _ hx => hx)

theorem canon_takeShare {g : GroupState} {i : Nat} (h : Canon M T s) : Canon M T (takeShare g i s) := by
  refine canon_beside (canon_modIsland (canon_beside (canon_fenceStraits h)) (fun x hx => ?_))
  show PadCanon (if _ then _ else _)
  split
  · rfl
  · exact hx

theorem canon_execIslandEpochArrive {i : Fin 256} (h : Canon M T s) : CanonNext M T (execIslandEpochArrive i s) := by
  unfold execIslandEpochArrive
  split
  · exact canon_notNow
  · split
    · exact canon_takeShare h
    · exact canon_notNow

theorem canon_execDrainBeDeadline (h : Canon M T s) : CanonNext M T (execDrainBeDeadline s) := by
  unfold execDrainBeDeadline
  split
  · exact canon_notNow
  · split
    · exact canon_killAll (canon_beside h)
    · exact canon_notNow

theorem canon_execEpochBarrierComplete (h : Canon M T s) : CanonNext M T (execEpochBarrierComplete s) := by
  unfold execEpochBarrierComplete
  split
  · exact canon_notNow
  · split
    · exact canon_imgPhase (canon_beside h)
    · exact canon_notNow

theorem canon_execGroupCommit (h : Canon M T s) : CanonNext M T (execGroupCommit s) := by
  unfold execGroupCommit
  split
  · exact canon_notNow
  · split
    · exact canon_commitGroup h
    · exact canon_notNow

theorem canon_execEpochHeld (h : Canon M T s) : CanonNext M T (execEpochHeld s) := by
  unfold execEpochHeld
  split
  · exact canon_notNow
  · split
    · exact canon_rollback (canon_raise h)
    · exact canon_notNow

theorem canon_execLendingFlagApply {i : Fin 256} (h : Canon M T s) : CanonNext M T (execLendingFlagApply i s) := by
  unfold execLendingFlagApply
  split
  · exact canon_notNow
  · split
    · exact canon_beside h
    · exact canon_notNow

theorem canon_execTableBankFlip {i : Fin 256} (h : Canon M T s) : CanonNext M T (execTableBankFlip i s) := by
  unfold execTableBankFlip
  dsimp only
  split
  · exact canon_setIsland h (fun hT => padCanon_islandAt h hT i)
  · exact canon_notNow

theorem canon_execFirmwareCoreReady {c : Fin 8} (h : Canon M T s) : CanonNext M T (execFirmwareCoreReady c s) := by
  unfold execFirmwareCoreReady
  split
  · exact canon_notNow
  · split
    · exact canon_nextCore (canon_loadCore h)
    · exact canon_notNow

theorem canon_execFirmwareReadyTimeout (h : Canon M T s) : CanonNext M T (execFirmwareReadyTimeout s) := by
  unfold execFirmwareReadyTimeout
  split
  · exact canon_notNow
  · split
    · exact canon_rollbackFrom (canon_raise h)
    · exact canon_notNow

/-! ### Rings and windows of the host -/

theorem canon_runRecord {src : Src} {b : List Byte} (h : Canon M T s) : Canon M T (runRecord src b s) := by
  unfold runRecord
  refine canon_ite (canon_refuse h) ?_
  split
  · exact canon_doTask h
  · exact canon_doBind h
  · exact canon_doArm h
  · exact canon_doStart h
  · exact canon_doDrain h
  · exact canon_doResume h
  · exact canon_doUnbind h
  · exact canon_doLoadProgram h
  · exact canon_doUnloadProgram h
  · exact canon_doResetSync h
  · exact canon_doMap h
  · exact canon_doUnmap h
  · exact canon_doSeal h
  · exact canon_doPromote h
  · exact canon_doDemote h
  · exact canon_doCopy h
  · exact canon_doSetShadow h
  · exact canon_doClearShadow h
  · exact canon_doCreateList h
  · exact canon_doEditList h
  · exact canon_doDestroyList h
  · exact canon_doPrefixInsert h
  · exact canon_doPrefixLookup h
  · exact canon_doPrefixRelease h
  · exact canon_doEncOpen h
  · exact canon_doEncFrame h
  · exact canon_doForceKey h
  · exact canon_doMark h
  · exact canon_doAck h
  · exact canon_doEncClose h
  · exact canon_doDecOpen h
  · exact canon_doDecFrame h
  · exact canon_doDecClose h
  · exact canon_doGroupJoin h
  · exact canon_doGroupLeave h
  · exact canon_doColl h
  · exact canon_doRmemExpose h
  · exact canon_doRmemUnexpose h
  · exact canon_doRmemGet h
  · exact canon_doRmemPut h
  · exact canon_refuse h

theorem canon_setSq {v q : Nat} {x : SubRing} (h : Canon M T s) : Canon M T (setSq s v q x) := canon_modVf h

theorem canon_setCq {v c : Nat} {x : CplRing} (h : Canon M T s) : Canon M T (setCq s v c x) := canon_modVf h

theorem canon_ringEvent {v : Nat} (h : Canon M T s) : Canon M T (ringEvent s v) := by
  unfold ringEvent
  split
  · exact canon_raise h
  · exact h

theorem canon_sqError {v q : Nat} {st : Status} (h : Canon M T s) : Canon M T (sqError s v q st) :=
  canon_ringEvent (canon_setSq h)

theorem canon_cqError {v c : Nat} {st : Status} (h : Canon M T s) : Canon M T (cqError s v c st) :=
  canon_ringEvent (canon_setCq h)

theorem canon_pumpRings {v n : Nat} (h : Canon M T s) : Canon M T (pumpRings v n s) := by
  induction n generalizing s with
  | zero =>
    rw [pumpRings]
    exact h
  | succ n ih =>
    rw [pumpRings]
    split
    · exact h
    · exact ih (canon_runRecord (canon_modVf (canon_setSq h)))

theorem canon_serveVf {v : Nat} (h : Canon M T s) : Canon M T (serveVf s v) :=
  canon_pumpRings (canon_foldl (canon_cplDrain h) (fun _ _ hu => canon_codPlaced hu))

theorem canon_execSqDoorbell {v : Fin 16} {q : Fin 8} {tail : Word} (h : Canon M T s) :
    CanonNext M T (execSqDoorbell v q tail s) := by
  unfold execSqDoorbell
  refine canon_viaHost h (fun _ hu => ?_)
  exact canon_ite (canon_sqError hu) (canon_serveVf (canon_setSq hu))

theorem canon_execCqHeadWrite {v : Fin 16} {c : Fin 4} {head : Word} (h : Canon M T s) :
    CanonNext M T (execCqHeadWrite v c head s) := by
  unfold execCqHeadWrite
  refine canon_viaHost h (fun _ hu => ?_)
  exact canon_ite (canon_setCq hu) (canon_ite (canon_cqError hu) (canon_serveVf (canon_setCq hu)))

theorem canon_execSqEnable {v : Fin 16} {q : Fin 8} {word : Word} (h : Canon M T s) :
    CanonNext M T (execSqEnable v q word s) := by
  unfold execSqEnable
  refine canon_viaHost h (fun _ hu => ?_)
  exact canon_ite (canon_setSq hu) (canon_ite (canon_setSq hu) (canon_ite (canon_setSq hu) (canon_sqError (canon_setSq hu))))

theorem canon_execCqEnable {v : Fin 16} {c : Fin 4} {word : Word} (h : Canon M T s) :
    CanonNext M T (execCqEnable v c word s) := by
  unfold execCqEnable
  refine canon_viaHost h (fun _ hu => ?_)
  exact canon_ite (canon_setCq hu) (canon_ite (canon_setCq hu)
      (canon_ite (canon_serveVf (canon_setCq hu)) (canon_cqError (canon_setCq hu))))

theorem canon_execCqHoldoffExpiry {v : Fin 16} {c : Fin 4} (h : Canon M T s) : CanonNext M T (execCqHoldoffExpiry v c s) := by
  unfold execCqHoldoffExpiry
  dsimp only
  split
  · split
    · exact canon_sendVfVector (canon_setCq h)
    · exact canon_notNow
  · split
    · exact canon_sendVfVector (canon_setCq h)
    · exact canon_notNow

theorem canon_drainVault {v n : Nat} (h : Canon M T s) : Canon M T (drainVault v n s) := by
  induction n generalizing s with
  | zero => exact h
  | succ n ih =>
    rw [drainVault]
    split
    · exact h
    · split
      · refine ih (CanonNext.next ?_ ‹_›)
        split
        · exact canon_execVaultEngineDone h
        · exact canon_runVop h
      · exact h
      · exact h

theorem canon_waitEngine {pa n : Nat} (h : Canon M T s) : Canon M T (waitEngine s pa n) := canon_ite (canon_drainVault h) h

theorem canon_windowRead {m : WinMap} {miss : State → State} {a n : Nat}
    (hmiss : ∀ (u : State), Canon M T u → Canon M T (miss u)) (h : Canon M T s) :
    Canon M T (windowRead m miss a n s) := by
  unfold windowRead
  dsimp only
  refine canon_when ?_ (fun hu => canon_raise hu)
  refine canon_ite ?_ ?_
  · refine hmiss _ ?_
    refine canon_beside ?_
    refine canon_foldl_fst h (fun _ _ hu => ?_)
    split
    · exact hu
    · split <;> exact canon_touch (canon_waitEngine hu)
  · refine canon_beside ?_
    refine canon_foldl_fst h (fun _ _ hu => ?_)
    split
    · exact hu
    · split <;> exact canon_touch (canon_waitEngine hu)

theorem canon_windowWrite {m : WinMap} {miss : State → State} {a : Nat} {data : List Byte}
    (hmiss : ∀ (u : State), Canon M T u → Canon M T (miss u)) (h : Canon M T s) :
    Canon M T (windowWrite m miss a data s) := by
  unfold windowWrite
  refine canon_when ?_ (fun hu => hmiss _ hu)
  refine canon_foldl_fst h (fun _ _ hu => ?_)
  split
  · exact hu
  · exact canon_dramWrite (canon_waitEngine hu)

theorem canon_execWindowRead {fn : Fin 17} {off : BitVec 36} {len : Fin 4097} (h : Canon M T s) :
    CanonNext M T (execWindowRead fn off len s) := by
  unfold execWindowRead
  refine canon_viaHost h (fun _ hu => canon_ite ?_ ?_)
  · split
    · exact canon_beside hu
    · exact canon_windowRead (fun _ hv => hv) hu
  · split
    · exact canon_beside hu
    · exact canon_windowRead (fun _ hv => canon_raise hv) hu

theorem canon_execWindowWrite {fn : Fin 17} {off : BitVec 36} {data : List Byte} (h : Canon M T s) :
    CanonNext M T (execWindowWrite fn off data s) := by
  unfold execWindowWrite
  refine canon_viaHost h (fun _ hu => ?_)
  refine canon_ite (canon_windowWrite (fun _ hv => hv) hu) ?_
  split
  · exact hu
  · exact canon_windowWrite (fun _ hv => canon_raise hv) (canon_keepStaged hu)

theorem canon_readFailed (h : Canon M T s) : Canon M T (readFailed s) := canon_raise h

theorem canon_ringReadFails {v q : Nat} (h : Canon M T s) : Canon M T (ringReadFails s v q) := by
  unfold ringReadFails
  dsimp only
  split
  · exact canon_faultDomain (canon_sqError (canon_readFailed h))
  · exact canon_sqError (canon_readFailed h)

theorem canon_argLost {src : Src} {d : Nat} {raw : List Byte} {late : Bool} (h : Canon M T s) :
    CanonOpt M T (argLost s src d raw late) := by
  unfold argLost
  split
  · exact canonOpt_none
  · dsimp only
    split
    · exact canonOpt_some (canon_refuseTask (canon_ite h (canon_readFailed h)))
    · exact canonOpt_none

theorem canon_execHostReadTimeout {r : HostRead} (h : Canon M T s) : CanonNext M T (execHostReadTimeout r s) := by
  unfold execHostReadTimeout
  split
  · split
    · exact canon_ringReadFails h
    · exact canon_notNow
  · dsimp only
    split
    · exact canon_ringReadFails (canon_setSq (canon_wakeS2 h))
    · exact canon_notNow
  · exact canon_ringCmd (fun _ _ hu => canon_refuseTask (canon_readFailed hu)) h
  · split
    · exact canon_notNow
    · split
      · dsimp only
        exact canon_dispatchDom (canon_refuseTask (canon_readFailed (canon_modDom h (fun _ hx => hx))))
      · exact canon_notNow
  · split
    · exact canon_notNow
    · refine canon_ringCmd (fun _ _ _ => ?_) h
      exact (canonOpt_bind (fun _ => canon_argLost h)) _ ‹_›
  · split
    · exact canon_notNow
    · split
      · dsimp only
        split
        · rename_i hlost
          refine canon_dispatchDom (canon_argLost ?_ _ hlost)
          exact canon_modDom h (fun _ hx => hx)
        · exact canon_notNow
      · exact canon_notNow
  · exact canon_ringCmd (fun _ _ hu => canon_refuse (canon_readFailed hu)) h
  · split
    · exact canon_notNow
    · exact canon_refuseImage (canon_readFailed h)
  · split
    · exact canon_endTask (canon_readFailed h)
    · exact canon_notNow
  · split
    · exact canon_notNow
    · dsimp only
      split
      · exact canon_notNow
      · split
        · exact canon_notNow
        · split
          · exact canon_readFailed (canon_beside h)
          · exact canon_beside h
  · split
    · exact canon_readFailed h
    · exact canon_notNow

end Sys2Proof.Machine
end

section

/-!
The canonical form through power, resets and registers, up to one command and one step.
-/

namespace Sys2Proof.Machine

variable {M T : Prop} {s : State}

/-! ### Power states and resets -/

/-- A domain over a reset keeps its tables; its windows close. -/
theorem domCanon_calmDom {x : Dom} (h : Safety.DomCanon x) : Safety.DomCanon (calmDom x) := ⟨h.1, h.2.1, h.2.2.1, rfl⟩

theorem canon_dropHub (h : Canon M T s) : Canon M T (dropHub s) := by
  refine canon_foldl ⟨fun hM => ?_, fun hT => ?_⟩ (fun _ _ h => canon_raise h)
  · exact { h.mems hM with }
  · have w := h.tabs hT
    exact {
      sems := rfl, bars := rfl, vfs := rfl, fifos := rfl, codec := rfl, pend := rfl, mask := rfl, prio := rfl, route := rfl,
      targets := rfl, slots := w.slots, doms := sparseWf_map _ _ calmDom w.doms,
      dom := sparseMap_all _ w.dom (fun _ => domCanon_calmDom),
      vaults := sparseWf_map _ _ (fun x => { failed := x.failed, untrained := x.untrained }) w.vaults,
      chans := sparseWf_map _ _ (fun x => { failed := x.failed, untrained := x.untrained }) w.chans,
      islands := sparseWf_map _ _ calmIsland w.islands, scratch := sparseMap_all (P := PadCanon) _ w.scratch (fun _ _ => rfl) }

theorem canon_loseDram (h : Canon M T s) : Canon M T (loseDram s) := canon_dram h (fun _ => rfl) (fun _ => rfl)

theorem canon_beginReset {kind : Nat} (h : Canon M T s) : Canon M T (beginReset kind s) :=
  canon_logE (canon_beside (canon_when (canon_dropHub h) (fun hu => canon_loseDram hu)))

theorem canon_trainLink (h : Canon M T s) : Canon M T (trainLink s) := canon_beside h

theorem canon_restoreSettings (h : Canon M T s) : Canon M T (restoreSettings s) := by
  have hbanks : Canon M T { s with islands := sparseMap {} s.islands (fun x => { x with fun_ := {} }) } :=
    canon_mapIslands h (fun _ hx => hx)
  refine canon_trainLink (canon_beside (canon_retrainPorts (canon_applyPower ?_)))
  split
  · exact canon_applyEvent (canon_setEpochs (canon_foldl (canon_beside hbanks) (fun _ _ h => canon_restoreBank h)))
  · exact canon_setEpochs (canon_foldl (canon_beside hbanks) (fun _ _ h => canon_restoreBank h))

theorem canon_restoreDoms {lost : Bool} (h : Canon M T s) : Canon M T (restoreDoms lost s) := by
  refine canon_foldl h (fun s d h => ?_)
  dsimp only
  split
  · split
    · exact canon_setDom h (fun hT => domCanon_domAt h hT d)
    · exact canon_emptyDomain h
  · split
    · exact h
    · exact canon_emptyDomain h

theorem canon_recordReset {kind : Nat} (h : Canon M T s) : Canon M T (recordReset s kind) :=
  canon_when (canon_when (canon_extendMr h) (fun hu => canon_raise (canon_logE hu))) (fun hu => canon_raise hu)

theorem canon_coldFallback (h : Canon M T s) : Canon M T (coldFallback s) := by
  have hnone : Canon M T { s with doms := [], islands := [] } :=
    canon_islands (canon_doms h (fun _ => rfl) (fun _ _ he => absurd he List.not_mem_nil)) (fun _ => rfl)
      (fun _ _ he => absurd he List.not_mem_nil)
  have hcold : Canon M T { s with doms := [], islands := [], vaults := [], chans := [], evc := {} } :=
    canon_evc (canon_chans (canon_vaults hnone (fun _ => rfl)) (fun _ => rfl)) (fun _ => ⟨rfl, rfl, rfl, rfl, rfl⟩)
  exact canon_trainLink (canon_beside (canon_raise (canon_logE (canon_coldSec (canon_loseDram (canon_beside hcold))))))

theorem canon_execWarmRestore (h : Canon M T s) : CanonNext M T (execWarmRestore s) := by
  unfold execWarmRestore
  split
  · exact canon_notNow
  · split
    · exact canon_notNow
    · split
      · exact canon_coldFallback h
      · exact canon_when (canon_foldl (canon_beside (canon_restoreDoms (canon_restoreSettings h)))
            (fun _ _ hu => canon_recordReset hu)) (fun hu => canon_closeDebug hu)

theorem canon_bringUp (h : Canon M T s) : Canon M T (bringUp s) := canon_trainLink (canon_beside h)

theorem canon_blank (h : Canon M T s) : Canon M T (blank s) :=
  canon_beside (canon_host canon_reset (fun hM => (h.mems hM).host))

theorem canon_execAuxLoss (h : Canon M T s) : CanonNext M T (execAuxLoss s) := by
  unfold execAuxLoss
  split
  · have hlog : Canon M T { blank s with log := {} } := canon_log (canon_blank h) (fun _ => rfl)
    exact canon_beside hlog
  · exact canon_notNow

theorem canon_execAuxPowerUp (h : Canon M T s) : CanonNext M T (execAuxPowerUp s) := by
  unfold execAuxPowerUp
  split
  · exact canon_notNow
  · exact canon_when (canon_ite (canon_logE (canon_coldSec (canon_log (canon_blank (canon_takeFree h)) (fun _ => rfl))))
        (canon_raise (canon_logE (canon_logE (canon_coldSec (canon_log (canon_blank (canon_takeFree h)) (fun _ => rfl)))))))
        (fun hu => canon_bringUp hu)

theorem canon_mainGone (h : Canon M T s) : Canon M T (mainGone s) :=
  canon_ite (canon_beside h) (canon_beginReset (canon_beside h))

theorem canon_execMainLoss (h : Canon M T s) : CanonNext M T (execMainLoss s) := by
  unfold execMainLoss
  split
  · exact canon_mainGone h
  · exact canon_notNow

theorem canon_execMainOvervoltage (h : Canon M T s) : CanonNext M T (execMainOvervoltage s) := by
  unfold execMainOvervoltage
  split
  · exact canon_mainGone h
  · exact canon_notNow

theorem canon_clearTrip (h : Canon M T s) : Canon M T (clearTrip s) := canon_beside h

theorem canon_leaveShelf (h : Canon M T s) : Canon M T (leaveShelf s) := by
  have hlost : Canon M T (loseDram { s with pow := { s.pow with st := 0, waking := false } }) := canon_loseDram (canon_beside h)
  refine canon_ite ?_ ?_
  · exact canon_beside (canon_coldFallback hlost)
  · refine canon_beside (canon_foldl (canon_restoreSettings hlost) (fun s d h => ?_))
    split
    · exact canon_modDom h (fun _ hx => hx)
    · exact h

theorem canon_execMainInRange (h : Canon M T s) : CanonNext M T (execMainInRange s) := by
  unfold execMainInRange
  split
  · exact canon_notNow
  · dsimp only
    exact canon_ite (canon_beside h) (canon_ite (canon_ite (canon_leaveShelf (canon_beside h)) (canon_beside h))
        (canon_ite (canon_ite (canon_clearTrip (canon_beside h)) (canon_beside h))
        (canon_ite (canon_beside h) (canon_bringUp (canon_beside h)))))

theorem canon_trainFailed {index kind : Nat} (h : Canon M T s) : Canon M T (trainFailed index kind s) :=
  canon_raise (canon_logE h)

theorem canon_execDramTrainingDone {vaults : BitVec 256} {chans : BitVec 16} (h : Canon M T s) :
    CanonNext M T (execDramTrainingDone vaults chans s) := by
  unfold execDramTrainingDone
  split
  · exact canon_when (canon_foldl (canon_foldl (canon_loseDram (canon_beside h))
        (fun _ _ hu => canon_trainFailed (canon_modVault hu))) (fun _ _ hu => canon_trainFailed (canon_setChan hu)))
        (fun hu => canon_coldApply hu)
  · exact canon_notNow

theorem canon_execLinkReset {c : LinkCause} (h : Canon M T s) : CanonNext M T (execLinkReset c s) := by
  unfold execLinkReset
  split
  · split
    · exact canon_notNow
    · dsimp only
      exact canon_ite (canon_beside h) (canon_ite (canon_beside h) (canon_beginReset (canon_beside h)))
  · split
    · exact canon_beginReset h
    · exact canon_notNow
  · split
    · exact canon_beginReset h
    · exact canon_notNow

theorem canon_execPerstDeassert (h : Canon M T s) : CanonNext M T (execPerstDeassert s) := by
  unfold execPerstDeassert
  split
  · dsimp only
    exact canon_ite (canon_ite (canon_trainLink (canon_beside h)) (canon_beside h))
        (canon_ite (canon_ite (canon_beginReset (canon_leaveShelf (canon_beside h))) (canon_beginReset (canon_beside h)))
        (canon_ite (canon_trainLink (canon_beside h)) (canon_beside h)))
  · exact canon_notNow

theorem canon_execHostLinkReachesL0 (h : Canon M T s) : CanonNext M T (execHostLinkReachesL0 s) := by
  unfold execHostLinkReachesL0
  split
  · exact canon_beside h
  · exact canon_notNow

theorem canon_execHubReset {word : BitVec 16} {p : Option Byte} (h : Canon M T s) : CanonNext M T (execHubReset word p s) :=
  canon_ite (canon_beginReset h) h

theorem canon_execPwrReset {word : Word} (h : Canon M T s) : CanonNext M T (execPwrReset word s) :=
  canon_viaHost h (fun _ hu => canon_ite (canon_beginReset hu) hu)

theorem canon_flr {v : Nat} (h : Canon M T s) : Canon M T (flr v s) := by
  unfold flr
  split
  · exact canon_setVf h
  · dsimp only
    refine canon_setVf (canon_emptyDomain (canon_stopDomain ?_))
    refine canon_modDom (canon_setVf ?_) (fun _ hx => hx)
    split
    · exact canon_ite (canon_rollback h) h
    · exact h

theorem canon_execVfFlr {v : Fin 16} (h : Canon M T s) : CanonNext M T (execVfFlr v s) :=
  canon_viaHost h (fun _ hu => canon_flr hu)

theorem canon_execPfFlr (h : Canon M T s) : CanonNext M T (execPfFlr s) := by
  unfold execPfFlr
  refine canon_viaHost h (fun _ hu => ?_)
  exact canon_beside (canon_foldl (canon_beside (canon_abortImage (canon_foldl hu (fun _ _ hu => canon_flr hu))))
      (fun _ _ hu => canon_reclaim hu))

theorem canon_requestState {target : Nat} (h : Canon M T s) : Canon M T (requestState target s) := by
  unfold requestState
  dsimp only
  exact canon_ite (canon_logE (canon_beside h)) (canon_ite (canon_raise (canon_beside h))
      (canon_beside (canon_loseDram (canon_dropHub (canon_beside h)))))

theorem canon_execPowerRequestS2 (h : Canon M T s) : CanonNext M T (execPowerRequestS2 s) :=
  canon_viaHost h (fun _ hu => canon_requestState hu)

theorem canon_execPowerRequestS3 (h : Canon M T s) : CanonNext M T (execPowerRequestS3 s) :=
  canon_viaHost h (fun _ hu => canon_requestState hu)

theorem canon_execPowerRequestS4 (h : Canon M T s) : CanonNext M T (execPowerRequestS4 s) :=
  canon_viaHost h (fun _ hu => canon_requestState hu)

theorem canon_wakeUp (h : Canon M T s) : Canon M T (wakeUp s) :=
  canon_ite (canon_wakeS2 h) (canon_ite h (canon_ite (canon_leaveShelf h) (canon_beside h)))

theorem canon_execModuleWake (h : Canon M T s) : CanonNext M T (execModuleWake s) := by
  unfold execModuleWake
  split
  · exact canon_wakeUp h
  · exact canon_notNow

theorem canon_execPowerWake {p : Option Byte} (h : Canon M T s) : CanonNext M T (execPowerWake p s) :=
  canon_ite (canon_ite (canon_ite (canon_clearTrip h) h) (canon_wakeUp h)) h

theorem canon_execIslandDoze {i : Fin 256} (h : Canon M T s) : CanonNext M T (execIslandDoze i s) := by
  unfold execIslandDoze
  dsimp only
  split
  · exact canon_modIsland h (fun _ hx => hx)
  · exact canon_notNow

theorem canon_execIslandClockChange {i : Fin 256} (h : Canon M T s) : CanonNext M T (execIslandClockChange i s) := by
  unfold execIslandClockChange
  dsimp only
  split
  · exact canon_notNow
  · exact canon_setIsland h (fun hT => padCanon_islandAt h hT i)

theorem canon_dropClocks {l : List Nat} (h : Canon M T s) : CanonOpt M T (dropClocks s l) := by
  unfold dropClocks
  dsimp only
  split
  · exact canonOpt_none
  · refine canonOpt_some ?_
    refine canon_foldl h (fun _ _ hu => ?_)
    exact canon_modIsland hu (fun _ hx => hx)

theorem canon_raiseClocks {l : List Nat} (h : Canon M T s) : CanonOpt M T (raiseClocks s l) := by
  unfold raiseClocks
  dsimp only
  split
  · exact canonOpt_none
  · refine canonOpt_some ?_
    refine canon_foldl h (fun _ _ hu => ?_)
    exact canon_modIsland hu (fun _ hx => hx)

theorem canon_stageDown (h : Canon M T s) : CanonOpt M T (stageDown s) := by
  unfold stageDown
  split
  · exact canonOpt_some ((canon_dropClocks h) _ ‹_›)
  · split
    · exact canonOpt_some (canon_beside h)
    · exact canon_dropClocks h

theorem canon_stageUp (h : Canon M T s) : CanonOpt M T (stageUp s) := by
  unfold stageUp
  dsimp only
  split
  · exact canonOpt_some ((canon_raiseClocks h) _ ‹_›)
  · split
    · exact canonOpt_some (canon_beside h)
    · exact canon_raiseClocks h

theorem canon_execThrottleStep {avg ms : BitVec 16} (h : Canon M T s) : CanonNext M T (execThrottleStep avg ms s) := by
  unfold execThrottleStep
  dsimp only
  split
  · split
    · refine canon_stageDown ?_ _ ‹_›
      exact canon_ite (canon_raise (canon_beside h)) (canon_beside h)
    · refine canon_ite (canon_raise (canon_beside ?_)) ?_ <;>
        exact canon_ite (canon_raise (canon_beside h)) (canon_beside h)
  · split
    · split
      · split
        · exact canon_stageUp (canon_beside h) _ ‹_›
        · exact canon_beside h
      · exact canon_beside h
    · exact canon_beside h

theorem canon_trip (h : Canon M T s) : Canon M T (trip s) := canon_beside (canon_beginReset h)

theorem canon_execDieTempThrottle {c : BitVec 8} (h : Canon M T s) : CanonNext M T (execDieTempThrottle c s) := by
  unfold execDieTempThrottle
  dsimp only
  split
  · exact canon_beside h
  · split
    · exact canon_notNow
    · split
      · exact canon_trip (canon_beside h)
      · split
        · exact canon_ite (canon_beside h) (canon_raise (canon_beside h))
        · split <;> exact canon_beside h

theorem canon_execThermalTrip (h : Canon M T s) : CanonNext M T (execThermalTrip s) := by
  unfold execThermalTrip
  split
  · exact canon_trip (canon_beside h)
  · exact canon_notNow

theorem canon_execDramOvertemp {layer : Fin 8} {c : BitVec 8} (h : Canon M T s) :
    CanonNext M T (execDramOvertemp layer c s) :=
  canon_beside h

theorem canon_execCoolantWarm {c : BitVec 8} (h : Canon M T s) : CanonNext M T (execCoolantWarm c s) :=
  canon_ite (canon_raise (canon_beside h)) (canon_beside h)

theorem canon_execVaultDriftTrack {v : Fin 256} (h : Canon M T s) : CanonNext M T (execVaultDriftTrack v s) := by
  unfold execVaultDriftTrack
  dsimp only
  split
  · exact canon_setVault h
  · exact canon_notNow

theorem canon_retrain {kind index : Nat} (h : Canon M T s) : Canon M T (retrain kind index s) := by
  unfold retrain
  dsimp only
  exact canon_ite (canon_beside h) (canon_ite (canon_logE (canon_beside h))
      (canon_ite (canon_modVault (canon_beside h)) (canon_setChan (canon_beside h))))

theorem canon_execVaultRetrain {v : Fin 256} (h : Canon M T s) : CanonNext M T (execVaultRetrain v s) :=
  canon_viaHost h (fun _ hu => canon_retrain hu)

theorem canon_execChannelRetrain {c : Fin 16} (h : Canon M T s) : CanonNext M T (execChannelRetrain c s) :=
  canon_viaHost h (fun _ hu => canon_retrain hu)

theorem canon_execRetrainDone {ok : Bool} (h : Canon M T s) : CanonNext M T (execRetrainDone ok s) := by
  unfold execRetrainDone
  split
  · exact canon_raise (canon_ite (canon_ite (canon_modVault (canon_dramZero (canon_beside h)))
        (canon_setChan (canon_dramZero (canon_beside h))))
        (canon_trainFailed (canon_ite (canon_modVault (canon_dramZero (canon_beside h)))
        (canon_setChan (canon_dramZero (canon_beside h))))))
  · exact canon_notNow

/-! ### Reefs and islands -/

theorem canon_waitRes {c : Ctx} (h : Canon M T s) : CanonRes M T (waitRes c s) := by
  unfold waitRes
  split
  · split <;> exact h
  · exact h

theorem canon_execWait {i : Fin 256} (h : Canon M T s) : CanonNext M T (execWait i s) :=
  canon_runInsn h (fun _ _ hu => canon_waitRes hu)

theorem canon_signalRes {c : Ctx} (h : Canon M T s) : CanonRes M T (signalRes c s) := by
  unfold signalRes
  split
  · dsimp only
    split
    · exact canon_semAdd h
    · exact canon_modIsland h (fun _ hx => hx)
  · exact h

theorem canon_execSignal {i : Fin 256} (h : Canon M T s) : CanonNext M T (execSignal i s) :=
  canon_runInsn h (fun _ _ hu => canon_signalRes hu)

theorem canon_arriveRes {c : Ctx} (h : Canon M T s) : CanonRes M T (arriveRes c s) := by
  unfold arriveRes
  split
  · exact h
  · dsimp only
    split
    · split
      · exact h
      · exact canon_modIsland h (fun _ hx => hx)
    · split
      · exact h
      · split <;> exact canon_modIsland (canon_arriveAt h) (fun _ hx => hx)

theorem canon_execArrive {i : Fin 256} (h : Canon M T s) : CanonNext M T (execArrive i s) :=
  canon_runInsn h (fun _ _ hu => canon_arriveRes hu)

theorem canon_fenceRes {c : Ctx} (h : Canon M T s) : CanonRes M T (fenceRes c s) := by
  unfold fenceRes
  split <;> exact h

theorem canon_execFence {i : Fin 256} (h : Canon M T s) : CanonNext M T (execFence i s) :=
  canon_runInsn h (fun _ _ hu => canon_fenceRes hu)

theorem canon_reachRecord {c : Ctx} {g : GroupRun} (h : Canon M T s) : CanonRes M T (reachRecord c s g) := by
  unfold reachRecord
  split
  · exact canon_modIsland h (fun _ hx => hx)
  · split
    · exact canon_modIsland h (fun _ hx => hx)
    · exact h

theorem canon_gbeginRes {c : Ctx} (h : Canon M T s) : CanonRes M T (gbeginRes c s) := by
  unfold gbeginRes
  dsimp only
  refine canon_withRead h (fun _ hu => ?_)
  split
  · exact hu
  · exact canon_reachRecord hu

theorem canon_execGbegin {i : Fin 256} (h : Canon M T s) : CanonNext M T (execGbegin i s) :=
  canon_runInsn h (fun _ _ hu => canon_gbeginRes hu)

theorem canon_gendRes {c : Ctx} (h : Canon M T s) : CanonRes M T (gendRes c s) := by
  unfold gendRes
  split
  · exact h
  · exact canon_reachRecord h

theorem canon_execGend {i : Fin 256} (h : Canon M T s) : CanonNext M T (execGend i s) :=
  canon_runInsn h (fun _ _ hu => canon_gendRes hu)

theorem canon_commitRes {c : Ctx} (h : Canon M T s) : CanonRes M T (commitRes c s) := by
  unfold commitRes
  split
  · exact canon_overrun h
  · split
    · exact canon_commitTask h
    · exact canon_modIsland h (fun _ hx => hx)

theorem canon_execCommit {i : Fin 256} (h : Canon M T s) : CanonNext M T (execCommit i s) :=
  canon_runInsn h (fun _ _ hu => canon_commitRes hu)

theorem canon_execNoCommit {i : Fin 256} (h : Canon M T s) : CanonNext M T (execNoCommit i s) := by
  unfold execNoCommit
  split
  · exact canon_notNow
  · dsimp only
    split
    · exact canon_endTask h
    · exact canon_notNow

/-! ### Debug sessions and attestation -/

theorem canon_extendSoft {m : Nat} (h : Canon M T s) : Canon M T (extendSoft m s) := by
  unfold extendSoft
  dsimp only
  exact canon_ite (canon_extendMr (canon_beside h)) (canon_beside h)

theorem canon_execMrExtend {m : BitVec 3} (h : Canon M T s) : CanonNext M T (execMrExtend m s) :=
  canon_viaHost h (fun _ hu => canon_extendSoft hu)

theorem canon_doe {st : Status} {b : List Byte} (h : Canon M T s) : Canon M T (doe st b s) := canon_beside h

theorem canon_execGetIdentity {resv : BitVec 24} (h : Canon M T s) : CanonNext M T (execGetIdentity resv s) :=
  canon_viaHost h (fun _ hu => canon_ite (canon_doe hu) (canon_ite (canon_doe hu) (canon_doe hu)))

theorem canon_execGetReport {resv : BitVec 24} {nonce : BitVec 256} (h : Canon M T s) :
    CanonNext M T (execGetReport resv nonce s) := by
  unfold execGetReport
  refine canon_viaHost h (fun _ hu => canon_ite (canon_doe hu) (canon_ite (canon_doe hu) ?_))
  exact canon_doe (canon_takeFree hu)

theorem canon_execGetLog {resv : BitVec 24} {first : BitVec 32} {count : BitVec 16} (h : Canon M T s) :
    CanonNext M T (execGetLog resv first count s) :=
  canon_viaHost h (fun _ hu => canon_ite (canon_doe hu) (canon_doe hu))

theorem canon_execDebugExpiry (h : Canon M T s) : CanonNext M T (execDebugExpiry s) := by
  unfold execDebugExpiry
  split
  · exact canon_closeDebug h
  · exact canon_notNow

theorem canon_execModuleStatus (h : Canon M T s) : CanonNext M T (execModuleStatus s) := canon_smbReply h

/-! ### Registers of the host and of the PF -/

theorem canon_pfMsixWrite {n v : Nat} (h : Canon M T s) : Canon M T (pfMsixWrite n v s) := by
  unfold pfMsixWrite
  dsimp only
  exact canon_ite (canon_beside h) (canon_beside h)

theorem canon_vfMsixWrite {f n v : Nat} (h : Canon M T s) : Canon M T (vfMsixWrite f n v s) :=
  canon_when (canon_modVf h) (fun hu => canon_beside hu)

theorem canon_writeHub {o v : Nat} (h : Canon M T s) : Canon M T (writeHub o v s) := by
  unfold writeHub
  refine canon_ite (canon_beside h) (canon_ite (canon_beside h) (canon_ite (canon_beside h) ?_))
  refine canon_ite (canon_when (canon_when (canon_when (canon_setDrain h) (fun hu => canon_abortImage hu))
      (fun hu => canon_stageImage hu)) (fun hu => canon_applyImage hu)) ?_
  split
  · exact canon_ite (canon_setChan h) h
  · exact canon_pfMsixWrite h
  · exact h

theorem canon_writeEvc {o : Nat} {v : Word} (h : Canon M T s) : CanonNext M T (writeEvc o v s) := by
  unfold writeEvc
  split
  · exact canon_execEvcPendWrite h
  · exact canon_execEvcMaskWrite h
  · exact canon_execEvcPrioWrite h
  · exact canon_execEvcRouteWrite h
  · split
    · exact canon_execEvcHold h
    · split
      · exact h
      · dsimp only
        split
        · exact canon_execEvcThreshWrite h
        · exact canon_execEvcDone h
        · exact canon_ite (canon_evc h (fun hT => evcCanon_targets (h.evc hT) (sparseWf_mod _ _ _ _ (h.tabs hT).targets))) h
        · exact h

theorem canon_writePwrCtrl {v : Nat} (h : Canon M T s) : Canon M T (writePwrCtrl v s) :=
  canon_ite (canon_requestState h) (canon_beside h)

theorem canon_writePwr {o v : Nat} (h : Canon M T s) : Canon M T (writePwr o v s) :=
  canon_ite (canon_ite (canon_beside h) h) (canon_ite (canon_writePwrCtrl h)
      (canon_ite (canon_ite (canon_retrain h) (canon_beside h)) (canon_ite (canon_ite (canon_beginReset h) h) h)))

theorem canon_writePortCtrl {p v : Nat} (h : Canon M T s) : Canon M T (writePortCtrl p v s) :=
  canon_when (canon_ite h (canon_setPort (canon_ite (canon_linkDown h) h))) (fun hu => canon_setPort hu)

theorem canon_writeSnd {o v : Nat} (h : Canon M T s) : Canon M T (writeSnd o v s) := by
  unfold writeSnd
  refine canon_ite (canon_ite (canon_beside h) h) ?_
  split
  · exact canon_ite (canon_writePortCtrl h) h
  · exact h

theorem canon_writeVcc {o : Nat} {v : Word} (h : Canon M T s) : CanonNext M T (writeVcc o v s) := by
  unfold writeVcc
  split
  · exact h
  · split
    · exact canon_modCod h
    · split
      · exact canon_execVccChRptrWrite h
      · exact h

theorem canon_writeSec {o : Nat} {v : Word} (h : Canon M T s) : Canon M T (writeSec o v s) := by
  unfold writeSec
  refine canon_ite (canon_ite (canon_extendSoft (canon_ite (canon_beside h) h))
      (canon_beside (canon_ite (canon_beside h) h))) (canon_ite (canon_beside h) (canon_ite (canon_beside h) ?_))
  split
  · exact canon_beside h
  · exact h

theorem canon_writeAtoll {a o : Nat} {v : Word} (h : Canon M T s) : Canon M T (writeAtoll a o v s) := by
  unfold writeAtoll
  refine canon_ite (canon_ite (canon_beside h) h) (canon_ite
      (canon_ite (canon_ite (canon_modVault h) h) (canon_ite (canon_modVault h)
      (canon_ite (canon_ite (canon_vaultGo h) h) ?_))) h)
  split
  · exact canon_modVault h
  · exact h

theorem canon_writePf {off : Nat} {v : Word} (h : Canon M T s) : CanonNext M T (writePf off v s) := by
  unfold writePf
  dsimp only
  split
  · exact canon_writeHub h
  · exact canon_writeEvc h
  · exact canon_ite (canon_log h (fun hT => (h.tabs hT).slots)) h
  · exact canon_writePwr h
  · exact canon_writeSnd h
  · exact canon_writeVcc h
  · exact canon_writeSec h
  · exact canon_writeAtoll h
  · exact canon_writeAtoll h
  · exact canon_writeAtoll h
  · exact canon_writeAtoll h
  · exact h

theorem canon_writeSq {f : Fin 16} {q : Fin 8} {r : Nat} {v : Word} (h : Canon M T s) :
    CanonNext M T (writeSq f q r v s) := by
  unfold writeSq
  dsimp only
  split
  · exact canon_ite h (canon_setSq h)
  · exact canon_ite h (canon_setSq h)
  · exact canon_execSqEnable h
  · exact canon_execSqDoorbell h
  · exact canon_ite (canon_setSq h) h
  · exact h

theorem canon_writeCq {f : Fin 16} {c : Fin 4} {r : Nat} {v : Word} (h : Canon M T s) :
    CanonNext M T (writeCq f c r v s) := by
  unfold writeCq
  dsimp only
  split
  · exact canon_ite h (canon_setCq h)
  · exact canon_ite h (canon_setCq h)
  · exact canon_execCqEnable h
  · exact canon_execCqHeadWrite h
  · exact canon_ite (canon_setCq h) h
  · exact h

theorem canon_writeVf {f : Fin 16} {off : Nat} {v : Word} (h : Canon M T s) : CanonNext M T (writeVf f off v s) := by
  unfold writeVf
  split
  · exact canon_modVf h
  · split
    · exact canon_modVf h
    · split
      · exact canon_modVf h
      · split
        · exact canon_writeSq h
        · exact canon_writeCq h
        · exact canon_vfMsixWrite h
        · exact h

theorem canon_execRegisterWrite {fn : Fin 17} {off : BitVec 26} {v : Word} (h : Canon M T s) :
    CanonNext M T (execRegisterWrite fn off v s) := by
  unfold execRegisterWrite
  split
  · exact h
  · dsimp only
    split
    · exact canon_writePf (canon_wakeS2 h)
    · exact canon_writeVf (canon_wakeS2 h)

/-! ### Records of the rings -/

theorem canon_execTask {x : Hdr} {addr : BitVec 64} {count : BitVec 16} (h : Canon M T s) :
    CanonNext M T (execTask x addr count s) :=
  canon_doTask h

theorem canon_execLoadProgram {x : Hdr} {index : BitVec 16} {va : BitVec 64} (h : Canon M T s) :
    CanonNext M T (execLoadProgram x index va s) :=
  canon_doLoadProgram h

theorem canon_execUnloadProgram {x : Hdr} {index : BitVec 16} (h : Canon M T s) :
    CanonNext M T (execUnloadProgram x index s) :=
  canon_doUnloadProgram h

theorem canon_execResetSync {x : Hdr} {atoll : BitVec 8} {semFirst semCount barFirst barCount : BitVec 16} (h : Canon M T s) :
    CanonNext M T (execResetSync x atoll semFirst semCount barFirst barCount s) :=
  canon_doResetSync h

theorem canon_execBind {x : Hdr} (h : Canon M T s) : CanonNext M T (execBind x s) := canon_doBind h

theorem canon_execArm {x : Hdr} (h : Canon M T s) : CanonNext M T (execArm x s) := canon_doArm h

theorem canon_execStart {x : Hdr} (h : Canon M T s) : CanonNext M T (execStart x s) := canon_doStart h

theorem canon_execDrain {x : Hdr} (h : Canon M T s) : CanonNext M T (execDrain x s) := canon_doDrain h

theorem canon_execResume {x : Hdr} (h : Canon M T s) : CanonNext M T (execResume x s) := canon_doResume h

theorem canon_execUnbind {x : Hdr} (h : Canon M T s) : CanonNext M T (execUnbind x s) := canon_doUnbind h

theorem canon_execMap {x : Hdr} {va : BitVec 64} {pages : BitVec 32} {tier : BitVec 8} {vault : BitVec 16} {list : BitVec 64}
    (h : Canon M T s) :
    CanonNext M T (execMap x va pages tier vault list s) :=
  canon_doMap h

theorem canon_execUnmap {x : Hdr} {va : BitVec 64} {pages : BitVec 32} (h : Canon M T s) :
    CanonNext M T (execUnmap x va pages s) :=
  canon_doUnmap h

theorem canon_execSeal {x : Hdr} {va : BitVec 64} {pages : BitVec 32} (h : Canon M T s) :
    CanonNext M T (execSeal x va pages s) :=
  canon_doSeal h

theorem canon_execPromote {x : Hdr} {va : BitVec 64} {pages : BitVec 32} {vault : BitVec 16} (h : Canon M T s) :
    CanonNext M T (execPromote x va pages vault s) :=
  canon_doPromote h

theorem canon_execDemote {x : Hdr} {va : BitVec 64} {pages : BitVec 32} (h : Canon M T s) :
    CanonNext M T (execDemote x va pages s) :=
  canon_doDemote h

theorem canon_execMemoryCopy {x : Hdr} {src dst len : BitVec 64} (h : Canon M T s) :
    CanonNext M T (execMemoryCopy x src dst len s) :=
  canon_doCopy h

theorem canon_execSetShadow {x : Hdr} {index : BitVec 16} {entry : BitVec 256} (h : Canon M T s) :
    CanonNext M T (execSetShadow x index entry s) :=
  canon_doSetShadow h

theorem canon_execClearShadow {x : Hdr} {index : BitVec 16} (h : Canon M T s) : CanonNext M T (execClearShadow x index s) :=
  canon_doClearShadow h

theorem canon_execCreateList {x : Hdr} {id entries : BitVec 32} {source body : BitVec 64} (h : Canon M T s) :
    CanonNext M T (execCreateList x id entries source body s) :=
  canon_doCreateList h

theorem canon_execEditList {x : Hdr} {id base : BitVec 32} {body edit : BitVec 64} {edits : BitVec 32} (h : Canon M T s) :
    CanonNext M T (execEditList x id base body edit edits s) :=
  canon_doEditList h

theorem canon_execDestroyList {x : Hdr} {id : BitVec 32} (h : Canon M T s) : CanonNext M T (execDestroyList x id s) :=
  canon_doDestroyList h

theorem canon_execPrefixInsert {x : Hdr} {root : BitVec 64} {parent : BitVec 32} {ids table : BitVec 64} (h : Canon M T s) :
    CanonNext M T (execPrefixInsert x root parent ids table s) :=
  canon_doPrefixInsert h

theorem canon_execPrefixLookup {x : Hdr} {root : BitVec 64} {blocks : BitVec 32} {ids out : BitVec 64} (h : Canon M T s) :
    CanonNext M T (execPrefixLookup x root blocks ids out s) :=
  canon_doPrefixLookup h

theorem canon_execPrefixRelease {x : Hdr} {list : BitVec 64} {count : BitVec 32} {flags : BitVec 8} (h : Canon M T s) :
    CanonNext M T (execPrefixRelease x list count flags s) :=
  canon_doPrefixRelease h

theorem canon_execEncOpen {x : Hdr} {chan : BitVec 8} {va : BitVec 64} (h : Canon M T s) :
    CanonNext M T (execEncOpen x chan va s) :=
  canon_doEncOpen h

theorem canon_execEncFrame {x : Hdr} {chan flags : BitVec 8} {pitch waitSem signalSem : BitVec 16}
    {luma chroma roi hint : BitVec 64} {target : BitVec 32} {inc : BitVec 16} (h : Canon M T s) :
    CanonNext M T (execEncFrame x chan flags pitch waitSem signalSem luma chroma roi hint target inc s) :=
  canon_doEncFrame h

theorem canon_execForceKey {x : Hdr} {chan : BitVec 8} (h : Canon M T s) : CanonNext M T (execForceKey x chan s) :=
  canon_doForceKey h

theorem canon_execMark {x : Hdr} {chan mark : BitVec 8} {frame : BitVec 64} (h : Canon M T s) :
    CanonNext M T (execMark x chan mark frame s) :=
  canon_doMark h

theorem canon_execAck {x : Hdr} {chan : BitVec 8} {frame : BitVec 64} (h : Canon M T s) :
    CanonNext M T (execAck x chan frame s) :=
  canon_doAck h

theorem canon_execEncClose {x : Hdr} {chan : BitVec 8} (h : Canon M T s) : CanonNext M T (execEncClose x chan s) :=
  canon_doEncClose h

theorem canon_execDecOpen {x : Hdr} {chan standard : BitVec 8} {width height fpsNum fpsDen : BitVec 16} (h : Canon M T s) :
    CanonNext M T (execDecOpen x chan standard width height fpsNum fpsDen s) :=
  canon_doDecOpen h

theorem canon_execDecFrame {x : Hdr} {chan : BitVec 8} {pitch signalSem inc : BitVec 16} {unit : BitVec 64}
    {bytes : BitVec 32} {luma chroma : BitVec 64} (h : Canon M T s) :
    CanonNext M T (execDecFrame x chan pitch signalSem inc unit bytes luma chroma s) :=
  canon_doDecFrame h

theorem canon_execDecClose {x : Hdr} {chan : BitVec 8} (h : Canon M T s) : CanonNext M T (execDecClose x chan s) :=
  canon_doDecClose h

theorem canon_execGroupJoin {x : Hdr} {key list : BitVec 64} {count : BitVec 16} (h : Canon M T s) :
    CanonNext M T (execGroupJoin x key list count s) :=
  canon_doGroupJoin h

theorem canon_execGroupLeave {x : Hdr} {group : BitVec 16} (h : Canon M T s) : CanonNext M T (execGroupLeave x group s) :=
  canon_doGroupLeave h

theorem canon_execColl {x : Hdr} {group root : BitVec 16} {gen seq : BitVec 32} {kind op fmt flags : BitVec 8}
    {src dst counts : BitVec 64} {count target : BitVec 32} {waitSem signalSem inc run : BitVec 16} (h : Canon M T s) :
    CanonNext M T (execColl x group root gen seq kind op fmt flags src dst counts count target waitSem signalSem inc run s) :=
  canon_doColl h

theorem canon_execRmemExpose {x : Hdr} {window perm : BitVec 8} {group sem inc : BitVec 16} {va len : BitVec 64}
    (h : Canon M T s) :
    CanonNext M T (execRmemExpose x window perm group sem inc va len s) :=
  canon_doRmemExpose h

theorem canon_execRmemUnexpose {x : Hdr} {window : BitVec 8} (h : Canon M T s) :
    CanonNext M T (execRmemUnexpose x window s) :=
  canon_doRmemUnexpose h

theorem canon_execRmemGet {x : Hdr} {window : BitVec 8} {group rank waitSem : BitVec 16} {va off len : BitVec 64}
    {target : BitVec 32} {signalSem inc : BitVec 16} (h : Canon M T s) :
    CanonNext M T (execRmemGet x window group rank waitSem va off len target signalSem inc s) :=
  canon_doRmemGet h

theorem canon_execRmemPut {x : Hdr} {window : BitVec 8} {group rank waitSem : BitVec 16} {va off len : BitVec 64}
    {target : BitVec 32} {signalSem inc : BitVec 16} (h : Canon M T s) :
    CanonNext M T (execRmemPut x window group rank waitSem va off len target signalSem inc s) :=
  canon_doRmemPut h

/-! ### Steps without a command -/

theorem canon_passTime (h : Canon M T s) : Canon M T (passTime s) := canon_beside h

theorem canon_idle (h : Canon M T s) : Canon M T (idle s) :=
  canon_netTick (canon_prepareTick (canon_foldl (canon_foldl (canon_passTime h) (fun _ _ hu => canon_dispatchDom hu))
      (fun _ _ hu => canon_serveVf hu)))

/-! ### One command -/

theorem canon_exec {i : Instr} (h : Canon M T s) : CanonNext M T (exec i s) := by
  unfold exec
  split
  · exact canon_execImgStage h
  · exact canon_execImgApply h
  · exact canon_execImgAbort h
  · exact canon_execPrepareEnd h
  · exact canon_execIslandEpochArrive h
  · exact canon_execDrainBeDeadline h
  · exact canon_execEpochBarrierComplete h
  · exact canon_execGroupCommit h
  · exact canon_execEpochHeld h
  · exact canon_execLendingFlagApply h
  · exact canon_execTableBankFlip h
  · exact canon_execVideoAllocApply h
  · exact canon_execFirmwareCoreReady h
  · exact canon_execFirmwareReadyTimeout h
  · exact canon_execFarFullLog h
  · exact canon_execStraitBundle h
  · exact canon_execSendResume h
  · exact canon_execIslandClockChange h
  · exact canon_execPatrolScrub h
  · exact canon_execHeatHalving h
  · exact canon_execPageMove h
  · exact canon_execPageFrameFree h
  · exact canon_execOccupancyDemotion h
  · exact canon_execMap h
  · exact canon_execUnmap h
  · exact canon_execUnmapFrameFree h
  · exact canon_execSeal h
  · exact canon_execSealComplete h
  · exact canon_execPromote h
  · exact canon_execDemote h
  · exact canon_execMemoryCopy h
  · exact canon_execLowerTierTimeout h
  · exact canon_execLowerTierDataArrive h
  · exact canon_execVengCopy h
  · exact canon_execVengZeroFill h
  · exact canon_execVengGather h
  · exact canon_execVengRowMax h
  · exact canon_execVengRowSum h
  · exact canon_execVengPack h
  · exact canon_execVengUnpack h
  · exact canon_execVengTokenCompare h
  · exact canon_execVengDigest h
  · exact canon_execVaultEngineDone h
  · exact canon_execVltEccClear h
  · exact canon_execFarEccClear h
  · exact canon_execSetShadow h
  · exact canon_execClearShadow h
  · exact canon_execTask h
  · exact canon_execTaskStart h
  · exact canon_execTaskKill h
  · exact canon_execKillWritesDrained h
  · exact canon_execPinOverrun h
  · exact canon_execLoad h
  · exact canon_execLoadTaps h
  · exact canon_execStore h
  · exact canon_execStage h
  · exact canon_execStageRelease h
  · exact canon_execStageLineFill h
  · exact canon_execCopy h
  · exact canon_execSend h
  · exact canon_execRecv h
  · exact canon_execVeng h
  · exact canon_execZero h
  · exact canon_execMma h
  · exact canon_execAccload h
  · exact canon_execAccclr h
  · exact canon_execEpi h
  · exact canon_execEpiraw h
  · exact canon_execVadd h
  · exact canon_execVmul h
  · exact canon_execVfma h
  · exact canon_execVmax h
  · exact canon_execVmin h
  · exact canon_execVcvt h
  · exact canon_execVrowmul h
  · exact canon_execVrowadd h
  · exact canon_execFeval h
  · exact canon_execLopen h
  · exact canon_execLscore h
  · exact canon_execLpv h
  · exact canon_execLstats h
  · exact canon_execLstatsCombine h
  · exact canon_execLback h
  · exact canon_execRsum h
  · exact canon_execRmax h
  · exact canon_execRsumsq h
  · exact canon_execWait h
  · exact canon_execSignal h
  · exact canon_execArrive h
  · exact canon_execFence h
  · exact canon_execGbegin h
  · exact canon_execGend h
  · exact canon_execCommit h
  · exact canon_execNoCommit h
  · exact canon_execLoadProgram h
  · exact canon_execUnloadProgram h
  · exact canon_execLagStageClear h
  · exact canon_execResetSync h
  · exact canon_execBind h
  · exact canon_execArm h
  · exact canon_execArmComplete h
  · exact canon_execStart h
  · exact canon_execDrain h
  · exact canon_execDrainQuiesced h
  · exact canon_execResume h
  · exact canon_execUnbind h
  · exact canon_execZeroisationDone h
  · exact canon_execVfFlr h
  · exact canon_execPfFlr h
  · exact canon_execCreateList h
  · exact canon_execEditList h
  · exact canon_execDestroyList h
  · exact canon_execListReclaimed h
  · exact canon_execPrefixInsert h
  · exact canon_execPrefixLookup h
  · exact canon_execPrefixRelease h
  · exact canon_execEncOpen h
  · exact canon_execEncFrame h
  · exact canon_execFrameBegin h
  · exact canon_execEmissionUnit h
  · exact canon_execFrameEnd h
  · exact canon_execForceKey h
  · exact canon_execMark h
  · exact canon_execAck h
  · exact canon_execEncClose h
  · exact canon_execDecOpen h
  · exact canon_execDecFrame h
  · exact canon_execDecPictureOut h
  · exact canon_execDecClose h
  · exact canon_execVccChRptrWrite h
  · exact canon_execPortTrained h
  · exact canon_execLinkDown h
  · exact canon_execPayloadFlit h
  · exact canon_execLinkCtrlFlit h
  · exact canon_execIdleFlit h
  · exact canon_execPortRetrain h
  · exact canon_execGroupJoin h
  · exact canon_execJoinTimeout h
  · exact canon_execGroupLeave h
  · exact canon_execColl h
  · exact canon_execCollWaitMet h
  · exact canon_execCollRequest h
  · exact canon_execCollReserve h
  · exact canon_execCollReserved h
  · exact canon_execCollTicket h
  · exact canon_execCollWritesDone h
  · exact canon_execCollDone h
  · exact canon_execCollCommit h
  · exact canon_execTicketTimeout h
  · exact canon_execTimeBeacon h
  · exact canon_execMemberUnreachable h
  · exact canon_execManagerLost h
  · exact canon_execHeadlessCommitTimeout h
  · exact canon_execRmemExpose h
  · exact canon_execRmemUnexpose h
  · exact canon_execRmemGet h
  · exact canon_execRmemPut h
  · exact canon_execRmemTransferDone h
  · exact canon_execRmemTimeout h
  · exact canon_execShoalPulse h
  · exact canon_execSqDoorbell h
  · exact canon_execCqHeadWrite h
  · exact canon_execSqEnable h
  · exact canon_execCqEnable h
  · exact canon_execCqHoldoffExpiry h
  · exact canon_execWindowRead h
  · exact canon_execWindowWrite h
  · exact canon_execHostReadTimeout h
  · exact canon_execLinkReset h
  · exact canon_execPerstDeassert h
  · exact canon_execWarmRestore h
  · exact canon_execEvcPendWrite h
  · exact canon_execEvcMaskWrite h
  · exact canon_execEvcClaim h
  · exact canon_execEvcDone h
  · exact canon_execEvcHold h
  · exact canon_execEvcHoldExpiry h
  · exact canon_execEvcSync h
  · exact canon_execEvcPrioWrite h
  · exact canon_execEvcRouteWrite h
  · exact canon_execEvcThreshWrite h
  · exact canon_execLogStatus h
  · exact canon_execLogEntry h
  · exact canon_execModuleStatus h
  · exact canon_execPowerWake h
  · exact canon_execHubReset h
  · exact canon_execPwrReset h
  · exact canon_execAuxPowerUp h
  · exact canon_execAuxLoss h
  · exact canon_execMainLoss h
  · exact canon_execMainInRange h
  · exact canon_execMainOvervoltage h
  · exact canon_execDramTrainingDone h
  · exact canon_execThrottleStep h
  · exact canon_execPowerRequestS2 h
  · exact canon_execPowerRequestS3 h
  · exact canon_execPowerRequestS4 h
  · exact canon_execModuleWake h
  · exact canon_execIslandDoze h
  · exact canon_execDieTempThrottle h
  · exact canon_execThermalTrip h
  · exact canon_execDramOvertemp h
  · exact canon_execCoolantWarm h
  · exact canon_execVaultDriftTrack h
  · exact canon_execVaultRetrain h
  · exact canon_execChannelRetrain h
  · exact canon_execRetrainDone h
  · exact canon_execMrExtend h
  · exact canon_execGetIdentity h
  · exact canon_execGetReport h
  · exact canon_execGetLog h
  · exact canon_execDebugExpiry h
  · exact canon_execRegisterWrite h
  · exact canon_execHostLinkReachesL0 h
  · exact canon_execCbl3v3Short h
  · exact canon_execTimeBeaconSend h

/-! ### One step -/

theorem canon_step (h : Canon M T s) : CanonNext M T (step s) := by
  unfold step
  split
  · exact canon_idle h
  · exact canon_exec (canon_beside h)

end Sys2Proof.Machine
end

section

/-! ### The three statements about canonical tables -/

namespace Sys2Proof.Machine

/-- Settles O58: no table of the reset state lists a default. -/
theorem resetIsCanonical : Obligations.ResetIsCanonical :=
  have h : Canon True True State.reset := canon_reset
  ⟨h.mems trivial, h.tabs trivial⟩

/-- Settles O59: a step's next state is `Canon` with the memories alone, by `canon_step`. -/
theorem stepsKeepMemoryCanonical : Obligations.StepsKeepMemoryCanonical := by
  intro s t hs e
  have h : Canon True False s := ⟨fun _ => hs, False.elim⟩
  exact ((canon_step h).next e).mems trivial

/-- Settles O60: a step's next state is `Canon` with the tables alone, by `canon_step`. -/
theorem stepsKeepTablesCanonical : Obligations.StepsKeepTablesCanonical := by
  intro s t hs e
  have h : Canon False True s := ⟨False.elim, fun _ => hs⟩
  exact ((canon_step h).next e).tabs trivial

end Sys2Proof.Machine
end

section

/-!
The vault engine (R93-R95, R101): what an operation that is due does, whichever its code, and what the end of one reports.
-/

namespace Sys2Proof.Machine

/-! ### Operations -/

/-- The state in which an operation has read its source, a GATHER its granules too. -/
def vopSeen (s : State) (v : Nat) (o : VOp) : State := gatherTouch (runsRead s o.src).1 v o (plain (runsRead s o.src).2)

/-- A vault's operation `i` is the first that has not run, and its vault can run it. -/
structure VopDue (s : State) (v i : Nat) (o : VOp) : Prop where
  first : firstIdx (fun (o : VOp) => !o.done) (vaultAt s v).ops = some i
  at_i : (vaultAt s v).ops[i]? = some o
  retrained : (vaultAt s v).retraining = false
  trained : (vaultAt s v).untrained = false

section
variable {s : State} {v i : Nat} {o : VOp} {name : String}

theorem runVop_fails (h : VopDue s v i o) {st : Status} (he : vopOut (vopSeen s v o) v o (runsRead s o.src).2 = .error st) :
    runVop name o.op v s = .next (modVault (vopSeen s v o) v (fun x =>
      { x with ops := setAt x.ops i { o with done := true, status := st } })) := by
  obtain ⟨hfirst, hat, hr, hu⟩ := h
  simp only [runVop, hfirst, hat, hr, hu, ne_eq, not_true_eq_false, Bool.false_eq_true, or_self, if_false]
  rw [vopSeen] at he
  simp only [he, vopSeen]

theorem runVop_gives (h : VopDue s v i o) {out : List MByte} {res : Bool}
    (he : vopOut (vopSeen s v o) v o (runsRead s o.src).2 = .ok (out, res)) :
    runVop name o.op v s = .next (modVault
      (if o.op = 2 then runsZero (vopSeen s v o) o.dst else runsWrite (vopSeen s v o) o.dst out) v (fun x =>
        { x with ops := setAt x.ops i { o with done := true, result := res } })) := by
  obtain ⟨hfirst, hat, hr, hu⟩ := h
  simp only [runVop, hfirst, hat, hr, hu, ne_eq, not_true_eq_false, Bool.false_eq_true, or_self, if_false]
  rw [vopSeen] at he
  simp only [he, vopSeen]

end

/-! ### VAULT_ENGINE_DONE -/

section
variable {s : State} {v : Fin 256} {o : VOp} {l : List VOp}

theorem execVaultEngineDone_host (h : (vaultAt s v).ops = o :: l) (hdone : o.done = true) (ho : o.owner = .host) :
    execVaultEngineDone v s = .next (modVault s v (fun x =>
      { x with ops := l, busy := false, result := o.result, status := o.status })) := by
  simp only [execVaultEngineDone, h, hdone, ho, vopResult, hubDone, if_true]

theorem execVaultEngineDone_hub (h : (vaultAt s v).ops = o :: l) (hdone : o.done = true) (ho : o.owner = .hub) :
    execVaultEngineDone v s = .next (hubDone v o (modVault s v (fun x => { x with ops := l }))) := by
  simp only [execVaultEngineDone, h, hdone, ho, vopResult, if_true]

theorem execVaultEngineDone_task (h : (vaultAt s v).ops = o :: l) (hdone : o.done = true) {tag att : Nat}
    (ho : o.owner = .task tag att) :
    execVaultEngineDone v s = .next (vopResult (modVault s v (fun x => { x with ops := l })) o) := by
  simp only [execVaultEngineDone, h, hdone, ho, hubDone, if_true]

/-- The hub's own zero-fill is noted in the change group in progress, and nothing else changes (R47). -/
theorem hubDone_frame (v : Nat) (o : VOp) (s : State) : ∃ m, hubDone v o s = { s with img := m } := by
  unfold hubDone
  split
  · exact ⟨_, rfl⟩
  · exact ⟨s.img, rfl⟩

theorem hubDone_hub {v : Nat} {g : GroupState} (ho : o.owner = .hub) (hg : s.img.cur = some g) :
    (hubDone v o s).img.cur = some { g with zeroed := g.zeroed ++ [v] } := by
  simp only [hubDone, ho, hg]

end

/-- Settles O20: the nine operations differ in their code alone. -/
theorem vaultEngineOperations : Obligations.VaultEngineOperations := by
  unfold Obligations.VaultEngineOperations
  refine ⟨fun v s i o hfirst hat hr hu e he hop => ?_,
    fun v s o l hops hdone hwf => ⟨fun ho => ?_, fun ho => ?_, fun tag att ho => ?_⟩⟩
  · have hdue : VopDue s v i o := ⟨hfirst, hat, hr, hu⟩
    have hrun : ∃ name, exec e.2 s = runVop name o.op v s := by
      rw [hop]
      simp only [List.mem_cons, List.not_mem_nil, or_false] at he
      rcases he with rfl | rfl | rfl | rfl | rfl | rfl | rfl | rfl | rfl <;> exact ⟨_, rfl⟩
    obtain ⟨name, hrun⟩ := hrun
    rw [hrun, ← hop]
    dsimp only
    split
    · exact runVop_fails hdue ‹_›
    · exact runVop_gives hdue ‹_›
  · refine ⟨_, execVaultEngineDone_host hops hdone ho, ?_⟩
    simp only [modVault_eq, vaultAt_setVault hwf, if_true, setVault_mem, and_self]
  · obtain ⟨m, hm⟩ := hubDone_frame v o (modVault s v (fun x => { x with ops := l }))
    refine ⟨_, execVaultEngineDone_hub hops hdone ho, ?_, ?_, fun g hg => hubDone_hub ho hg⟩
    · rw [hm]
      exact congrArg Vault.ops ((vaultAt_setVault hwf v v _).trans (if_pos rfl))
    · rw [hm]
      rfl
  · exact execVaultEngineDone_task hops hdone ho

end Sys2Proof.Machine
end

section

/-!
Lines of the lower tiers that arrive, and reads that have waited too long (R73, R90, R91).
-/

namespace Sys2Proof.Machine

/-- What an arriving line leaves as it was while it fills the lagoon. -/
abbrev besideLagoon (s : State) : Sparse Byte × Sparse Island × List Task × Nat × List LowRead :=
  (s.mem, s.islands, s.tasks, s.now, s.mig.reads)

theorem fillLine_besideLagoon (atoll d : Nat) (dirty : Bool) (s : State) (line : Nat) :
    besideLagoon (fillLine atoll d dirty s line) = besideLagoon s := by
  simp only [fillLine]
  split
  · rfl
  · split <;> rfl

/-- A request that an arriving line of an atoll serves, or that has run out of time before. -/
def waitsFor (atoll line : Nat) (r : LowRead) : Bool := r.island / 64 == atoll && r.line == line && !r.served

/-- What becomes of a request when the line arrives. -/
def arriveAtRead (s : State) (atoll line : Nat) (r : LowRead) : LowRead :=
  if waitsFor atoll line r && !(readExpired s r) then { r with served := true } else r

theorem arriveAtRead_of_now {s u : State} (h : u.now = s.now) (atoll line : Nat) :
    arriveAtRead u atoll line = arriveAtRead s atoll line := by
  funext r
  have hexp : readExpired u r = readExpired s r := by rw [readExpired, h, readExpired]
  rw [arriveAtRead, hexp, arriveAtRead]

/-- The lagoon takes the line for each domain that waits for it. -/
def lagoonFilled (s : State) (atoll line : Nat) : State :=
  (((s.mig.reads.filter (waitsFor atoll line)).map (·.dom)).eraseDups).foldl (fun s d => fillLine atoll d false s line) s

theorem lagoonFilled_besideLagoon (s : State) (atoll line : Nat) : besideLagoon (lagoonFilled s atoll line) = besideLagoon s :=
  foldl_keep besideLagoon _ (fun s d => fillLine_besideLagoon atoll d false s line) _ s

/-- LOWER_TIER_DATA_ARRIVE changes the lagoon, the free choices and the requests alone. -/
theorem execLowerTierDataArrive_eq {atoll : Fin 4} {line : BitVec 64} {s : State}
    (h : s.mig.reads.any (waitsFor atoll line.toNat) = true) :
    ∃ t, execLowerTierDataArrive atoll line s = .next t ∧ t.mem = s.mem ∧ t.islands = s.islands ∧ t.tasks = s.tasks ∧
      t.mig.reads = (s.mig.reads.filter (fun r => r.live || !(waitsFor atoll line.toNat r))).map
        (arriveAtRead s atoll line.toNat) := by
  obtain ⟨r, hr, hw⟩ := List.any_eq_true.1 h
  have hsome : ¬ (s.mig.reads.filter (waitsFor atoll line.toNat)).isEmpty = true := by
    rw [List.isEmpty_iff]
    exact List.ne_nil_of_mem (List.mem_filter.2 ⟨hr, hw⟩)
  have hkeep := lagoonFilled_besideLagoon s atoll line.toNat
  simp only [besideLagoon, Prod.mk.injEq] at hkeep
  obtain ⟨hmem, hisl, htasks, hnow, hreads⟩ := hkeep
  refine ⟨_, if_neg hsome, hmem, hisl, htasks, ?_⟩
  show ((lagoonFilled s atoll line.toNat).mig.reads.filter (fun r => r.live || !(waitsFor atoll line.toNat r))).map
    (arriveAtRead (lagoonFilled s atoll line.toNat) atoll line.toNat) = _
  rw [hreads, arriveAtRead_of_now hnow]

/-- A request still listed after the arrival has been served, unless its time had run out. -/
theorem served_of_arrived {s : State} {atoll line : Nat} {l : List LowRead} {r : LowRead}
    (hr : r ∈ l.map (arriveAtRead s atoll line)) (ha : r.island / 64 = atoll) (hl : r.line = line)
    (he : readExpired s r = false) : r.served = true := by
  obtain ⟨q, -, rfl⟩ := List.mem_map.1 hr
  unfold arriveAtRead at ha hl he ⊢
  split at ha
  · rw [if_pos ‹_›]
  · rename_i hq
    rw [if_neg hq] at hl he ⊢
    simpa [waitsFor, ha, hl, he] using hq

theorem arriveAtRead_of_expired {s : State} {r : LowRead} (h : readExpired s r = true) (atoll line : Nat) :
    arriveAtRead s atoll line r = r := by
  simp only [arriveAtRead, h, Bool.not_true, Bool.and_false, Bool.false_eq_true, if_false]

/-- Settles O14: an arriving line changes the requests of those who wait for it and the lagoon alone. -/
theorem lowerTiersAnswerOrTimeOut : Obligations.LowerTiersAnswerOrTimeOut := by
  unfold Obligations.LowerTiersAnswerOrTimeOut
  refine ⟨fun a line s h => ?_, fun i s t ht r hr => ?_⟩
  · obtain ⟨t, hstep, hmem, hisl, htasks, hreads⟩ := execLowerTierDataArrive_eq h
    refine ⟨t, hstep, hmem, hisl, htasks, fun r hr ha hl he => ?_, fun r hr hlive he _ => ?_⟩
    · exact served_of_arrived (hreads ▸ hr) ha hl he
    · rw [hreads]
      refine List.mem_map.2 ⟨r, List.mem_filter.2 ⟨hr, ?_⟩, arriveAtRead_of_expired he _ _⟩
      rw [hlive, Bool.true_or]
  · show execLowerTierTimeout i s = _
    simp only [execLowerTierTimeout, ht, readExpired, hr]

end Sys2Proof.Machine
end

section

/-!
The page map of a domain: what an entry reads after one is set or moved, and the migration steps that leave every entry as it
was (R78, R84, R47).
-/

namespace Sys2Proof.Machine

/-! ### One entry -/

theorem pageAt_of_doms {s u : State} (h : u.doms = s.doms) (d k : Nat) : pageAt u d k = pageAt s d k := by
  rw [pageAt, domAt_of_doms h, pageAt]

/-- A set entry reads back, every other entry of every domain is as before, whatever the tables' form. -/
theorem pageAt_setPage_some (s : State) (d k e j : Nat) (q : Page) :
    pageAt (setPage s d k (some q)) e j = if e = d ∧ j = k then some q else pageAt s e j := by
  rw [pageAt, setPage, domAt_modPage]
  by_cases he : e = d
  · subst he
    rw [if_pos rfl]
    show sparseGet none (sparseSet none (domAt s e).pages k (some q)) j = _
    by_cases hj : j = k
    · rw [if_pos ⟨rfl, hj⟩, hj]
      exact sparseGet_set_self _ _ _ (Option.some_ne_none q)
    · rw [if_neg (fun h => hj h.2)]
      exact sparseGet_set_ne _ _ _ hj
  · rw [if_neg he, if_neg (fun h => he h.1), pageAt]

theorem modDom_doms_of_doms {s u : State} (h : u.doms = s.doms) (d : Nat) (f : Dom → Dom) :
    (modDom u d f).doms = (modDom s d f).doms := by
  simp only [modDom_eq, setDom, domAt_of_doms h, h]

/-- A move changes the page's entry, and no other part of the domains (R84). -/
theorem movePage_doms (s : State) (d k : Nat) (p : Page) (tier : Tier) (f : Nat) :
    (movePage s d k p tier f).doms = (setPage s d k (some { p with tier := tier, frame := f, moving := false })).doms := by
  have hcopied : (if p.tier = .t3
      then dramWrite s (f * pageSize) (placeRead s ⟨.t3, p.frame * pageSize, true, none⟩ pageSize)
      else dramCopy s (p.frame * pageSize) (f * pageSize) pageSize).doms = s.doms := by
    split
    · exact dramWrite_doms s _ _
    · exact touch_doms s _ _
  unfold movePage
  extract_lets s1 q s2 s3
  have hs2 : s2.doms = (setPage s d k (some q)).doms := modDom_doms_of_doms hcopied d _
  have hs3 : s3.doms = s2.doms := by
    show (if p.tier = .t3 then s2 else dropFrame s2 p.frame).doms = s2.doms
    split <;> rfl
  split <;> exact hs3.trans hs2

theorem pageAt_movePage (s : State) (d k : Nat) (p : Page) (tier : Tier) (f e j : Nat) :
    pageAt (movePage s d k p tier f) e j =
      if e = d ∧ j = k then some { p with tier := tier, frame := f, moving := false } else pageAt s e j := by
  rw [pageAt_of_doms (movePage_doms s d k p tier f), pageAt_setPage_some]

theorem pageAt_movePage_self (s : State) (d k : Nat) (p : Page) (tier : Tier) (f : Nat) :
    pageAt (movePage s d k p tier f) d k = some { p with tier := tier, frame := f, moving := false } := by
  rw [pageAt_movePage, if_pos ⟨rfl, rfl⟩]

/-! ### Steps that keep every entry -/

/-- The table of domains stays canonical, and no page-map entry changes. -/
def PagesKept (s u : State) : Prop :=
  sparseWf {} s.doms = true → sparseWf {} u.doms = true ∧ ∀ d k, pageAt u d k = pageAt s d k

namespace PagesKept
variable {s t u : State}

theorem of_doms (h : u.doms = s.doms) : PagesKept s u := fun hwf => ⟨h ▸ hwf, pageAt_of_doms h⟩

theorem refl (s : State) : PagesKept s s := of_doms rfl

theorem trans (h : PagesKept s t) (k : PagesKept t u) : PagesKept s u := fun hwf =>
  have ⟨ht, hst⟩ := h hwf
  have ⟨hu, htu⟩ := k ht
  ⟨hu, fun d n => (htu d n).trans (hst d n)⟩

/-- The frames that a domain's structures lie in are no part of its page map. -/
theorem frames {d : Nat} {g : Dom → List (Nat × StructKind)} (s : State) :
    PagesKept s (modDom s d (fun x => { x with frames := g x })) := by
  intro hwf
  refine ⟨sparseWf_set _ _ _ _ hwf, fun e k => ?_⟩
  have hget : domAt (modDom s d (fun x => { x with frames := g x })) e =
      if e = d then { domAt s d with frames := g (domAt s d) } else domAt s e := sparseGet_set _ _ hwf _ _ _
  rw [pageAt, hget, pageAt]
  split
  · subst e
    rfl
  · rfl

theorem ite {c : Prop} [Decidable c] (ht : PagesKept s t) (hu : PagesKept s u) : PagesKept s (if c then t else u) := by
  split
  · exact ht
  · exact hu

theorem foldl {α : Type} {f : State → α → State} (hf : ∀ s x, PagesKept s (f s x)) (l : List α) (s : State) :
    PagesKept s (l.foldl f s) := by
  induction l generalizing s with
  | nil => exact refl s
  | cons x l ih => exact (hf s x).trans (ih _)

end PagesKept

/-! ### What Prepare moves (R47, R77) -/

theorem allocFrames_pagesKept {place : State → Option Nat} {d : Nat} {k : StructKind} {n : Nat} {s u : State}
    (h : allocFrames place d k n s = some u) : PagesKept s u := by
  induction n generalizing s with
  | zero => cases h; exact .refl _
  | succ n ih =>
    rw [allocFrames] at h
    split at h
    · cases h
    · exact .trans (.frames s) (ih h)

theorem takeDirectory_pagesKept (s : State) (d : Nat) : PagesKept s (takeDirectory s d) := by
  refine .ite ?_ (.refl s)
  cases h : allocFrames (fun s => (openVaults s d).head?.bind (freeInVault s)) d .directory 8 s with
  | none => exact .refl s
  | some u => exact allocFrames_pagesKept h

theorem moveStruct_pagesKept (s : State) (d : Nat) (e : Nat × StructKind) : PagesKept s (moveStruct s d e) := by
  unfold moveStruct
  dsimp only
  split
  · refine .ite ?_ (.refl s)
    split
    · exact .refl s
    · exact .frames s
  all_goals
    split
    · exact .refl s
    · exact .frames s

theorem moveStructs_pagesKept (s : State) : PagesKept s (moveStructs s) :=
  .foldl (fun s _ => .ite (.refl s) (.foldl (fun s _ => moveStruct_pagesKept s _ _) _ s)) _ s

/-- Prepare's own moves concern the frames of structures and the queues of the vaults. -/
theorem prepareTick_pagesKept (s : State) : PagesKept s (prepareTick s) := by
  unfold prepareTick
  split
  · exact .refl s
  · dsimp only
    refine .ite ?_ (.refl s)
    refine (PagesKept.foldl takeDirectory_pagesKept _ s).trans ((moveStructs_pagesKept _).trans (.foldl (fun s v => ?_) _ _))
    exact .ite (.of_doms rfl) (.refl s)

/-- Outside a change of the structure image there is nothing to prepare. -/
theorem prepareTick_of_idle {s : State} (h : s.img.cur = none) : prepareTick s = s := by
  rw [prepareTick, h]

theorem pageAt_prepareTick {s : State} (hwf : sparseWf {} s.doms = true) (d k : Nat) :
    pageAt (prepareTick s) d k = pageAt s d k := (prepareTick_pagesKept s hwf).2 d k

theorem movePage_wf {s : State} (hwf : sparseWf {} s.doms = true) (d k : Nat) (p : Page) (tier : Tier) (f : Nat) :
    sparseWf {} (movePage s d k p tier f).doms = true := by
  rw [movePage_doms]
  exact sparseWf_set _ _ _ _ hwf

/-- A page that moved is where the move put it, whatever Prepare moves behind it. -/
theorem pageAt_prepareTick_of_move {s u : State} {d k f : Nat} {p : Page} {tier : Tier} (hwf : sparseWf {} s.doms = true)
    (hu : u.doms = (movePage s d k p tier f).doms) :
    pageAt (prepareTick u) d k = some { p with tier := tier, frame := f, moving := false } := by
  rw [pageAt_prepareTick (hu ▸ movePage_wf hwf d k p tier f), pageAt_of_doms hu, pageAt_movePage_self]

end Sys2Proof.Machine
end

section

/-!
What the migration engine does on its own: moves, frames given up, demotion by occupancy, the report of a full T2, heat
(R47, R82-R85).
-/

namespace Sys2Proof.Machine

/-! ### PAGE_MOVE and the frames that moves leave -/

section
variable {s u : State} {d : Fin 16} {page : BitVec 32} {p : Page} {f : Nat}

theorem execPageMove_leavingVault (h : (leavingVault s d).head? = some (page.toNat, p))
    (he : evacuate s d page.toNat p = some u) : execPageMove d page s = .next (prepareTick u) := by
  simp only [execPageMove, h, if_true, he]

theorem execPageMove_leavingChan (hv : leavingVault s d = []) (h : (leavingChan s d).head? = some (page.toNat, p))
    (hf : chanFrame s d page.toNat true = some f) :
    execPageMove d page s = .next (movePage s d page.toNat p .t2 f) := by
  simp only [execPageMove, hv, List.head?_nil, h, if_true, hf]

theorem execPageMove_promotion {q : Promo} {l : List Promo} (hv : leavingVault s d = []) (hc : leavingChan s d = [])
    (hq : s.mig.promos = q :: l) (hdom : q.dom = d.val) (hpage : q.page = page.toNat) :
    execPageMove d page s = .next (runPromotion s q) := by
  simp only [execPageMove, hv, hc, List.head?_nil, hq, hdom, hpage, and_self, if_true]

/-- A page that leaves a closed vault takes the default frame in T1 when there is one (R47). -/
theorem evacuate_near (hf : defaultFrame s d = some f) (k : Nat) : evacuate s d k p = some (movePage s d k p .t1 f) := by
  simp only [evacuate, hf]

end

/-! ### Demotion -/

/-- A page that demotes takes the frame on its channel (R83). -/
theorem demotePage_far {s : State} {d k f : Nat} (p : Page) (hf : chanFrame s d k false = some f) :
    demotePage s d k p = some (countMove (movePage s d k p .t2 f) false p.frame) := by
  rw [demotePage, hf, Option.map_some]

theorem execOccupancyDemotion_demotes {v : Fin 256} {s u : State} {d k : Nat} {p : Page} (howner : (islRec s v).owner = some d)
    (hdue : demoteDue s v d = true) (hnext : nextDemote s d [v.val] = some (k, p)) (hu : demotePage s d k p = some u) :
    execOccupancyDemotion v s = .next (prepareTick (modVault u v (fun x =>
      { x with demoting := above u v ((memRec s d).highWater - 5) }))) := by
  simp only [execOccupancyDemotion, howner, hdue, if_true, hnext, hu]

/-! ### FAR_FULL -/

/-- Where the last report is a millisecond old, FAR_FULL is logged and raised (R85). -/
theorem farFull_due {s : State} (h : ∀ x, s.mig.farLogAt = some x → x + 1000000 ≤ s.now) (d : Nat) :
    farFull s d = raise 0x206 (logE 0 .farFull (some 0x206) d [] { s with mig := { s.mig with farLogAt := some s.now } }) := by
  unfold farFull
  split
  · exact if_neg (by have := h _ ‹_›; omega)
  · rfl

theorem execFarFullLog_due {s : State} {d : Fin 16} (hstalled : farStalled s d = true)
    (h : ∀ x, s.mig.farLogAt = some x → x + 1000000 ≤ s.now) : execFarFullLog d s = .next (farFull s d) := by
  have hdue : (match s.mig.farLogAt with | some t => decide (t + 1000000 ≤ s.now) | none => true) = true := by
    split
    · exact decide_eq_true (h _ ‹_›)
    · rfl
  exact if_pos (by rw [hstalled, Bool.true_and]; exact hdue)

/-! ### Heat -/

/-- Every page's heat is halved (R82). -/
def coolDom (x : Dom) : Dom :=
  { x with pages := sparseMap none x.pages (fun p => p.map (fun q => { q with heat := q.heat / 2 })) }

theorem domAt_cooled {s u : State} (hu : u.doms = sparseMap {} s.doms coolDom) (hwf : sparseWf {} s.doms = true) (d : Nat) :
    domAt u d = coolDom (domAt s d) := by
  rw [domAt, hu]
  exact sparseGet_map _ _ coolDom rfl hwf d

theorem pageAt_cooled {s u : State} (hu : u.doms = sparseMap {} s.doms coolDom) (hwf : sparseWf {} s.doms = true) {d : Nat}
    (hpages : sparseWf none (domAt s d).pages = true) (k : Nat) :
    pageAt u d k = (pageAt s d k).map (fun q => { q with heat := q.heat / 2 }) := by
  rw [pageAt, domAt_cooled hu hwf]
  exact sparseGet_map _ _ _ rfl hpages k

/-- HEAT_HALVING, a whole millisecond after the last one while no restore waits. -/
theorem execHeatHalving_due {s : State} (hdue : s.mig.heatMs < s.now / 1000000) (hrestore : s.pow.restore = none) :
    ∃ t, execHeatHalving s = .next t ∧ t.mig.heatMs = s.mig.heatMs + 1 ∧ t.mem = s.mem ∧
      t.doms = sparseMap {} s.doms coolDom :=
  ⟨_, if_pos ⟨hdue, by rw [hrestore]; rfl⟩, rfl, rfl, rfl⟩

/-- Settles O13: each step is the one of its command's cases that is due; where a page moves, its entry is the move's. -/
theorem migrationEngineMoves : Obligations.MigrationEngineMoves := by
  unfold Obligations.MigrationEngineMoves
  refine ⟨fun d page s => ⟨fun p u h he => execPageMove_leavingVault h he, fun p f h hp hf => ?_,
      fun p f hv h hf => execPageMove_leavingChan hv h hf,
      fun q l hv hc hq hdom hpage => execPageMove_promotion hv hc hq hdom hpage, fun h => if_pos h⟩,
    fun f s hold hread => if_pos (by rw [hold, hread]; rfl),
    fun v s u d k p howner hdue hnext hu => execOccupancyDemotion_demotes howner hdue hnext hu,
    fun v s d k f p howner hdue hnext hf hp => ?_, fun d s hstalled hlast => ?_, fun s hdue hrestore => ?_⟩
  · exact ⟨_, execPageMove_leavingVault h (evacuate_near hf _), pageAt_prepareTick_of_move hp.1 rfl⟩
  · exact ⟨_, execOccupancyDemotion_demotes howner hdue hnext (demotePage_far p hf), pageAt_prepareTick_of_move hp.1 rfl⟩
  · refine ⟨_, execFarFullLog_due hstalled hlast, ?_, ?_⟩ <;>
      simp only [farFull_due hlast, raise_mig, logE_mig, raise_mem, logE_mem]
  · obtain ⟨t, hstep, hms, hmem, hdoms⟩ := execHeatHalving_due hdue hrestore
    refine ⟨t, hstep, hms, hmem, fun d k p hwf hpages hp => ?_⟩
    rw [pageAt_cooled hdoms hwf hpages, hp, Option.map_some]

end Sys2Proof.Machine
end

section

/-!
The commands of a host on the memory of a unified domain (R86-R88): MAP, UNMAP, SEAL, PROMOTE and DEMOTE in a domain that
accepts setup, and COPY in a split one.
-/

namespace Sys2Proof.Machine

/-! ### The commands in the rings -/

section
variable (h : Hdr) (va : BitVec 64) (n : BitVec 32) (s : State)

theorem exec_map (tier : BitVec 8) (v : BitVec 16) (list : BitVec 64) :
    exec (.map h va n tier v list) s = .next (doMap (srcOf h) va.toNat n.toNat tier.toNat v.toNat list.toNat s) := rfl

theorem exec_unmap : exec (.unmap h va n) s = .next (doUnmap (srcOf h) va.toNat n.toNat s) := rfl

theorem exec_seal : exec (.seal h va n) s = .next (doSeal (srcOf h) va.toNat n.toNat s) := rfl

theorem exec_promote (v : BitVec 16) :
    exec (.promote h va n v) s = .next (doPromote (srcOf h) va.toNat n.toNat v.toNat s) := rfl

theorem exec_demote : exec (.demote h va n) s = .next (doDemote (srcOf h) va.toNat n.toNat s) := rfl

theorem exec_memoryCopy (a b n : BitVec 64) :
    exec (.memoryCopy h a b n) s = .next (doCopy (srcOf h) a.toNat b.toNat n.toNat s) := rfl

end

/-! ### A domain that accepts setup -/

/-- A VF's domain accepts setup commands, in the mode that `split` names (R80, R441). -/
structure AcceptsSetup (s : State) (h : Hdr) (d : Nat) (split : Bool) : Prop where
  dom : domOfVf s h.vf = some d
  st : (domAt s d).st ∈ setupStates
  mode : (memRec s d).split = split

section
variable {s : State} {h : Hdr} {d : Nat} {split : Bool}

theorem AcceptsSetup.ringCmd (hg : AcceptsSetup s h d split) (op : Nat) (k : Nat → State → State) :
    ringCmd (srcOf h) op setupStates k s = k d s := ringCmd_accepted (src := srcOf h) hg.dom hg.st op k

theorem any_unmapped_eq_false {ks : List Nat} (hm : ∀ k ∈ ks, (pageAt s d k).isSome = true) :
    ks.any (fun k => (pageAt s d k).isNone) = false := by
  refine List.any_eq_false.2 fun k hk => ?_
  rw [Option.isNone_iff_eq_none]
  exact Option.isSome_iff_ne_none.1 (hm k hk)

theorem any_mapped_eq_false {ks : List Nat} (hm : ∀ k ∈ ks, pageAt s d k = none) :
    ks.any (fun k => (pageAt s d k).isSome) = false := by
  refine List.any_eq_false.2 fun k hk => ?_
  rw [hm k hk]
  exact Bool.false_ne_true

end

/-! ### SEAL -/

/-- The mapped pages of a list are sealed (R86). -/
def sealPages (d : Nat) (ks : List Nat) (s : State) : State :=
  ks.foldl (fun s k => match pageAt s d k with
    | none => s
    | some p => setPage s d k (some { p with sealed := true })) s

section
variable {s : State} {h : Hdr} {d : Nat} {va : BitVec 64} {n : BitVec 32} (hg : AcceptsSetup s h d false)
  (hr : pageRangeOk va.toNat n.toNat = true) (hm : ∀ k ∈ pagesOf va.toNat n.toNat, (pageAt s d k).isSome = true)
include hg hr hm

theorem exec_seal_free (hw : writersOf s d va.toNat n.toNat = []) :
    exec (.seal h va n) s = .next (complete (srcOf h) .success 0 (sealPages d (pagesOf va.toNat n.toNat) s)) := by
  rw [exec_seal, doSeal, hg.ringCmd]
  simp only [hg.mode, hr, any_unmapped_eq_false hm, hw, Bool.not_true, Bool.false_eq_true, if_false, List.isEmpty_nil, if_true]
  rfl

theorem exec_seal_written (hw : writersOf s d va.toNat n.toNat ≠ []) :
    exec (.seal h va n) s = .next { sealPages d (pagesOf va.toNat n.toNat) s with
      mig := { (sealPages d (pagesOf va.toNat n.toNat) s).mig with
        seals := (sealPages d (pagesOf va.toNat n.toNat) s).mig.seals ++
          [⟨d, va.toNat / pageSize, n.toNat, writersOf s d va.toNat n.toNat, srcOf h⟩] } } := by
  have hsome : (writersOf s d va.toNat n.toNat).isEmpty = false := by
    rw [← Bool.not_eq_true, List.isEmpty_iff]
    exact hw
  rw [exec_seal, doSeal, hg.ringCmd]
  simp only [hg.mode, hr, any_unmapped_eq_false hm, hsome, Bool.not_true, Bool.false_eq_true, if_false]
  rfl

/-! ### PROMOTE -/

/-- Frames in T1 that a PROMOTE of these pages needs (R88). -/
def promoteNeed (s : State) (d : Nat) (a : VaultArg) (ks : List Nat) : Nat :=
  (ks.filter (fun k => match pageAt s d k with | some p => needsFrame a p | none => false)).length

theorem exec_promote_done {v : BitVec 16} {u w : State} (hv : vaultField v.toNat = true) (hbad : vaultArg s d v.toNat ≠ .bad)
    (hshut : vaultArg s d v.toNat ≠ .shut)
    (hroom : roomFor s d (vaultsFor s d (vaultArg s d v.toNat)) (pagesOf va.toNat n.toNat)
      (promoteNeed s d (vaultArg s d v.toNat) (pagesOf va.toNat n.toNat)) = .ok u)
    (hall : promoteAll d (vaultArg s d v.toNat) (pagesOf va.toNat n.toNat) u = .ok w) :
    exec (.promote h va n v) s = .next (complete (srcOf h) .success 0 w) := by
  rw [promoteNeed] at hroom
  rw [exec_promote, doPromote, hg.ringCmd]
  simp only [hv, hg.mode, hr, any_unmapped_eq_false hm, hbad, hshut, Bool.not_true, Bool.false_eq_true, if_false]
  split
  · cases hroom.symm.trans ‹_›
  · cases hroom.symm.trans ‹_›
    rw [hall]
    rfl

/-! ### DEMOTE -/

theorem exec_demote_done {w : State}
    (hsealed : ∀ k ∈ pagesOf va.toNat n.toNat, ∀ p, pageAt s d k = some p → p.tier = .t1 → p.sealed = true)
    (hall : demoteAll d (pagesOf va.toNat n.toNat) s = .ok w) :
    exec (.demote h va n) s = .next (prepareTick (complete (srcOf h) .success 0 w)) := by
  have hopen : (pagesOf va.toNat n.toNat).any (fun k => match pageAt s d k with
      | some p => p.tier == .t1 && !p.sealed
      | none => false) = false := by
    refine List.any_eq_false.2 fun k hk => ?_
    cases hp : pageAt s d k with
    | none => exact Bool.false_ne_true
    | some p =>
      by_cases ht : p.tier = .t1
      · simp [hsealed k hk p hp ht]
      · simp [ht]
  rw [exec_demote, doDemote, hg.ringCmd]
  simp only [hg.mode, hr, any_unmapped_eq_false hm, hall, Bool.not_true, Bool.false_eq_true, if_false]
  split
  · cases hopen.symm.trans ‹_›
  · rfl

end

/-! ### Room in T1 -/

/-- Where the vaults have the frames free, no page is demoted for them (R88). -/
theorem roomFor_free {s : State} {d need : Nat} {vs own : List Nat} (h : need ≤ freeCount s vs) :
    roomFor s d vs own need = .ok s := by
  rw [roomFor, if_neg (by omega), makeRoom, if_pos h]

/-- PROMOTE of one page brings it to T1, unsealed (R87). -/
theorem promoteAll_one {s : State} {d k f : Nat} {p : Page} (hp : pageAt s d k = some p) (ht : p.tier ≠ .t1)
    (hf : defaultFrame s d = some f) :
    ∃ w, promoteAll d .default [k] s = .ok w ∧
      pageAt w d k = some { p with tier := .t1, sealed := false, moving := false, frame := f } := by
  have hneeds : needsFrame .default p = true := by simp [needsFrame, ht]
  have hmoved : pageAt (countMove (movePage s d k p .t1 f) true f) d k =
      some { p with tier := .t1, frame := f, moving := false } := by
    rw [pageAt_of_doms (u := countMove _ _ _) (s := movePage s d k p .t1 f) rfl, pageAt_movePage_self]
  simp only [promoteAll, hp, promoteOne, hneeds, frameFor, hf, ht, if_false, if_true, hmoved]
  exact ⟨_, rfl, by rw [pageAt_setPage_some, if_pos ⟨rfl, rfl⟩]⟩

theorem demoteAll_one {s : State} {d k : Nat} {p : Page} {u : State} (hp : pageAt s d k = some p) (ht : p.tier = .t1)
    (hu : demotePage s d k p = some u) : demoteAll d [k] s = .ok (barPage d k p u) := by
  simp only [demoteAll, hp, ht, if_true, hu]

theorem barPage_doms (d k : Nat) (p : Page) (s : State) : (barPage d k p s).doms = s.doms := by
  simp only [barPage]
  split <;> rfl

end Sys2Proof.Machine
end

section

/-!
COPY in split mode, and the obligations on SEAL to COPY (R80, R86-R88).
-/

namespace Sys2Proof.Machine

/-- The state in which the source of a COPY has been read: the latent errors of its DRAM are met (R69). -/
def copyRead (s : State) (d a n : Nat) : State :=
  (piecesOf a n).foldl (fun s (x : Nat × Nat) => match xlat s d none x.1 with
    | .ok p => if p.tier = .t3 then s else touch s p.addr x.2
    | .error _ => s) s

/-- A COPY of clean bytes between mapped ranges writes them and completes (R80). -/
theorem exec_memoryCopy_clean {h : Hdr} {a b n : BitVec 64} {s : State} {d : Nat} (hg : AcceptsSetup s h d true)
    (ha : vaFault s d none a.toNat n.toNat = none) (hb : vaFault s d none b.toNat n.toNat = none)
    (hclean : anyMark (Safety.rangeBytes (copyRead s d a.toNat n.toNat) d a.toNat n.toNat) = false) :
    exec (.memoryCopy h a b n) s = .next (complete (srcOf h) .success 0
      (splitWrite (keepStaged (copyRead s d a.toNat n.toNat) d b.toNat n.toNat) d b.toNat
        (Safety.rangeBytes (copyRead s d a.toNat n.toNat) d a.toNat n.toNat))) := by
  rw [exec_memoryCopy, doCopy, hg.ringCmd]
  simp only [hg.mode, ha, hb, Bool.not_true, Bool.false_eq_true, if_false, Option.isSome_none, Bool.or_self]
  exact congrArg (fun u => Host.Outcome.next (succeed (srcOf h) u)) (if_neg (by rw [Bool.not_eq_true]; exact hclean))

/-- SEAL_COMPLETE answers the command whose writers have ended (R87). -/
theorem exec_sealComplete {d : Fin 16} {page : BitVec 32} {s : State} {q : Sealing}
    (h : s.mig.seals.find? (fun q => q.dom == d.val && q.first == page.toNat && q.tags.isEmpty) = some q) :
    exec (.sealComplete d page) s = .next (complete q.src .success 0 { s with mig := { s.mig with
      seals := s.mig.seals.eraseP (fun q => q.dom == d.val && q.first == page.toNat && q.tags.isEmpty) } }) := by
  show execSealComplete d page s = _
  simp only [execSealComplete, h]
  rfl

/-! ### One page -/

section
variable {s : State} {h : Hdr} {d f : Nat} {va : BitVec 64} {n : BitVec 32} {p : Page} (hg : AcceptsSetup s h d false)
  (hr : pageRangeOk va.toNat n.toNat = true) (hm : ∀ k ∈ pagesOf va.toNat n.toNat, (pageAt s d k).isSome = true)
  (hone : pagesOf va.toNat n.toNat = [va.toNat / pageSize]) (hp : Safety.PageIs s d (va.toNat / pageSize) p)
include hg hr hm hone hp

/-- PROMOTE of one page outside T1, with a frame at hand. -/
theorem exec_promote_one (ht : p.tier ≠ .t1) (hf : defaultFrame s d = some f) (hfree : 1 ≤ freeCount s (openVaults s d)) :
    ∃ t, exec (.promote h va n 0xFFFF) s = .next t ∧
      pageAt t d (va.toNat / pageSize) = some { p with tier := .t1, sealed := false, moving := false, frame := f } := by
  have hdefault : vaultArg s d (0xFFFF : BitVec 16).toNat = .default := rfl
  have hneed : promoteNeed s d .default (pagesOf va.toNat n.toNat) ≤ freeCount s (openVaults s d) := by
    refine le_trans ?_ hfree
    rw [promoteNeed, hone]
    exact List.length_filter_le _ _
  obtain ⟨w, hw, hpage⟩ := promoteAll_one hp.2.2 ht hf
  refine ⟨_, exec_promote_done hg hr hm rfl (by rw [hdefault]; decide) (by rw [hdefault]; decide)
    (by rw [hdefault]; exact roomFor_free hneed) (by rw [hdefault, hone]; exact hw), ?_⟩
  rw [pageAt_of_doms (complete_doms ..), hpage]

/-- DEMOTE of one sealed page of T1, with a frame on its channel. -/
theorem exec_demote_one (ht : p.tier = .t1) (hs : p.sealed = true) (hf : chanFrame s d (va.toNat / pageSize) false = some f) :
    ∃ t, exec (.demote h va n) s = .next t ∧
      pageAt t d (va.toNat / pageSize) = some { p with tier := .t2, moving := false, frame := f } := by
  have hsealed : ∀ k ∈ pagesOf va.toNat n.toNat, ∀ q, pageAt s d k = some q → q.tier = .t1 → q.sealed = true := by
    intro k hk q hq _
    rw [hone, List.mem_singleton] at hk
    subst hk
    cases hp.2.2.symm.trans hq
    exact hs
  refine ⟨_, exec_demote_done hg hr hm hsealed (by rw [hone]; exact demoteAll_one hp.2.2 ht (demotePage_far p hf)), ?_⟩
  exact pageAt_prepareTick_of_move hp.1 ((complete_doms ..).trans (barPage_doms ..))

end

/-- Settles O12: each command runs in the domain that accepts it; of one page, its entry is the move's. -/
theorem sealPromoteDemoteCopyComplete : Obligations.SealPromoteDemoteCopyComplete := by
  unfold Obligations.SealPromoteDemoteCopyComplete
  refine ⟨fun h va n s d hdom hst hsplit hr hm => ?_, fun d page s q hq => exec_sealComplete hq,
    fun h a b n s d hdom hst hsplit ha hb hclean => exec_memoryCopy_clean ⟨hdom, hst, hsplit⟩ ha hb hclean⟩
  have hg : AcceptsSetup s h d false := ⟨hdom, hst, hsplit⟩
  exact ⟨exec_seal_free hg hr hm, exec_seal_written hg hr hm,
    fun v u w hv hbad hshut hroom hall => exec_promote_done hg hr hm hv hbad hshut hroom hall,
    fun w hsealed hall => exec_demote_done hg hr hm hsealed hall,
    fun p f hone hp => ⟨exec_promote_one hg hr hm hone hp, exec_demote_one hg hr hm hone hp⟩⟩

end Sys2Proof.Machine
end

section

/-!
MAP and UNMAP in a unified domain (R77, R78, R87, R88).
-/

namespace Sys2Proof.Machine

theorem mem_pagesOf {va n k : Nat} : k ∈ pagesOf va n ↔ ∃ i < n, va / pageSize + i = k := by
  simp only [pagesOf, List.mem_map, List.mem_range]

theorem length_of_pagesOf_singleton {va n k : Nat} (h : pagesOf va n = [k]) : n = 1 := by
  simpa [pagesOf] using congrArg List.length h

/-! ### Leaf tables (R77) -/

/-- The frames of a leaf table are taken in the domain's list of frames, and in no other part of the state. -/
theorem ensureLeaf_mem {s u : State} {d span : Nat} (h : ensureStruct s d (.leaf span) 8 = some u) : u.mem = s.mem := by
  unfold ensureStruct at h
  split at h
  · cases h
    rfl
  · obtain ⟨f, -, rfl⟩ := Option.map_eq_some_iff.1 h
    rfl

theorem foldl_bind_mem {α : Type} {f : α → State → Option State} (hf : ∀ x s u, f x s = some u → u.mem = s.mem) {l : List α}
    {s u : State} (h : l.foldl (fun acc x => acc.bind (f x)) (some s) = some u) : u.mem = s.mem := by
  induction l generalizing s with
  | nil => cases h; rfl
  | cons x l ih =>
    rw [List.foldl_cons, Option.bind_some] at h
    cases hx : f x s with
    | none =>
      have hnone (l : List α) : l.foldl (fun acc x => acc.bind (f x)) none = none := by
        induction l with
        | nil => rfl
        | cons _ _ ih => exact ih
      rw [hx, hnone] at h
      cases h
    | some t =>
      rw [hx] at h
      exact (ih h).trans (hf x s t hx)

theorem ensureLeaves_mem {s u : State} {d : Nat} {ks : List Nat} (h : ensureLeaves s d ks = some u) : u.mem = s.mem :=
  foldl_bind_mem (fun _ _ _ => ensureLeaf_mem) h

/-- A page whose leaf table stands needs no frames for it. -/
theorem ensureLeaves_held {s : State} {d k : Nat}
    (h : (domAt s d).frames.any (fun e => decide (e.2 = .leaf (k / 65536))) = true) :
    ensureLeaves s d [k] = some s := by
  simp only [ensureLeaves, List.map_cons, List.map_nil, List.eraseDups_cons, List.filter_nil, List.eraseDups_nil,
    List.foldl_cons, List.foldl_nil, Option.bind_some, ensureStruct_held h]

/-! ### Entries of a T3 MAP -/

/-- The entry of a T3 page, from the bus address in the host's list. -/
def hostEntry (b : Nat) : Page := ⟨.t3, true, false, 0, hostFrame b⟩

theorem mapHost_cons (s : State) (d k b : Nat) (ks l : List Nat) :
    mapHost s d (k :: ks) (b :: l) = mapHost (setPage s d k (some (hostEntry b))) d ks l := rfl

theorem mapHost_mem (s : State) (d : Nat) (ks l : List Nat) : (mapHost s d ks l).mem = s.mem := by
  unfold mapHost
  exact foldl_keep State.mem _ (fun _ _ => by rfl) (ks.zip l) s

theorem pageAt_mapHost_of_not_mem {d j : Nat} {ks : List Nat} (hj : j ∉ ks) (l : List Nat) (s : State) :
    pageAt (mapHost s d ks l) d j = pageAt s d j := by
  induction ks generalizing l s with
  | nil => rfl
  | cons k ks ih =>
    cases l with
    | nil => rfl
    | cons b l =>
      rw [List.mem_cons, not_or] at hj
      obtain ⟨hjk, hjks⟩ := hj
      rw [mapHost_cons, ih hjks, pageAt_setPage_some, if_neg (fun h => hjk h.2)]

/-- The `i`-th page of the range takes the `i`-th address of the list. -/
theorem pageAt_mapHost {d : Nat} {ks l : List Nat} (hks : ks.Nodup) (hlen : ks.length ≤ l.length) {i : Nat} (hi : i < ks.length)
    (s : State) : pageAt (mapHost s d ks l) d ks[i] = some (hostEntry (l.getD i 0)) := by
  induction ks generalizing l i s with
  | nil => exact absurd hi (Nat.not_lt_zero i)
  | cons k ks ih =>
    cases l with
    | nil => exact absurd hlen (Nat.not_succ_le_zero _)
    | cons b l =>
      obtain ⟨hk, hks⟩ := List.nodup_cons.1 hks
      rw [mapHost_cons]
      cases i with
      | zero => exact (pageAt_mapHost_of_not_mem hk l _).trans (by rw [pageAt_setPage_some]; exact if_pos ⟨rfl, rfl⟩)
      | succ i => exact ih hks (Nat.le_of_succ_le_succ hlen) (Nat.lt_of_succ_lt_succ hi) _

theorem nodup_pagesOf (va n : Nat) : (pagesOf va n).Nodup :=
  List.nodup_range.map fun _ _ h => Nat.add_left_cancel h

/-! ### MAP -/

section
variable {s s1 : State} {d va n v list : Nat} (hr : pageRangeOk va n = true) (hfree : ∀ k ∈ pagesOf va n, pageAt s d k = none)
  (hbad : vaultArg s d v ≠ .bad) (hshut : vaultArg s d v ≠ .shut) (hleaves : ensureLeaves s d (pagesOf va n) = some s1)
include hr hfree hbad hshut hleaves

theorem mapUnified_host (halign : ∀ b ∈ hostList s list n, b % pageSize = 0) :
    mapUnified s d va n 2 v list = .ok (mapHost s1 d (pagesOf va n) (hostList s list n)) := by
  have hany : (hostList s list n).any (fun b => b % pageSize != 0) = false :=
    List.any_eq_false.2 fun b hb => by rw [halign b hb]; decide
  simp only [mapUnified, hr, any_mapped_eq_false hfree, hany, hbad, hshut, hleaves, Bool.not_true, Bool.false_eq_true,
    and_false, if_false]
  rfl

theorem mapUnified_near (hroom : n ≤ freeCount s1 (vaultsFor s1 d (vaultArg s d v))) :
    mapUnified s d va n 0 v list = mapNear d (vaultArg s d v) (pagesOf va n) s1 := by
  simp only [mapUnified, hr, any_mapped_eq_false hfree, hbad, hshut, hleaves, roomFor_free hroom, Bool.not_true,
    Bool.false_eq_true, if_false, if_true]
  rfl

theorem mapUnified_far : mapUnified s d va n 1 v list = mapFar d (pagesOf va n) s1 := by
  simp only [mapUnified, hr, any_mapped_eq_false hfree, hbad, hshut, hleaves, Bool.not_true, Bool.false_eq_true, if_false]
  rfl

end

theorem mapNear_one {s : State} {d k f : Nat} (hf : defaultFrame s d = some f) :
    mapNear d .default [k] s = .ok (mapFrame s d k .t1 f) := by
  simp only [mapNear, frameFor, hf]

theorem mapFar_one {s : State} {d k f : Nat} (hf : chanFrame s d k true = some f) :
    mapFar d [k] s = .ok (mapFrame s d k .t2 f) := by
  simp only [mapFar, hf]

/-- A page mapped to a frame has its entry there, unsealed in T1 alone. -/
theorem pageAt_mapFrame (s : State) (d k : Nat) (t : Tier) (f : Nat) :
    pageAt (mapFrame s d k t f) d k = some ⟨t, decide (t ≠ .t1), false, 0, f⟩ := by
  rw [mapFrame, pageAt_setPage_some, if_pos ⟨rfl, rfl⟩]

section
variable {s u : State} {h : Hdr} {d : Nat} {va list : BitVec 64} {n : BitVec 32} {v : BitVec 16} {tier : BitVec 8}
  {split : Bool}

theorem exec_map_badVault (hg : AcceptsSetup s h d split) (hv : vaultField v.toNat = false) :
    exec (.map h va n tier v list) s = .next (refuse (srcOf h) .commandBad s) := by
  rw [exec_map, doMap, hg.ringCmd]
  exact congrArg Host.Outcome.next (if_pos (by rw [hv, Bool.not_false, Bool.or_true]))

theorem exec_promote_badVault (hg : AcceptsSetup s h d split) (hv : vaultField v.toNat = false) :
    exec (.promote h va n v) s = .next (refuse (srcOf h) .commandBad s) := by
  rw [exec_promote, doPromote, hg.ringCmd]
  exact congrArg Host.Outcome.next (if_pos (by rw [hv, Bool.not_false]))

theorem exec_map_done (hg : AcceptsSetup s h d false) (ht : tier.toNat < 3) (hv : vaultField v.toNat = true)
    (hu : mapUnified s d va.toNat n.toNat tier.toNat v.toNat list.toNat = .ok u) :
    exec (.map h va n tier v list) s = .next (complete (srcOf h) .success 0 u) := by
  have htier : decide (3 ≤ tier.toNat) = false := decide_eq_false (by omega)
  rw [exec_map, doMap, hg.ringCmd]
  simp only [htier, hv, hg.mode, hu, Bool.not_true, Bool.or_self, Bool.false_eq_true, if_false]
  rfl

theorem exec_map_host (hg : AcceptsSetup s h d false) (hv : vaultField v.toNat = true)
    (hr : pageRangeOk va.toNat n.toNat = true) (hfree : ∀ k ∈ pagesOf va.toNat n.toNat, pageAt s d k = none)
    (halign : ∀ b ∈ hostList s list.toNat n.toNat, b % pageSize = 0) (hbad : vaultArg s d v.toNat ≠ .bad)
    (hshut : vaultArg s d v.toNat ≠ .shut) (hleaves : (ensureLeaves s d (pagesOf va.toNat n.toNat)).isSome = true) :
    ∃ t, exec (.map h va n 2 v list) s = .next t ∧ t.mem = s.mem ∧ ∀ i, i < n.toNat →
      pageAt t d (va.toNat / pageSize + i) = some (hostEntry ((hostList s list.toNat n.toNat).getD i 0)) := by
  obtain ⟨s1, hs1⟩ := Option.isSome_iff_exists.1 hleaves
  refine ⟨_, exec_map_done hg (by decide) hv (mapUnified_host hr hfree hbad hshut hs1 halign), ?_, fun i hi => ?_⟩
  · rw [complete_mem, mapHost_mem, ensureLeaves_mem hs1]
  · have hlen : (pagesOf va.toNat n.toNat).length = n.toNat := by simp [pagesOf]
    have hlist : (hostList s list.toNat n.toNat).length = n.toNat := by simp [hostList, words8]
    have hpage := pageAt_mapHost (d := d) (nodup_pagesOf va.toNat n.toNat) (hlen.trans_le hlist.ge) (hlen.symm ▸ hi) s1
    rw [pageAt_of_doms (complete_doms ..), ← hpage]
    simp only [pagesOf, List.getElem_map, List.getElem_range]

end

/-! ### UNMAP -/

/-- One page of an UNMAP: its entry goes, for the running tasks it is kept (R87). -/
def unmapOne (d : Nat) (s : State) (k : Nat) : State :=
  match pageAt s d k with
  | none => s
  | some p => dropXlat (setPage (keepFor s d k p) d k none) d k

/-- A domain whose pages can be taken out one by one. -/
structure Unmappable (s : State) (d : Nat) : Prop where
  st : (domAt s d).st ∈ setupStates
  pages : sparseWf none (domAt s d).pages = true

/-- What an UNMAP leaves of a state: DRAM, the structure image, the domain in its state, every other page. -/
structure Unmapped (s u : State) (d : Nat) (ks : List Nat) : Prop where
  mem : u.mem = s.mem
  img : u.img = s.img
  next : Unmappable u d
  page : ∀ j, pageAt u d j = if j ∈ ks then none else pageAt s d j

theorem keepFor_frame (s : State) (d k : Nat) (p : Page) : ∃ m, keepFor s d k p = { s with mig := m } := by
  simp only [keepFor]
  split
  · exact ⟨s.mig, rfl⟩
  · exact ⟨_, rfl⟩

theorem unmapOne_unmapped {s : State} {d : Nat} (h : Unmappable s d) (k : Nat) : Unmapped s (unmapOne d s k) d [k] := by
  cases hp : pageAt s d k with
  | none =>
    have hsame : unmapOne d s k = s := by rw [unmapOne, hp]
    rw [hsame]
    refine ⟨rfl, rfl, h, fun j => ?_⟩
    by_cases hj : j ∈ [k]
    · rw [if_pos hj, List.mem_singleton.1 hj, hp]
    · rw [if_neg hj]
  | some p =>
    obtain ⟨m, hm⟩ := keepFor_frame s d k p
    have hone : unmapOne d s k = dropXlat (setPage { s with mig := m } d k none) d k := by
      simp only [unmapOne, hp, hm]
    have hdom : domAt (unmapOne d s k) d = { domAt s d with pages := sparseSet none (domAt s d).pages k none } := by
      rw [hone]
      exact domAt_modDom (s := { s with mig := m }) (f := fun x => { x with pages := sparseSet none x.pages k none }) h.st
    refine ⟨by rw [hone]; rfl, by rw [hone]; rfl, ⟨?_, ?_⟩, fun j => ?_⟩
    · rw [hdom]
      exact h.st
    · rw [hdom]
      exact sparseWf_set none _ k none h.pages
    · rw [pageAt, hdom]
      simp only [List.mem_singleton]
      exact sparseGet_set _ _ h.pages k j none

theorem foldl_unmapOne {d : Nat} (ks : List Nat) {s : State} (h : Unmappable s d) :
    Unmapped s (ks.foldl (unmapOne d) s) d ks := by
  induction ks generalizing s with
  | nil => exact ⟨rfl, rfl, h, fun j => (if_neg List.not_mem_nil).symm⟩
  | cons k ks ih =>
    have hone := unmapOne_unmapped h k
    have hrest := ih hone.next
    refine ⟨hrest.mem.trans hone.mem, hrest.img.trans hone.img, hrest.next, fun j => ?_⟩
    rw [List.foldl_cons, hrest.page, hone.page]
    by_cases hj : j ∈ ks
    · rw [if_pos hj, if_pos (List.mem_cons_of_mem k hj)]
    · simp only [hj, if_false, List.mem_cons, List.not_mem_nil, or_false]

theorem unmapRange_ok {s : State} {d va n : Nat} (hr : pageRangeOk va n = true) (hmode : (memRec s d).split = false)
    (hm : ∀ k ∈ pagesOf va n, (pageAt s d k).isSome = true) :
    unmapRange s d va n = .ok ((pagesOf va n).foldl (unmapOne d) s) := by
  simp only [unmapRange, hr, hmode, any_unmapped_eq_false hm, Bool.not_true, Bool.false_eq_true, if_false]
  rfl

theorem exec_unmap_done {s : State} {h : Hdr} {d : Nat} {va : BitVec 64} {n : BitVec 32} (hg : AcceptsSetup s h d false)
    (hr : pageRangeOk va.toNat n.toNat = true) (hidle : s.img.cur = none)
    (hm : ∀ k ∈ pagesOf va.toNat n.toNat, (pageAt s d k).isSome = true) (hpages : sparseWf none (domAt s d).pages = true) :
    exec (.unmap h va n) s = .next (succeed (srcOf h) ((pagesOf va.toNat n.toNat).foldl (unmapOne d) s)) := by
  have himg := (foldl_unmapOne (pagesOf va.toNat n.toNat) (d := d) ⟨hg.st, hpages⟩).img
  rw [exec_unmap, doUnmap, hg.ringCmd, unmapRange_ok hr hg.mode hm]
  exact congrArg Host.Outcome.next (prepareTick_of_idle (by rw [finish, succeed_img, himg, hidle]))

/-- Settles O11: each MAP by the entry its frames take, UNMAP page by page. -/
theorem hostPagesMapAndUnmap : Obligations.HostPagesMapAndUnmap := by
  unfold Obligations.HostPagesMapAndUnmap
  intro h va list n v s d hdom hst hsplit
  have hg : AcceptsSetup s h d false := ⟨hdom, hst, hsplit⟩
  refine ⟨fun tier hv => exec_map_badVault hg hv, fun hv => exec_promote_badVault hg hv, fun hr hv =>
    ⟨fun hfree halign hbad hshut hleaves => exec_map_host hg hv hr hfree halign hbad hshut hleaves,
      fun u hu => exec_map_done hg (by decide) hv hu, fun u hu => exec_map_done hg (by decide) hv hu,
      fun f hone hnone hdefault _ _ hleaf => ?_, fun hidle hm hpages => ?_⟩⟩
  · have harg : vaultArg s d v.toNat = .default := by rw [hdefault]; rfl
    have hn : n.toNat = 1 := length_of_pagesOf_singleton hone
    have hfree : ∀ k ∈ pagesOf va.toNat n.toNat, pageAt s d k = none := by
      intro k hk
      rw [hone, List.mem_singleton] at hk
      rw [hk, hnone]
    have hbad : vaultArg s d v.toNat ≠ .bad := by rw [harg]; decide
    have hshut : vaultArg s d v.toNat ≠ .shut := by rw [harg]; decide
    have hleaves : ensureLeaves s d (pagesOf va.toNat n.toNat) = some s := by rw [hone]; exact ensureLeaves_held hleaf
    constructor
    · intro hf hroom
      have hmap : mapUnified s d va.toNat n.toNat 0 v.toNat list.toNat = .ok (mapFrame s d (va.toNat / pageSize) .t1 f) := by
        rw [mapUnified_near hr hfree hbad hshut hleaves (by rw [harg, hn]; exact hroom), harg, hone, mapNear_one hf]
      refine ⟨_, exec_map_done hg (by decide) hv hmap, ?_, complete_mem ..⟩
      rw [pageAt_of_doms (complete_doms ..), pageAt_mapFrame]
      rfl
    · intro hf
      have hmap : mapUnified s d va.toNat n.toNat 1 v.toNat list.toNat = .ok (mapFrame s d (va.toNat / pageSize) .t2 f) := by
        rw [mapUnified_far hr hfree hbad hshut hleaves, hone, mapFar_one hf]
      refine ⟨_, exec_map_done hg (by decide) hv hmap, ?_, complete_mem ..⟩
      rw [pageAt_of_doms (complete_doms ..), pageAt_mapFrame]
      rfl
  · obtain ⟨hmem, -, -, hpage⟩ := foldl_unmapOne (pagesOf va.toNat n.toNat) (d := d) ⟨hst, hpages⟩
    refine ⟨_, exec_unmap_done hg hr hidle hm hpages, (complete_mem ..).trans hmem, fun k hk => ?_, fun k hk => ?_⟩ <;>
      rw [pageAt_of_doms (succeed_doms ..), hpage]
    · exact if_pos hk
    · exact if_neg hk

end Sys2Proof.Machine
end
